-- ==== Sys2Proof/Word.lean ====
section
/-!
DEFINITION. The word types of the TRL-9512 (00_scope.md R15: registers are little-endian bit
fields) and the one sparse table type that holds every keyed store of the state.
-/

namespace Sys2Proof

abbrev Byte := BitVec 8
abbrev B16 := BitVec 16
abbrev B32 := BitVec 32
abbrev B64 := BitVec 64
abbrev B128 := BitVec 128
abbrev B512 := BitVec 512

/-- A keyed store: pairs of key and value, keys strictly rising, no entry equal to what an
unlisted key reads as.  `Machine/Tab.lean` gives its reads and writes. -/
abbrev Tab (β : Type) := List (Nat × β)

end Sys2Proof
end

