-- ==== Sys2Proof/Syntax.lean ====
section
/-!
DEFINITION. The commands of the TRL-9512: one constructor of `Instr` per row of
spec/opcode_table.json, with its operands.  The table gives no operands; they are taken from the
rules the rows cite: a Yupor instruction carries its slot and the fields of Tables 4-3 and 4-4, a
register command the bits of the written word, an event what it happens to and what it reports.
-/

namespace Sys2Proof

/-- The two halves of the device (R17). -/
inductive Half where
  | west | east
deriving DecidableEq, Repr

/-- A context slot of a cluster: logical cluster number and primary/filler (R83, R115), and how long the request that the
slot makes now has waited behind filler work, in ns: for issue, a scratch bank or an HBM channel (R85, R201). -/
structure Slot where
  cl : Nat
  fil : Bool
  wait : Nat := 0
deriving DecidableEq, Repr

/-- The operand fields of a Yupor instruction: Table 4-3 less FORM, CLASS and OP's operation,
`ty` being OP[1:0] of the vector arithmetic class, and the second word of Table 4-4. -/
structure Fld where
  form : Bool := false
  rd : BitVec 6 := 0
  ra : BitVec 6 := 0
  rb : BitVec 6 := 0
  rc : BitVec 6 := 0
  pred : BitVec 3 := 0
  pen : Bool := false
  rnd : BitVec 2 := 0
  bsrc : BitVec 2 := 0
  nf : Bool := false
  imm18 : BitVec 18 := 0
  ty : BitVec 2 := 0
  imm32 : B32 := 0
  ext : B32 := 0
deriving DecidableEq, Repr

/-- What work needs to begin, and how long its request has waited behind filler work, in ns (R201). -/
structure Late (α : Type) where
  op : α
  wait : Nat := 0
deriving DecidableEq, Repr

/-- A storage or datapath error that a step meets (R111). -/
inductive Upset where
  | none
  /-- a corrected error of the scratch word (number of the 8-byte word in the cluster) -/
  | scrCe (word : Nat)
  /-- an uncorrectable scratch word -/
  | scrUe (word : Nat)
  /-- a parity error of a word of an accumulator tile or streaming buffer: tile * 8,192 + row * 128 + column, the buffers
  being tiles 8 and 9 -/
  | accPar (word : Nat)
  /-- an array residue mismatch -/
  | arrayRes
deriving DecidableEq, Repr

/-- What the read of a memory line found, with the stack or bank that holds it (R159). -/
inductive LineRead where
  | clean
  | corrected (pa unit : Nat)
  | bad (pa unit : Nat)
deriving DecidableEq, Repr

/-- How an access uses an address (R155). -/
inductive Acc where
  | fetch | read | write
deriving DecidableEq, Repr

/-- A device of the fabric: 6-bit site ID and 17-bit address (R310). -/
structure Peer where
  site : Nat
  addr : Nat
deriving DecidableEq, Repr

/-- The transport header of Table 10-3, decoded, with the payload and whether the GCM tag of an
encrypted message verifies (R327, R328). -/
structure Msg where
  ver : Nat := 1
  cls : Nat := 2
  enc : Bool := false
  gap : Bool := false
  typ : Nat := 0
  hops : Nat := 0
  dst : Peer := ⟨0, 0⟩
  src : Peer := ⟨0, 0⟩
  seq : Nat := 0
  tsent : Nat := 0
  epoch : Nat := 0
  job : B32 := 0
  ten : BitVec 12 := 0
  eng : B64 := 0
  payload : List Byte := []
  tagOk : Bool := true
deriving DecidableEq, Repr

/-- A link frame of Table 10-2: link word fields and the flit's bytes. -/
structure Frame where
  lseq : Nat := 0
  ack : Nat := 0
  kind : Nat := 4
  dev : Bool := false
  tenant : BitVec 12 := 0
  chan : Byte := 0
  flit : List Byte := []
deriving DecidableEq, Repr

/-- What arrives on a port's line (R304, R305): a frame, the CRC field received, and symbols in error of the RS(544,514)
codewords: of each that touches the frame, and of each that has ended with it. -/
structure LineIn where
  frame : Frame
  crc : B32
  touch : List Nat
  ended : List Nat
deriving DecidableEq, Repr

/-- An update command whose phase starts, and the slice in which its request waited behind filler work, and how long in ns
(R201). -/
structure PhaseIn where
  n : Nat
  slice : Nat
  wait : Nat
deriving DecidableEq, Repr

/-- A SYNC message: a remote SIG or ARRIVE (R216). -/
structure SyncMsg where
  src : Peer
  tenant : BitVec 12
  job : B32
  handle : B32
  arrive : Bool
  amount : B64
  who : B64
deriving DecidableEq, Repr

/-- A Borage message: the checked fields of R271 and the unit or partial it carries. -/
structure BMsg where
  group : Nat
  gen : Nat
  fprint : B32
  step : Nat
  attempt : Nat
  seq : Nat
  tenant : BitVec 12
  job : B32
  /-- rank of the sender -/
  rank : Nat
  /-- chunk, unit or piece -/
  unit : Nat
  /-- false: a partial sum in binary32; true: a finished unit -/
  final : Bool
  /-- 0: a unit or partial; 1, 2: the partner's answer to a mirror delivery, written or dropped (R284) -/
  reply : Nat
  /-- elements carried -/
  n : Nat
  data : List Byte
  digest : B64
deriving DecidableEq, Repr

/-- A mirror delivery: a converted GRAD chunk from its owner (R284). -/
structure MDel where
  src : Peer
  tenant : BitVec 12
  job : B32
  step : Nat
  attempt : Nat
  seq : Nat
  shard : Nat
  /-- byte offset in the G segment -/
  off : Nat
  /-- handle, chunk of the digest (R283) -/
  group : B32
  unit : Nat
  data : List Byte
  digest : B64
deriving DecidableEq, Repr

/-- A vote word (Table 9-4). -/
structure VWord where
  step : Nat
  job : B32
  attempt : Nat
  nf : Bool
  mism : Bool
  notpres : Bool
  absent : Bool
  present : Nat
  p : B32
  r : B32
  mcnt : Nat
deriving DecidableEq, Repr

/-- The outcomes of a commit vote (Table 1-7). -/
inductive Outc where
  | commit | skip | rerun
deriving DecidableEq, Repr

/-- An outcome message (R294); `digest` says that a Re-run is a digest Re-run (R297). -/
structure OutMsg where
  job : B32
  step : Nat
  attempt : Nat
  out : Outc
  digest : Bool
  p : B32
  r : B32
  g : Nat
deriving DecidableEq, Repr

/-- A shard header's fields 0x08 to 0x27 as bytes and the blocks that follow (R353, R366). -/
structure Blocks where
  src : Peer
  job : B32
  shard : Nat
  kind : Nat
  first : Nat
  data : List Byte
  /-- header fields 0x08 to 0x27 that come with the last blocks of a shard -/
  hdr : List Byte
  last : Bool
deriving DecidableEq, Repr

/-- One block of a segment: KIND of Table 5-10, number of the segment, block, and the step at which the copy of the device
that asks stands, with which the payload begins (R353, R355). -/
structure BlkRef where
  kind : Nat
  idx : Nat
  blk : Nat
  step : Nat
deriving DecidableEq, Repr

/-- The shard of an UNDO_REQ, and whether the record of an outer merge is asked for (log entry 110). -/
structure ShardRef where
  idx : Nat
  outer : Bool
deriving DecidableEq, Repr


/-- A digest list (R352). -/
structure DigList where
  src : Peer
  job : B32
  step : Nat
  shard : Nat
  /-- true: the list of the sender's mirror copy of this device's shard -/
  ofMirror : Bool
  digs : List B64
deriving DecidableEq, Repr

/-- A site's receipt (R337). -/
structure Receipt where
  site : Nat
  round : Nat
  mask : B64
  lineage : B64
  caLin : B64
  log : List (B64 × Nat)
deriving DecidableEq, Repr

/-- A proposer's decision (R337). -/
structure Decision where
  round : Nat
  proposer : Nat
  q : B64
  p : B64
  m : B64
  rejoin : Bool
  rejoinNext : Bool
  missed : List Nat
  /-- the new lineage -/
  lineage : B64 := 0
deriving DecidableEq, Repr

/-- A decision as it comes to a device, with its sender (R338). -/
structure DecisionIn where
  src : Peer
  d : Decision
deriving DecidableEq, Repr

/-- A message about a joiner (R342): with `round` 0 its request; with a round and not `reply`, the own coordinator's note that
`src` is served at that round; with `reply`, the round at which the site of `src` serves this one (log entry 112). -/
structure JoinIn where
  src : Peer
  round : Nat
  reply : Bool
deriving DecidableEq, Repr

/-- S_INIT, Table 12-9: X25519 public key, ML-KEM-768 encapsulation key (1,184 bytes), nonce, certificate chain. -/
structure SInitIn where
  src : Peer
  eph : BitVec 256
  kem : List Byte
  nonce : BitVec 256
  chain : List Byte
deriving DecidableEq, Repr

/-- The end of S_RESP, Table 12-9: certificate chain and dual signature structure. -/
structure SignedChain where
  chain : List Byte
  sig : List Byte
deriving DecidableEq, Repr

/-- What NEGOTIATE_ALGORITHMS offers beside the hash: the hybrid as an extended asymmetric algorithm, DHE secp384r1,
AES-256-GCM (Table 12-7). -/
structure Algs where
  asymExt : Bool
  dhe384 : Bool
  aead256 : Bool
deriving DecidableEq, Repr

/-- The requester's part of KEY_EXCHANGE: its secp384r1 share and its random bytes. -/
structure Kex where
  share : BitVec 768
  random : BitVec 256
deriving DecidableEq, Repr

/-- A message to the MCTP endpoint outside Tables 13-6 and PLDM (R434): an MCTP control command; an address given by SMBus
address resolution; the frame of an SPDM message, whose request is the next command (log entry 36). -/
inductive MctpIn where
  | control (cmd : Byte)
  | address (addr : Byte)
  | spdm
deriving DecidableEq, Repr

/-- A pairing message's contents: what Table 11-1 compares (R348). -/
structure PairMsg where
  src : Peer
  job : B32
  tenant : BitVec 12
  numRev : Nat
  compRev : Nat
  /-- the sender's own shards: shard index and fingerprint and digests -/
  own : List (Nat × B64 × List B64)
  /-- the sender's mirror copies of this device's shards -/
  copies : List (Nat × B64 × List B64)
  /-- this device stands in the sender's watch list -/
  watched : Bool
deriving DecidableEq, Repr

/-- The governors of R201. -/
inductive Gov where
  | cluster (n : Nat) | borage | slice (n : Nat) | bank (h : Half)
deriving DecidableEq, Repr

/-- A commanded access of memory from the host: offset, and the bytes of a write. -/
structure HostAcc where
  off : Nat
  wr : Bool
  data : List Byte
  len : Nat
deriving DecidableEq, Repr

/-- The sensors sampled by R458, in degrees C: the hottest tile, the hottest stack and the bank of each half, and those of
the module. -/
structure Temps where
  tileW : Nat
  tileE : Nat
  hbmW : Nat
  hbmE : Nat
  rsW : Nat
  rsE : Nat
  stage : Nat
  inlet : Nat
  outlet : Nat
deriving DecidableEq, Repr

/-- Why the power stage stops as at undervoltage: the input's voltage in 10 mV (R447), or rails of order `n` of Table 14-2
that leave regulation (R450, log entry 106). -/
inductive Fall where
  | input (vin : Nat)
  | rail (n : Nat)
deriving DecidableEq, Repr

/-- A sensor of Table 14-4 at its trip temperature: sensor ID and degrees C (R459). -/
structure Trip where
  sensor : Nat
  temp : Nat
deriving DecidableEq, Repr

/-- One command of the device.  Comments name the rule of the row. -/
inductive Instr where
  -- context commands, R184; `w`: bits [55:0] of CTX_CMD
  | ctxCreate (w : BitVec 56)
  | ctxDestroy (w : BitVec 56)
  | bind (w : BitVec 56) (u : Upset)
  | bindComplete
  | unbind (w : BitVec 56)
  | unbindComplete
  | ctxStop (w : BitVec 56)
  | ctxResume (w : BitVec 56)
  | ctxRead (w : BitVec 56)
  -- queue commands, R199; `w`: bits [55:0] of Q_CMD
  | qCreate (w : BitVec 56)
  | qDestroy (w : BitVec 56)
  | queueQuarantineEnd (q : Nat)
  | qCmdHalt (w : BitVec 56)
  | qResume (w : BitVec 56)
  | qRead (w : BitVec 56)
  | doorbell (off len : Nat) (d : B128)
  | queueFetch (q : Nat)
  | kernel (q : Nat)
  | kernelComplete (n : Nat)
  | batchRef (q : Nat)
  | batchRefRecorded (n : Nat)
  | cmdWait (q : Nat)
  | signal (q : Nat)
  | ring (q : Nat)
  | cmdNop (q : Nat)
  | governorDebtCleared (g : Gov)
  -- Marjoram, R206 to R211
  | priUnitsTick
  | filUnitsTick (cl : Nat)
  | frameBeatTick
  | intervalClose
  | snapshotWritten
  | ledBase (v : B64)
  | ledSlots (v : B32)
  | ledTail (v : B32)
  | ledCtrl (v : B32)
  -- sync register block, R240
  | syncCreate (w : BitVec 56)
  | syncDestroy (w : BitVec 56)
  | syncQuarantineEnd (i : Nat)
  | syncReset (w : BitVec 56)
  | syncRead (w : BitVec 56)
  | readWaiters (w : BitVec 56)
  | clearOvr (w : BitVec 56)
  | counterSignal (n : Nat)
  | flagSignal (n : Nat)
  | barrierArrival (n : Nat)
  | remoteSignal (m : SyncMsg)
  | barrierRejection (who : B64)
  | watchdogExpiry (i : Nat) (who : B64)
  | lendStart (cl : Nat)
  | lendGrant (h : Half)
  | lendWake (cl : Nat)
  | lendRevoke (h : Half)
  -- memory, R149 to R164
  | assign (w : BitVec 56)
  | release (w : BitVec 56)
  | retire (w : BitVec 56)
  | frameScrubbed (frame : Nat)
  | invalCtx (w : BitVec 56)
  | invalRange (w : BitVec 56)
  | invalAll (w : BitVec 56)
  | invalidationComplete
  | tableWalk (sl : Slot) (va : Nat) (a : Acc) (l : LineRead)
  | patrolRead (pa : Nat) (l : LineRead) (unit : Nat) (last : Bool)
  | patrolCtrl (v : B32)
  | jrnCtrl (v : B64)
  | undoCopyComplete (fil outer : Bool) (step : Late Nat) (bad : Bool)
  | batchRecheck (fil : Bool) (step : Nat)
  | restoreComplete (n : Late Nat) (bad : Bool)
  -- Rosemary, R244 to R264
  | register (w : BitVec 56)
  | deregister (w : BitVec 56)
  | rollback (w : BitVec 56)
  | updRead (w : BitVec 56)
  | phaseAStart (n : PhaseIn)
  | phaseAComplete (n : Nat)
  | phaseBStart (n : PhaseIn)
  | phaseBComplete (n : Nat)
  | outerEncodeComplete (n : Nat)
  | outerMergeComplete (n : Nat)
  -- Borage, R270 to R286
  | groupCreate (w : BitVec 56)
  | groupDestroy (w : BitVec 56)
  | groupQuarantineEnd (g : Nat)
  | groupRead (w : BitVec 56)
  | voteRead (w : BitVec 56)
  | collectiveStart (n : Late Nat)
  | borageMessage (m : BMsg)
  | mirrorDelivery (m : MDel)
  | collectiveComplete (n : Nat)
  -- the vote, R289 to R297
  | voteOpen (job : B32)
  | voteWord (src : Peer) (w : VWord)
  | voteDeadline (job : B32)
  | absenceNotice (job : B32) (step : Nat) (src : Peer)
  | voteOutcome (m : OutMsg)
  | recoveryRootWait (job : B32)
  -- the fabric, R302 to R331
  | pctrl (p : Nat) (v : B32)
  | portTrained (p : Nat) (rtt : Nat)
  | wavelengthFail (p : Nat) (light : Byte)
  | linkFrame (p : Nat) (fr : LineIn)
  | nak (p : Nat) (lseq : Nat)
  | retrain (p : Nat)
  | retrainEnd (p : Nat) (ok : Bool)
  | lossOfLight (p : Nat)
  | relayFlit (p : Nat) (dst : Peer) (seq : Nat) (fr : Frame)
  | transportMessage (m : Msg)
  | ackTimer (c : Nat)
  | ack (src : Peer) (cls seq : Nat)
  | retransmitTimer (c : Nat)
  | messageAgeExpiry (c seq : Nat)
  | connectionRelease (c : Nat)
  | resync (src : Peer) (cls epoch next : Nat)
  | sessionWaitExpiry (k : Nat)
  | heartbeatSend
  | heartbeat (src : Peer) (beat : Nat) (status numRev : Nat)
  | absenceCheck (k : Nat)
  | timeExchange (p hops t1 t2 t3 t4 : Nat)
  | firstLock
  | ppsEdge
  | holdoverEntry
  | holdoverExit
  | timeDrift
  | epochChange
  | epochKeyForm
  | epochKeyRetire
  -- sessions, R407 to R411
  | sInit (m : SInitIn)
  | sResp (src : Peer) (eph : BitVec 256) (ct : List Byte) (nonce : BitVec 256) (cert : SignedChain)
  | sFin (src : Peer) (firstEpoch : Nat) (head : B128) (keyId ed : B512) (ml : BitVec 26472)
  | sessionRetry (dst : Peer)
  | sessionReplace (dst : Peer)
  -- sites, R332 to R343
  | outerRoundBegin
  | sxData (src : Peer) (site round shard first : Nat) (tags : List Byte) (blocks : List (List Byte))
  | sxScale (src : Peer) (site round shard first : Nat) (tags : List Byte) (scales : List Byte)
  | sxRetransmitReq (src : Peer) (round shard : Nat)
  | sxReport (src : Peer) (partner round : Nat) (mask : B64)
  | sxReceipt (r : Receipt)
  | dataWaitExpiry
  | decWaitExpiry
  | sxDecision
  | sxApply (d : DecisionIn)
  | sxDecisionTimeout
  | sxState (src : Peer) (site shard kind : Nat) (data : List Byte) (crc : B64)
  | join (m : JoinIn)
  -- fabric register block, R346
  | loadRoutes (w : BitVec 56)
  | loadSites (w : BitVec 56)
  | loadWatch (w : BitVec 56)
  | loadEnc (w : BitVec 56)
  | readRoute (w : BitVec 56)
  | fabId (v : B32)
  | fabLat (v : B32)
  | fabLatLowerEffect
  | encCtrl (v : B32)
  | sxCtrl (v : B32)
  | sxH (v : B32)
  -- resilience, R348 to R386
  | pair (w : BitVec 56)
  | unpair (w : BitVec 56)
  | substitute (w : BitVec 56)
  | promote (w : BitVec 56)
  | pairReq (m : PairMsg)
  | pairAck (m : PairMsg)
  | digest (d : DigList)
  | verdict (src : Peer) (job : B32) (step shard : Nat) (ofMirror agree : Bool) (first count : Nat)
  | divergenceEnd (job : B32) (shard : Nat)
  | undoReq (src : Peer) (job : B32) (step : Nat) (shard : ShardRef)
  | undoData (b : Blocks) (step : Nat)
  | fetchReq (src : Peer) (job : B32) (shard : Nat) (ofMirror : Bool) (blk : Option BlkRef)
  | fetchData (b : Blocks)
  | recordHandlingEnd (h : Half)
  | errTail (h : Half) (v : B32)
  | leaseClaim (h : Half)
  | leaseRenew (h : Half)
  | leaseExpiry
  | spineUnreachableStop (h : Half)
  | leadForce (v : B32)
  -- boot, SPDM, random bits, R390 to R406
  | bootLoad (w : BitVec 24)
  | imageVerifyComplete (rw re : Byte)
  | memoryTrainingComplete
  | getVersion
  | getCapabilities (version : Byte)
  | negotiateAlgorithms (algs : Algs) (hash512 : Bool)
  | getDigests
  | getCertificate (sel : Byte) (off len : Nat)
  | challenge (sel : Byte) (nonce : BitVec 256)
  | getMeasurements (index : Byte) (signed : Bool) (nonce : BitVec 256)
  | keyExchange (dhe : Kex)
  | finish (hmac : B512)
  | endSession
  | spdmHeartbeat
  | keyUpdate
  | drbgReseed (h : Half)
  | maskReseed (h : Half)
  | healthTestFail (h : Half)
  -- keys, cipher engine, Chive, R414 to R419
  | hkeyLoad (w : BitVec 24)
  | hkeyErase (w : BitVec 24)
  | slotErase (k : Nat)
  | cqrWr (v : B32)
  | cipherRequestComplete (i : Nat)
  | run (u : Nat) (w : BitVec 24)
  | chiveRunComplete (u : Nat)
  | resetAlive (u : Nat) (w : BitVec 24)
  -- host interface and resets, R424 to R446
  | rstCmd (v : B32)
  | cxlReset
  | flr
  | hotReset
  | resetInputAssert
  | resetInputRelease
  | cxlLinkTrain (rate width : BitVec 2)
  | cxlLinkLoss
  | cxlLinkReturn (rate width : BitVec 2)
  | cxlCacheTimeout (pa : Nat) (blk : Option Nat) (dmaN : Option Nat)
  | ideFail
  | hdmAccess (a : HostAcc)
  | bar2Sel (v : B32)
  | irqStat (v : B32)
  | irqEn (v : B32)
  | getStatus
  | getIdent
  | getRecord (h : Half) (slot : Nat)
  | resetReq (key : B16)
  | mctpLeadForce (v : B32)
  | mctpControl (m : MctpIn)
  | pldmRequest (sensor : Nat)
  -- power, R447 to R466
  | powerStageStart
  | pwrgdAssert
  | overvoltage (vin : Nat)
  | undervoltage (f : Fall)
  | overcurrent (iin : Nat)
  | inputLowEntry (vin : Nat)
  | budgetPeriod (avg other : Nat)
  | pwrLimit (v : B32)
  | throttleTick (projW projE fillW fillE : Nat)
  | fastLoopTrip (avg : Nat)
  | fastLoopRelease
  | thermalSample (t : Temps)
  | thermalCapStep (h : Half) (above : Bool) (sensor : Nat)
  | thermalTrip (x : Trip)
  | sensorFault (sensor : Nat)
  -- rows added at the end of the table
  | plainRegisterWrite (off size : Nat) (v : B64)
  | lightReturn (p : Nat)
  | overvoltageRestart (vin : Nat)
  | resetReleaseHoldEnd
  | ideKeyProgram
  | bar2Access (a : HostAcc)
  | digestListComputed (job : B32) (shard : Nat) (mirror : Bool)
  | undoRecordReport (src : Peer) (job : B32) (step : Nat) (outer : Bool)
  | ref10mLockLoss
  | ppsEdgesMissed
  -- scalar class, R125
  | add (sl : Slot) (f : Fld)
  | sub (sl : Slot) (f : Fld)
  | mul (sl : Slot) (f : Fld)
  | mulh (sl : Slot) (f : Fld)
  | and (sl : Slot) (f : Fld)
  | or (sl : Slot) (f : Fld)
  | xor (sl : Slot) (f : Fld)
  | shl (sl : Slot) (f : Fld)
  | shr (sl : Slot) (f : Fld)
  | sar (sl : Slot) (f : Fld)
  | slt (sl : Slot) (f : Fld)
  | sltu (sl : Slot) (f : Fld)
  | li (sl : Slot) (f : Fld)
  | lih (sl : Slot) (f : Fld)
  | ld (sl : Slot) (f : Fld) (u : Upset)
  | st (sl : Slot) (f : Fld)
  | ldw (sl : Slot) (f : Fld)
  | stw (sl : Slot) (f : Fld)
  | csrr (sl : Slot) (f : Fld)
  | csrw (sl : Slot) (f : Fld)
  | capr (sl : Slot) (f : Fld)
  | caprd (sl : Slot) (f : Fld)
  -- control class, R126
  | j (sl : Slot) (f : Fld)
  | beq (sl : Slot) (f : Fld)
  | bne (sl : Slot) (f : Fld)
  | blt (sl : Slot) (f : Fld)
  | bge (sl : Slot) (f : Fld)
  | bltu (sl : Slot) (f : Fld)
  | call (sl : Slot) (f : Fld)
  | jr (sl : Slot) (f : Fld)
  | halt (sl : Slot) (f : Fld)
  | cfence (sl : Slot) (f : Fld)
  | nop (sl : Slot) (f : Fld)
  -- vector arithmetic, R127 to R129
  | vadd (sl : Slot) (f : Fld)
  | vsub (sl : Slot) (f : Fld)
  | vmul (sl : Slot) (f : Fld)
  | vfma (sl : Slot) (f : Fld)
  | vfnma (sl : Slot) (f : Fld)
  | vmin (sl : Slot) (f : Fld)
  | vmax (sl : Slot) (f : Fld)
  | vabs (sl : Slot) (f : Fld)
  | vneg (sl : Slot) (f : Fld)
  | vcmpeq (sl : Slot) (f : Fld)
  | vcmplt (sl : Slot) (f : Fld)
  | vcmple (sl : Slot) (f : Fld)
  | vcmpun (sl : Slot) (f : Fld)
  | vsel (sl : Slot) (f : Fld)
  | vand (sl : Slot) (f : Fld)
  | vor (sl : Slot) (f : Fld)
  | vxor (sl : Slot) (f : Fld)
  | vshl (sl : Slot) (f : Fld)
  | vshr (sl : Slot) (f : Fld)
  | vsar (sl : Slot) (f : Fld)
  | vrsum (sl : Slot) (f : Fld)
  | vrmax (sl : Slot) (f : Fld)
  | vrmin (sl : Slot) (f : Fld)
  | vmov (sl : Slot) (f : Fld)
  | vbcast (sl : Slot) (f : Fld)
  | viota (sl : Slot) (f : Fld)
  | vcvtF2i (sl : Slot) (f : Fld)
  | vcvtI2f (sl : Slot) (f : Fld)
  -- vector data, R131 to R133
  | vld (sl : Slot) (f : Fld) (u : Upset)
  | vst (sl : Slot) (f : Fld)
  | vlda (sl : Slot) (f : Fld) (u : Upset)
  | vsta (sl : Slot) (f : Fld)
  | vunpk (sl : Slot) (f : Fld)
  | vpk (sl : Slot) (f : Fld)
  | vpkSt (sl : Slot) (f : Fld)
  | vdraw (sl : Slot) (f : Fld)
  | pset (sl : Slot) (f : Fld)
  | pand (sl : Slot) (f : Fld)
  | por (sl : Slot) (f : Fld)
  | pxor (sl : Slot) (f : Fld)
  | pnot (sl : Slot) (f : Fld)
  | pcnt (sl : Slot) (f : Fld)
  | pmask (sl : Slot) (f : Fld)
  | vext (sl : Slot) (f : Fld)
  | vins (sl : Slot) (f : Fld)
  | fsetp (sl : Slot) (f : Fld)
  -- matrix, R134, R96 to R110; here and in other rows `w`: ns the request waited behind filler work (R201)
  | mmaR (sl : Slot) (f : Fld) (w : Nat)
  | mmaS (sl : Slot) (f : Late Fld)
  | matrixPassComplete (sl : Slot) (k : Nat) (u : Upset)
  | mout (sl : Slot) (f : Late Fld)
  | mlda (sl : Slot) (f : Late Fld)
  | mamax (sl : Slot) (f : Late Fld)
  | tld (sl : Slot) (f : Fld)
  | tst (sl : Slot) (f : Fld)
  | torg (sl : Slot) (f : Fld)
  | toff (sl : Slot) (f : Fld)
  -- DMA, R135, R136
  | dmaGo (sl : Slot) (f : Fld) (w : Nat)
  | dmaCnt (sl : Slot) (f : Fld)
  | dmaDrain (sl : Slot) (f : Fld)
  | dmaComplete (n : Nat) (u : Upset) (l : LineRead)
  -- sync, R137
  | sig (sl : Slot) (f : Fld)
  | wait (sl : Slot) (f : Fld)
  | arrive (sl : Slot) (f : Fld)
  | cons (sl : Slot) (f : Fld)
  | sread (sl : Slot) (f : Fld)
  | creg (sl : Slot) (f : Fld)
  -- collective and update classes, R138
  | collGo (sl : Slot) (f : Fld)
  | collNf (sl : Slot) (f : Fld)
  | collQ (sl : Slot) (f : Fld)
  | updA (sl : Slot) (f : Fld)
  | updB (sl : Slot) (f : Fld)
  | updAb (sl : Slot) (f : Fld)
  | updOut (sl : Slot) (f : Fld)
  | updExp (sl : Slot) (f : Fld)
  | updExpComplete (n : Nat)
deriving DecidableEq, Repr

end Sys2Proof
end

