-- ==== Sys2Proof/Decode.lean ====
section
/-!
DEFINITION. Words that spell a command.  spec/opcode_table.json gives no row any bits, so no word of the table's kind
spells one.  The spec's own encodings are here all the same: the fields of instruction words (R120 to R122, Tables 4-3 and 4-4) and
the words written to command registers; Words.lean has the CLASS and OP codes.
-/

namespace Sys2Proof

/-- The command that a word of the table's bits spells: none, for the table gives no bits. -/
def decodeTableWord (_nbits _w : Nat) : Option Instr := none

/-! ### Instruction words -/

/-- CLASS and OP of the first word (Table 4-3). -/
def insClass (w : BitVec 64) : BitVec 4 := w.extractLsb' 59 4
def insOp (w : BitVec 64) : BitVec 8 := w.extractLsb' 51 8

/-- The fields of an instruction of one word, or of two: IMM32 and EXT lie in the second (R120 to R122).  In the vector
arithmetic class OP[1:0] is the type (R127). -/
def insFld (w0 w1 : BitVec 64) : Fld :=
  let form := w0.getLsbD 63
  { form := form, rd := w0.extractLsb' 45 6, ra := w0.extractLsb' 39 6, rb := w0.extractLsb' 33 6
    rc := w0.extractLsb' 27 6, pred := w0.extractLsb' 24 3, pen := w0.getLsbD 23, rnd := w0.extractLsb' 21 2
    bsrc := w0.extractLsb' 19 2, nf := w0.getLsbD 18, imm18 := w0.extractLsb' 0 18
    ty := if insClass w0 = 2 then (insOp w0).extractLsb' 0 2 else 0
    imm32 := if form then w1.extractLsb' 32 32 else 0, ext := if form then w1.extractLsb' 0 32 else 0 }

/-! ### Words written to command registers -/

/-- The command that a completed write of a register spells, by its BAR0 offset: the blocks' command registers by OP in
[63:56], or [31:24] of those of 32 bits, and the registers that have a row of their own. -/
def registerCommand (o : Nat) (v : BitVec 64) : Option Instr :=
  let w := v.extractLsb' 0 56
  let x := v.extractLsb' 0 32
  let y := v.extractLsb' 0 24
  match o, v.toNat / 2 ^ 56, (v.toNat / 2 ^ 24) % 256 with
  | 0x0018, _, _ => some (.bar2Sel x)
  | 0x001C, _, _ => some (.rstCmd x)
  | 0x0028, _, _ => some (.irqStat x)
  | 0x002C, _, _ => some (.irqEn x)
  | 0x10000, 1, _ => some (.assign w) | 0x10000, 2, _ => some (.release w) | 0x10000, 3, _ => some (.retire w)
  | 0x10000, 4, _ => some (.invalCtx w) | 0x10000, 5, _ => some (.invalRange w) | 0x10000, 6, _ => some (.invalAll w)
  | 0x10028, _, _ => some (.patrolCtrl x)
  | 0x10038, _, _ => some (.jrnCtrl v)
  | 0x11000, 1, _ => some (.ctxCreate w) | 0x11000, 2, _ => some (.ctxDestroy w) | 0x11000, 3, _ => some (.bind w .none)
  | 0x11000, 4, _ => some (.unbind w) | 0x11000, 5, _ => some (.ctxStop w) | 0x11000, 6, _ => some (.ctxResume w)
  | 0x11000, 7, _ => some (.ctxRead w)
  | 0x12000, 1, _ => some (.qCreate w) | 0x12000, 2, _ => some (.qDestroy w) | 0x12000, 3, _ => some (.qCmdHalt w)
  | 0x12000, 4, _ => some (.qResume w) | 0x12000, 5, _ => some (.qRead w)
  | 0x13000, _, _ => some (.ledCtrl x)
  | 0x13004, _, _ => some (.ledSlots x)
  | 0x13008, _, _ => some (.ledBase v)
  | 0x13014, _, _ => some (.ledTail x)
  | 0x14000, 1, _ => some (.syncCreate w) | 0x14000, 2, _ => some (.syncDestroy w) | 0x14000, 3, _ => some (.syncReset w)
  | 0x14000, 4, _ => some (.syncRead w) | 0x14000, 5, _ => some (.readWaiters w) | 0x14000, 6, _ => some (.clearOvr w)
  | 0x15000, 1, _ => some (.register w) | 0x15000, 2, _ => some (.deregister w) | 0x15000, 3, _ => some (.rollback w)
  | 0x15000, 4, _ => some (.updRead w)
  | 0x16000, 1, _ => some (.groupCreate w) | 0x16000, 2, _ => some (.groupDestroy w) | 0x16000, 3, _ => some (.groupRead w)
  | 0x16000, 4, _ => some (.voteRead w)
  | 0x17000, _, _ => some (.fabId x)
  | 0x17004, _, _ => some (.fabLat x)
  | 0x17008, 1, _ => some (.loadRoutes w) | 0x17008, 2, _ => some (.loadSites w) | 0x17008, 3, _ => some (.loadWatch w)
  | 0x17008, 4, _ => some (.loadEnc w) | 0x17008, 5, _ => some (.readRoute w)
  | 0x1701C, _, _ => some (.encCtrl x)
  | 0x1703C, _, _ => some (.sxCtrl x)
  | 0x17080, _, _ => some (.sxH x)
  | 0x18000, 1, _ => some (.pair w) | 0x18000, 2, _ => some (.unpair w) | 0x18000, 3, _ => some (.substitute w)
  | 0x18000, 4, _ => some (.promote w)
  | 0x18044, _, _ => some (.errTail .west x)
  | 0x18054, _, _ => some (.errTail .east x)
  | 0x18070, _, _ => some (.leadForce x)
  | 0x1C000, _, 1 => some (.bootLoad y)
  | 0x1C070, _, 1 => some (.hkeyLoad y) | 0x1C070, _, 2 => some (.hkeyErase y)
  | 0x1C0AC, _, _ => some (.cqrWr x)
  | 0x1D000, _, _ => some (.pwrLimit x)
  | a, _, c =>
    if 0x17100 ≤ a ∧ a < 0x17200 ∧ a % 0x20 = 0 then some (.pctrl ((a - 0x17100) / 0x20) x)
    else if 0x1C400 ≤ a ∧ a < 0x1CC00 ∧ a % 0x40 = 0x30 then
      (if c = 1 then some (.run ((a - 0x1C400) / 0x40) y) else if c = 2 then some (.resetAlive ((a - 0x1C400) / 0x40) y) else none)
    else none

end Sys2Proof
end

