-- ==== Sys2Proof/Machine/Bits.lean ====
section
/-!
DEFINITION. Bit fields, byte order and saturating counters (00_scope.md R15: little-endian,
[high:low] ranges), and the parametric CRC of R418 with its named uses.
-/

namespace Sys2Proof.Machine

/-- Bits [hi:lo] of a word, as a number. -/
def bits {w : Nat} (x : BitVec w) (hi lo : Nat) : Nat := (x.toNat >>> lo) % 2 ^ (hi + 1 - lo)

/-- Bit i of a word. -/
def bit {w : Nat} (x : BitVec w) (i : Nat) : Bool := x.getLsbD i

/-- A bit as a number. -/
def b2n (b : Bool) : Nat := if b then 1 else 0

/-- A word from a number, low bits. -/
def bv (w n : Nat) : BitVec w := BitVec.ofNat w n

/-- `n` little-endian bytes of a number. -/
def leBytes : Nat → Nat → List Byte
  | 0, _ => []
  | n + 1, x => bv 8 (x % 256) :: leBytes n (x / 256)

/-- The number that little-endian bytes spell. -/
def leNat : List Byte → Nat
  | [] => 0
  | b :: bs => b.toNat + 256 * leNat bs

/-- A 32-bit counter that stops at 0xFFFF_FFFF. -/
def sat32 (n : Nat) : Nat := min n 0xFFFF_FFFF

/-- A signed number of `w` bits. -/
def signedOf (w n : Nat) : Int := if n % 2 ^ w < 2 ^ (w - 1) then (n % 2 ^ w : Nat) else (n % 2 ^ w : Nat) - (2 ^ w : Nat)

/-- The low `w` bits of an integer, in two's complement. -/
def unsignedOf (w : Nat) (i : Int) : Nat := (i % (2 ^ w : Nat)).toNat

/-- Elements `[i, i + n)` of a list. -/
def slice {α : Type} (l : List α) (i n : Nat) : List α := (l.drop i).take n

/-- An element put before the first of a list sorted by `f` with a larger key. -/
def sortIns {α : Type} (f : α → Nat) (x : α) : List α → List α
  | [] => [x]
  | y :: t => if f x < f y then x :: y :: t else y :: sortIns f x t

/-- A list sorted by a key; equal keys keep their order. -/
def sortOn {α : Type} (f : α → Nat) (l : List α) : List α := l.foldl (fun a x => sortIns f x a) []

/-- The list with element `i` replaced. -/
def setAt {α : Type} (l : List α) (i : Nat) (x : α) : List α := l.set i x

/-- The low `w` bits of `x` in reverse order (R418). -/
def bitRev (w x : Nat) : Nat :=
  (List.range w).foldl (fun acc i => acc * 2 + (x >>> i) % 2) 0

/-- One bit step of R418. -/
def crcBit (w poly crc : Nat) : Nat :=
  if crc.testBit (w - 1) then ((crc <<< 1) ^^^ poly) % 2 ^ w else (crc <<< 1) % 2 ^ w

/-- One byte of R418. -/
def crcByte (w poly : Nat) (refIn : Bool) (crc : Nat) (b : Byte) : Nat :=
  let x := if refIn then bitRev 8 b.toNat else b.toNat
  (List.range 8).foldl (fun c _ => crcBit w poly c) (crc ^^^ (x <<< (w - 8)))

/-- The check value of R418 over bytes. -/
def crc (w poly init : Nat) (refIn refOut : Bool) (xorout : Nat) (bs : List Byte) : Nat :=
  let c := bs.foldl (crcByte w poly refIn) (init % 2 ^ w)
  (if refOut then bitRev w c else c) ^^^ (xorout % 2 ^ w)

/-- The CRC-64 of R170: ECMA-182, reflected, all ones. -/
def crc64 (bs : List Byte) : B64 :=
  bv 64 (crc 64 0x42F0E1EBA9EA3693 (2 ^ 64 - 1) true true (2 ^ 64 - 1) bs)

/-- The CRC-32C of R304. -/
def crc32c (bs : List Byte) : B32 :=
  bv 32 (crc 32 0x1EDC6F41 0xFFFFFFFF true true 0xFFFFFFFF bs)

end Sys2Proof.Machine
end

