-- ==== Sys2Proof/Machine/Ieee.lean ====
section
/-!
DEFINITION. Floating-point formats (R46 to R51) and the operations of R52 and R53: exact dyadic
values, one rounding, the five flags of FSTAT.
-/

namespace Sys2Proof.Machine

/-- An exact value (-1)^neg * m * 2^e. -/
structure Dy where
  neg : Bool
  m : Nat
  e : Int
deriving DecidableEq, Repr

/-- What a code means. -/
inductive FVal where
  | nan
  | inf (neg : Bool)
  | fin (d : Dy)
deriving DecidableEq, Repr

/-- A format: width, mantissa bits, bias, and which codes are special: 0 IEEE, 1 E4M3, 2 none
(Tables 2-3 and 2-5). -/
structure Fmt where
  w : Nat
  m : Nat
  bias : Nat
  special : Nat
deriving DecidableEq, Repr

def f32 : Fmt := ⟨32, 23, 127, 0⟩
def f16 : Fmt := ⟨16, 10, 15, 0⟩
def bf16 : Fmt := ⟨16, 7, 127, 0⟩
def e4m3 : Fmt := ⟨8, 3, 7, 1⟩
def e5m2 : Fmt := ⟨8, 2, 15, 0⟩
def e3m2 : Fmt := ⟨6, 2, 3, 2⟩
def e2m3 : Fmt := ⟨6, 3, 1, 2⟩
def e2m1 : Fmt := ⟨4, 1, 1, 2⟩

namespace Fmt

def eBits (f : Fmt) : Nat := f.w - 1 - f.m
def eMax (f : Fmt) : Nat := 2 ^ f.eBits - 1
/-- Exponent of the smallest normal value. -/
def emin (f : Fmt) : Int := 1 - (f.bias : Int)
def signBit (f : Fmt) (x : Nat) : Bool := x.testBit (f.w - 1)
def expo (f : Fmt) (x : Nat) : Nat := (x >>> f.m) % 2 ^ f.eBits
def mant (f : Fmt) (x : Nat) : Nat := x % 2 ^ f.m

/-- The code of the largest finite magnitude (Table 2-4). -/
def maxCode (f : Fmt) : Nat :=
  if f.special = 0 then (f.eMax - 1) * 2 ^ f.m + (2 ^ f.m - 1)
  else if f.special = 1 then f.eMax * 2 ^ f.m + (2 ^ f.m - 2)
  else f.eMax * 2 ^ f.m + (2 ^ f.m - 1)

/-- The default NaN (Table 2-5); formats without NaN have none and use 0. -/
def nanCode (f : Fmt) : Nat :=
  if f.special = 0 then f.eMax * 2 ^ f.m + 2 ^ (f.m - 1)
  else if f.special = 1 then f.eMax * 2 ^ f.m + (2 ^ f.m - 1) else 0

def infCode (f : Fmt) (neg : Bool) : Nat := b2n neg * 2 ^ (f.w - 1) + f.eMax * 2 ^ f.m
def zeroCode (f : Fmt) (neg : Bool) : Nat := b2n neg * 2 ^ (f.w - 1)

end Fmt

/-- The meaning of a code (R50, R51). -/
def decode (f : Fmt) (x : Nat) : FVal :=
  let s := f.signBit x
  let e := f.expo x
  let m := f.mant x
  if f.special = 0 ∧ e = f.eMax then (if m = 0 then .inf s else .nan)
  else if f.special = 1 ∧ e = f.eMax ∧ m = 2 ^ f.m - 1 then .nan
  else if e = 0 then .fin ⟨s, m, f.emin - f.m⟩
  else .fin ⟨s, 2 ^ f.m + m, (e : Int) - f.bias - f.m⟩

def isNan (f : Fmt) (x : Nat) : Bool := decode f x == .nan
/-- A NaN whose quiet bit is 0. -/
def isSNan (f : Fmt) (x : Nat) : Bool := isNan f x && !x.testBit (f.m - 1)
/-- A NaN made quiet, payload kept (R53). -/
def quiet (f : Fmt) (x : Nat) : Nat := x ||| 2 ^ (f.m - 1)

/-- Rounding: the IEEE directions (R52) and stochastic rounding with an n-bit random value (R75). -/
inductive Rnd where
  | rne | rtz | rup | rdn
  | sr (n r : Nat)
deriving DecidableEq, Repr

/-- m * 2^e as a multiple of 2^q: the multiple chosen, and is it inexact? -/
def roundMag (rm : Rnd) (neg : Bool) (m : Nat) (e q : Int) : Nat × Bool :=
  if q ≤ e then (m <<< (e - q).toNat, false)
  else
    let sh := (q - e).toNat
    let lo := m >>> sh
    let rem := m % 2 ^ sh
    let up := match rm with
      | .rne => decide (2 ^ sh < 2 * rem) || (decide (2 * rem = 2 ^ sh) && lo % 2 == 1)
      | .rtz => false
      | .rup => !neg && rem != 0
      | .rdn => neg && rem != 0
      | .sr n r => rem != 0 && decide (r < (rem * 2 ^ n) >>> sh)
    (if up then lo + 1 else lo, rem != 0)

/-- Position of the leading bit of a non-zero m * 2^e. -/
def topExp (m : Nat) (e : Int) : Int := (Nat.log2 m : Int) + e

/-- The code of k * 2^q, where q is the quantum of its binade (k at most 2^p). -/
def packCode (f : Fmt) (neg : Bool) (k : Nat) (q : Int) : Nat :=
  let (k, q) := if k = 2 ^ (f.m + 1) then (2 ^ f.m, q + 1) else (k, q)
  let s := b2n neg * 2 ^ (f.w - 1)
  if k < 2 ^ f.m then s + k
  else s + (q + f.m + f.bias).toNat * 2 ^ f.m + (k - 2 ^ f.m)

/-- The quantum of a value in the format, subnormals included. -/
def quantum (f : Fmt) (m : Nat) (e : Int) : Int := max (topExp m e - f.m) (f.emin - f.m)

/-- Does m * 2^e exceed a code's magnitude? -/
def exceeds (m : Nat) (e : Int) (f : Fmt) (code : Nat) : Bool :=
  match decode f code with
  | .fin d =>
    let b := min e d.e
    decide (d.m <<< (d.e - b).toNat < m <<< (e - b).toNat)
  | _ => false

/-! ### Flags -/

def fNX : Nat := 1
def fUF : Nat := 2
def fOF : Nat := 4
def fDZ : Nat := 8
def fNV : Nat := 16

/-- IEEE overflow: infinity or the largest finite value, by direction. -/
def overflowCode (f : Fmt) (rm : Rnd) (neg : Bool) : Nat :=
  let big := f.maxCode + f.zeroCode neg
  match rm with
  | .rtz => big
  | .rup => if neg then big else f.infCode neg
  | .rdn => if neg then f.infCode neg else big
  | _ => f.infCode neg

/-- One IEEE rounding of a non-zero exact value: code and flags; tininess after rounding (R52). -/
def roundIeee (f : Fmt) (rm : Rnd) (neg : Bool) (m : Nat) (e : Int) : Nat × Nat :=
  let (ku, _) := roundMag rm neg m e (topExp m e - f.m)
  if exceeds ku (topExp m e - f.m) f f.maxCode then (overflowCode f rm neg, fOF ||| fNX)
  else
    let q := quantum f m e
    let (k, ix) := roundMag rm neg m e q
    let tiny := decide (topExp ku (topExp m e - f.m) < f.emin)
    (packCode f neg k q, if ix then (if tiny then fUF ||| fNX else fNX) else 0)

/-- An exact value rounded; a zero takes the sign given. -/
def roundDy (f : Fmt) (rm : Rnd) (d : Dy) : Nat × Nat :=
  if d.m = 0 then (f.zeroCode d.neg, 0) else roundIeee f rm d.neg d.m d.e

/-! ### Exact arithmetic -/

def Dy.toInt (d : Dy) (b : Int) : Int :=
  let v : Int := (d.m <<< (d.e - b).toNat : Nat)
  if d.neg then -v else v

/-- The exact sum; `zn` the sign of a zero sum of values that are not zeros of one sign. -/
def Dy.add (a b : Dy) (zn : Bool) : Dy :=
  let q := min a.e b.e
  let s := a.toInt q + b.toInt q
  if s = 0 then ⟨if a.m = 0 ∧ b.m = 0 ∧ a.neg = b.neg then a.neg else zn, 0, q⟩
  else ⟨decide (s < 0), s.natAbs, q⟩

def Dy.mul (a b : Dy) : Dy := ⟨a.neg != b.neg, a.m * b.m, a.e + b.e⟩
def Dy.zero : Dy := ⟨false, 0, 0⟩
/-- Is a less than b? -/
def Dy.lt (a b : Dy) : Bool := let q := min a.e b.e; decide (a.toInt q < b.toInt q)
def Dy.eq (a b : Dy) : Bool := let q := min a.e b.e; decide (a.toInt q = b.toInt q)
def Dy.abs (a : Dy) : Dy := { a with neg := false }
/-- Scaled by 2^k. -/
def Dy.scale (a : Dy) (k : Int) : Dy := { a with e := a.e + k }

/-! ### The operations of R52 -/

/-- The first NaN operand made quiet, with NV when one is signalling (R53). -/
def nanOf (f : Fmt) (xs : List Nat) : Option (Nat × Nat) :=
  match xs.find? (isNan f) with
  | some x => some (quiet f x, if xs.any (isSNan f) then fNV else 0)
  | none => none

def invalid (f : Fmt) : Nat × Nat := (f.nanCode, fNV)

def fadd (f : Fmt) (rm : Rnd) (a b : Nat) : Nat × Nat :=
  match nanOf f [a, b] with
  | some r => r
  | none =>
    match decode f a, decode f b with
    | .inf s, .inf t => if s = t then (f.infCode s, 0) else invalid f
    | .inf s, _ => (f.infCode s, 0)
    | _, .inf t => (f.infCode t, 0)
    | .fin x, .fin y => roundDy f rm (x.add y (rm == .rdn))
    | _, _ => invalid f

def fneg (f : Fmt) (x : Nat) : Nat := x ^^^ 2 ^ (f.w - 1)
def fabs (f : Fmt) (x : Nat) : Nat := x % 2 ^ (f.w - 1)

/-- a - b; a NaN operand keeps its own sign. -/
def fsub (f : Fmt) (rm : Rnd) (a b : Nat) : Nat × Nat :=
  match nanOf f [a, b] with
  | some r => r
  | none => fadd f rm a (fneg f b)

def fmul (f : Fmt) (rm : Rnd) (a b : Nat) : Nat × Nat :=
  match nanOf f [a, b] with
  | some r => r
  | none =>
    match decode f a, decode f b with
    | .inf s, .inf t => (f.infCode (s != t), 0)
    | .inf s, .fin y => if y.m = 0 then invalid f else (f.infCode (s != y.neg), 0)
    | .fin x, .inf t => if x.m = 0 then invalid f else (f.infCode (x.neg != t), 0)
    | .fin x, .fin y => roundDy f rm (x.mul y)
    | _, _ => invalid f

/-- a * b + c, rounded once. -/
def ffma (f : Fmt) (rm : Rnd) (a b c : Nat) : Nat × Nat :=
  match nanOf f [a, b, c] with
  | some r => r
  | none =>
    let addInf (s : Bool) : Nat × Nat :=
      match decode f c with
      | .inf t => if s = t then (f.infCode s, 0) else invalid f
      | _ => (f.infCode s, 0)
    match decode f a, decode f b with
    | .inf s, .inf t => addInf (s != t)
    | .inf s, .fin y => if y.m = 0 then invalid f else addInf (s != y.neg)
    | .fin x, .inf t => if x.m = 0 then invalid f else addInf (x.neg != t)
    | .fin x, .fin y =>
      match decode f c with
      | .inf t => (f.infCode t, 0)
      | .fin z => roundDy f rm ((x.mul y).add z (rm == .rdn))
      | .nan => invalid f
    | _, _ => invalid f

/-- A total order key for finite and infinite codes, -0 below +0. -/
def ordKey (f : Fmt) (x : Nat) : Int :=
  if f.signBit x then -1 - (fabs f x : Int) else (fabs f x : Int)

def fmin (f : Fmt) (a b : Nat) : Nat × Nat :=
  match nanOf f [a, b] with
  | some r => r
  | none => (if ordKey f a ≤ ordKey f b then a else b, 0)

def fmax (f : Fmt) (a b : Nat) : Nat × Nat :=
  match nanOf f [a, b] with
  | some r => r
  | none => (if ordKey f b ≤ ordKey f a then a else b, 0)

/-- Comparison of two codes: none when unordered; zeros are equal. -/
def fcmp (f : Fmt) (a b : Nat) : Option Ordering :=
  if isNan f a || isNan f b then none
  else if fabs f a = 0 ∧ fabs f b = 0 then some .eq
  else some (compare (ordKey f a) (ordKey f b))

/-- a / b under round to nearest even. -/
def fdiv (f : Fmt) (a b : Nat) : Nat × Nat :=
  match nanOf f [a, b] with
  | some r => r
  | none =>
    match decode f a, decode f b with
    | .inf _, .inf _ => invalid f
    | .inf s, .fin y => (f.infCode (s != y.neg), 0)
    | .fin x, .inf t => (f.zeroCode (x.neg != t), 0)
    | .fin x, .fin y =>
      if y.m = 0 then (if x.m = 0 then invalid f else (f.infCode (x.neg != y.neg), fDZ))
      else if x.m = 0 then (f.zeroCode (x.neg != y.neg), 0)
      else
        let k := 64 + Nat.log2 y.m
        let n := x.m <<< k
        let r := 2 * (n / y.m) + b2n (n % y.m != 0)
        roundIeee f .rne (x.neg != y.neg) r (x.e - y.e - k - 1)
    | _, _ => invalid f

/-- The integer square root, from the top bit down: bits still to try, root so far. -/
def isqrtGo (n : Nat) : Nat → Nat → Nat
  | 0, r => r
  | i + 1, r => isqrtGo n i (if (r + 2 ^ i) * (r + 2 ^ i) ≤ n then r + 2 ^ i else r)

/-- The square root under round to nearest even. -/
def fsqrt (f : Fmt) (a : Nat) : Nat × Nat :=
  match nanOf f [a] with
  | some r => r
  | none =>
    match decode f a with
    | .inf s => if s then invalid f else (f.infCode false, 0)
    | .fin x =>
      if x.m = 0 then (f.zeroCode x.neg, 0)
      else if x.neg then invalid f
      else
        let odd := (x.e % 2).toNat
        let n := x.m <<< (odd + 64)
        let r := isqrtGo n (Nat.log2 n / 2 + 1) 0
        roundIeee f .rne false (2 * r + b2n (r * r != n)) ((x.e - odd - 64) / 2 - 1)
    | .nan => invalid f

/-! ### binary32 words under round to nearest even, as Rosemary and Borage compute (R248, R280) -/

abbrev W32 := Nat

def rnAdd (a b : W32) : W32 := (fadd f32 .rne a b).1
def rnSub (a b : W32) : W32 := (fsub f32 .rne a b).1
def rnMul (a b : W32) : W32 := (fmul f32 .rne a b).1
def rnFma (a b c : W32) : W32 := (ffma f32 .rne a b c).1
def rnDiv (a b : W32) : W32 := (fdiv f32 a b).1
def rnSqrt (a : W32) : W32 := (fsqrt f32 a).1
def rnNeg (a : W32) : W32 := fneg f32 a
def rnInt (n : Nat) : W32 := (roundDy f32 .rne ⟨false, n, 0⟩).1
/-- x * 2^k, rounded. -/
def rnScale (x : W32) (k : Int) : W32 :=
  match decode f32 x with
  | .fin d => (roundDy f32 .rne (d.scale k)).1
  | .inf s => f32.infCode s
  | .nan => quiet f32 x
def one32 : W32 := 0x3F800000
/-- Is a binary32 word greater than zero? -/
def pos32 (x : W32) : Bool := fcmp f32 x 0 == some .gt
def finite32 (x : W32) : Bool := match decode f32 x with | .fin _ => true | _ => false

/-- An exact value as a binary32 word (exact for every format but binary32 sums). -/
def toF32 : FVal → W32
  | .nan => f32.nanCode
  | .inf s => f32.infCode s
  | .fin d => (roundDy f32 .rne d).1

/-- A stored value widened to binary32 exactly; a NaN of a 16-bit format keeps its payload (R129). -/
def widen (f : Fmt) (x : Nat) : W32 :=
  if f.w = 32 then x
  else if f.special = 0 ∧ isNan f x then
    b2n (f.signBit x) * 2 ^ 31 + 0x7F800000 + f.mant x * 2 ^ (23 - f.m)
  else toF32 (decode f x)

end Sys2Proof.Machine
end

