-- ==== Sys2Proof/Machine/Conv.lean ====
section
/-!
DEFINITION. Governed conversions (R60 to R64), block scales and block layouts (R65 to R68, R467),
E2M1X and its side list (R69 to R72), INT32 and INT8 (R56, R57).
-/

namespace Sys2Proof.Machine

/-- Additions to a statistics record's counters (Table 2-10). -/
structure Ctr where
  ovf : Nat := 0
  unf : Nat := 0
  nan : Nat := 0
  esc : Nat := 0
  fmt : Nat := 0
deriving DecidableEq, Repr

def Ctr.add (a b : Ctr) : Ctr :=
  ⟨a.ovf + b.ovf, a.unf + b.unf, a.nan + b.nan, a.esc + b.esc, a.fmt + b.fmt⟩

/-- The floating format of a format code (Table 2-1); block INT8 and INT32 have none. -/
def fmtOf (code : Nat) : Option Fmt :=
  if code = 0 then some f32 else if code = 1 then some f16 else if code = 2 then some bf16
  else if code = 3 then some e4m3 else if code = 4 then some e5m2 else if code = 5 then some e3m2
  else if code = 6 then some e2m3 else if code = 7 then some e2m1 else if code = 8 then some e2m1
  else none

/-- Does the format's block scale apply: required, or optional and present (Table 2-1)? -/
def scaled (code : Nat) (absent : Bool) : Bool :=
  (decide (5 ≤ code) && decide (code ≤ 9)) || ((code == 3 || code == 4) && !absent)

/-- The largest element value of a format (Table 2-4; R57 for INT8). -/
def maxDy (code : Nat) : Dy :=
  match fmtOf code with
  | some f => match decode f f.maxCode with | .fin d => d | _ => Dy.zero
  | none => ⟨false, 127, -6⟩

/-- |d| > 2^127 * L: an element that no scale reaches (R61, R67). -/
def overScale (code : Nat) (d : Dy) : Bool := ((maxDy code).scale 127).lt d.abs

/-! ### Plain targets -/

/-- Does a finite source overflow a plain format (R61)? -/
def plainOvf (f : Fmt) (rm : Rnd) (d : Dy) : Bool :=
  if d.m = 0 then false
  else match rm with
  | .sr _ _ => exceeds d.m d.e f f.maxCode
  | _ =>
    let q := topExp d.m d.e - f.m
    exceeds (roundMag rm d.neg d.m d.e q).1 q f f.maxCode

/-- The code of a finite value that does not overflow. -/
def encodeFin (f : Fmt) (rm : Rnd) (d : Dy) : Nat :=
  if d.m = 0 then f.zeroCode d.neg
  else
    let q := quantum f d.m d.e
    packCode f d.neg (roundMag rm d.neg d.m d.e q).1 q

/-- A governed conversion into a plain floating format (Table 2-9). -/
def cvtPlain (f : Fmt) (service : Bool) (rm : Rnd) (v : FVal) : Nat × Ctr :=
  match v with
  | .nan => (f.nanCode, { nan := 1 })
  | .inf s => (if service then f.nanCode else f.maxCode + f.zeroCode s, { ovf := 1 })
  | .fin d =>
    if plainOvf f rm d then (if service then f.nanCode else f.maxCode + f.zeroCode d.neg, { ovf := 1 })
    else
      let c := encodeFin f rm d
      (c, { unf := b2n (d.m != 0 && fabs f c == 0) })

/-- Does a finite value overflow INT32 (R61)?  Rounding to nearest-even decides by the rounded value, stochastic rounding by
the source, whatever the random bits. -/
def ovfI32 (rm : Rnd) (d : Dy) : Bool :=
  let top : Nat := if d.neg then 2 ^ 31 else 2 ^ 31 - 1
  match rm with
  | .sr _ _ => (Dy.mk false top 0).lt d.abs
  | _ => decide (top < (roundMag rm d.neg d.m d.e 0).1)

/-- A conversion into INT32 (R56, R61, R74, R75). -/
def cvtI32 (rm : Rnd) (v : FVal) : Nat × Ctr :=
  match v with
  | .nan => (0, { nan := 1 })
  | .inf s => (if s then 0x80000000 else 0x7FFFFFFF, { ovf := 1 })
  | .fin d =>
    let k := (roundMag rm d.neg d.m d.e 0).1
    if ovfI32 rm d then (if d.neg then 0x80000000 else 0x7FFFFFFF, { ovf := 1 })
    else (if d.neg then (2 ^ 32 - k) % 2 ^ 32 else k, { unf := b2n (d.m != 0 && k == 0) })

/-! ### Block scales -/

/-- Is a <= L * 2^e? -/
def fits (a l : Dy) (e : Int) : Bool := !(l.scale e).lt a

/-- The smallest e at or above -127 with a <= L * 2^e (R67). -/
def scaleExp (a l : Dy) : Int :=
  if a.m = 0 then -127
  else
    let g := topExp a.m a.e - topExp l.m l.e
    let e := if fits a l (g - 1) then g - 1 else if fits a l g then g else g + 1
    max e (-127)

/-- The largest magnitude of a list. -/
def maxMag : List Dy → Dy
  | [] => Dy.zero
  | d :: ds => let r := maxMag ds; if r.lt d.abs then d.abs else r

/-- The code of one element of a block, with the block's scale exponent `e`. -/
def blkElem (code : Nat) (rm : Rnd) (e : Int) (d : Dy) : Nat :=
  let x := d.scale (-e)
  let ovr := (maxDy code).lt x.abs
  match fmtOf code with
  | none =>
    let k := if ovr then 127 else (roundMag rm x.neg x.m x.e (-6)).1
    if x.neg then (256 - k) % 256 else k
  | some f =>
    let c := if ovr then f.maxCode + f.zeroCode d.neg else encodeFin f rm x
    if code = 8 ∧ c = 8 then 0 else c

/-- Is a block element's code a zero? -/
def blkZero (code c : Nat) : Bool :=
  match fmtOf code with
  | none => c == 0
  | some f => fabs f c == 0

/-- A converted block: scale byte, element codes, side list (E2M1X), counters. -/
structure BlkOut where
  scale : Nat
  codes : List Nat
  side : List Nat
  ctr : Ctr
deriving DecidableEq, Repr

/-- Sources with an overflow, and NaN sources. -/
def blkCounts (code : Nat) (vs : List FVal) : Ctr :=
  vs.foldl (fun c v => c.add (match v with
    | .nan => { nan := 1 }
    | .inf _ => { ovf := 1 }
    | .fin d => { ovf := b2n (overScale code d) })) {}

/-- The block of R467: scale 0xFF, every code +0. -/
def blkNan (n : Nat) (c : Ctr) : BlkOut := ⟨0xFF, List.replicate n 0, [], c⟩

/-- Elements rounded under a scale exponent, without escapes. -/
def blkCodes (code : Nat) (e : Int) (vs : List (FVal × Rnd)) : List Nat :=
  vs.map fun p => match p.1 with
    | .fin d => blkElem code p.2 e d
    | .inf s => (match fmtOf code with
        | some f => f.maxCode + f.zeroCode s
        | none => if s then 129 else 127)
    | .nan => 0

def finOf : FVal → Dy
  | .fin d => d
  | _ => Dy.zero

/-- Non-zero finite sources that became zero. -/
def unfOf (code : Nat) (vs : List FVal) (codes : List Nat) : Nat :=
  ((vs.zip codes).filter fun p => match p.1 with
    | .fin d => d.m != 0 && blkZero code p.2
    | _ => false).length

/-- A governed conversion of one block into a block-scaled format other than E2M1X (R67, R62). -/
def cvtBlock (code : Nat) (service : Bool) (vs : List (FVal × Rnd)) : BlkOut :=
  let xs := vs.map (·.1)
  let c0 := blkCounts code xs
  if xs.any (· == .nan) then blkNan vs.length c0
  else if c0.ovf ≠ 0 then
    if service then blkNan vs.length c0
    else
      let cs := blkCodes code 127 vs
      ⟨0xFE, cs, [], { c0 with unf := unfOf code xs cs }⟩
  else
    let e := scaleExp (maxMag (xs.map finOf)) (maxDy code)
    let cs := blkCodes code e vs
    ⟨(e + 127).toNat, cs, [], { c0 with unf := unfOf code xs cs }⟩

/-- The k-th largest magnitude (0 the largest) of a list, by repeated removal. -/
def nthMag : Nat → List Dy → Dy
  | 0, ds => maxMag ds
  | k + 1, ds =>
    let m := maxMag ds
    nthMag k (ds.eraseIdx (ds.findIdx fun d => d.abs.eq m))

/-- A governed conversion of one block into E2M1X (R69, R70); missing elements are finite zeros.  Where the ninth
magnitude is beyond 6 × 2^127, the threshold takes the exponent above 127 that R67's formula gives (DESIGN CHOICE, log
entry 94). -/
def cvtBlockX (service : Bool) (shift : Nat) (vs : List (FVal × Rnd)) : BlkOut :=
  let xs := vs.map (·.1)
  if xs.any fun v => match v with | .fin _ => false | _ => true then cvtBlock 8 service vs
  else
    let ds := xs.map finOf
    let all := ds ++ List.replicate (32 - ds.length) Dy.zero
    let e9 := scaleExp (nthMag 8 all) (maxDy 8)
    let thr := (maxDy 8).scale (e9 + shift)
    let isEsc (d : Dy) : Bool := shift != 15 && thr.lt d.abs
    let e := scaleExp (maxMag (ds.filter fun d => !isEsc d)) (maxDy 8)
    let escs := vs.filter fun p => isEsc (finOf p.1)
    let side := escs.map fun p => cvtPlain bf16 service p.2 p.1
    let bad := (side.filter fun r => r.2.ovf ≠ 0).length
    let rest := ((ds.filter fun d => !isEsc d).filter (overScale 8)).length
    if rest ≠ 0 then
      if service then blkNan vs.length { ovf := rest + bad }
      else
        let cs := vs.map fun p => if isEsc (finOf p.1) then 8 else blkElem 8 p.2 127 (finOf p.1)
        ⟨0xFE, cs, side.map (·.1),
          { ovf := rest + bad, esc := escs.length,
            unf := unfOf 8 (xs.map fun v => if isEsc (finOf v) then .fin Dy.zero else v) cs }⟩
    else if bad ≠ 0 ∧ service then blkNan vs.length { ovf := bad }
    else
      let cs := vs.map fun p => if isEsc (finOf p.1) then 8 else blkElem 8 p.2 e (finOf p.1)
      ⟨(e + 127).toNat, cs, side.map (·.1),
        { ovf := bad, esc := escs.length,
          unf := unfOf 8 (xs.map fun v => if isEsc (finOf v) then .fin Dy.zero else v) cs }⟩

/-- A conversion of one block into any block-scaled format. -/
def encodeBlock (code : Nat) (service : Bool) (shift : Nat) (vs : List (FVal × Rnd)) : BlkOut :=
  if code = 8 then cvtBlockX service shift vs else cvtBlock code service vs

/-! ### Block bytes (Table 2-11) -/

/-- Bytes of one block's data. -/
def blkBytes (code : Nat) : Nat :=
  if code = 5 ∨ code = 6 then 24 else if code = 7 then 16 else 32

def nth0 (l : List Nat) (i : Nat) : Nat := l.getD i 0

/-- The data bytes of a block (missing elements are +0 codes); E2M1X in slotted form. -/
def packBlock (code : Nat) (codes side : List Nat) : List Byte :=
  let cs := codes ++ List.replicate (32 - codes.length) 0
  if code = 5 ∨ code = 6 then
    (List.range 8).flatMap fun g => leBytes 3
      (nth0 cs (4 * g) + nth0 cs (4 * g + 1) * 2 ^ 6 + nth0 cs (4 * g + 2) * 2 ^ 12 + nth0 cs (4 * g + 3) * 2 ^ 18)
  else if code = 7 ∨ code = 8 then
    let d := (List.range 16).map fun i => bv 8 (nth0 cs (2 * i) + 16 * nth0 cs (2 * i + 1))
    if code = 8 then
      d ++ (side.flatMap (leBytes 2)) ++ List.replicate (16 - 2 * side.length) 0
    else d
  else cs.map (bv 8)

/-- The element codes of a block's data bytes. -/
def unpackBlock (code : Nat) (bs : List Byte) : List Nat :=
  if code = 5 ∨ code = 6 then
    (List.range 32).map fun i => (leNat (slice bs (3 * (i / 4)) 3) >>> (6 * (i % 4))) % 64
  else if code = 7 ∨ code = 8 then
    (List.range 32).map fun i => ((bs.getD (i / 2) 0).toNat >>> (4 * (i % 2))) % 16
  else (List.range 32).map fun i => (bs.getD i 0).toNat

/-- The packed form of an E2M1X block (R68): data, then the q entries. -/
def packX (o : BlkOut) : List Byte := (packBlock 8 o.codes []).take 16 ++ o.side.flatMap (leBytes 2)

/-- The value of one element code under a scale byte (R65). -/
def elemVal (code scale c : Nat) : FVal :=
  if scale = 0xFF then .nan
  else
    let v : FVal := match fmtOf code with
      | some f => decode f c
      | none => .fin ⟨decide (128 ≤ c), if 128 ≤ c then 256 - c else c, -6⟩
    match v with
    | .fin d => .fin (d.scale ((scale : Int) - 127))
    | w => w

/-- The values of an E2M1X block: codes, side-list bytes at hand, scale; and is it malformed (R72)? -/
def decodeX (codes : List Nat) (side : List Byte) (scale : Nat) : List FVal × Bool :=
  let q := (codes.filter (· == 8)).length
  let ents := (List.range q).map fun k => leNat (slice side (2 * k) 2)
  let bad := decide (8 < q) || decide (side.length < 2 * q) || ents.any fun e => bf16.expo e == 0xFF
  if bad then (codes.map fun _ => .nan, true)
  else if scale = 0xFF then (codes.map fun _ => .nan, false)
  else (codes.zipIdx.map fun p =>
    if p.1 = 8 then decode bf16 (nth0 ents ((codes.take p.2).filter (· == 8)).length)
    else elemVal 8 scale p.1, false)

/-- The values of a stored block and the FMT_ERR it adds. -/
def decodeBlock (code : Nat) (bs : List Byte) (scale : Nat) : List FVal × Nat :=
  let cs := unpackBlock code bs
  if code = 8 then
    let (vs, bad) := decodeX cs (slice bs 16 16) scale
    (vs, b2n bad)
  else (cs.map (elemVal code scale), 0)

end Sys2Proof.Machine
end

