-- ==== Sys2Proof/Config.lean ====
section
/-!
DEFINITION. What the spec leaves to outside standards or to chance.  Every constant here is opaque:
it has no body, so no proof can see a value of it (log entries 8, 9 and 10).
-/

namespace Sys2Proof

/-- A certificate: the part that is signed, both public keys of its subject (1,984 bytes), and its signature value (R403). -/
structure Cert where
  tbs : List Byte
  pub : List Byte
  sig : List Byte
deriving DecidableEq, Repr

end Sys2Proof

namespace Sys2Proof.Config

/-- Free bits: the n-th open value of the device (random bits of the DRBGs of R390, and values no
rule states); `n` is the state's counter `free`. -/
opaque freeBits : Nat → B64

/-- SHA-512 (FIPS 180-4, named by R392, R394, R398, R209) of a byte string. -/
opaque sha512 : List Byte → B512

/-- SHAKE256 with a 256-bit output (R407). -/
opaque shake256 : List Byte → BitVec 256

/-- CMAC-AES-256 (SP 800-38B, named by R399) of a byte string. -/
opaque cmac : BitVec 256 → List Byte → B128

/-- The unique device secret (Table 12-1); it never leaves this constant. -/
opaque uds : BitVec 256

/-- ROM_DIGEST, fixed per stepping (R398). -/
opaque romDigest : B512

/-- The Ed25519 public key of a private key, 32 bytes (RFC 8032). -/
opaque edPublic : BitVec 256 → BitVec 256

/-- The ML-DSA-65 public key of a seed ξ, 1,952 bytes (FIPS 204). -/
opaque mlPublic : BitVec 256 → BitVec 15616

/-- The Ed25519 signature of a message with a private key, in pure form (R392). -/
opaque edSign : BitVec 256 → List Byte → B512

/-- The ML-DSA-65 signature of a message with a seed, in pure form with an empty context, hedged with random bits: 3,309
bytes (R392). -/
opaque mlSign : BitVec 256 → BitVec 256 → List Byte → BitVec 26472

/-- Does an Ed25519 signature verify over a message with a public key of 32 bytes (RFC 8032)? -/
opaque edVerify : List Byte → List Byte → B512 → Bool

/-- Does an ML-DSA-65 signature verify over a message with a public key of 1,952 bytes (FIPS 204)? -/
opaque mlVerify : List Byte → List Byte → BitVec 26472 → Bool

/-- The certificates of a chain of X.509 v3 certificates in DER, the root first (R403); none where it cannot be read. -/
opaque certsOf : List Byte → Option (List Cert)

/-- What the alias certificate signs: the public halves of the alias key and MR_FW, as a DER object (R403). -/
opaque aliasTbs : List Byte → B512 → List Byte

/-- A certificate in DER from what it signs and its signature value. -/
opaque certDer : List Byte → List Byte → List Byte

/-- The check value of 64 bits fused beside a copy of the UDS (R389): the spec gives no function. -/
opaque udsCheck : BitVec 256 → B64

/-- X25519 (RFC 7748): the public key of a private key, and the shared secret with a peer's public key (R407). -/
opaque x25519Public : BitVec 256 → BitVec 256
opaque x25519 : BitVec 256 → BitVec 256 → BitVec 256

/-- ML-KEM-768 (FIPS 203): the encapsulation key of a seed d ‖ z, 1,184 bytes; encapsulation with 256 random bits to a
ciphertext of 1,088 bytes and a secret; decapsulation (R407). -/
opaque kemPublic : BitVec 512 → List Byte
opaque kemEncaps : List Byte → BitVec 256 → List Byte × BitVec 256
opaque kemDecaps : BitVec 512 → List Byte → BitVec 256

/-- ECDH on secp384r1 (R404): the public share of a private key; the shared secret, none where the peer's share is no point. -/
opaque p384Public : BitVec 384 → BitVec 768
opaque p384Shared : BitVec 384 → BitVec 768 → Option (BitVec 384)

/-- The SPDM key schedule (R401): the handshake secret of a shared secret and the transcript; the HMAC that FINISH carries;
the data keys of both directions; the keys after KEY_UPDATE. -/
opaque spdmSecret : BitVec 384 → List Byte → B512
opaque spdmMac : B512 → List Byte → B512
opaque spdmKeys : B512 → List Byte → B512
opaque spdmUpdate : B512 → B512

/-- AES-256 of one block: the GHASH key H of a key is that of the block of zeros (R414). -/
opaque aes : BitVec 256 → B128 → B128

/-- AES-256-GCM encryption (R327, R415): key, IV, additional data, text to ciphertext and tag. -/
opaque gcmEncrypt : BitVec 256 → BitVec 96 → List Byte → List Byte → List Byte × B128

/-- AES-256-GCM decryption: key, IV, additional data, ciphertext to plaintext and the tag computed. -/
opaque gcmDecrypt : BitVec 256 → BitVec 96 → List Byte → List Byte → List Byte × B128

/-- The three check symbols of a line's Reed–Solomon code over GF(2^16) (R158): the spec gives no generator. -/
opaque rsCheck : List B16 → B16 × B16 × B16

/-- A shard's offset in the buffers of the outer merge descriptor, by shard index: the program fixes it
and no field holds it (R262). -/
opaque shardOffset : Nat → Nat

/-- Corrorak's PCI vendor ID, to which the spec gives no number (R422). -/
opaque vendorId : B16

end Sys2Proof.Config
end

