-- ==== Sys2Proof/Machine/Tab.lean ====
section
/-!
DEFINITION. Reads and writes of the keyed stores.  `d` gives what an unlisted key reads as; a
write of that very value removes the entry, so equal stores are equal lists.
-/

namespace Sys2Proof.Tab

variable {β : Type}

/-- The value at key `k`. -/
def get (d : Nat → β) : Tab β → Nat → β
  | [], k => d k
  | e :: t, k => if e.1 = k then e.2 else get d t k

/-- The entry `(k, v)` put in order into a store that has no entry of `k`. -/
def ins (k : Nat) (v : β) : Tab β → Tab β
  | [] => [(k, v)]
  | e :: t => if k < e.1 then (k, v) :: e :: t else e :: ins k v t

/-- The store without key `k`. -/
def del (t : Tab β) (k : Nat) : Tab β := t.filter fun e => e.1 ≠ k

/-- The store with `v` at key `k`, in canonical form. -/
def put [DecidableEq β] (d : Nat → β) (t : Tab β) (k : Nat) (v : β) : Tab β :=
  if v = d k then del t k else ins k v (del t k)

/-- The value at `k` changed by `f`. -/
def upd [DecidableEq β] (d : Nat → β) (t : Tab β) (k : Nat) (f : β → β) : Tab β :=
  put d t k (f (get d t k))

/-- The store with the keys of `[a, a + n)` reading as unlisted. -/
def clear (t : Tab β) (a n : Nat) : Tab β := t.filter fun e => e.1 < a ∨ a + n ≤ e.1

/-- The entries of consecutive values from key `a` on. -/
def run : Nat → List β → Tab β
  | _, [] => []
  | a, v :: vs => (a, v) :: run (a + 1) vs

/-- Consecutive values written from key `a` on. -/
def putMany [DecidableEq β] (d : Nat → β) (t : Tab β) (a : Nat) (vs : List β) : Tab β :=
  (t.filter fun e => decide (e.1 < a)) ++
    (((run a vs).filter fun e => decide (e.2 ≠ d e.1)) ++ t.filter fun e => decide (a + vs.length ≤ e.1))

/-- `n` consecutive values from key `a` on. -/
def getMany (d : Nat → β) (t : Tab β) (a n : Nat) : List β :=
  (List.range n).map fun i => get d (t.filter fun e => decide (a ≤ e.1 ∧ e.1 < a + n)) (a + i)

/-- Keys strictly rising. -/
def rising : Tab β → Bool
  | [] => true
  | [_] => true
  | e :: f :: t => decide (e.1 < f.1) && rising (f :: t)

/-- The canonical form: keys strictly rising, no entry equal to the unlisted value. -/
def wf [DecidableEq β] (d : Nat → β) (t : Tab β) : Bool :=
  rising t && t.all fun e => decide (e.2 ≠ d e.1)

end Sys2Proof.Tab
end

