-- ==== Sys2Proof/Machine/State.lean ====
section
/-!
DEFINITION. The state of the TRL-9512 as plain data: every register, table, buffer and mode that
the spec gives the device, the queue of waiting commands, and the state right after reset.
Keyed stores (`Tab`) hold only the entries that differ from what an unlisted key reads as.
-/

namespace Sys2Proof.Machine

/-- Why the machine stops.  The rows of the spec run to a next state; a fault answers a command
whose operand names something the device does not have. -/
inductive Fault where
  /-- Raised by a command that names a slot, port, unit or half part beyond those the device has
  (R2, R17); safe: no such command can be given to the hardware. -/
  | noSuchUnit (what : String) (n : Nat)
  /-- Raised by a host access outside the window it names (R426, R428, R191); safe. -/
  | outsideWindow (off : Nat)
deriving DecidableEq, Repr

/-- Why a command has no meaning here. -/
inductive Refusal where
  /-- Answered by an arm of `exec` whose command has no meaning yet; safe. -/
  | notModelled (mnemonic : String)
deriving DecidableEq, Repr

/-- A value for each half of the device (R17). -/
structure Two (α : Type) where
  w : α
  e : α
deriving DecidableEq, Repr

/-! ### Fuses (R388, R20) -/

/-- The fuse contents that the device can read or report. -/
structure Fuse where
  /-- enabled clusters, GRADE_CL -/
  grade : Nat
  /-- LMAP: physical ID of logical cluster n -/
  lmap : List Nat
  serial : B64
  /-- KEY_REV: one bit per spent firmware key slot -/
  keyRev : BitVec 4
  keyPresent : BitVec 4
  /-- FW_KEY_ID[0..3] and CA_KEY_ID -/
  keyIds : List B512
  caPresent : Bool
  caKeyId : B512
  debugLocked : Bool
  /-- burned SVN bits of the six image types -/
  svn : List Nat
  /-- bits of this copy of the unique device secret, and of the check value fused beside it, that read other than Config.uds
  and its check value (R388, R389) -/
  udsFlip : BitVec 256
  checkFlip : B64
deriving DecidableEq, Repr

/-! ### Error records (R371 to R376) -/

/-- An error record, Table 11-8. -/
structure Rec where
  seq : Nat := 0
  sev : Nat := 0
  scope : Nat := 0
  handled : Bool := false
  preempted : Bool := false
  unhandled : Bool := false
  half : Half := .west
  code : Nat := 0
  time : Nat := 0
  step : B64 := 0
  who : B64 := 0
  job : B32 := 0
  dev : B32 := 0
  addr : B64 := 0
  data0 : B64 := 0
  data1 : B64 := 0
  /-- addresses that a PATROL_SUM carries beside ER_ADDR: Table 11-8 gives them no place (R161, log entry 86) -/
  more : List B64 := []
deriving DecidableEq, Repr

/-- A record in handling or waiting for it. -/
structure Hand where
  seq : Nat
  sev : Nat
  scope : Nat
  code : Nat
  slot : Nat
deriving DecidableEq, Repr

/-- One half's error ring and handling (R372, R375, R376). -/
structure Ring where
  slots : Tab Rec := []
  head : B32 := 0
  tail : B32 := 0
  ovf : Nat := 0
  seq : Nat := 0
  /-- the record in handling first, then those it pre-empted -/
  hand : List Hand := []
  wait : List Hand := []
deriving DecidableEq, Repr

/-- Error handling and keep-alive mode. -/
structure Err where
  ring : Two Ring
  frozen : Bool
  /-- KA_STAT: keep-alive mode and the code that caused it -/
  ka : Bool
  kaCode : Nat
  /-- the last Fatal record raised -/
  lastFatal : Option Rec
deriving DecidableEq, Repr

/-! ### Leadership (R380 to R386) -/

/-- What a half knows of the latch: does its path answer, the beat of its last read, whether that
read showed it as HOLDER, the latest EXPIRY read, and whether it has stopped by R384. -/
structure LeadHalf where
  reach : Bool := true
  readBeat : Nat := 0
  mine : Bool := false
  expiry : Nat := 0
  stopped : Bool := false
  /-- the half's own copy of fabric time since its path failed (R384) -/
  ft : Nat := 0
  /-- SPINE_LOST raised since the path failed -/
  lost : Bool := false
  /-- LEAD_LOST raised by the other half for it (R385) -/
  told : Bool := false
deriving DecidableEq, Repr

/-- The tie-break latch and the two halves' views of it. -/
structure Lead where
  holder : Option Half
  epoch : B32
  expiry : Nat
  forced : Bool
  half : Two LeadHalf
deriving DecidableEq, Repr

/-! ### Power and thermal state (R447 to R466) -/

/-- The power manager, input stage and module signals.  Powers in W unless named otherwise. -/
structure Pwr where
  /-- input voltage and current in 10 mV and 10 mA -/
  vin : Nat
  iin : Nat
  on : Bool
  /-- rails in regulation, in the order of Table 14-2 (R449) -/
  rails : Nat
  pwrgd : Bool
  /-- 10 ms have passed since PWRGD (R450) -/
  holdOver : Bool
  relPend : Bool
  /-- reset input asserted -/
  perst : Bool
  thermTrip : Bool
  ovStop : Bool
  hsOpen : Bool
  vinLow : Bool
  /-- L in force -/
  lim : Nat
  tb : Nat
  avgs : List Nat
  /-- issue rates k of R455 -/
  k : Two Nat
  /-- thermal caps on k (R458) -/
  cap : Two Nat
  /-- filler grant withdrawn -/
  held : Two Bool
  fast : Bool
  /-- the power manager has set a target since the device start -/
  started : Bool
  /-- a run of beats with a k below 16 is open; lowest k of this beat -/
  thrRun : Bool
  lowK : Nat
  thermRun : Two Bool
  thrBeats : Nat
  fastCnt : Nat
  overBeats : Nat
  energy : Nat
  temps : Temps
  inletHot : Bool
  /-- when the next budget period (beat), microsecond, sample and cap steps are due, and when the fast loop may
  release (ns) (R16, R27, R455, R456, R458) -/
  budNext : Nat
  thrNext : Nat
  sampNext : Nat
  capNext : Two Nat
  fastEnd : Nat
  /-- since its last cap step, has a half had a sample above a warning threshold, and one that is not (R458)? -/
  warm : Two Bool
  cool : Two Bool
  /-- SENS_FAULT: failed sensors -/
  sensFault : BitVec 10
  /-- shares of step 2 of R454, and lent allowance, in mW -/
  share : Two Nat
  lent : Two Nat
deriving DecidableEq, Repr

/-! ### Thyme (R321 to R325) -/

structure Time where
  /-- fabric time in ns -/
  ft : Nat
  run : Bool
  locked : Bool
  holdover : Bool
  upPort : Nat
  hops : Nat
  /-- uncertainty in half nanoseconds -/
  unc2 : Nat
  drift : Bool
  /-- twice the last offset estimates, newest first, and exchanges since the first -/
  est : List Int
  exch : Nat
  /-- correction still to slew, in ns, and nanoseconds since the last slewed one -/
  slew : Int
  slewDiv : Nat
  /-- the rate held: ns gained or lost in 20,000 (R323, R324) -/
  rate : Int
  ppsMiss : Nat
  ref10 : Bool
  setW : Bool
  /-- CYCLE of Table 4-2 -/
  cycle : Nat
deriving DecidableEq, Repr

/-! ### Host interface (R422 to R446) -/

/-- A reset of the function that waits: its kind, the DMA transfers and the snapshot whose writes were issued before it. -/
structure FlrWait where
  kind : Nat
  dma : List Nat
  snap : Option Nat
deriving DecidableEq, Repr

structure Dev where
  rdy : B64
  rdyChg : Nat
  stale : Nat
  irqStat : B16
  irqEn : B16
  /-- how often each MSI-X vector has been signalled -/
  msi : Tab Nat
  rstStat : B32
  rstCount : Nat
  rstPrev : Option Rec
  linkUp : Bool
  rate : BitVec 2
  width : BitVec 2
  bar2Sel : Nat
  hostToCnt : Nat
  /-- IDE keyed and active -/
  ide : Bool
  /-- last answer given on DOE (SPDM) and on MCTP -/
  doeAns : List Byte
  mctpAns : List Byte
  /-- MCTP address assigned -/
  mctpAddr : Byte
  /-- CXL.cache writes that wait for the link (R425, R433) are retried -/
  hostRetry : Bool
  /-- CXL_DEGRADED of a training before the rings ran, to be raised when they do (R420, R424) -/
  degraded : Bool
  /-- an FLR or hot reset that waits for the CXL.cache writes issued before it (R443) -/
  flrWait : Option FlrWait
deriving DecidableEq, Repr

/-- Status of a command block: BUSY, RESULT, a returned handle and a count. -/
structure BlkStat where
  busy : Bool := false
  result : Nat := 0
  handle : B32 := 0
  count : Nat := 0
  /-- the block's register of more than 64 bits as a command that waits for a leader found it (R430) -/
  img : Option (List Byte) := none
deriving DecidableEq, Repr

/-- The command blocks that report a RESULT. -/
inductive Blk where
  | memory | context | queue | sync | update | collective | fabric | resilience | hkey
deriving DecidableEq, Repr

/-! ### Memory (R147 to R163) -/

/-- Symbols of a line's codeword (R158: 0 to 31 data, 32 metadata, 33 to 35 check) that are in error and not yet found,
and the stack that holds the line. -/
structure LineErr where
  syms : List Nat := []
  unit : Nat := 0
deriving DecidableEq, Repr

/-- Contents of device memory, of the host window and of every cluster's scratch; poison, and errors that no read has
found yet. -/
structure Mem where
  /-- bytes by device physical address -/
  phys : Tab Byte
  /-- poisoned 64-byte lines, by line number -/
  poison : Tab Bool
  /-- scratch bytes by cluster * 2^23 + offset -/
  scr : Tab Byte
  /-- uncorrectable 8-byte scratch words, by cluster * 2^20 + word -/
  scrPoison : Tab Bool
  /-- lines with symbols in error, by line number -/
  lineErr : Tab LineErr
  /-- scratch words with bits in error (1 or 2), by cluster * 2^20 + word -/
  scrErr : Tab Nat
  /-- lines that the host may hold in its caches, by line number (R426) -/
  hostLines : List Nat := []
deriving DecidableEq, Repr

/-- Patrol counts of one stack or bank: corrected and uncorrectable lines of the running pass,
lines corrected in it and in the pass before. -/
structure PatUnit where
  ce : Nat := 0
  ue : Nat := 0
  lines : List Nat := []
  prev : List Nat := []
  done : Bool := false
deriving DecidableEq, Repr

/-- Frames, the scrub engines, the patrol. -/
structure Frm where
  /-- ownership entries (R148) by frame number: half * 472,480 + index, HBM before replay store -/
  tab : Tab B16
  /-- frames of the half that the scrub after a reset has reached (R439) -/
  scrub : Two Nat
  /-- replay-store frames of the half's journal region, and those that the release of one has put into SCRUB (R164), by
  index in the bank: spans [first, end) -/
  jreg : Two (List (Nat × Nat))
  jscr : Two (List (Nat × Nat))
  eccCe : Nat
  eccUe : Nat
  pass : Nat
  /-- by unit: stacks 0 to 19, banks 20 and 21 -/
  pat : Tab PatUnit
  /-- corrections of a frame in this patrol period, and when the period began -/
  frameCe : Tab Nat
  patStart : Nat
  /-- beat + 1 of the last CE record of a unit -/
  ceBeat : Tab Nat
deriving DecidableEq, Repr

/-- A TLB entry: owner context, kind, tile, virtual page base, page size, physical base, rights. -/
structure TlbE where
  ctx : Nat
  fil : Bool
  tile : Nat
  va : Nat
  size : Nat
  pa : Nat
  r : Bool
  w : Bool
  x : Bool
deriving DecidableEq, Repr

/-- What a pending invalidation covers (R157). -/
inductive Inval where
  | ctx (id : Nat)
  | range (id lo len : Nat)
  | all
deriving DecidableEq, Repr

structure Mmu where
  /-- the tiles' shared TLBs, newest entry first -/
  tlb : List TlbE
  /-- the first-level TLB of each slot, newest entry first, by slot (R156) -/
  l1 : Tab (List TlbE)
  inval : Option Inval
deriving DecidableEq, Repr

/-! ### The journal (R164 to R177) -/

/-- A segment descriptor, Table 5-10: the live segment, the copy of `blocks` 4 KiB blocks at `pa` in the replay store of
half `half`, and SEG_CRC. -/
structure Seg where
  kind : Nat
  va : Nat
  shard : Nat
  idx : Nat
  half : Half
  blocks : Nat
  pa : Nat
  crc : B64
deriving DecidableEq, Repr

/-- A batch reference record, Table 5-11. -/
structure BRef where
  va : Nat
  len : Nat
  ctx : Nat
  crc : B64
deriving DecidableEq, Repr

/-- States of a journal entry, Table 5-7. -/
inductive JSt where
  | open_ | undo | voted | checked | damaged
deriving DecidableEq, Repr

/-- A journal entry (both halves' parts; Table 5-9). -/
structure JEnt where
  step : Nat
  outer : Bool
  fil : Bool
  tenant : BitVec 12
  ctx : Nat
  st : JSt
  /-- state to return to from DAMAGED -/
  back : JSt
  mode : Nat
  lscale : B32
  /-- retention depth in force when the entry opened (R166) -/
  k : Nat
  /-- place of the entry in the journal index -/
  place : Nat
  frames : Two Nat
  tOpen : Nat
  tCheck : Nat
  segs : List Seg
  refs : List BRef
  /-- shards (by index) whose undo copy is still to be made -/
  todo : List Nat
  /-- the gradient record is complete -/
  grad : Bool
  /-- the undo record was reported complete -/
  reported : Bool
  /-- shard indices whose outer merge is complete -/
  merged : List Nat
  /-- the batch references are to be read again before the step's re-run starts (R170); the step is run again (R197) -/
  recheck : Bool
  rerun : Bool
  /-- JE_HCRC of both halves' headers (R174) -/
  hcrc : Two B64
deriving DecidableEq, Repr

structure Jrn where
  en : Bool
  maxDepth : Nat
  depthP : Nat
  depthF : Nat
  entries : List JEnt
  /-- 1 + the last step for which no entry opened because the depth was 0 then: primary, filler, outer merges (R166, R173) -/
  toldP : Nat
  toldF : Nat
  toldO : Nat
  /-- the first step's entry of the registered job has come (R168): primary, filler -/
  begunP : Bool
  begunF : Bool
deriving DecidableEq, Repr

/-! ### Contexts, cluster slots, queues, ledger -/

/-- Context states (Table 6-1). -/
inductive CtxSt where
  | free | ready | stopped
deriving DecidableEq, Repr

/-- A context record. -/
structure Ctx where
  st : CtxSt := .free
  tenant : BitVec 12 := 0
  fil : Bool := false
  hostMem : Bool := false
  root : Nat := 0
  seed : B128 := 0
  job : B32 := 0
  modeNext : Nat := 0
  faultCl : Nat := 0
  faultCode : Nat := 0
  /-- modes recorded by step number; writes of NUM_MODE with their thresholds, newest first; the
  step number in force (R59) -/
  recorded : List (Nat × Nat) := []
  writes : List (Option Nat × Nat) := []
  force : Option Nat := none
deriving DecidableEq, Repr

/-- The wait a slot stands at (R232): its object, the address to go on at, when it began. -/
structure Wait where
  obj : B32
  next : Nat
  since : Nat
deriving DecidableEq, Repr

/-- A matrix pass issued and not complete: number, number of its instruction, pass number π, and what
the instruction read at issue. -/
structure Pass where
  k : Nat
  ins : Nat
  stream : Bool
  f : Fld
  pi : Nat
  /-- the descriptors A, B, and of MMA.S the output, C and the dual copy -/
  desc : List (BitVec 256)
  /-- the output control block, and the exponent of the scale derived from AMAX_VA -/
  ocb : List Byte
  sexp : Int
  /-- accumulator tile; 8: a streaming buffer -/
  tile : Nat
  step : Nat
  /-- address of the issuing instruction -/
  pc : Nat
deriving DecidableEq, Repr

/-- Where a slot stands in a BIND or UNBIND: named by a BIND that is not complete, and to be zeroed first;
named by an UNBIND that waits (R185, R186). -/
inductive Prep where
  | ready | bind | zero | unbind
deriving DecidableEq, Repr

/-- A cluster slot: registers of Table 4-1, CSRs of Table 4-2, and what runs in it. -/
structure SlotSt where
  ctx : Option Nat := none
  /-- tenant of the last context bound (R151) -/
  prevTenant : Option (BitVec 12) := none
  prep : Prep := .ready
  /-- PRI_MIB of the BIND that names the slot -/
  mib : Nat := 8
  sreg : Tab B64 := []
  vreg : Tab (List B32) := []
  preg : Tab B128 := []
  treg : Tab (BitVec 256) := []
  /-- accumulator cells by tile * 8,192 + row * 128 + column -/
  acc : Tab B32 := []
  /-- mode of each accumulator tile, and its ACC_SAT bits -/
  accMode : Tab Nat := []
  accSat : BitVec 8 := 0
  pc : Nat := 0
  fstat : B64 := 0
  stepNo : B64 := 0
  karg : B64 := 0
  fault : B64 := 0
  faultPc : Nat := 0
  /-- number of the KERNEL command running here -/
  run : Option Nat := none
  /-- stopped by a Contained error until the rewind (R112) -/
  halted : Bool := false
  /-- words of accumulator tiles and streaming buffers (tiles 8 and 9) that have wrong parity, not yet found (R111) -/
  accErr : List Nat := []
  /-- device memory as the slot's instruction fetch sees it: what it held when the kernel started (R120) -/
  code : Tab Byte := []
  /-- CYCLE from which the next 1,792 cycles of filler use count (Table 6-10) -/
  filFrom : Nat := 0
  wait : Option Wait := none
  passes : List Pass := []
  nextPass : Nat := 0
deriving DecidableEq, Repr

/-- A cluster: PRI_MIB, governor debt in 1/1,024 ns, the beat of the last array or parity error, and the
lending state of R238. -/
structure Clu where
  priMib : Nat := 8
  debt : Nat := 0
  errBeat : Option Nat := none
  lending : Bool := false
  granted : Bool := false
deriving DecidableEq, Repr

/-- A queue command, Table 6-5. -/
structure QCmd where
  typ : Nat
  barrier : Bool
  sigEn : Bool
  sync : B32
  sigVal : B32
  first : Nat
  count : Nat
  step : B64
  a0 : B64
  a1 : B64
  a2 : B64
  /-- a reserved field is not zero -/
  bad : Bool
deriving DecidableEq, Repr

/-- Queue states. -/
inductive QSt where
  | free | enabled | halted | quarantine
deriving DecidableEq, Repr

/-- A queue descriptor, Table 6-3, with the command fetched at QD_RD. -/
structure Q where
  st : QSt := .free
  cause : Nat := 0
  gen : BitVec 14 := 0
  ring : Nat := 0
  log2 : Nat := 0
  prio : Nat := 0
  ctx : Nat := 0
  rd : B32 := 0
  wr : B32 := 0
  qend : Nat := 0
  head : Option QCmd := none
  /-- the halt was caused by the command at QD_RD (R199) -/
  byCmd : Bool := false
  /-- a WAIT command at the head waits since this deadline -/
  waitDl : Option Nat := none
deriving DecidableEq, Repr

/-- A started queue command that has not completed. -/
structure RunCmd where
  n : Nat
  q : Nat
  cmd : QCmd
  ctx : Nat
  /-- slots of a KERNEL that have not executed HALT -/
  left : List Nat
  /-- CRC-64 of the range that a BATCH_REF names -/
  crc : B64 := 0
deriving DecidableEq, Repr

structure Que where
  tab : Tab Q
  run : List RunCmd
  next : Nat
  dbBad : Nat
  /-- queue served last, per PRIO (R195) -/
  served : Tab Nat
  fillSusp : Nat
  /-- governor debts of Borage, Rosemary slices, Sorrel banks (R201), in 1/1,024 ns -/
  borDebt : Nat
  sliceDebt : Tab Nat
  bankDebt : Two Nat
deriving DecidableEq, Repr

/-- Ledger counters of a tenant, Table 6-10. -/
structure Cnt where
  pri : Nat := 0
  fil : Nat := 0
  hbm : Nat := 0
  rs : Nat := 0
  tx : List Nat := [0, 0, 0, 0, 0, 0, 0, 0]
  rx : List Nat := [0, 0, 0, 0, 0, 0, 0, 0]
deriving DecidableEq, Repr

/-- A closed interval whose snapshot has not been written. -/
structure Snap where
  seq : Nat
  first : Nat
  last : Nat
  ext : Bool
  ka : Bool
  cnt : List (Nat × Cnt)
  /-- fabric time from which its write has been tried (R425) -/
  since : Nat
deriving DecidableEq, Repr

structure Led where
  int : Nat
  intNext : Nat
  slots : Nat
  base : Nat
  head : B32
  tail : B32
  extending : Bool
  seq : Nat
  nextSeq : Nat
  boot : B64
  /-- counters by tenant; key 4,096 is the device record -/
  cnt : Tab Cnt
  first : Nat
  counting : Bool
  ext : Bool
  ka : Bool
  snaps : List Snap
  prev : Option B512
  /-- ns of the next PRI_UNITS sample, beat of the next frame sample, beat + 1 in which the close was last looked at -/
  priNext : Nat
  frmNext : Nat
  looked : Nat
deriving DecidableEq, Repr

/-! ### Synchronisation (R213 to R240) -/

/-- States of sync objects and groups. -/
inductive SoSt where
  | free | active | quarantine
deriving DecidableEq, Repr

/-- Types of sync objects. -/
inductive SoTy where
  | counter | flag | barrier
deriving DecidableEq, Repr

/-- Who waits (R232). -/
inductive WaitBy where
  | slot (cl : Nat) (fil : Bool)
  | queue (q : Nat)
deriving DecidableEq, Repr

/-- A waiter held at an object: Table 7-6. -/
structure Waiter where
  src : WaitBy
  who : B64
  /-- 0 counter, 1 flag set, 2 round complete, 3 consume -/
  cond : Nat
  arg : B64
  /-- deadline beat; none until time locks and in keep-alive mode (R235) -/
  deadline : Option Nat
  /-- D in force when the wait began (R233, R240) -/
  dur : Nat
deriving DecidableEq, Repr

/-- A sync object record, Table 7-1, with its waiters in arrival order. -/
structure SObj where
  st : SoSt := .free
  ty : SoTy := .counter
  gen : BitVec 14 := 0
  ctx : Nat := 0
  overrun : Bool := false
  set : Bool := false
  cntSat : Bool := false
  wdFired : Bool := false
  notice : Nat := 0
  reg : Bool := false
  ovrCnt : Nat := 0
  /-- counter value -/
  value : Nat := 0
  regStep : Nat := 0
  /-- the job for whose vote it is registered -/
  regJob : B32 := 0
  round : Nat := 0
  parts : Nat := 0
  next : Nat := 0
  count : Nat := 0
  sig1 : B64 := 0
  sig2 : B64 := 0
  tSig : Nat := 0
  qend : Nat := 0
  wd : Nat := 0
  waiters : List Waiter := []
deriving DecidableEq, Repr

/-- A signal on its way to its home (R217). -/
structure SigFly where
  n : Nat
  obj : B32
  amount : B64
  who : B64
  /-- ARRIVE: serves barriers only -/
  arrive : Bool
  /-- context the engine acts for: checked at the home (R215) -/
  ctx : Option Nat
  /-- queue that a BARRIER_OVERRUN halts -/
  queue : Option Nat
  /-- the queue command at QD_RD raised it -/
  byCmd : Bool
  /-- sending device of a remote signal -/
  remote : Option Peer
deriving DecidableEq, Repr

structure Syn where
  tab : Tab SObj
  sigs : List SigFly
  next : Nat
  foreign : Nat
  wdCnt : Nat
deriving DecidableEq, Repr

/-! ### DMA (R135, R136) -/

/-- A transfer issued and not complete; `desc` the eight words of its descriptor. -/
structure DmaX where
  n : Nat
  cl : Nat
  fil : Bool
  ctx : Nat
  desc : List B64
  step : B64
  queue : Option Nat
  /-- address of the issuing instruction -/
  pc : Nat
  /-- fabric time of issue: its CXL.cache requests time out HOST_TO later (R425) -/
  since : Nat
deriving DecidableEq, Repr

structure DmaS where
  xfers : List DmaX
  next : Nat
deriving DecidableEq, Repr

/-! ### Rosemary (R241 to R268) -/

/-- A registered shard.  Its header is in memory; the fields here place it. -/
structure Shard where
  hva : Nat
  ctx : Nat
  half : Half
  mirror : Bool
  job : B32
  fil : Bool
  idx : Nat
deriving DecidableEq, Repr

/-- Kinds of update command. -/
inductive UKind where
  | a | b | ab | out | exp
deriving DecidableEq, Repr

/-- Where an update command stands: waiting for its condition, in Phase A, between the phases, in
Phase B, waiting for the decision of the outer round, merging. -/
inductive UPh where
  | wait | inA | mid | inB | dec | merge
deriving DecidableEq, Repr

structure UCmd where
  n : Nat
  cl : Nat
  fil : Bool
  ctx : Nat
  queue : Option Nat
  kind : UKind
  hva : Nat
  arg : Nat
  step : Nat
  ph : UPh
  /-- issued by Lovage in the divergence procedure (R356) -/
  lov : Bool
  /-- a restore of R172 must run first; and the partner has been asked for what it restores (R173, R364) -/
  restore : Bool
  asked : Bool
  /-- address of the issuing instruction -/
  pc : Nat
  /-- an export's issue, from which HOST_TO counts for its writes of host memory (R425) -/
  since : Option Nat := none
deriving DecidableEq, Repr

/-- A job registered with Sorrel and Rosemary. -/
structure JobReg where
  job : B32
  halted : Bool
  haltStep : Nat
deriving DecidableEq, Repr

/-- An owner's report that its undo record of a step, or of an outer merge, is complete (R251, R169). -/
structure OwnRep where
  job : B32
  step : Nat
  outer : Bool
  src : Peer
deriving DecidableEq, Repr

structure Upd where
  shards : List Shard
  cmds : List UCmd
  next : Nat
  jobP : Option JobReg
  jobF : Option JobReg
  ovf : Nat
  owner : List OwnRep
  /-- job of a ROLLBACK that waits for owners' undo records (R364) -/
  roll : Option B32
  /-- what a ROLLBACK in progress found where it writes: context, address, bytes (R444) -/
  was : List (Nat × Nat × List Byte)
  /-- a REGISTER that stays BUSY while an entry of the job is VOTED (R168) -/
  regWait : Option (BitVec 56)
deriving DecidableEq, Repr

/-! ### Borage and the vote (R269 to R300) -/

/-- A group record, Table 9-1, with its membership list. -/
structure Grp where
  st : SoSt := .free
  vote : Bool := false
  weight : Nat := 0
  ctx : Nat := 0
  gen : BitVec 14 := 0
  size : Nat := 0
  rank : Nat := 0
  listVa : Nat := 0
  ports : Byte := 0
  retry : Nat := 0
  wait : Nat := 0
  fprint : B64 := 0
  decided : B64 := 0
  lastOut : Nat := 0
  digReruns : Nat := 0
  attempt : Nat := 0
  list : List Peer := []
  qend : Nat := 0
deriving DecidableEq, Repr

/-- States of a collective (R276). -/
inductive CSt where
  | queued | running | complete | cancelled | failed
deriving DecidableEq, Repr

/-- A collective: descriptor words, what has been received, its statistics. -/
structure Coll where
  n : Nat
  grp : Nat
  gen : BitVec 14
  job : B32
  step : Nat
  attempt : Nat
  seq : Nat
  cl : Nat
  fil : Bool
  ctx : Nat
  queue : Option Nat
  desc : List B64
  st : CSt
  /-- explicit chunk lengths (R277); send and receive tables of a PERMUTE: rank, offset, length (R279) -/
  lens : List Nat
  snd : List (Nat × Nat × Nat)
  rcv : List (Nat × Nat × Nat)
  /-- the own part is done: own chunk final and stored, own pieces sent -/
  own : Bool
  /-- partial sums of chunks taken, units or pieces received -/
  parts : List Nat
  got : List Nat
  q : B32
  rho : B32
  /-- the mirror delivery of the own chunk is acknowledged -/
  mir : Bool
  /-- address of the issuing instruction -/
  pc : Nat
deriving DecidableEq, Repr

/-- The vote of a job's step on this device. -/
structure Vote where
  job : B32
  grp : Nat
  step : Nat
  attempt : Nat
  opened : Bool
  deadline : Nat
  own : Option VWord
  kids : List (Nat × VWord)
  notice : Bool
  sent : Bool
  /-- root declared absent: beat until which the member waits, then asks the recovery root -/
  recov : Option Nat
deriving DecidableEq, Repr

/-- A job and one of its steps. -/
structure JobStep where
  job : B32
  step : Nat
deriving DecidableEq, Repr

/-- Bytes of a mirror copy's G segment delivered for a step (R284). -/
structure Deliv where
  job : B32
  step : Nat
  shard : Nat
  off : Nat
  len : Nat
deriving DecidableEq, Repr

structure Col where
  groups : Tab Grp
  colls : List Coll
  next : Nat
  /-- steps whose non-finite flag, whose MISMATCH and whose NOTPRES are set -/
  nf : List JobStep
  mism : List JobStep
  np : List JobStep
  votes : List Vote
  lastWord : Option VWord
  /-- outcomes held, newest first -/
  outs : List OutMsg
  cancel : Nat
  foreign : Nat
  digMis : Nat
  reruns : Nat
  deliv : List Deliv
deriving DecidableEq, Repr

/-! ### The fabric (R301 to R331) -/

/-- Contents of a message that the device sends. -/
inductive Body where
  | none
  | sync (m : SyncMsg)
  | borage (m : BMsg)
  | mdel (m : MDel)
  | vword (w : VWord)
  | outc (m : OutMsg)
  | absence (job : B32) (step : Nat)
  | pair (ack : Bool) (m : PairMsg)
  | digests (d : DigList)
  | blocks (undo : Bool) (step : Nat) (b : Blocks)
  | receipt (r : Receipt)
  | decision (d : Decision)
  /-- every other content: a kind, numbers and bytes -/
  | other (kind : Nat) (args : List Nat) (data : List Byte)
deriving DecidableEq, Repr

/-- A message sent and not acknowledged, with its first and last transmission. -/
structure OutM where
  m : Msg
  body : Body
  first : Nat
  last : Nat
deriving DecidableEq, Repr

/-- A connection (R314): this device as origin (`out`) or as destination. -/
structure Conn where
  id : Nat
  peer : Peer
  cls : Nat
  out : Bool
  /-- next TH_SEQ to send, or to deliver -/
  next : Nat
  unacked : List OutM
  gap : Bool
  early : List Msg
  /-- when the connection is released for want of traffic -/
  rel : Nat
  /-- each TH_SEQ whose tag has failed once -/
  tagBad : List Nat
  /-- unacknowledged messages have been delivered -/
  ackDue : Bool
deriving DecidableEq, Repr

/-- A message, or a relayed flit, that waits at a port: its class, what it is counted to, and of a Borage message the
group, step and CD_SEQ (R282, R317). -/
structure TxQ where
  cls : Nat
  key : Nat
  grp : Option Nat
  step : Nat
  seq : Nat
  frames : List Frame
deriving DecidableEq, Repr

/-- A message that a relay passes on: channel on which it comes in, and the port on which it leaves with its class; none
once it is discarded (R312). -/
structure Thru where
  chan : Byte
  next : Option (Nat × Nat)
deriving DecidableEq, Repr

/-- A port: Tables 10-1, 10-10, link layer of R304 to R307. -/
structure Port where
  ctrl : B32 := 0
  st : Nat := 0
  light : Byte := 0
  rtt : Nat := 0
  crcErr : Nat := 0
  fecUnc : Nat := 0
  replay : Nat := 0
  retrains : Nat := 0
  /-- next LSEQ to send, next expected, next the far end expects -/
  tx : Nat := 0
  rx : Nat := 0
  acked : Nat := 0
  retry : List Frame := []
  /-- failures in a row of the expected LSEQ, failed retrainings in a row -/
  fails : Nat := 0
  badTrain : Nat := 0
  /-- an LSEQ for which a NAK has been sent -/
  nak : Option Nat := none
  /-- hops of the far end from a root -/
  hops : Nat := 0xFF
  /-- mode latched while EN was 0 (a change takes effect after EN 0, then 1) -/
  mode : Nat := 0
  /-- channels on which messages for other devices come in (R313) -/
  through : List Byte := []
  /-- where the relay sends them on -/
  relay : List Thru := []
  /-- when the last ACK advanced or the retry buffer ceased to be empty -/
  ackAt : Nat := 0
  /-- flits that wait to leave (R317); the group in its turn and the flits left of its quantum (R282) -/
  txq : List TxQ := []
  turn : Option Nat := none
  credit : Nat := 0
  /-- frames to be sent again, ahead of new ones (R306) -/
  again : List Frame := []
  /-- fabric time in tenths of a nanosecond from which the next frame may leave (R304), and the last frame sent -/
  sendAt : Nat := 0
  line : Option Frame := none
  /-- the same of the next frame that can arrive -/
  recvAt : Nat := 0
deriving DecidableEq, Repr

/-- A watched partner (R318, R319). -/
structure Watch where
  /-- place in the watch list -/
  pos : Nat := 0
  peer : Peer
  /-- beats whose heartbeats have come, those before the last check's apart -/
  got : List Nat := []
  /-- beat + 1 of the last check -/
  seen : Nat := 0
  miss : Nat
  absent : Bool
  ka : Bool
  numRev : Nat
deriving DecidableEq, Repr

/-- A site entry, Table 10-6. -/
structure SiteE where
  valid : Bool := false
  ndev : Nat := 0
  coord : Nat := 0
  alt : Nat := 0
  peer : Nat := 0
  route : B16 := 0
deriving DecidableEq, Repr

/-- A message that waits for a session (R326). -/
structure WaitS where
  m : Msg
  body : Body
  since : Nat
deriving DecidableEq, Repr

structure Fab where
  id : B32
  lat : Nat
  /-- a lowered bound and the beat from which it holds (R316) -/
  latPend : Option (Nat × Nat)
  routes : Tab B16
  sites : Tab SiteE
  watch : List Watch
  encMap : Tab Bool
  encAll : Bool
  /-- ALL from the next epoch boundary on -/
  encAllNext : Bool
  encLog2 : Nat
  encNext : Nat
  epoch : Nat
  hbSent : Nat
  ports : Tab Port
  conns : List Conn
  nextConn : Nat
  waits : List WaitS
  /-- messages handed to ports, newest first: port and message -/
  tx : List (Nat × OutM)
  /-- ACKs sent to each peer (Table 10-5) -/
  acks : List (Peer × Nat)
  noRoute : Nat
  expired : Nat
  msgBad : Nat
  gcmFail : Nat
  epochDrop : Nat
  skew : Nat
deriving DecidableEq, Repr

/-! ### The site exchange (R332 to R343) -/

/-- A received stream of a peer's difference. -/
structure Strm where
  site : Nat
  shard : Nat
  data : Bool
  first : Nat
  tags : List Byte
  blocks : List (List Byte)
deriving DecidableEq, Repr

/-- A report of a device of the own site: the sites from which it holds whole differences. -/
structure Rep where
  src : Peer
  /-- address of its mirror partner -/
  partner : Nat
  mask : B64
deriving DecidableEq, Repr

/-- The outer round in progress. -/
structure Round where
  j : Nat
  t0 : Nat
  rejoin : Bool
  enc : Bool
  streams : List Strm
  whole : List (Nat × Nat)
  reports : List Rep
  receipts : List Receipt
  sent : Bool
  /-- Q is settled (R337) -/
  decided : Bool
  /-- decisions that came before Q was settled (R338) -/
  came : List DecisionIn
  applied : Option Decision
  ownOut : Bool
deriving DecidableEq, Repr

structure Sx where
  en : Bool
  dataWait : Nat
  decWait : Nat
  h : Nat
  part : Bool
  rejoin : Bool
  proposer : Nat
  round : Nat
  lineage : B64
  caLin : B64
  cur : Option Round
  log : List (B64 × Nat)
  /-- joiners that this site serves, with the round (R342) -/
  joins : List (Peer × Nat)
  /-- this device has sent JOIN, and the round at which it is served (R342) -/
  asked : Bool
  joinAt : Option Nat
  /-- outer momentum of sites received for a rejoin round: site, shard -/
  omom : List (Nat × Nat)
  /-- the common anchor is more than 64 rounds old (R343) -/
  stale : Bool
deriving DecidableEq, Repr

/-! ### Lovage (R347 to R370) -/

/-- Mirror service states, Table 11-2. -/
inductive PairSt where
  | off | pairing | up | checking | down | lost
deriving DecidableEq, Repr

structure Pair where
  st : PairSt
  partner : Nat
  step : Nat
  job : B32
  ctx : Nat
  /-- own conditions held; the partner's PAIR_REQ or PAIR_ACK has come -/
  sent : Bool
  /-- the last outer merge, by its step, on which the copies are known to agree (R351, R366) -/
  merged : Nat := 0
deriving DecidableEq, Repr

/-- A mirror check of one shard copy held here. -/
structure Chk where
  job : B32
  step : Nat
  shard : Nat
  mirror : Bool
  outer : Bool
  mine : Option (List B64)
  theirs : Option (List B64)
  /-- verdict given and verdict received: agree, first block, count -/
  given : Option (Bool × Nat × Nat)
  got : Option (Bool × Nat × Nat)
  done : Bool
  /-- lists of the recomputation (R356): kept own list of the check -/
  again : Option (List B64)
deriving DecidableEq, Repr

/-- A divergence procedure in progress for one shard. -/
structure Dvg where
  job : B32
  step : Nat
  shard : Nat
  mirror : Bool
  dOwn : List B64
  dMir : List B64
  restored : Bool
deriving DecidableEq, Repr

/-- A PROMOTE in progress. -/
structure Promo where
  job : B32
  src : Nat
  ctx : Nat
  /-- headers still to be loaded: address, mirror copy -/
  todo : List (Nat × Bool)
  blocks : Nat
  pairing : Bool
deriving DecidableEq, Repr

/-- A segment kind of a mirror copy whose repair waits for its owner's undo record (R355). -/
structure Fix where
  job : B32
  shard : Nat
  step : Nat
  outer : Bool
  kind : Nat
deriving DecidableEq, Repr

structure Mir where
  p : Pair
  f : Pair
  div : Nat
  chks : List Chk
  dvg : List Dvg
  /-- SUBSTITUTE: job, lost address, spare address -/
  subs : List (B32 × Nat × Nat)
  promo : Option Promo
  promoBlocks : Nat
  /-- what a PROMOTE in progress found where it writes, the shards registered before it, and the pairs before the PAIR or
  PROMOTE in progress (R444) -/
  was : List (Nat × Nat × List Byte)
  wasShards : List Shard
  wasPairs : Pair × Pair
  fixes : List Fix
  /-- device and beat of MIRROR_DIVERGE records -/
  diverge : List (Nat × Nat)
  /-- steps whose own shard a divergence changed: NOTPRES for the vote after (R358) -/
  changed : List JobStep
deriving DecidableEq, Repr

/-! ### Boot, keys, sessions, cipher engine, Chive (R388 to R421) -/

structure Boot where
  busy : Bool
  split : Bool
  fuseSplit : Bool
  done : Bool
  next : Nat
  result : Nat
  opened : Bool
  sage : Two Bool
  acc : List Nat
  mr : Tab B512
  mrFw : B512
  /-- the random bits of the alias certificate's signature (R403) -/
  aliasRnd : BitVec 256
  chain : List Byte
  /-- memory training: MEMORY image accepted, trained -/
  trained : Bool
  /-- contents are to be checked only (device reset, Table 13-9) -/
  kept : Bool
deriving DecidableEq, Repr

/-- A session (R407 to R411). -/
structure Sess where
  peer : Peer
  id : B64
  srk : BitVec 256
  first : Nat
  /-- first epoch of the session that replaces it -/
  stop : Option Nat
  used : Nat
deriving DecidableEq, Repr

/-- An establishment in progress (R407), with its secrets. -/
structure Att where
  peer : Peer
  init : Bool
  repl : Bool
  stage : Nat
  /-- beat of a new attempt after a failure -/
  retry : Option Nat
  /-- the initiator's X25519 private key and ML-KEM seed -/
  eph : BitVec 256 := 0
  kem : BitVec 512 := 0
  /-- S_INIT as sent; of a responder the peer's chain -/
  first : List Byte := []
  chain : List Byte := []
  /-- of a responder: TH, SRK and the signature structure of its S_RESP -/
  th : B512 := 0
  srk : BitVec 256 := 0
  sig : List Byte := []
deriving DecidableEq, Repr

/-- A transport key slot. -/
structure TKey where
  peer : Peer
  id : B64
  epoch : Nat
  out : Bool
  key : BitVec 256
  /-- the GHASH key H -/
  h : B128
  /-- fabric time of retirement -/
  retire : Option Nat
deriving DecidableEq, Repr

/-- A host key slot: key and GHASH key H (R414). -/
structure HKey where
  key : BitVec 256
  h : B128
deriving DecidableEq, Repr

/-- The SPDM responder: what has been exchanged, the transcripts (messages up to ALGORITHMS, of digests and certificates, of
measurements, of the session), the handshake secret and the data keys (R401, R404). -/
structure Spdm where
  ver : Bool := false
  caps : Bool := false
  alg : Bool := false
  /-- DHE secp384r1 and AES-256-GCM are negotiated -/
  kex : Bool := false
  sess : Bool := false
  secured : Bool := false
  keyGen : Nat := 0
  vca : List Byte := []
  certs : List Byte := []
  meas : List Byte := []
  th : List Byte := []
  secret : B512 := 0
  keys : B512 := 0
  /-- the request at hand came over MCTP -/
  mctp : Bool := false
deriving DecidableEq, Repr

structure Sec where
  rngOk : Two Bool
  drbg : Two Nat
  /-- blocks since the masking generator took its seed, and the seed (R413) -/
  mask : Two Nat
  seed : Two (BitVec 256)
  sess : List Sess
  atts : List Att
  fails : Nat
  keys : List TKey
  /-- host key slots: half * 64 + slot -/
  host : Tab (Option HKey)
  /-- host slots waiting for erasure, and their RESULT -/
  erase : List Nat
  cqWr : B32
  cqRd : B32
  reqs : List Nat
  untrusted : Nat
  spdm : Spdm
deriving DecidableEq, Repr

/-- A Chive unit's results. -/
structure ChvU where
  result : B64 := 0
  busy : Bool := false
  done : Bool := false
  mismatch : Bool := false
  rept : Bool := false
  skip : Bool := false
  first : Bool := false
  gap : Byte := 0
  last : Byte := 0
  res : Byte := 0
deriving DecidableEq, Repr

/-- A register command that waits for the link to the host (R425, R433), and since when. -/
structure LinkWait where
  c : Instr
  since : Nat
deriving DecidableEq, Repr

/-! ### The whole state -/

structure State where
  /-- commands waiting, first in first out -/
  pending : List Instr
  /-- register commands that stay BUSY for want of a leader (R444) -/
  held : List Instr
  /-- commands that stay BUSY because their CXL.cache requests wait for the link -/
  link : List LinkWait
  /-- how many free values have been drawn -/
  free : Nat
  /-- West's copy of the fuses, by which the device works, and East's (R388) -/
  fuse : Fuse
  fuseE : Fuse
  pwr : Pwr
  time : Time
  dev : Dev
  /-- registers that the host writes and the device only reads, and image registers, by BAR0
  offset; unlisted ones read their reset value -/
  regs : Tab B32
  blk : Tab BlkStat
  boot : Boot
  sec : Sec
  chv : Tab ChvU
  mem : Mem
  frm : Frm
  mmu : Mmu
  jrn : Jrn
  ctx : Tab Ctx
  clu : Tab Clu
  slot : Tab SlotSt
  que : Que
  led : Led
  syn : Syn
  dma : DmaS
  upd : Upd
  col : Col
  fab : Fab
  sx : Sx
  mir : Mir
  err : Err
  lead : Lead
deriving DecidableEq, Repr

/-! ### Reset -/

/-- The reset value of a register word of BAR0 (the Reset columns of the register tables); the
MSI-X vector control words are masked (PRESUMED, log entry 2). -/
def regReset (o : Nat) : B32 :=
  if o = 0x80 then 0x32 else
  if o = 0x10028 then 0x11A else
  if o = 0x1104C then 0x8 else
  if o = 0x14060 then 0x400 else
  if o = 0x14064 then 0x108 else
  if o = 0x16050 then 0x80 else
  if o = 0x17020 then 0x1 else
  if o = 0x18034 then 0x2 else
  if o = 0x1C064 then 0x40 else
  if o = 0x1D000 then 0x1450 else
  if o = 0x1D028 then 0x5F else
  if 0x30000 ≤ o ∧ o < 0x30100 ∧ o % 16 = 12 then 1 else 0

/-- Thyme held in reset. -/
def Time.reset : Time :=
  { ft := 0, run := false, locked := false, holdover := false, upPort := 0, hops := 0, unc2 := 0,
    drift := false, est := [], exch := 0, slew := 0, slewDiv := 0, rate := 0, ppsMiss := 0, ref10 := true,
    setW := false, cycle := 0 }

/-- The power manager after the power stage has started (log entry 1). -/
def Pwr.reset : Pwr :=
  { vin := 5600, iin := 0, on := true, rails := 5, pwrgd := true, holdOver := true, relPend := false,
    perst := true, thermTrip := false, ovStop := false, hsOpen := false, vinLow := false,
    lim := 5200, tb := 0, avgs := [], k := ⟨16, 16⟩, cap := ⟨16, 16⟩, held := ⟨false, false⟩,
    fast := false, started := false, thrRun := false, lowK := 16, thermRun := ⟨false, false⟩,
    thrBeats := 0, fastCnt := 0, overBeats := 0, energy := 0, temps := ⟨0, 0, 0, 0, 0, 0, 0, 0, 0⟩,
    warm := ⟨false, false⟩, cool := ⟨false, false⟩,
    inletHot := false, budNext := 0, thrNext := 0, sampNext := 0, capNext := ⟨0, 0⟩, fastEnd := 0,
    sensFault := 0, share := ⟨0, 0⟩, lent := ⟨0, 0⟩ }

/-- The fuses of the modelled module (log entry 2): the full grade, identity map. -/
def Fuse.reset : Fuse :=
  { grade := 512, lmap := List.range 512, serial := 0, keyRev := 0, keyPresent := 0xF,
    keyIds := [0, 0, 0, 0], caPresent := true, caKeyId := 0, debugLocked := true, svn := [0, 0, 0, 0, 0, 0]
    udsFlip := 0, checkFlip := 0 }

def Dev.reset : Dev :=
  { rdy := 0, rdyChg := 0, stale := 0, irqStat := 0, irqEn := 0, msi := [], rstStat := 0,
    rstCount := 0, rstPrev := none, linkUp := false, rate := 0, width := 0, bar2Sel := 0,
    hostToCnt := 0, ide := false, doeAns := [], mctpAns := [], mctpAddr := 0x61, hostRetry := false, degraded := false, flrWait := none }

def Pair.reset : Pair := { st := .off, partner := 0, step := 0, job := 0, ctx := 0, sent := false }

/-- The machine right after reset: a powered module whose reset input is still asserted, so nothing
is loaded (R437, Table 13-9, log entry 1). -/
def State.reset : State :=
  { pending := [], held := [], link := [], free := 0, fuse := Fuse.reset, fuseE := Fuse.reset, pwr := Pwr.reset,
    time := Time.reset, dev := Dev.reset, regs := [], blk := [],
    boot := { busy := false, split := false, fuseSplit := false, done := false, next := 0,
              result := 0, opened := false, sage := ⟨false, false⟩, acc := [], mr := [], mrFw := 0, aliasRnd := 0,
              chain := [], trained := false, kept := false },
    sec := { rngOk := ⟨false, false⟩, drbg := ⟨0, 0⟩, mask := ⟨0, 0⟩, seed := ⟨0, 0⟩, sess := [], atts := [],
             fails := 0, keys := [], host := [], erase := [], cqWr := 0, cqRd := 0, reqs := [],
             untrusted := 0, spdm := {} },
    chv := [],
    mem := { phys := [], poison := [], scr := [], scrPoison := [], lineErr := [], scrErr := [] },
    frm := { tab := [], scrub := ⟨0, 0⟩, jreg := ⟨[], []⟩, jscr := ⟨[], []⟩, eccCe := 0, eccUe := 0, pass := 0, pat := [],
             frameCe := [], patStart := 0, ceBeat := [] },
    mmu := { tlb := [], l1 := [], inval := none },
    jrn := { en := false, maxDepth := 2, depthP := 0, depthF := 0, entries := [], toldP := 0, toldF := 0, toldO := 0,
             begunP := false, begunF := false },
    ctx := [], clu := [], slot := [],
    que := { tab := [], run := [], next := 0, dbBad := 0, served := [], fillSusp := 0,
             borDebt := 0, sliceDebt := [], bankDebt := ⟨0, 0⟩ },
    led := { int := 4096, intNext := 4096, slots := 0, base := 0, head := 0, tail := 0,
             extending := false, seq := 0, nextSeq := 0, boot := 0, cnt := [], first := 0,
             counting := false, ext := false, ka := false, snaps := [], prev := none,
             priNext := 0, frmNext := 0, looked := 0 },
    syn := { tab := [], sigs := [], next := 0, foreign := 0, wdCnt := 0 },
    dma := { xfers := [], next := 0 },
    upd := { shards := [], cmds := [], next := 0, jobP := none, jobF := none, ovf := 0, owner := [],
             roll := none, was := [], regWait := none },
    col := { groups := [], colls := [], next := 0, nf := [], mism := [], np := [], votes := [],
             lastWord := none, outs := [], cancel := 0, foreign := 0, digMis := 0, reruns := 0,
             deliv := [] },
    fab := { id := 0, lat := 4, latPend := none, routes := [], sites := [], watch := [],
             encMap := [], encAll := false, encAllNext := false, encLog2 := 36, encNext := 36, epoch := 0, hbSent := 0,
             ports := [], conns := [], nextConn := 0, waits := [], tx := [], acks := [],
             noRoute := 0, expired := 0, msgBad := 0, gcmFail := 0, epochDrop := 0, skew := 0 },
    sx := { en := false, dataWait := 256, decWait := 64, h := 0, part := false, rejoin := false,
            proposer := 0, round := 0, lineage := 0, caLin := 0, cur := none, log := [],
            joins := [], asked := false, joinAt := none, omom := [], stale := false },
    mir := { p := Pair.reset, f := Pair.reset, div := 0, chks := [], dvg := [], subs := [],
             promo := none, promoBlocks := 0, was := [], wasShards := [], wasPairs := (Pair.reset, Pair.reset), fixes := [], diverge := [], changed := [] },
    err := { ring := ⟨{}, {}⟩, frozen := false, ka := false, kaCode := 0, lastFatal := none },
    lead := { holder := none, epoch := 0, expiry := 0, forced := false, half := ⟨{}, {}⟩ } }

/-! ### Field updates -/

def State.setPending (s : State) (x : List Instr) : State := { s with pending := x }
def State.setHeld (s : State) (x : List Instr) : State := { s with held := x }
def State.setLink (s : State) (x : List LinkWait) : State := { s with link := x }
def State.setFree (s : State) (x : Nat) : State := { s with free := x }
def State.setFuse (s : State) (x : Fuse) : State := { s with fuse := x }
def State.setFuseE (s : State) (x : Fuse) : State := { s with fuseE := x }
def State.setPwr (s : State) (x : Pwr) : State := { s with pwr := x }
def State.setTime (s : State) (x : Time) : State := { s with time := x }
def State.setDev (s : State) (x : Dev) : State := { s with dev := x }
def State.setRegs (s : State) (x : Tab B32) : State := { s with regs := x }
def State.setBlk (s : State) (x : Tab BlkStat) : State := { s with blk := x }
def State.setBoot (s : State) (x : Boot) : State := { s with boot := x }
def State.setSec (s : State) (x : Sec) : State := { s with sec := x }
def State.setChv (s : State) (x : Tab ChvU) : State := { s with chv := x }
def State.setMem (s : State) (x : Mem) : State := { s with mem := x }
def State.setFrm (s : State) (x : Frm) : State := { s with frm := x }
def State.setMmu (s : State) (x : Mmu) : State := { s with mmu := x }
def State.setJrn (s : State) (x : Jrn) : State := { s with jrn := x }
def State.setCtx (s : State) (x : Tab Ctx) : State := { s with ctx := x }
def State.setClu (s : State) (x : Tab Clu) : State := { s with clu := x }
def State.setSlot (s : State) (x : Tab SlotSt) : State := { s with slot := x }
def State.setQue (s : State) (x : Que) : State := { s with que := x }
def State.setLed (s : State) (x : Led) : State := { s with led := x }
def State.setSyn (s : State) (x : Syn) : State := { s with syn := x }
def State.setDma (s : State) (x : DmaS) : State := { s with dma := x }
def State.setUpd (s : State) (x : Upd) : State := { s with upd := x }
def State.setCol (s : State) (x : Col) : State := { s with col := x }
def State.setFab (s : State) (x : Fab) : State := { s with fab := x }
def State.setSx (s : State) (x : Sx) : State := { s with sx := x }
def State.setMir (s : State) (x : Mir) : State := { s with mir := x }
def State.setErr (s : State) (x : Err) : State := { s with err := x }
def State.setLead (s : State) (x : Lead) : State := { s with lead := x }
/-- A command queued in front of every other. -/
def State.withFront (s : State) (c : Instr) : State := { s with pending := c :: s.pending }

end Sys2Proof.Machine
end

