-- ==== Sys2Proof/Machine/Ops.lean ====
section
/-!
DEFINITION. Named operations over the state: halves, slots, registers, time, leadership, error
records and their handling (R371 to R376), interrupts (R432) and the status of command blocks.
-/

namespace Sys2Proof.Machine

abbrev Out := Host.Outcome State Fault Refusal

/-! ### Halves -/

def Two.get {α : Type} (t : Two α) : Half → α
  | .west => t.w
  | .east => t.e

def Two.set {α : Type} (t : Two α) (h : Half) (x : α) : Two α :=
  match h with
  | .west => { t with w := x }
  | .east => { t with e := x }

def Two.upd {α : Type} (t : Two α) (h : Half) (f : α → α) : Two α := t.set h (f (t.get h))

def otherHalf : Half → Half
  | .west => .east
  | .east => .west

/-- A half by number: 0 West, 1 East. -/
def halfOf (n : Nat) : Half := if n = 0 then .west else .east

def halfNo : Half → Nat
  | .west => 0
  | .east => 1

/-! ### Keyed parts of the state -/

def slotKey (cl : Nat) (fil : Bool) : Nat := 2 * cl + b2n fil
def getSlot (s : State) (cl : Nat) (fil : Bool) : SlotSt := Tab.get (fun _ => {}) s.slot (slotKey cl fil)
def setSlot (s : State) (cl : Nat) (fil : Bool) (x : SlotSt) : State :=
  s.setSlot (Tab.put (fun _ => {}) s.slot (slotKey cl fil) x)
def updSlot (s : State) (cl : Nat) (fil : Bool) (f : SlotSt → SlotSt) : State :=
  setSlot s cl fil (f (getSlot s cl fil))
def getClu (s : State) (cl : Nat) : Clu := Tab.get (fun _ => {}) s.clu cl
def setClu (s : State) (cl : Nat) (x : Clu) : State := s.setClu (Tab.put (fun _ => {}) s.clu cl x)
def getCtx (s : State) (id : Nat) : Ctx := Tab.get (fun _ => {}) s.ctx id
def setCtx (s : State) (id : Nat) (x : Ctx) : State := s.setCtx (Tab.put (fun _ => {}) s.ctx id x)
/-- The step number in force for a context (R59); 0 if none. -/
def ctxStep (s : State) (id : Nat) : B64 := bv 64 ((getCtx s id).force.getD 0)
def getQ (s : State) (q : Nat) : Q := Tab.get (fun _ => {}) s.que.tab q
def setQ (s : State) (q : Nat) (x : Q) : State :=
  s.setQue { s.que with tab := Tab.put (fun _ => {}) s.que.tab q x }
def getObj (s : State) (i : Nat) : SObj := Tab.get (fun _ => {}) s.syn.tab i
def setObj (s : State) (i : Nat) (x : SObj) : State :=
  s.setSyn { s.syn with tab := Tab.put (fun _ => {}) s.syn.tab i x }
def getGrp (s : State) (g : Nat) : Grp := Tab.get (fun _ => {}) s.col.groups g
def setGrp (s : State) (g : Nat) (x : Grp) : State :=
  s.setCol { s.col with groups := Tab.put (fun _ => {}) s.col.groups g x }
def getPort (s : State) (p : Nat) : Port := Tab.get (fun _ => {}) s.fab.ports p
def setPort (s : State) (p : Nat) (x : Port) : State :=
  s.setFab { s.fab with ports := Tab.put (fun _ => {}) s.fab.ports p x }
def getChv (s : State) (u : Nat) : ChvU := Tab.get (fun _ => {}) s.chv u
def setChv (s : State) (u : Nat) (x : ChvU) : State := s.setChv (Tab.put (fun _ => {}) s.chv u x)

/-- The physical ID of a logical cluster (R20). -/
def physCl (s : State) (cl : Nat) : Nat := s.fuse.lmap.getD cl 0
/-- The half of a logical cluster: physical IDs 0 to 255 are West (Table 1-2). -/
def clHalf (s : State) (cl : Nat) : Half := if physCl s cl < 256 then .west else .east
/-- The tile of a logical cluster. -/
def clTile (s : State) (cl : Nat) : Nat := physCl s cl / 64
/-- The half of a port (Table 1-2). -/
def portHalf (p : Nat) : Half := if p < 4 then .west else .east
/-- Enabled clusters of a half. -/
def halfClusters (s : State) (h : Half) : Nat :=
  ((s.fuse.lmap.take s.fuse.grade).filter fun p => if h = .west then p < 256 else 256 ≤ p).length

/-! ### Registers held as words -/

def rd32 (s : State) (o : Nat) : B32 := Tab.get regReset s.regs o
def wr32 (s : State) (o : Nat) (v : B32) : State := s.setRegs (Tab.put regReset s.regs o v)
def rd64 (s : State) (o : Nat) : B64 := (rd32 s (o + 4)) ++ (rd32 s o)
def wr64 (s : State) (o : Nat) (v : B64) : State :=
  wr32 (wr32 s o (v.extractLsb' 0 32)) (o + 4) (v.extractLsb' 32 32)
/-- Consecutive words written from offset `o` on. -/
def wrWords (s : State) (o : Nat) : List B32 → State
  | [] => s
  | v :: vs => wrWords (wr32 s o v) (o + 4) vs
/-- Bytes `[0, 4n)` of `n` consecutive register words. -/
def rdBytes (s : State) (o n : Nat) : List Byte :=
  (List.range n).flatMap fun i => leBytes 4 (rd32 s (o + 4 * i)).toNat
/-- Bytes written as consecutive register words. -/
def wrBytes (s : State) (o : Nat) (bs : List Byte) : State :=
  wrWords s o ((List.range (bs.length / 4)).map fun i => bv 32 (leNat (slice bs (4 * i) 4)))

/-! ### Time -/

/-- One beat is 2^20 ns (R16). -/
def beatNs : Nat := 2 ^ 20
def beat (s : State) : Nat := s.time.ft / beatNs
def ns (s : State) : Nat := s.time.ft

/-- A free value: an open bit pattern that nothing constrains (log entries 9 and 10). -/
def freeVal (s : State) : B64 := Config.freeBits s.free
def drawn (s : State) : State := s.setFree (s.free + 1)

/-! ### Device mode -/

/-- Fabric time runs and the SAGE image runs in both halves: the device's functions work. -/
def live (s : State) : Bool := s.pwr.on && s.boot.sage.w && s.boot.sage.e
/-- The register blocks decode: REGS of Table 13-7. -/
def regsOn (s : State) : Bool := s.pwr.on && s.boot.acc.contains 2
def hasImage (s : State) (t : Nat) : Bool := s.boot.acc.contains t
/-- FRAMES of Table 13-7. -/
def framesOn (s : State) : Bool := s.boot.trained
def ledgerOn (s : State) : Bool := regsOn s && s.time.locked
/-- FAB_ID.VALID. -/
def fabValid (s : State) : Bool := bit s.fab.id 31
def transportOn (s : State) : Bool := hasImage s 4 && fabValid s
def ownPeer (s : State) : Peer := ⟨bits s.fab.id 22 17, bits s.fab.id 16 0⟩
def latNs (s : State) : Nat := s.fab.lat * beatNs
def bothRng (s : State) : Bool := s.sec.rngOk.w && s.sec.rngOk.e

/-! ### Leadership as the blocks see it (R380, R383, R444) -/

/-- The half that leads: HOLDER while EXPIRY lies ahead, or for good after LEAD_FORCE (R386). -/
def leader (s : State) : Option Half :=
  match s.lead.holder with
  | none => none
  | some h => if s.lead.forced || decide (beat s < s.lead.expiry) then some h else none

/-- The beat by a half's own copy of fabric time, which runs on alone once its path to the spine is lost (R384). -/
def halfBeat (s : State) (h : Half) : Nat :=
  let v := s.lead.half.get h
  if v.reach then beat s else v.ft / beatNs

/-- May the leading half take a device-wide action now (R383)? -/
def mayLead (s : State) : Bool :=
  match leader s with
  | none => false
  | some h =>
    let v := s.lead.half.get h
    s.lead.forced ||
      (!v.stopped && v.mine && decide (halfBeat s h ≤ v.readBeat + 4) && decide (halfBeat s h + 1 < v.expiry))

/-- Does a half issue commands: it has not stopped for want of the spine (R384)? -/
def halfRuns (s : State) (h : Half) : Bool := !(s.lead.half.get h).stopped
/-- Does a half issue commands? -/
def someHalf (s : State) : Bool := halfRuns s .west || halfRuns s .east

/-! ### Interrupts (R432) -/

def vecMasked (s : State) (n : Nat) : Bool := bit (rd32 s (0x30000 + 16 * n + 12)) 0

/-- Vector n signalled: a message on the link, which with the link down reaches no host (R446). -/
def msiSignal (s : State) (n : Nat) : State :=
  if s.dev.linkUp then s.setDev { s.dev with msi := Tab.upd (fun _ => 0) s.dev.msi n (· + 1) } else s

/-- The source of vector n becomes pending. -/
def irq (s : State) (n : Nat) : State :=
  if bit s.dev.irqStat n then s
  else
    let s1 := s.setDev { s.dev with irqStat := s.dev.irqStat ||| bv 16 (2 ^ n) }
    if bit s.dev.irqEn n && !vecMasked s n then msiSignal s1 n else s1

/-! ### Error records (R371 to R376) -/

/-- ER_WHO, Table 11-8: cluster and slot when there is one, queue, unit, tenant, context. -/
def mkWho (cl : Option (Nat × Bool)) (q unit : Nat) (tenant : BitVec 12) (ctx : Nat) : B64 :=
  let c := match cl with
    | some (p, fil) => p * 2 ^ 55 + b2n fil * 2 ^ 54 + 2 ^ 53
    | none => 0
  bv 64 (c + (q % 2 ^ 20) * 2 ^ 32 + (unit % 256) * 2 ^ 24 + tenant.toNat * 2 ^ 12 + ctx % 2 ^ 12)

/-- ER_DEV of a device. -/
def mkDev (p : Peer) : B32 := bv 32 ((p.site % 64) * 2 ^ 17 + p.addr % 2 ^ 17)

/-- The slot of a ring that the next record takes, and whether it overwrites (R376). -/
def ringSlot (r : Ring) : Nat × Bool :=
  if 64 ≤ (r.head - r.tail).toNat then ((r.tail.toNat + 63) % 64, true) else (r.head.toNat % 64, false)

/-- Handling of a new record of severity `v` (R375): the queue and stack after it arrives, and the
UNHANDLED mark. -/
def ringHand (r : Ring) (x : Hand) : Ring × Bool :=
  if x.sev < 2 then (r, false)
  else match r.hand with
    | [] => ({ r with hand := [x] }, false)
    | c :: _ =>
      if c.sev < x.sev then
        ({ r with hand := x :: r.hand,
                  slots := Tab.upd (fun _ => {}) r.slots c.slot fun y =>
                    if y.seq = c.seq then { y with preempted := true } else y }, false)
      else if x.sev = 3 then (r, false)
      else if r.wait.length < 256 then ({ r with wait := r.wait ++ [x] }, false)
      else (r, true)

/-- A record written into a half's ring, with its handling begun or queued. -/
def ringPut (r : Ring) (x : Rec) : Ring :=
  let (i, ovw) := ringSlot r
  let (r1, un) := ringHand r ⟨x.seq, x.sev, x.scope, x.code, i⟩
  { r1 with
    slots := Tab.put (fun _ => {}) r1.slots i { x with handled := decide (x.sev < 2), unhandled := un }
    head := if ovw then r1.head else r1.head + 1
    ovf := if ovw then sat32 (r1.ovf + 1) else r1.ovf
    seq := x.seq }

/-- The record takes its number, time and half. -/
def stamp (s : State) (h : Half) (x : Rec) : Rec :=
  { x with seq := (s.err.ring.get h).seq + 1, time := ns s, half := h }

/-- A record raised in half `h` (R372, R373): frozen rings only count it (R377), and a ring runs only once the SAGE
image is accepted (R420). -/
def logRec (s : State) (h : Half) (x : Rec) : State :=
  if !s.boot.sage.get h then s
  else if s.err.ka || s.err.frozen then
    s.setErr { s.err with ring := s.err.ring.upd h fun r => { r with ovf := sat32 (r.ovf + 1) } }
  else
    let y := stamp s h x
    let s1 := s.setErr { s.err with
      ring := s.err.ring.upd h fun r => ringPut r y
      lastFatal := if x.sev = 3 then some y else s.err.lastFatal }
    if bits (rd32 s 0x18034) 1 0 ≤ x.sev then irq s1 (halfNo h) else s1

/-- A record of a spine block: the leading half's ring, both while no half leads (R372). -/
def logSpine (s : State) (x : Rec) : State :=
  match leader s with
  | some h => logRec s h x
  | none => logRec (logRec s .west x) .east x

/-- A Fatal record that arrives while a Fatal is in handling (R375). -/
def fatalInFatal (s : State) (h : Half) (sev : Nat) : Bool :=
  sev = 3 && !s.err.ka && match (s.err.ring.get h).hand with
    | c :: _ => c.sev = 3
    | [] => false

/-! ### Readiness (R436, Table 13-7) -/

/-- The bits of RDY_MAP that hold now, lowest first. -/
def rdyList (s : State) : List Bool :=
  let ka := s.err.ka
  let regs := regsOn s
  let eng := hasImage s 5
  let fr := framesOn s
  let led := ledgerOn s
  let tr := transportOn s
  let ports := (List.range 8).map fun p => (getPort s p).st == 2 || (getPort s p).st == 3
  let cipher := regs && bothRng s
  let sess := hasImage s 6 && tr && s.time.locked && cipher
  [s.boot.opened && !s.boot.done,
   s.boot.sage.w && !s.lead.half.w.stopped, s.boot.sage.e && !s.lead.half.e.stopped,
   (leader s).isSome, regs, s.time.locked, led, eng,
   fr, fr, fr, fr, fr,
   fr && led && !ka, fr && led && !ka, fr && regs && !ka] ++ ports ++
  [tr, eng && fr && tr && s.time.locked && !ka, eng && fr && !ka, eng && fr && tr,
   eng && fr && !ka, cipher, hasImage s 6, sess, sess && eng && fr && s.sx.en && !ka, regs,
   fr && bit (rd32 s 0x10028) 8, regs && !ka, regs && !ka,
   decide (s.frm.scrub.w = 472480) && decide (s.frm.scrub.e = 472480)]

def rdyBits (s : State) : B64 :=
  bv 64 ((rdyList s).zipIdx.foldl (fun a b => a + b2n b.1 * 2 ^ b.2) 0)

def rdyBit (s : State) (n : Nat) : Bool := bit s.dev.rdy n

/-- RDY_MAP brought up to date: RDY_CHG, vector 2, and RDY_LOST for each bit that cleared. -/
def refreshRdy (s : State) : State :=
  let new := rdyBits s
  if new = s.dev.rdy then s
  else
    let gone := (List.range 64).filter fun n => bit s.dev.rdy n && !bit new n
    let s1 := s.setDev { s.dev with rdy := new, rdyChg := sat32 (s.dev.rdyChg + 1) }
    let s2 := irq s1 2
    gone.foldl (fun st n => logSpine st { code := 0x0C05, data0 := bv 64 n }) s2

/-! ### Command blocks -/

def Blk.idx : Blk → Nat
  | .memory => 0 | .context => 1 | .queue => 2 | .sync => 3 | .update => 4 | .collective => 5
  | .fabric => 6 | .resilience => 7 | .hkey => 8

def getBlk (s : State) (b : Blk) : BlkStat := Tab.get (fun _ => {}) s.blk b.idx
def setBlk (s : State) (b : Blk) (x : BlkStat) : State := s.setBlk (Tab.put (fun _ => {}) s.blk b.idx x)

/-- RESULT written without anything else changing. -/
def report (b : Blk) (code : Nat) (s : State) : State := setBlk s b { getBlk s b with result := code }

/-- A command of block `b` completes with a RESULT; vectors 8 to 15 are the blocks' (Table 13-5). -/
def finish (b : Blk) (code : Nat) (s : State) : State :=
  let s1 := setBlk s b { getBlk s b with busy := false, result := code, img := none }
  if b.idx < 8 then irq s1 (8 + b.idx) else s1

/-- A command of block `b` goes on: BUSY. -/
def busy (b : Blk) (s : State) : State := setBlk s b { getBlk s b with busy := true }

/-- The block's register of more than 64 bits: CTX_IMG, COLL_IMG or HKEY_DATA, by offset and number of words. -/
def Blk.img : Blk → Nat × Nat
  | .context => (0x11008, 16)
  | .collective => (0x16008, 16)
  | .hkey => (0x1C080, 8)
  | _ => (0, 0)

/-- That register as a block's command reads it: as it stood when the command register was written (R430). -/
def imgOf (s : State) (b : Blk) : List Byte := (getBlk s b).img.getD (rdBytes s b.img.1 b.img.2)

/-- A command of block `b` waits for a leader: BUSY. -/
def hold (b : Blk) (c : Instr) (s : State) : State :=
  setBlk (s.setHeld (s.held ++ [c])) b { getBlk s b with busy := true, img := some (imgOf s b) }

/-- The RDY_MAP bit whose 0 refuses the block's commands (R436, log entry 15). -/
def Blk.rdy : Blk → Nat
  | .memory => 12 | .context => 13 | .queue => 14 | .sync => 15 | .update => 26
  | .collective => 25 | .fabric => 4 | .resilience => 27 | .hkey => 29

/-- The block whose command register stands at an offset, does keep-alive mode take all its commands, and the RESULT of a
malformed command. -/
def cmdReg (o : Nat) : Option (Blk × Bool × Nat) :=
  match o with
  | 0x10000 => some (.memory, false, 4) | 0x11000 => some (.context, false, 3) | 0x12000 => some (.queue, false, 3)
  | 0x14000 => some (.sync, false, 3) | 0x15000 => some (.update, false, 1) | 0x16000 => some (.collective, false, 3)
  | 0x17008 => some (.fabric, true, 3) | 0x18000 => some (.resilience, false, 3) | 0x1C070 => some (.hkey, false, 3)
  | _ => none

/-- A CREATE for which nothing but the ledger is missing is tested in the order of R183, which has the ledger last. -/
def createEarly (s : State) (c : Instr) : Bool := match c with
  | .ctxCreate _ => framesOn s && !ledgerOn s
  | _ => false

/-- What every register command meets before its own effect: a block that does not decode ignores
it; keep-alive mode refuses it with 0xFD unless `ka` (R445); a block not ready reports 0xFC (R436), but
for CREATE, which tests the ledger itself; a BUSY block reports 0x05; without a leader it stays BUSY (R444). -/
def blockCmd (b : Blk) (ka : Bool) (c : Instr) (s : State) (body : State → State) : Out :=
  if !regsOn s then .next s
  else if (getBlk s b).busy then .next (report b 5 s)
  else if s.err.ka && !ka then .next (report b 0xFD s)
  else if !s.err.ka && !rdyBit s b.rdy && !createEarly s c then .next (report b 0xFC s)
  else if !mayLead s then .next (hold b c s)
  else .next (body s)

end Sys2Proof.Machine
end

