-- ==== Sys2Proof/Machine/MemOps.lean ====
section
/-!
DEFINITION. Memory: the device physical address map (Table 5-1), frames and their owners (R148),
bytes and poison (R158 to R160), scratch (R84, R111) and translation (R152 to R156).
-/

namespace Sys2Proof.Machine

/-! ### The device physical address map (R147) -/

def hbmFrames : Nat := 380928
def rsFrames : Nat := 91552
/-- Frames of a half: HBM, then replay store. -/
def halfFrames : Nat := 472480
def frameBytes : Nat := 2 ^ 21
def westHbm : Nat := 0
def eastHbm : Nat := 0x010000000000
def westRs : Nat := 0x020000000000
def eastRs : Nat := 0x024000000000
def hostBase : Nat := 0x800000000000
/-- Bytes of HBM of a half, device region included. -/
def hbmBytes : Nat := 0xBA43B74000
/-- Bytes of a replay store bank, bank tables included. -/
def rsBytes : Nat := 0x2CB4178000

/-- The ownership-table number of the frame that holds an address, if a frame does. -/
def frameOf (pa : Nat) : Option Nat :=
  if pa < westHbm + hbmFrames * frameBytes then some (pa / frameBytes)
  else if eastHbm ≤ pa ∧ pa < eastHbm + hbmFrames * frameBytes then
    some (halfFrames + (pa - eastHbm) / frameBytes)
  else if westRs ≤ pa ∧ pa < westRs + rsFrames * frameBytes then
    some (hbmFrames + (pa - westRs) / frameBytes)
  else if eastRs ≤ pa ∧ pa < eastRs + rsFrames * frameBytes then
    some (halfFrames + hbmFrames + (pa - eastRs) / frameBytes)
  else none

/-- The first address of a frame. -/
def framePa (k : Nat) : Nat :=
  let h := k / halfFrames
  let i := k % halfFrames
  if i < hbmFrames then (if h = 0 then westHbm else eastHbm) + i * frameBytes
  else (if h = 0 then westRs else eastRs) + (i - hbmFrames) * frameBytes

def frameHalf (k : Nat) : Half := halfOf (k / halfFrames)
def frameIsRs (k : Nat) : Bool := decide (hbmFrames ≤ k % halfFrames)

/-- Is the address in the host window? -/
def inHost (pa : Nat) : Bool := decide (hostBase ≤ pa) && decide (pa < 2 ^ 48)

/-- Does memory stand behind the address: frames, device regions, bank tables, host window? -/
def populated (pa : Nat) : Bool :=
  decide (pa < hbmBytes) || (decide (eastHbm ≤ pa) && decide (pa < eastHbm + hbmBytes)) ||
  (decide (westRs ≤ pa) && decide (pa < westRs + rsBytes)) ||
  (decide (eastRs ≤ pa) && decide (pa < eastRs + rsBytes)) || inHost pa

/-- The half whose memory holds an address; host window addresses have none. -/
def paHalf (pa : Nat) : Option Half :=
  if inHost pa then none
  else if pa < eastHbm then some .west
  else if pa < westRs then some .east
  else if pa < eastRs then some .west else some .east

/-- HDM offset to device physical address (R426). -/
def hdmPa (x : Nat) : Nat := if x < 0xBA00000000 then x else eastHbm + (x - 0xBA00000000)
/-- Bytes that the HDM decoder presents (R426). -/
def hdmSize : Nat := 1597727834112

/-! ### Frame ownership (R148) -/

inductive FKind where
  | free | tenant | ptable | device | scrub | retired | reserved
deriving DecidableEq, Repr

def FKind.code : FKind → Nat
  | .free => 0 | .tenant => 1 | .ptable => 2 | .device => 3 | .scrub => 4 | .retired => 5
  | .reserved => 6

def FKind.ofCode (n : Nat) : FKind :=
  if n = 0 then .free else if n = 1 then .tenant else if n = 2 then .ptable
  else if n = 3 then .device else if n = 4 then .scrub else if n = 5 then .retired else .reserved

/-- An ownership entry: KIND in [15:13], TENANT in [11:0]. -/
def mkEntry (k : FKind) (t : BitVec 12) : B16 := bv 16 (k.code * 2 ^ 13 + t.toNat)

/-- Does a span list hold a number? -/
def inSpans (l : List (Nat × Nat)) (i : Nat) : Bool := l.any fun x => decide (x.1 ≤ i) && decide (i < x.2)
/-- How many numbers disjoint spans hold. -/
def spanSize (l : List (Nat × Nat)) : Nat := (l.map fun x => x.2 - x.1).sum
/-- Spans without one number. -/
def spanDel (l : List (Nat × Nat)) (i : Nat) : List (Nat × Nat) :=
  l.flatMap fun x => if x.1 ≤ i ∧ i < x.2 then [(x.1, i), (i + 1, x.2)].filter (fun y => decide (y.1 < y.2)) else [x]

/-- Spans with one number more. -/
def spanAdd (l : List (Nat × Nat)) (i : Nat) : List (Nat × Nat) :=
  if inSpans l i then l
  else if l.any fun x => x.2 == i then l.map fun x => if x.2 = i then (x.1, i + 1) else x
  else l ++ [(i, i + 1)]
/-- Spans without the numbers of one span. -/
def spanCut (l : List (Nat × Nat)) (c : Nat × Nat) : List (Nat × Nat) :=
  l.flatMap fun x => [(x.1, min x.2 c.1), (max x.1 c.2, x.2)].filter fun y => decide (y.1 < y.2)

/-- The ownership entry of a frame.  A frame that the scrub after a reset has not reached is in SCRUB (R439); a
replay-store frame of a released journal region is until it is scrubbed, and one of the region is DEVICE (R164). -/
def frmEntry (s : State) (k : Nat) : B16 :=
  let h := frameHalf k
  let v := Tab.get (fun _ => 0) s.frm.tab k
  if s.frm.scrub.get h ≤ k % halfFrames then mkEntry .scrub 0
  else if v ≠ 0 ∨ !frameIsRs k then v
  else if inSpans (s.frm.jscr.get h) (k % halfFrames - hbmFrames) then mkEntry .scrub 0
  else if inSpans (s.frm.jreg.get h) (k % halfFrames - hbmFrames) then mkEntry .device 0
  else v

def frmKind (s : State) (k : Nat) : FKind := FKind.ofCode (bits (frmEntry s k) 15 13)
def frmTenant (s : State) (k : Nat) : BitVec 12 := bv 12 (bits (frmEntry s k) 11 0)

def setFrm (s : State) (k : Nat) (v : B16) : State :=
  s.setFrm { s.frm with tab := Tab.put (fun _ => 0) s.frm.tab k v }

/-- Is the frame that holds `pa` of kind `kd`, owned by `t`? -/
def ownedBy (s : State) (pa : Nat) (kd : FKind) (t : BitVec 12) : Bool :=
  match frameOf pa with
  | some k => decide (frmKind s k = kd) && decide (frmTenant s k = t)
  | none => false

/-- Frames of one kind and tenant among the entries listed, HBM or replay store. -/
def countFrames (s : State) (rs : Bool) (t : BitVec 12) : Nat :=
  (s.frm.tab.filter fun e =>
    frameIsRs e.1 == rs && (frmKind s e.1 = .tenant || frmKind s e.1 = .ptable) &&
      decide (frmTenant s e.1 = t)).length

/-! ### Bytes and poison -/

def memByte (s : State) (pa : Nat) : Byte := Tab.get (fun _ => 0) s.mem.phys pa
def readMem (s : State) (pa n : Nat) : List Byte := Tab.getMany (fun _ => 0) s.mem.phys pa n

/-- Lines that a range touches. -/
def linesOf (pa n : Nat) : List Nat :=
  if n = 0 then [] else (List.range ((pa + n - 1) / 64 - pa / 64 + 1)).map (pa / 64 + ·)

def lineErr (s : State) (l : Nat) : LineErr := Tab.get (fun _ => {}) s.mem.lineErr l

/-- The 33 symbols of a line that the check symbols protect: data, little-endian, and the metadata symbol with POISON in
bit [0] (R158). -/
def lineSyms (s : State) (l : Nat) : List B16 :=
  ((List.range 32).map fun i => bv 16 (leNat (readMem s (64 * l + 2 * i) 2))) ++
    [if Tab.get (fun _ => false) s.mem.poison l then 1 else 0]

/-- The codeword stored for a line: its symbols and the check symbols of the Reed–Solomon code over GF(2^16), whose
generator the spec does not give (log entry 84). -/
def lineWord (s : State) (l : Nat) : List B16 :=
  let c := Config.rsCheck (lineSyms s l)
  lineSyms s l ++ [c.1, c.2.1, c.2.2]

/-- A line that returns no data: POISON is 1, or two symbols are in error, which the code only detects (R158 to R160). -/
def lineBad (s : State) (l : Nat) : Bool :=
  Tab.get (fun _ => false) s.mem.poison l || decide (2 ≤ (lineErr s l).syms.length)

def poisoned (s : State) (pa n : Nat) : Bool := (linesOf pa n).any (lineBad s)


/-- Lines that the host may hold, without those of `[pa, pa + n)`: each is invalidated at the host before a unit of the device
writes it (R426). -/
def backInvalidate (l : List Nat) (pa n : Nat) : List Nat :=
  l.filter fun x => decide (64 * x + 64 ≤ pa) || decide (pa + n ≤ 64 * x)

/-- Bytes written to memory: a line written whole is stored with valid check symbols and without POISON (R160); one
written in part keeps its POISON, for the rest of it cannot be read (log entry 85). -/
def writeMem (s : State) (pa : Nat) (bs : List Byte) : State :=
  s.setMem { s.mem with
    phys := Tab.putMany (fun _ => 0) s.mem.phys pa bs
    hostLines := backInvalidate s.mem.hostLines pa bs.length
    poison := Tab.clear s.mem.poison ((pa + 63) / 64) ((pa + bs.length) / 64 - (pa + 63) / 64)
    lineErr := Tab.clear s.mem.lineErr ((pa + 63) / 64) ((pa + bs.length) / 64 - (pa + 63) / 64) }

def readNat (s : State) (pa n : Nat) : Nat := leNat (readMem s pa n)

/-- A line marked uncorrectable (R159). -/
def poisonLine (s : State) (pa : Nat) : State :=
  s.setMem { s.mem with poison := Tab.put (fun _ => false) s.mem.poison (pa / 64) true }

/-- The bytes and poison of `[pa, pa + n)` zeroed with valid check symbols (R150). -/
def zeroMem (s : State) (pa n : Nat) : State :=
  s.setMem { s.mem with
    phys := Tab.clear s.mem.phys pa n, hostLines := backInvalidate s.mem.hostLines pa n, poison := Tab.clear s.mem.poison (pa / 64) (n / 64)
    lineErr := Tab.clear s.mem.lineErr (pa / 64) (n / 64) }

/-! ### What reads of lines find (R159, R161, Table 5-5) -/

/-- The patrol unit of a line: its stack, or 20 and 21 for the banks; and ER_WHO.unit (R159). -/
def lineUnit (pa stack : Nat) : Nat × Nat :=
  if pa < westRs then (stack, stack) else if pa < eastRs then (20, 0) else (21, 1)

/-- A record about a line; UE records name the owner and kind of the frame. -/
def lineRec (s : State) (code sev pa stack : Nat) : State :=
  let rs := decide (westRs ≤ pa)
  let (t, k) := match frameOf pa with
    | some f => (frmTenant s f, (frmKind s f).code)
    | none => (0, FKind.device.code)
  logRec s ((paHalf pa).getD .west)
    { code := code + (if rs then 2 else 0), sev := sev, scope := 7,
      who := mkWho none 0 (lineUnit pa stack).2 (if sev = 1 then 0 else t) 0, addr := bv 64 pa
      data0 := if sev = 1 then 0 else bv 64 k }

/-- A patrol period that is over begins anew: corrections of frames are counted from 0 (R161). -/
def patRoll (s : State) : State :=
  if s.frm.patStart + 2 ^ bits (rd32 s 0x10028) 5 0 ≤ beat s then
    s.setFrm { s.frm with frameCe := [], patStart := beat s }
  else s

/-- A correction counted for its frame: the sixteenth of a patrol period is RETIRE_ADVICE (R161). -/
def frameCount (st : State) (pa : Nat) : State :=
  let s := patRoll st
  match frameOf pa with
  | none => s
  | some f =>
    let n := Tab.get (fun _ => 0) s.frm.frameCe f + 1
    let s1 := s.setFrm { s.frm with frameCe := Tab.put (fun _ => 0) s.frm.frameCe f n }
    if n = 16 then
      logRec s1 (frameHalf f) { code := 0x0206, sev := 0, scope := 7, who := mkWho none 0 0 (frmTenant s f) 0,
                                addr := bv 64 (framePa f) }
    else s1

/-- What a read found takes effect: a correction is counted and recorded at most once per unit and
beat; an uncorrectable line is poisoned and recorded. -/
def meetLine (s : State) : LineRead → State
  | .clean => s
  | .corrected pa stack =>
    let u := (lineUnit pa stack).1
    let s1 := s.setFrm { s.frm with eccCe := sat32 (s.frm.eccCe + 1) }
    let seen := Tab.get (fun _ => 0) s.frm.ceBeat u == beat s + 1
    let s2 := s1.setFrm { s1.frm with ceBeat := Tab.put (fun _ => 0) s1.frm.ceBeat u (beat s + 1) }
    let s3 := if seen then s2 else lineRec s2 0x0201 1 pa stack
    frameCount s3 pa
  | .bad pa stack =>
    let s1 := poisonLine (s.setFrm { s.frm with eccUe := sat32 (s.frm.eccUe + 1) }) pa
    lineRec s1 0x0202 2 pa stack

/-- An error of a line that no read has found yet: one symbol of a line that a read can correct, two of one that it
cannot (R158). -/
def injectLine (s : State) : LineRead → State
  | .clean => s
  | .corrected pa u => s.setMem { s.mem with lineErr := Tab.put (fun _ => {}) s.mem.lineErr (pa / 64) ⟨[0], u⟩ }
  | .bad pa u => s.setMem { s.mem with lineErr := Tab.put (fun _ => {}) s.mem.lineErr (pa / 64) ⟨[0, 1], u⟩ }

/-- A line is read: one symbol in error is corrected and written back, two make the line poisoned (R159). -/
def readLine (s : State) (l : Nat) : State :=
  let e := lineErr s l
  if e.syms = [] then s
  else
    let s1 := s.setMem { s.mem with lineErr := Tab.put (fun _ => {}) s.mem.lineErr l {} }
    meetLine s1 (if e.syms.length = 1 then .corrected (64 * l) e.unit else .bad (64 * l) e.unit)

/-- Every line of a range is read. -/
def meetRange (s : State) (pa n : Nat) : State :=
  if s.mem.lineErr = [] then s else (linesOf pa n).foldl readLine s

/-! ### Scratch (R84, R111) -/

def scrBytes : Nat := 2 ^ 23

/-- A slot's part of the scratch: first offset and size; the primary slot's is the whole while no filler is bound. -/
def slotPart (s : State) (cl : Nat) (fil : Bool) : Nat × Nat :=
  let p := (getClu s cl).priMib * 2 ^ 20
  if fil then (p, scrBytes - p) else if (getSlot s cl true).ctx.isSome then (0, p) else (0, scrBytes)

def scrRead (s : State) (cl off n : Nat) : List Byte :=
  Tab.getMany (fun _ => 0) s.mem.scr (cl * scrBytes + off) n

/-- The 8-byte words of the cluster that a range touches. -/
def scrWords (off n : Nat) : List Nat :=
  if n = 0 then [] else (List.range ((off + n - 1) / 8 - off / 8 + 1)).map (off / 8 + ·)

def scrBad (s : State) (cl off n : Nat) : Bool :=
  (scrWords off n).any fun w => Tab.get (fun _ => false) s.mem.scrPoison (cl * 2 ^ 20 + w)

/-- Words that a write covers only in part. -/
def scrPartBad (s : State) (cl off n : Nat) : Bool :=
  (scrWords off n).any fun w =>
    (decide (8 * w < off) || decide (off + n < 8 * w + 8)) &&
      Tab.get (fun _ => false) s.mem.scrPoison (cl * 2 ^ 20 + w)

/-- Bytes written to scratch; words covered whole take a valid code. -/
def scrWrite (s : State) (cl off : Nat) (bs : List Byte) : State :=
  s.setMem { s.mem with
    scr := Tab.putMany (fun _ => 0) s.mem.scr (cl * scrBytes + off) bs
    scrPoison := (scrWords off bs.length).foldl
      (fun t w => if 8 * w < off ∨ off + bs.length < 8 * w + 8 then t
        else Tab.put (fun _ => false) t (cl * 2 ^ 20 + w) false) s.mem.scrPoison
    scrErr := (scrWords off bs.length).foldl
      (fun t w => if 8 * w < off ∨ off + bs.length < 8 * w + 8 then t
        else Tab.put (fun _ => 0) t (cl * 2 ^ 20 + w) 0) s.mem.scrErr }

/-- A slot's part of the scratch zeroed (R151). -/
def scrZero (s : State) (cl : Nat) (fil : Bool) : State :=
  let (b, n) := slotPart s cl fil
  s.setMem { s.mem with
    scr := Tab.clear s.mem.scr (cl * scrBytes + b) n
    scrPoison := Tab.clear s.mem.scrPoison (cl * 2 ^ 20 + b / 8) (n / 8)
    scrErr := Tab.clear s.mem.scrErr (cl * 2 ^ 20 + b / 8) (n / 8) }

/-! ### Translation (R152 to R156) -/

/-- What an address translation found. -/
inductive XRes where
  /-- the physical address -/
  | ok (pa : Nat)
  /-- no translation: level, the entry's physical address, and is PT_FAULT raised (R154) -/
  | miss (level pte : Nat) (pt : Bool)
deriving DecidableEq, Repr

/-- Does a page-table entry break R153 at its level? -/
def pteBad (e : B64) (lv : Nat) : Bool :=
  let a := bits e 51 12
  let leaf := bit e 2
  decide (bits e 63 56 ≠ 0) || decide (bits e 11 6 ≠ 0) || bit e 1 || decide (bits e 51 48 ≠ 0) ||
  (bit e 4 && !bit e 3) || (lv == 3 && leaf) || (lv == 0 && !leaf) ||
  (leaf && decide (a * 4096 % (if lv = 2 then 2 ^ 30 else if lv = 1 then 2 ^ 21 else 4096) ≠ 0))

def pageSize (lv : Nat) : Nat := if lv = 2 then 2 ^ 30 else if lv = 1 then 2 ^ 21 else 4096

/-- Is a leaf's page acceptable to the context (R154)? -/
def leafOk (s : State) (c : Ctx) (pa lv : Nat) : Bool :=
  if inHost pa then c.hostMem && decide (pa + pageSize lv ≤ 2 ^ 48)
  else (List.range (if lv = 2 then 512 else 1)).all fun i => ownedBy s (pa + i * frameBytes) .tenant c.tenant

/-- What one level of a walk leads to: an end, or the next table. -/
inductive WStep where
  | stop (x : XRes) (t : Option TlbE)
  | down (base : Nat)
deriving DecidableEq, Repr

/-- One level of the walk of R152 to R154: the entry of `va` in the table at `base`. -/
def walkAt (s : State) (id : Nat) (c : Ctx) (va lv base : Nat) : WStep :=
  let idx := if lv = 3 then va / 2 ^ 39 % 8192 else va / 2 ^ (12 + 9 * lv) % 512
  let p := base + 8 * idx
  if !ownedBy s p .ptable c.tenant then .stop (.miss lv p true) none
  else if poisoned s p 8 then .stop (.miss lv p true) none
  else
    let e := bv 64 (readNat s p 8)
    let a := bits e 51 12 * 4096
    if !bit e 0 then .stop (.miss lv p false) none
    else if pteBad e lv then .stop (.miss lv p true) none
    else if !bit e 2 then .down a
    else if leafOk s c a lv then
      .stop (.ok (a + va % pageSize lv))
        (some ⟨id, c.fil, 0, va / pageSize lv * pageSize lv, pageSize lv, a, bit e 3, bit e 4, bit e 5⟩)
    else .stop (.miss lv p true) none

/-- The walk from level `lv` down. -/
def walk (s : State) (id : Nat) (c : Ctx) (va : Nat) : Nat → Nat → XRes × Option TlbE
  | 0, base =>
    match walkAt s id c va 0 base with
    | .stop x t => (x, t)
    | .down b => (.miss 0 b true, none)
  | lv + 1, base =>
    match walkAt s id c va (lv + 1) base with
    | .stop x t => (x, t)
    | .down b => walk s id c va lv b

/-- Does a leaf permit the access (R155)? -/
def TlbE.allows (t : TlbE) : Acc → Bool
  | .fetch => t.x
  | .read => t.r
  | .write => t.r && t.w

/-- Does a TLB entry cover an address of a context? -/
def TlbE.hits (t : TlbE) (id va : Nat) : Bool := t.ctx == id && decide (t.va ≤ va) && decide (va < t.va + t.size)

/-- The entry that a slot's access uses: its first-level TLB's, else its tile's shared TLB's (R156). -/
def tlbFind (s : State) (cl : Nat) (fil : Bool) (id va : Nat) : Option TlbE :=
  match (Tab.get (fun _ => []) s.mmu.l1 (slotKey cl fil)).find? (·.hits id va) with
  | some t => some t
  | none => s.mmu.tlb.find? fun t => t.tile == clTile s cl && t.hits id va

/-- Translation of a device virtual address for a context.  A slot's access uses a TLB entry when there is one (it may be
an old one until an invalidation completes, R157). -/
def xlate (s : State) (via : Option (Nat × Bool)) (id va : Nat) (a : Acc) : XRes :=
  if 2 ^ 52 ≤ va then .miss 3 0 false
  else match via.bind fun x => tlbFind s x.1 x.2 id va with
  | some t => if t.allows a then .ok (t.pa + (va - t.va)) else .miss 0 0 false
  | none =>
    match walk s id (getCtx s id) va 3 (getCtx s id).root with
    | (.ok pa, some t) => if t.allows a then .ok pa else .miss 0 0 false
    | (.ok pa, none) => .ok pa
    | (.miss l p b, _) => .miss l p b

/-- Does an engine's access of `[va, va + n)` in a context reach the host window, whose requests wait while the link is down
(R433)? -/
def hostVa (s : State) (id va n : Nat) (a : Acc) : Bool :=
  (List.range (n / 4096 + 1)).any fun i => match xlate s none id (va + 4096 * i) a with
    | .ok pa => inHost pa
    | .miss _ _ _ => false

/-- Why an engine could not reach memory: a translation fault, a poisoned line, a word of SCRATCH that cannot be read. -/
inductive VErr where
  | trans (va level pte : Nat) (pt : Bool)
  | poison (va pa : Nat)
  | scr (off : Nat)
deriving DecidableEq, Repr

/-- A virtual range cut at 4 KiB boundaries: address and length of each piece. -/
def pieces (va n : Nat) : List (Nat × Nat) :=
  ((List.range ((4095 + (n + va % 4096)) / 4096)).map fun i =>
    let lo := max va ((va / 4096 + i) * 4096)
    let hi := min (va + n) ((va / 4096 + i + 1) * 4096)
    (lo, hi - lo)).filter fun p => p.2 ≠ 0

/-- Bytes read through a context's translation, up to the first error. -/
def readVaGo (s : State) (via : Option (Nat × Bool)) (id : Nat) : List (Nat × Nat) → List Byte × Option VErr
  | [] => ([], none)
  | (va, n) :: ps =>
    match xlate s via id va .read with
    | .miss l p b => ([], some (.trans va l p b))
    | .ok pa =>
      match (linesOf pa n).find? (lineBad s) with
      | some l => ([], some (.poison va (64 * l)))
      | none =>
        let (r, e) := readVaGo s via id ps
        (readMem s pa n ++ r, e)

def readVa (s : State) (via : Option (Nat × Bool)) (id va n : Nat) : List Byte × Option VErr :=
  readVaGo s via id (pieces va n)

/-- Bytes written through a context's translation; writes before an error stand (R143). -/
def writeVaGo (via : Option (Nat × Bool)) (id : Nat) : List (Nat × Nat) → List Byte → State → State × Option VErr
  | [], _, s => (s, none)
  | (va, n) :: ps, bs, s =>
    match xlate s via id va .write with
    | .miss l p b => (s, some (.trans va l p b))
    | .ok pa => writeVaGo via id ps (bs.drop n) (writeMem s pa (bs.take n))

def writeVa (s : State) (via : Option (Nat × Bool)) (id va : Nat) (bs : List Byte) : State × Option VErr :=
  writeVaGo via id (pieces va bs.length) bs s

/-- A little-endian number of `n` bytes at a virtual address; 0 where it cannot be read. -/
def vaNat (s : State) (id va n : Nat) : Nat := leNat (readVa s none id va n).1

def VErr.va : VErr → Nat
  | .trans va _ _ _ => va
  | .poison va _ => va
  | .scr off => off

/-- What a read that failed leaves: PT_FAULT of a failed walk (R154), which names the context, the level and the entry's
address; a line found uncorrectable is poisoned and recorded (R159). -/
def logPt (s : State) (id : Nat) (e : VErr) : State :=
  match e with
  | .trans _ l p true =>
    logRec (readLine s (p / 64)) ((paHalf p).getD .west)
      { code := 0x0207, sev := 2, scope := 3, who := mkWho none 0 0 (getCtx s id).tenant id,
        step := ctxStep s id, job := (getCtx s id).job, addr := bv 64 p, data0 := bv 64 l }
  | .poison _ pa => readLine s (pa / 64)
  | _ => s

/-- Bytes written by an engine through a context's translation; a walk that fails is recorded (R154). -/
def storeVa (s : State) (id va : Nat) (bs : List Byte) : State :=
  match writeVa s none id va bs with
  | (t, some e) => logPt t id e
  | (t, none) => t

/-- The number written where it can be. -/
def setVaNat (s : State) (id va n x : Nat) : State := storeVa s id va (leBytes n x)

/-- A line stored with valid check symbols: no error, no POISON. -/
def cleanLines (s : State) (pa n : Nat) : State :=
  let k := (pa + n + 63) / 64 - pa / 64
  s.setMem { s.mem with
    poison := Tab.clear s.mem.poison (pa / 64) k, lineErr := Tab.clear s.mem.lineErr (pa / 64) k }

/-- The lines of a virtual range are read, up to the first that cannot be reached: corrections are counted (R159). -/
def meetVa (s : State) (via : Option (Nat × Bool)) (id va n : Nat) : State :=
  if s.mem.lineErr = [] then s
  else (pieces va n).foldl (fun st p => match xlate st via id p.1 .read with
    | .ok pa => meetRange st pa p.2
    | .miss _ _ _ => st) s

/-- A virtual range read by an engine: what its lines hold is met first (R159), then the bytes up to the first error. -/
def loadVa (s : State) (id va n : Nat) : State × List Byte × Option VErr :=
  let s1 := meetVa s none id va n
  (s1, readVa s1 none id va n)

end Sys2Proof.Machine
end

