-- ==== Sys2Proof/Machine/Sign.lean ====
section
/-!
DEFINITION. The device's signing keys (R399, R400) and the dual signatures that it makes (R391, R392).  The algorithms
are outside standards, opaque in Config (log entry 8).
-/

namespace Sys2Proof.Machine

/-- The seeds of a signing key pair: Ed25519 and ML-DSA-65. -/
structure KeyPair where
  ed : BitVec 256
  ml : BitVec 256
deriving DecidableEq, Repr

/-- be32 of R399. -/
def be32 (n : Nat) : List Byte := (leBytes 4 n).reverse

/-- The counter-mode KDF of R399 for L = 256: k[1] ‖ k[2]. -/
def kdf (key : BitVec 256) (label context : List Byte) : BitVec 256 :=
  let k (i : Nat) : B128 := Config.cmac key (be32 i ++ label ++ [0] ++ context ++ be32 256)
  k 1 ++ k 2

/-- The copy of the fuses in a half's key vault (R388). -/
def fuseOf (s : State) (h : Half) : Fuse := match h with | .west => s.fuse | .east => s.fuseE

/-- The UDS as a vault reads it, and the check value beside it. -/
def Fuse.uds (f : Fuse) : BitVec 256 := Config.uds ^^^ f.udsFlip
def Fuse.udsCheck (f : Fuse) : B64 := Config.udsCheck Config.uds ^^^ f.checkFlip

/-- Does a vault's UDS copy agree with the check value beside it?  It does where both read as they were fused. -/
def Fuse.udsOk (f : Fuse) : Bool :=
  (f.udsFlip == 0 && f.checkFlip == 0) || decide (Config.udsCheck f.uds = f.udsCheck)

/-- The comparison of the two fuse copies, UDS and its check value excepted, and each vault's check of its own UDS (R389). -/
def fusesAgree (s : State) : Bool :=
  decide ({ s.fuse with udsFlip := 0, checkFlip := 0 } = { s.fuseE with udsFlip := 0, checkFlip := 0 }) && s.fuse.udsOk && s.fuseE.udsOk

/-- The half whose key vault serves a device-wide request: the leading one, else one that is healthy. -/
def vaultHalf (s : State) : Half :=
  match leader s with
  | some h => if s.sec.rngOk.get h then h else otherHalf h
  | none => if s.sec.rngOk.w then .west else .east

/-- Is that vault healthy: does any half's cryptography still work (R390)? -/
def vaultOk (s : State) : Bool := s.sec.rngOk.get (vaultHalf s)

/-- A key pair derived from the UDS of the serving vault by the labels `l`-ED and `l`-ML of Table 12-5. -/
def derived (s : State) (l context : List Byte) : KeyPair :=
  let uds := (fuseOf s (vaultHalf s)).uds
  { ed := kdf uds (l ++ [0x2D, 0x45, 0x44]) context, ml := kdf uds (l ++ [0x2D, 0x4D, 0x4C]) context }

/-- MR_FW as the context of a derivation. -/
def fwContext (s : State) : List Byte := leBytes 64 s.boot.mrFw.toNat

/-- The identity key (IDK-ED, IDK-ML), the alias key (AK-ED, AK-ML) and the ledger key (LK-ED, LK-ML). -/
def idKey (s : State) : KeyPair := derived s [0x49, 0x44, 0x4B] []
def aliasKey (s : State) : KeyPair := derived s [0x41, 0x4B] (fwContext s)
def ledgerKey (s : State) : KeyPair := derived s [0x4C, 0x4B] (fwContext s)

/-- The public halves: Ed25519, then ML-DSA-65; 1,984 bytes. -/
def KeyPair.publics (k : KeyPair) : List Byte :=
  leBytes 32 (Config.edPublic k.ed).toNat ++ leBytes 1952 (Config.mlPublic k.ml).toNat

/-- The key ID of a pair. -/
def KeyPair.id (k : KeyPair) : B512 := Config.sha512 k.publics

/-- Bytes 0x000 to 0x04F of the structure, Table 12-2: version 1, ALG 0x01, the domain, the length of the body, the key ID. -/
def dsHead (k : KeyPair) (domain : Nat) (body : List Byte) : List Byte :=
  leBytes 4 (2 ^ 16 + 2 ^ 8) ++ leBytes 4 domain ++ leBytes 4 body.length ++ leBytes 4 0 ++ leBytes 64 k.id.toNat

/-- M, the message that both algorithms sign: 144 bytes. -/
def dsMessage (k : KeyPair) (domain : Nat) (body : List Byte) : List Byte :=
  dsHead k domain body ++ leBytes 64 (Config.sha512 body).toNat

/-- The dual signature structure over a body, 4,096 bytes; `rnd` hedges ML-DSA-65. -/
def dualSign (k : KeyPair) (domain : Nat) (rnd : BitVec 256) (body : List Byte) : List Byte :=
  let m := dsMessage k domain body
  dsHead k domain body ++ leBytes 64 (Config.edSign k.ed m).toNat ++ leBytes 3309 (Config.mlSign k.ml rnd m).toNat ++
    List.replicate 643 0

/-- Conditions 1 to 3 of R393 on a structure: version 1 and ALG 0x01, the domain, the length of the body. -/
def dsFits (b : List Byte) (domain len : Nat) : Bool :=
  leNat (slice b 0 4) / 2 ^ 8 == 0x101 && leNat (slice b 4 4) % 2 ^ 8 == domain && leNat (slice b 8 4) == len

/-- Does a dual signature structure verify over a body with a key pair's public halves, under a domain: the six conditions of
R393? -/
def dsVerify (pub : List Byte) (domain : Nat) (body sig : List Byte) : Bool :=
  let m := slice sig 0 0x50 ++ leBytes 64 (Config.sha512 body).toNat
  dsFits sig domain body.length && decide (bv 512 (leNat (slice sig 0x10 64)) = Config.sha512 pub) &&
  Config.edVerify (pub.take 32) m (bv 512 (leNat (slice sig 0x50 64))) &&
  Config.mlVerify (pub.drop 32) m (bv 26472 (leNat (slice sig 0x90 3309)))

/-! ### Certificates (R403) -/

/-- Does each certificate's signature verify, under domain 0x05, with the key before it, the root's with its own? -/
def certsVerify : List Byte → List Cert → Bool
  | _, [] => true
  | pub, c :: cs => dsVerify pub 5 c.tbs c.sig && certsVerify c.pub cs

/-- A chain of `n` certificates that verifies to CA_KEY_ID. -/
def goodChain (s : State) (chain : List Byte) (n : Nat) : Option (List Cert) :=
  match Config.certsOf chain with
  | some (r :: cs) =>
    if (r :: cs).length = n ∧ s.fuse.caPresent ∧ Config.sha512 r.pub = s.fuse.caKeyId ∧ certsVerify r.pub (r :: cs) then
      some (r :: cs)
    else none
  | _ => none

/-- IDCERT's chain verifies, and its device certificate carries the identity key that this device derives. -/
def idcertOk (s : State) (chain : List Byte) : Bool :=
  match goodChain s chain 3 with
  | some cs => (cs.getLast?.map (·.pub)) == some (idKey s).publics
  | none => false

/-- The alias key's public halves in a peer's chain: four certificates, at most 16 KiB (R407, R408). -/
def peerAlias (s : State) (chain : List Byte) : Option (List Byte) :=
  if 2 ^ 14 < chain.length then none else (goodChain s chain 4).bind fun cs => cs.getLast?.map (·.pub)

/-- The chain of slot 0 and of sessions: IDCERT's certificates and the alias certificate that the device issued at start. -/
def certChain (s : State) : List Byte :=
  let tbs := Config.aliasTbs (aliasKey s).publics s.boot.mrFw
  s.boot.chain ++ Config.certDer tbs (dualSign (idKey s) 5 s.boot.aliasRnd tbs)

/-! ### Random bits (R390, R413) -/

/-- A request to the DRBG of a half, which is reseeded every 2^20 requests. -/
def useDrbg (s : State) (h : Half) : State :=
  s.setSec { s.sec with drbg := s.sec.drbg.upd h fun n => if 2 ^ 20 ≤ n then 1 else n + 1 }

/-- 256 random bits of the DRBG: free values (log entry 9). -/
def rand256 (s : State) : BitVec 256 :=
  Config.freeBits s.free ++ Config.freeBits (s.free + 1) ++ Config.freeBits (s.free + 2) ++ Config.freeBits (s.free + 3)

/-- What drawing them from a half's DRBG leaves. -/
def drawnAt (s : State) (h : Half) : State := useDrbg (s.setFree (s.free + 4)) h

/-- What drawing them leaves: one request to the DRBG of the serving vault. -/
def hedged (s : State) : State := drawnAt s (vaultHalf s)

/-- The masking generator of a half takes a new seed from the half's DRBG (R413). -/
def reseedMask (s : State) (h : Half) : State :=
  let s1 := s.setSec { s.sec with mask := s.sec.mask.set h 0, seed := s.sec.seed.set h (rand256 s) }
  drawnAt s1 h

/-- `n` bytes of data in a half's cipher engine: their blocks count, and at 2^20 blocks the masking generator is reseeded
(log entry 125). -/
def useMask (s : State) (h : Half) (n : Nat) : State :=
  let k := s.sec.mask.get h + (n + 15) / 16
  if n = 0 then s
  else if k < 2 ^ 20 then s.setSec { s.sec with mask := s.sec.mask.set h k }
  else
    let s1 := reseedMask s h
    s1.setSec { s1.sec with mask := s1.sec.mask.set h (k % 2 ^ 20) }

/-! ### Session messages (R407) -/

/-- S_INIT. -/
def sInitBytes (eph : BitVec 256) (kem : List Byte) (nonce : BitVec 256) (chain : List Byte) : List Byte :=
  leBytes 32 eph.toNat ++ kem ++ leBytes 32 nonce.toNat ++ chain
/-- S_RESP without its signature. -/
def sRespBytes (eph : BitVec 256) (ct : List Byte) (nonce : BitVec 256) (chain : List Byte) : List Byte :=
  leBytes 32 eph.toNat ++ ct ++ leBytes 32 nonce.toNat ++ chain

/-- TH: the digest of S_INIT and of S_RESP without its signature. -/
def thOf (init resp : List Byte) : B512 := Config.sha512 (init ++ resp)
/-- SRK from both shared secrets and TH. -/
def srkOf (ss kem : BitVec 256) (th : B512) : BitVec 256 :=
  Config.shake256 (leBytes 32 ss.toNat ++ leBytes 32 kem.toNat ++ leBytes 64 th.toNat)
/-- What S_FIN's signature covers. -/
def finBody (th : B512) (sig : List Byte) (first : Nat) : List Byte :=
  leBytes 64 (Config.sha512 (leBytes 64 th.toNat ++ sig ++ leBytes 8 first)).toNat

end Sys2Proof.Machine
end

