-- ==== Sys2Proof/Machine/Net.lean ====
section
/-!
DEFINITION. Sending on the fabric: routing (R269, R311), connections and sequence numbers (R314), encryption and
sessions (R326), what a port sends next (R282, R304, R306, R317), and what Marjoram counts of it (R309, Table 6-10).
-/

namespace Sys2Proof.Machine

/-! ### The ledger's counters -/

/-- The key of the device record among the tenants' counters. -/
def devKey : Nat := 4096

def cntOf (s : State) (k : Nat) : Cnt := Tab.get (fun _ => {}) s.led.cnt k

/-- A counter changed, while Marjoram counts (R206): from the first whole beat after time has locked, in which
the first interval begins (R207). -/
def count (s : State) (k : Nat) (f : Cnt → Cnt) : State :=
  if s.led.counting && decide (s.led.first ≤ beat s) then s.setLed { s.led with cnt := Tab.upd (fun _ => {}) s.led.cnt k f } else s

def countTx (s : State) (k p n : Nat) : State :=
  count s k fun c => { c with tx := c.tx.set p (c.tx.getD p 0 + n) }
def countRx (s : State) (k p n : Nat) : State :=
  count s k fun c => { c with rx := c.rx.set p (c.rx.getD p 0 + n) }

/-- Flits of a message with `n` payload bytes (R313). -/
def flits (n : Nat) : Nat := if n ≤ 192 then 1 else 1 + (n - 192 + 255) / 256

/-- The ledger key of a message's tenant: device traffic has none. -/
def tenKey (m : Msg) : Nat := if m.typ = 2 ∨ m.typ = 1 ∨ m.typ = 4 ∨ m.typ = 5 then devKey else m.ten.toNat

/-! ### Routing (R311) -/

def usable (s : State) (p : Nat) : Bool := (getPort s p).st == 2 || (getPort s p).st == 3

/-- Usable ports of a mask, lowest first. -/
def usableOf (s : State) (mask : Nat) : List Nat :=
  (List.range 8).filter fun p => mask.testBit p && usable s p

def siteOf (s : State) (i : Nat) : SiteE := Tab.get (fun _ => {}) s.fab.sites i

/-- The route entry of a destination. -/
def routeOf (s : State) (d : Peer) : B16 :=
  if d.site = (ownPeer s).site then Tab.get (fun _ => 0) s.fab.routes d.addr else (siteOf s d.site).route

/-- The ports that carry a message's traffic: those of its group for a Borage message (GR_PORTS, R269), else all. -/
def bodyPorts (s : State) : Body → Nat
  | .borage m => if m.reply = 0 then (getGrp s m.group).ports.toNat else 0xFF
  | .mdel m => (getGrp s (bits m.group 25 14)).ports.toNat
  | _ => 0xFF

/-- The port that a message takes among those of a mask: PRIMARY, else ALT, spread by TH_SEQ. -/
def routePort (s : State) (mask : Nat) (d : Peer) (seq : Nat) : Option Nat :=
  let e := routeOf s d
  match usableOf s (bits e 15 8 &&& mask) with
  | [] =>
    match usableOf s (bits e 7 0 &&& mask) with
    | [] => none
    | q :: qs => (q :: qs)[seq % (qs.length + 1)]?
  | p :: ps => (p :: ps)[seq % (ps.length + 1)]?

/-! ### Connections -/

def findConn (s : State) (p : Peer) (cls : Nat) (out : Bool) : Option Conn :=
  s.fab.conns.find? fun c => c.peer = p && c.cls == cls && c.out == out

/-- The connection, made anew when there is none. -/
def theConn (s : State) (p : Peer) (cls : Nat) (out : Bool) : Conn :=
  (findConn s p cls out).getD
    { id := s.fab.nextConn, peer := p, cls := cls, out := out, next := 0, unacked := [], gap := false,
      early := [], rel := ns s + 2 * latNs s, tagBad := [], ackDue := false }

/-- The connection stored. -/
def putConn (s : State) (c : Conn) : State :=
  if s.fab.conns.any fun d => d.id == c.id then
    s.setFab { s.fab with conns := s.fab.conns.map fun d => if d.id = c.id then c else d }
  else s.setFab { s.fab with conns := s.fab.conns ++ [c], nextConn := s.fab.nextConn + 1 }

/-! ### Sending -/

/-- Must a message be encrypted (R326)? -/
def mustEnc (s : State) (m : Msg) : Bool :=
  m.dst.site != (ownPeer s).site || s.fab.encAll ||
  (tenKey m != devKey && Tab.get (fun _ => false) s.fab.encMap m.ten.toNat)

def keyOf (s : State) (p : Peer) (epoch : Nat) (out : Bool) : Option TKey :=
  s.sec.keys.find? fun k => k.peer = p && k.epoch == epoch && k.out == out

/-- The transport header, Table 10-3. -/
def headerBytes (m : Msg) : List Byte :=
  let who (p : Peer) : List Byte := leBytes 4 (p.site % 64 * 2 ^ 17 + p.addr % 2 ^ 17)
  leBytes 4 (m.ver % 16 * 2 ^ 28 + m.cls % 4 * 2 ^ 26 + b2n m.enc * 2 ^ 25 + b2n m.gap * 2 ^ 24 + m.typ % 256 * 2 ^ 16 +
    m.hops % 2 ^ 16) ++
  leBytes 4 m.payload.length ++ who m.dst ++ who m.src ++ leBytes 8 m.seq ++ leBytes 8 m.tsent ++ leBytes 4 m.epoch ++
  leBytes 4 m.job.toNat ++ leBytes 4 m.ten.toNat ++ leBytes 4 0 ++ leBytes 8 m.eng.toNat ++ leBytes 8 0

/-- The nonce of Table 10-5. -/
def nonce (m : Msg) : BitVec 96 := bv 96 ((if m.typ = 1 then 3 else m.cls % 4) * 2 ^ 94 + m.seq % 2 ^ 64)

/-- The payload as it travels: with ENC the ciphertext and its tag (R327). -/
def wire (s : State) (m : Msg) : List Byte :=
  match m.enc, keyOf s m.dst m.epoch true with
  | true, some k =>
    let (c, t) := Config.gcmEncrypt k.key (nonce m) ((headerBytes { m with hops := 0 }).take 0x38) m.payload
    c ++ leBytes 16 t.toNat
  | _, _ => m.payload

/-- The flits of a message: the header with 192 bytes of payload, then 256 bytes each (R313); bytes beyond the
payload are not represented (log entry 17). -/
def flitList (s : State) (m : Msg) : List (List Byte) :=
  let w := wire s m
  (headerBytes m ++ w.take 192) :: (List.range (flits w.length - 1)).map fun i => slice w (192 + 256 * i) 256

/-- KIND of flit `i` of `n` (Table 10-2). -/
def flitKind (n i : Nat) : Nat := if n = 1 then 4 else if i = 0 then 1 else if i + 1 = n then 3 else 2

/-- What waits at a port to be sent goes in behind what is there. -/
def enqueue (s : State) (p : Nat) (x : TxQ) : State := setPort s p { getPort s p with txq := (getPort s p).txq ++ [x] }

/-- The group, step and CD_SEQ by which a message's flits are shared out (R282). -/
def bodyGrp : Body → Option Nat × Nat × Nat
  | .borage m => (some m.group, m.step, m.seq)
  | .mdel m => (some (bits m.group 25 14), m.step, m.seq)
  | _ => (none, 0, 0)

/-- A message waits at a port as its frames.  CHAN is the device's choice: a free value (log entry 10). -/
def pushMsg (s : State) (p : Nat) (o : OutM) : State :=
  let fs := flitList s o.m
  let key := tenKey o.m
  let dev := key == devKey
  let ch : Byte := (freeVal s).extractLsb' 0 8
  let g := bodyGrp o.body
  enqueue (drawn s) p
    { cls := o.m.cls, key := key, grp := g.1, step := g.2.1, seq := g.2.2
      frames := fs.zipIdx.map fun f => { kind := flitKind fs.length f.2, dev := dev, tenant := if dev then 0 else o.m.ten,
                                         chan := ch, flit := f.1 } }

/-- May a message leave by a port: by one in Husil mode only what R344 admits to the Husil device behind it, which relays
nothing — transport traffic, heartbeats, sessions, SYNC and the collectives (log entry 105)? -/
def portAdmits (s : State) (m : Msg) (p : Nat) : Bool :=
  (getPort s p).mode != 2 || (m.dst.site == (ownPeer s).site && [1, 2, 4, 5, 6, 8].contains m.typ)

/-- A message handed to its port, or lost for want of a route (NO_ROUTE).  One with ENC whose key is held no more does not
leave: it travels as ciphertext or not at all (R327); nor does one whose port's half has stopped its cryptography (R390).
What is encrypted counts to the half's masking generator (R413). -/
def transmit (s : State) (o : OutM) : State :=
  if o.m.enc && (keyOf s o.m.dst o.m.epoch true).isNone then s
  else match (routePort s (bodyPorts s o.body) o.m.dst o.m.seq).filter (portAdmits s o.m) with
  | none => s.setFab { s.fab with noRoute := sat32 (s.fab.noRoute + 1) }
  | some p =>
    if o.m.enc && !s.sec.rngOk.get (portHalf p) then s
    else pushMsg ((if o.m.enc then useMask s (portHalf p) (0x38 + o.m.payload.length) else s).setFab
      { s.fab with tx := (p, o) :: s.fab.tx }) p o

/-! ### What a port sends next (R282, R304, R306, R317) -/

/-- The link word of a frame (Table 10-2). -/
def linkWord (f : Frame) : Nat :=
  f.lseq % 2 ^ 20 * 2 ^ 44 + f.ack % 2 ^ 20 * 2 ^ 24 + f.kind % 8 * 2 ^ 21 + b2n f.dev * 2 ^ 20 + f.tenant.toNat * 2 ^ 8 + f.chan.toNat

/-- The bytes that a frame's CRC covers: the link word and the 256 bytes of the flit. -/
def frameBody (f : Frame) : List Byte :=
  leBytes 8 (linkWord f) ++ f.flit.take 256 ++ List.replicate (256 - f.flit.length) 0

/-- A frame as it stands on the line, 268 bytes (Table 10-2). -/
def lineBytes (f : Frame) : List Byte := frameBody f ++ leBytes 4 (crc32c (frameBody f)).toNat

/-- The group of a bulk entry; everything in the class that is not Borage's counts as one more group (log entry 87). -/
def bulkKey (q : TxQ) : Nat := q.grp.getD 4096

/-- Flits of a group's turn: WEIGHT × 16 (R282). -/
def flitQuantum (s : State) (g : Nat) : Nat := 16 * (if g = 4096 then 1 else max 1 (getGrp s g).weight)

/-- The group whose flit leaves next and what is left of its turn: deficit round-robin over the groups with flits
ready, in ascending order; one with nothing ready gives up its turn. -/
def bulkTurn (s : State) (x : Port) : Option (Nat × Nat) :=
  let ready := sortOn id ((x.txq.filter fun q => q.cls == 2).map bulkKey).dedup
  let fresh (g : Nat) : Nat × Nat := (g, flitQuantum s g - 1)
  match x.turn with
  | some g =>
    if ready.contains g && decide (0 < x.credit) then some (g, x.credit - 1)
    else match ready.find? fun h => decide (g < h) with
      | some h => some (fresh h)
      | none => ready.head?.map fresh
  | none => ready.head?.map fresh

/-- Of a group's entries the one of the lowest (step, CD_SEQ), the first to wait among equals. -/
def lowestOf (l : List (TxQ × Nat)) : Option (TxQ × Nat) :=
  l.foldl (fun a x => match a with
    | none => some x
    | some y => if x.1.step < y.1.step ∨ (x.1.step = y.1.step ∧ x.1.seq < y.1.seq) then some x else some y) none

/-- The entry whose flit leaves next, with the turn and credit after it: urgent before control before bulk (R317). -/
def nextEntry (s : State) (x : Port) : Option ((TxQ × Nat) × Option Nat × Nat) :=
  let l := x.txq.zipIdx
  match l.find? fun e => e.1.cls == 0 with
  | some e => some (e, x.turn, x.credit)
  | none => match l.find? fun e => e.1.cls == 1 with
    | some e => some (e, x.turn, x.credit)
    | none => match bulkTurn s x with
      | none => none
      | some (g, c) => (lowestOf (l.filter fun e => e.1.cls == 2 && bulkKey e.1 == g)).map fun e => (e, some g, c)

/-- A port's queue without the first frame of entry `i`. -/
def dropFlit (l : List TxQ) (i : Nat) : List TxQ :=
  (l.zipIdx.map fun e => if e.2 = i then { e.1 with frames := e.1.frames.drop 1 } else e.1).filter fun q => !q.frames.isEmpty

/-- Tenths of a nanosecond that a frame takes on a port's line: 3.2 ns, 6.4 ns on a DEGRADED port (R308); on a Husil port,
of half the rate, twice that (R344). -/
def Port.slotTime (x : Port) : Nat := (if x.st = 3 then 64 else 32) * (if x.mode = 2 then 2 else 1)

/-- A frame put on the line: the next leaves when it has passed. -/
def onLine (s : State) (x : Port) (f : Frame) : Port :=
  { x with line := some f, sendAt := max x.sendAt (10 * ns s - 9) + x.slotTime }

/-- The frame that keeps the line's stream when nothing waits: idle, with the ACK (R304). -/
def idleFrame (x : Port) : Frame := { kind := 0, dev := true, ack := x.rx }

/-- A new frame takes the next LSEQ and a place in the retry buffer (R306), and counts to its tenant or the device
record (R309). -/
def sendNew (s : State) (p : Nat) (x : Port) (e : TxQ × Nat) (turn : Option Nat) (credit : Nat) : State :=
  match e.1.frames with
  | [] => setPort s p { x with txq := dropFlit x.txq e.2 }
  | f :: _ =>
    let g := { f with lseq := x.tx, ack := x.rx }
    let y : Port := { x with txq := dropFlit x.txq e.2, turn := turn, credit := credit, tx := (x.tx + 1) % 2 ^ 20
                             retry := x.retry ++ [g], ackAt := if x.retry.isEmpty then ns s else x.ackAt }
    countTx (setPort s p (onLine s y g)) e.1.key p 256

/-- A port sends one frame when the line is free: a NAK, else a frame to be sent again, else the next flit, else an idle
frame, of which no record counts anything. -/
def servePort (s : State) (p : Nat) : State :=
  let x := getPort s p
  if (x.st ≠ 2 ∧ x.st ≠ 3) ∨ 10 * ns s < x.sendAt then s
  else match x.nak, x.again with
  | some q, _ =>
    countTx (setPort s p (onLine s { x with nak := none } { lseq := q, ack := x.rx, kind := 5, dev := true })) devKey p 256
  | none, f :: rest =>
    countTx (setPort s p (onLine s { x with again := rest, replay := sat32 (x.replay + 1) } { f with ack := x.rx })) devKey p 256
  | none, [] => match nextEntry s x with
    | some (e, t, c) => sendNew s p x e t c
    | none => setPort s p (onLine s x (idleFrame x))

/-- Every port serves its transmitter. -/
def servePorts (s : State) : State := (List.range 8).foldl servePort s

/-- A session with a peer is used: it is not idle (R410). -/
def useSess (s : State) (p : Peer) : State :=
  if s.sec.sess.any fun x => x.peer = p then
    s.setSec { s.sec with sess := s.sec.sess.map fun x => if x.peer = p then { x with used := ns s } else x }
  else s

/-- A message enters its connection with the next TH_SEQ and is sent. -/
def sendNow (s : State) (m : Msg) (body : Body) (enc : Bool) : State :=
  let c := theConn s m.dst m.cls true
  let m1 : Msg := { m with
    enc := enc, gap := c.gap, src := ownPeer s, seq := c.next, tsent := ns s
    epoch := if enc then s.fab.epoch else 0 }
  let o : OutM := ⟨m1, body, ns s, ns s⟩
  let s := if enc then useSess s m.dst else s
  transmit (putConn s { c with next := c.next + 1, unacked := c.unacked ++ [o], rel := ns s + 2 * latNs s }) o

/-- A SESSION message with its bytes: S_INIT 1, S_RESP 2, S_FIN 3 (R407); it is never encrypted itself. -/
def sendSess (s : State) (d : Peer) (kind : Nat) (data : List Byte) : State :=
  sendNow s { cls := 0, typ := 5, dst := d, payload := data } (.other kind [] []) false

/-- The session that has been idle longest among those without an open connection. -/
def idlest (s : State) : Option Sess :=
  (s.sec.sess.filter fun x => !(s.fab.conns.any fun c => c.peer = x.peer)).foldl (fun a x => match a with
    | none => some x
    | some y => if x.used < y.used then some x else a) none

/-- Sessions held, with those that attempts under way, other than that with `d`, will make (R410). -/
def sessHeld (s : State) (d : Peer) : Nat :=
  s.sec.sess.length + (s.sec.atts.filter fun a => a.peer ≠ d && a.stage != 0).length

/-- Room for one more session: at the limit of 2,048 the idlest one is closed (SESS_EVICT); none when it must wait
(R410). -/
def sessRoom (s : State) (d : Peer) : Option State :=
  if sessHeld s d < 2048 then some s
  else match idlest s with
  | none => none
  | some x =>
    let s1 := s.setSec { s.sec with
      sess := s.sec.sess.filter (fun y => y.peer ≠ x.peer), keys := s.sec.keys.filter fun k => k.peer ≠ x.peer }
    some (logSpine s1 { code := 0x0B02, dev := mkDev x.peer })

def findAtt (s : State) (p : Peer) : Option Att := s.sec.atts.find? fun a => a.peer = p
def putAtt (s : State) (a : Att) : State :=
  s.setSec { s.sec with atts := s.sec.atts.filter (fun b => b.peer ≠ a.peer) ++ [a] }
def hasSess (s : State) (p : Peer) : Bool := s.sec.sess.any fun x => x.peer = p

/-- An attempt as initiator: X25519 key, ML-KEM seed and nonce are drawn, and S_INIT goes out with the certificate chain
(R407). -/
def startAtt (s : State) (d : Peer) : State :=
  let s1 := hedged s
  let s2 := hedged s1
  let s3 := hedged s2
  let eph := rand256 s
  let seed := rand256 s1 ++ rand256 s2
  let b := sInitBytes (Config.x25519Public eph) (Config.kemPublic seed) (rand256 s3) (certChain s)
  let a : Att := { peer := d, init := true, repl := hasSess s d, stage := 1, retry := none, eph := eph, kem := seed, first := b }
  sendSess (putAtt (hedged s3) a) d 1 b

/-- S_INIT to a peer when a message needs a session and no attempt runs (R407); without room the attempt is made a
beat later (R410). -/
def needSession (s : State) (d : Peer) : State :=
  if s.sec.atts.any fun a => a.peer = d then s
  else match sessRoom s d with
  | some t => startAtt t d
  | none => putAtt s { peer := d, init := true, repl := hasSess s d, stage := 0, retry := some (beat s + 1) }

/-- Has a connection no room for a further message: 4,096 messages or 64 MiB (R314)? -/
def connFull (s : State) (m : Msg) : Bool :=
  let u := (theConn s m.dst m.cls true).unacked
  decide (4096 ≤ u.length) || decide (2 ^ 26 < (u.map fun o => o.m.payload.length).sum + m.payload.length) ||
  ((findConn s m.dst m.cls true).isNone && decide (65536 ≤ s.fab.conns.length))

/-- A message of an engine is sent, or waits for the first lock (R25), for its session or for room (R314, R326). -/
def sendOne (s : State) (m : Msg) (body : Body) : State :=
  if !transportOn s then s
  else
    let enc := mustEnc s m
    let wait := s.setFab { s.fab with waits := s.fab.waits ++ [⟨m, body, beat s⟩] }
    if !s.time.locked then wait
    else if enc && (keyOf s m.dst s.fab.epoch true).isNone then needSession wait m.dst
    else if connFull s m then wait
    else sendNow s m body enc

/-- The longest payload of a message (R313). -/
def maxPayload : Nat := 2 ^ 20

/-- A message as an engine gives it: a payload above 1 MiB travels as several messages in order, and what the engine at the
far end makes of it comes with the last (R313, log entry 91). -/
def msgParts (m : Msg) (body : Body) : List (Msg × Body) :=
  if m.payload.length ≤ maxPayload then [(m, body)]
  else
    let n := (m.payload.length + maxPayload - 1) / maxPayload
    (List.range n).map fun i =>
      ({ m with payload := slice m.payload (i * maxPayload) maxPayload }, if i + 1 = n then body else .none)

def send (s : State) (m : Msg) (body : Body) : State := (msgParts m body).foldl (fun st x => sendOne st x.1 x.2) s

/-- Messages that wait are tried again, in order. -/
def flushWaits (s : State) : State :=
  s.fab.waits.foldl (fun st w =>
    let enc := mustEnc st w.m
    if !st.time.locked || (enc && (keyOf st w.m.dst st.fab.epoch true).isNone) || connFull st w.m then
      st.setFab { st.fab with waits := st.fab.waits ++ [w] }
    else sendNow st w.m w.body enc) (s.setFab { s.fab with waits := [] })

/-- An engine's message: class and type of Table 10-4, destination, tenant, job, content. -/
def sendTo (s : State) (cls typ : Nat) (d : Peer) (ten : BitVec 12) (job : B32) (data : List Byte)
    (body : Body) : State :=
  send s { cls := cls, typ := typ, dst := d, ten := ten, job := job, payload := data } body

end Sys2Proof.Machine
end

