-- ==== Sys2Proof/Machine/SyncOps.lean ====
section
/-!
DEFINITION. Sync objects: applying a signal (R218 to R224), waiters and their release (R232), and
the halt of a queue (Table 6-6), which an overrun causes.
-/

namespace Sys2Proof.Machine

/-- Object index and generation of a handle (R213). -/
def hIdx (h : B32) : Nat := bits h 31 14
def hGen (h : B32) : BitVec 14 := bv 14 (bits h 13 0)
def mkHandle (i : Nat) (g : BitVec 14) : B32 := bv 32 (i * 2 ^ 14 + g.toNat)
/-- The half of an object's home. -/
def objHalf (i : Nat) : Half := if i < 131072 then .west else .east

/-- The object that a handle names, when it is ACTIVE with that generation (R231). -/
def objFor (s : State) (h : B32) : Option SObj :=
  let o := getObj s (hIdx h)
  if o.st = .active ∧ o.gen = hGen h then some o else none

/-- Signaller identity, Table 7-2. -/
def mkSig (s : State) (kind lcl : Nat) (fil : Bool) (q ctx : Nat) : B64 :=
  bv 64 (kind * 2 ^ 60 + (ownPeer s).addr * 2 ^ 43 + (lcl % 1024) * 2 ^ 33 + b2n fil * 2 ^ 32 +
    (q % 2 ^ 20) * 2 ^ 12 + ctx % 4096)

/-- The source that a signaller identity names (R217): a slot, a queue, a cluster's DMA engine, a remote device, another
engine as one. -/
def srcOf (who : B64) : Nat × Nat :=
  let k := bits who 63 60
  (k, if k = 1 then bits who 42 32 else if k = 2 then bits who 31 12 else if k = 3 then bits who 42 33
      else if k = 8 then bits who 59 43 else 0)

/-- Is a signal of a source to an object still on its way (R217)? -/
def onWay (s : State) (src : Nat × Nat) (h : B32) : Bool := s.syn.sigs.any fun g => srcOf g.who = src && g.obj = h

/-- Same tenant and job (R215). -/
def sameJob (s : State) (a b : Nat) : Bool :=
  decide ((getCtx s a).tenant = (getCtx s b).tenant) && decide ((getCtx s a).job = (getCtx s b).job)

/-- STALE_DROP + 1. -/
def staleDrop (s : State) : State := s.setDev { s.dev with stale := sat32 (s.dev.stale + 1) }

/-! ### Queue halts (Table 6-6) -/

/-- Causes 0x07, 0x09 and 0x0A are Notes; the others are Contained. -/
def haltSev (cause : Nat) : Nat := if cause = 7 ∨ cause = 9 ∨ cause = 10 then 0 else 2

/-- An ENABLED queue enters HALTED with a cause; QUEUE_HALT is raised against context and queue. -/
def haltQueue (s : State) (q cause : Nat) (byCmd : Bool) (addr : Nat) : State :=
  let x := getQ s q
  if x.st ≠ .enabled then s
  else
    let c := getCtx s x.ctx
    logSpine (setQ s q { x with st := .halted, cause := cause, byCmd := byCmd })
      { code := 0x0301, sev := haltSev cause, scope := 4, who := mkWho none q 0 c.tenant x.ctx,
        step := ctxStep s x.ctx, job := c.job, addr := bv 64 addr, data0 := bv 64 cause }

/-! ### Waiters -/

/-- Is a waiter's condition met (R220, R223, R232)? -/
def condMet (o : SObj) (cond : Nat) (arg : B64) : Bool :=
  if cond = 0 then decide (arg.toNat ≤ o.value)
  else if cond = 2 then
    let d := (o.round + 65536 - arg.toNat % 65536) % 65536
    decide (1 ≤ d) && decide (d ≤ 32768)
  else o.set

/-- Does a condition fit an object's type (R232)? -/
def condFits (o : SObj) (cond : Nat) : Bool :=
  match o.ty with
  | .counter => cond == 0
  | .flag => cond == 1 || cond == 3
  | .barrier => cond == 2

/-- A released waiter goes on: the slot behind its instruction, the queue behind its WAIT; the WAIT of a queue that has
halted, or whose context has stopped, does not complete meanwhile (R187). -/
def resume (s : State) : WaitBy → State
  | .slot cl fil =>
    updSlot s cl fil fun x =>
      match x.wait with
      | some w => { x with wait := none, pc := w.next }
      | none => x
  | .queue q =>
    let x := getQ s q
    if x.st = .enabled ∧ (getCtx s x.ctx).st = .ready then setQ s q { x with rd := x.rd + 1, head := none, waitDl := none }
    else setQ s q { x with waitDl := none }

/-- The object after one waiter took its condition: a consume clears SET. -/
def taken (o : SObj) (w : Waiter) : SObj :=
  { o with set := if w.cond = 3 then false else o.set }

/-- Waiters in arrival order: each whose condition holds resumes. -/
def release (s : State) (i : Nat) (o : SObj) : List Waiter → List Waiter → State × SObj
  | [], keep => (setObj s i { o with waiters := keep }, { o with waiters := keep })
  | w :: ws, keep =>
    if condMet o w.cond w.arg then
      let o1 := taken o w
      let (s1, _) := release s i o1 ws keep
      (resume s1 w.src, o1)
    else release s i o ws (keep ++ [w])

/-- An object stored, with every waiter released whose condition it meets. -/
def settle (s : State) (i : Nat) (o : SObj) : State := (release s i o o.waiters []).1

/-! ### Applying a signal -/

/-- A barrier after its counts changed (R222): rounds complete, at most twice in one action. -/
def roundDone (o : SObj) : SObj :=
  if o.count = o.parts then
    { o with round := (o.round + 1) % 65536, count := o.next, next := 0 }
  else o

/-- An arrival for round `q` (Table 7-3): none is a BARRIER_OVERRUN. -/
def arrive (o : SObj) (q : Nat) : Option SObj :=
  let d := (q + 65536 - o.round) % 65536
  if d = 0 then
    if o.parts ≤ o.count then none else some (roundDone (roundDone { o with count := o.count + 1 }))
  else if d = 1 then
    if o.parts ≤ o.next then none else some { o with next := o.next + 1 }
  else none

/-- A counter takes an amount (R218). -/
def addCounter (o : SObj) (amount : B64) : SObj :=
  let v := o.value + amount.toNat
  if 2 ^ 64 ≤ v then { o with value := 2 ^ 64 - 1, cntSat := true } else { o with value := v }

/-- A flag takes a signal (R219): the object, and does FLAG_OVERRUN arise? -/
def setFlag (o : SObj) (who : B64) : SObj × Bool :=
  if !o.set then ({ o with set := true, sig1 := who }, false)
  else if !o.overrun then ({ o with overrun := true, sig2 := who }, true)
  else ({ o with ovrCnt := min (o.ovrCnt + 1) 0xFFFF }, false)

def recObj (s : State) (i : Nat) (o : SObj) (code sev : Nat) (d0 d1 : B64) (dev : B32) : Rec :=
  { code := code, sev := sev, scope := 3, who := mkWho none 0 0 (getCtx s o.ctx).tenant o.ctx,
    step := ctxStep s o.ctx, job := (getCtx s o.ctx).job, dev := dev, addr := bv 64 (mkHandle i o.gen).toNat, data0 := d0, data1 := d1 }

/-- SYNC_FOREIGN (R215, R216). -/
def foreign (s : State) (h : B32) (who : B64) (dev : B32) : State :=
  logRec (s.setSyn { s.syn with foreign := sat32 (s.syn.foreign + 1) }) (objHalf (hIdx h))
    { code := 0x0403, sev := 0, scope := 3, dev := dev, addr := bv 64 h.toNat, data0 := who }

/-- A BARRIER_OVERRUN (R224): the record, the halted queue, the rejection of a remote arrival. -/
def overrun (s : State) (i : Nat) (o : SObj) (g : SigFly) : State :=
  let d := (g.amount.toNat % 65536 + 65536 - o.round) % 65536
  let dev := match g.remote with | some p => mkDev p | none => 0
  let s1 := logRec s (objHalf i) (recObj s i o 0x0401 2 (bv 64 d) g.who dev)
  match g.remote, g.queue with
  | some p, _ => sendTo s1 1 6 p (getCtx s o.ctx).tenant (getCtx s o.ctx).job [] (.other 2 [g.who.toNat] [])
  | none, some q => haltQueue s1 q 6 g.byCmd 0
  | none, none => s1

/-- A signal applied at its object's home, whole (R217 to R224, R231). -/
def applySig (s : State) (g : SigFly) : State :=
  let i := hIdx g.obj
  match objFor s g.obj with
  | none => staleDrop s
  | some o =>
    if (match g.ctx with | some c => !sameJob s c o.ctx | none => false) then foreign s g.obj g.who 0
    else match o.ty with
    | .counter =>
      if g.arrive then staleDrop s
      else settle s i { addCounter o g.amount with sig1 := g.who, tSig := ns s }
    | .flag =>
      if g.arrive then staleDrop s
      else
        let (o1, ov) := setFlag o g.who
        let s1 := settle s i { o1 with tSig := ns s }
        if ov then logRec s1 (objHalf i) (recObj s i o1 0x0402 0 o1.sig1 o1.sig2 0) else s1
    | .barrier =>
      match arrive o (g.amount.toNat % 65536) with
      | none => overrun s i o g
      | some o1 => settle s i { o1 with sig1 := g.who, tSig := ns s }

/-- A signal sets out for its home (R217): it is applied by a later command. -/
def emit (s : State) (g : SigFly) : State :=
  s.setSyn { s.syn with sigs := s.syn.sigs ++ [{ g with n := s.syn.next }], next := s.syn.next + 1 }

/-- The completion signal of an engine that acts for a context (R215, R227): the DMA engine's names its slot (Table 7-2). -/
def engineSig (s : State) (kind : Nat) (obj : B32) (amount : B64) (cl : Nat) (fil : Bool) (ctx : Nat)
    (queue : Option Nat) : State :=
  emit s { n := 0, obj := obj, amount := amount, arrive := false,
           who := if kind = 3 then mkSig s 3 cl fil 0 ctx else mkSig s kind 0 false 0 ctx,
           ctx := some ctx, queue := queue, byCmd := false, remote := none }

/-! ### Removing waits -/

/-- Waiters of the sources for which `p` holds removed from every object (R187, R362). -/
def dropWaits (s : State) (p : WaitBy → Bool) : State :=
  s.setSyn { s.syn with tab := s.syn.tab.map fun e =>
    (e.1, { e.2 with waiters := e.2.waiters.filter fun w => !p w.src }) }

end Sys2Proof.Machine
end

