-- ==== Sys2Proof/Machine/CtxOps.lean ====
section
/-!
DEFINITION. Kernels abandoned (R187, R362), contexts stopped, keep-alive mode entered (R377), the
records of Fatal severity, numeric modes (R58, R59) and statistics records (R63, R105).
-/

namespace Sys2Proof.Machine

/-- Slots of the device that meet `p`: logical cluster, filler, contents. -/
def slotsWhere (s : State) (p : SlotSt → Bool) : List (Nat × Bool) :=
  (s.slot.filter fun e => p e.2).map fun e => (e.1 / 2, e.1 % 2 == 1)

def slotsOfCtx (s : State) (id : Nat) : List (Nat × Bool) := slotsWhere s fun x => x.ctx = some id

/-- READY or STOPPED. -/
def ctxLive (s : State) (id : Nat) : Bool := (getCtx s id).st != .free

/-- Contexts of a job. -/
def ctxsOfJob (s : State) (job : B32) : List Nat :=
  (s.ctx.filter fun e => e.2.st != .free && e.2.job = job).map (·.1)

/-- Running KERNEL commands that meet `p` are abandoned: they complete without signalling, their
slots run nothing, and their slots' waits are removed without WD_FIRED (R187, R362). -/
def abandon (s : State) (p : RunCmd → Bool) : State :=
  let gone := (s.que.run.filter fun r => r.cmd.typ == 1 && p r).map (·.n)
  let hit := slotsWhere s fun x => match x.run with | some n => gone.contains n | none => false
  let s1 := s.setQue { s.que with run := s.que.run.filter fun r => !gone.contains r.n }
  let s2 := hit.foldl (fun st (c : Nat × Bool) =>
    updSlot st c.1 c.2 fun x => { x with run := none, wait := none }) s1
  dropWaits s2 fun w => match w with
    | .slot cl fil => hit.contains (cl, fil)
    | .queue _ => false

/-- A context enters STOPPED (R187); what the vote makes of it is `VoteOps`' part. -/
def stopCtxOnly (s : State) (id : Nat) : State :=
  if (getCtx s id).st ≠ .ready then s
  else abandon (setCtx s id { getCtx s id with st := .stopped }) fun r => r.ctx == id

/-- Collectives that meet `p`, queued or running, are cancelled and counted (R296). -/
def cancelColls (s : State) (p : Coll → Bool) : State :=
  let hit := s.col.colls.filter fun c => (c.st = .queued || c.st = .running) && p c
  s.setCol { s.col with
    colls := s.col.colls.map fun c =>
      if (c.st = .queued ∨ c.st = .running) ∧ p c then { c with st := .cancelled } else c
    cancel := sat32 (s.col.cancel + hit.length) }

/-- No wait has a deadline any more (R235). -/
def dropDeadlines (s : State) : State :=
  let s1 := s.setSyn { s.syn with tab := s.syn.tab.map fun e =>
    (e.1, { e.2 with waiters := e.2.waiters.map fun w => { w with deadline := none } }) }
  s1.setQue { s1.que with tab := s1.que.tab.map fun e => (e.1, { e.2 with waitDl := none }) }

/-- Entry into keep-alive mode (R377, Table 11-10): KEEPALIVE, frozen rings, STOPPED contexts,
HALTED queues, cancelled collectives, waits without a deadline. -/
def enterKeepAlive (s : State) (code : Nat) : State :=
  if s.err.ka then s
  else
    let s1 := logSpine s { code := 0x0807, data0 := bv 64 code }
    let s2 := s1.setErr { s1.err with
      ka := true, frozen := true, kaCode := code
      ring := ⟨{ s1.err.ring.w with hand := [], wait := [] }, { s1.err.ring.e with hand := [], wait := [] }⟩ }
    let s3 := (s2.ctx.map (·.1)).foldl stopCtxOnly s2
    let s4 := dropDeadlines ((s3.que.tab.map (·.1)).foldl (fun st q => haltQueue st q 10 false 0) s3)
    let s5 := cancelColls s4 fun _ => true
    let s6 := irq (s5.setLed { s5.led with ka := true }) 6
    refreshRdy s6

/-- A record of any severity: a Fatal that meets a Fatal in handling puts the device into
keep-alive mode at once (R375). -/
def raise (s : State) (h : Half) (x : Rec) : State :=
  let s1 := logRec s h x
  if fatalInFatal s h x.sev then enterKeepAlive s1 x.code else s1

/-- A record of a spine block, of any severity. -/
def raiseSpine (s : State) (x : Rec) : State :=
  match leader s with
  | some h => raise s h x
  | none => raise (raise s .west x) .east x

/-! ### Numeric modes -/

/-- The mode recorded for a step, or the one a first run would record: the latest write whose
threshold lies below the step, STARTUP when there is none (R59). -/
def modeFor (c : Ctx) (step : Nat) : Nat :=
  match c.recorded.find? fun m => m.1 == step with
  | some m => m.2
  | none =>
    match c.writes.find? fun w => match w.1 with | some t => decide (t < step) | none => true with
    | some w => w.2
    | none => 1

/-- A KERNEL of a step starts for a context: its mode is recorded at the first run (R59). -/
def runStep (c : Ctx) (step : Nat) : Ctx :=
  { c with
    recorded := if c.recorded.any fun m => m.1 == step then c.recorded else (step, modeFor c step) :: c.recorded
    force := some (match c.force with | some f => max f step | none => step) }

/-- Does a governed conversion of the step overflow to NaN (Table 2-7)? -/
def service (c : Ctx) (step : Nat) : Bool := modeFor c step == 0

/-! ### Statistics records -/

/-- A 32-bit counter of a record increased: new value, and does it stop? -/
def statCnt (bs : List Byte) (off n : Nat) : Nat × Bool :=
  let v := leNat (slice bs off 4) + n
  (sat32 v, decide (0xFFFFFFFF ≤ v) && decide (n ≠ 0))

/-- A record's bytes after additions to its counters, its element count, its modes and format. -/
def statBytes (bs : List Byte) (c : Ctr) (clip elem fmt mode : Nat) : List Byte :=
  let cs := [statCnt bs 0 c.ovf, statCnt bs 4 c.unf, statCnt bs 8 c.nan, statCnt bs 12 c.esc,
    statCnt bs 16 c.fmt, statCnt bs 20 clip]
  let ctl := leNat (slice bs 0x2C 4)
  let modes := (ctl / 2 ^ 12 % 16) ||| 2 ^ mode
  let sat := b2n (ctl % 2 == 1 || cs.any (·.2))
  cs.flatMap (fun x => leBytes 4 x.1) ++ leBytes 8 (leNat (slice bs 0x18 8) + elem) ++
  slice bs 0x20 12 ++
  leBytes 4 (ctl / 2 ^ 16 * 2 ^ 16 + modes * 2 ^ 12 + fmt % 16 * 2 ^ 8 + ctl / 2 % 128 * 2 + sat) ++
  slice bs 0x30 16

/-- Additions to the record at a device virtual address, and was it reached?  An unreachable record is
not updated (R105).  MODES_SEEN and FMT_LAST follow every addition, also that of a VUNPK (log entry 119). -/
def statAdd (s : State) (id va : Nat) (c : Ctr) (clip elem fmt mode : Nat) : State × Bool :=
  match loadVa s id va 64 with
  | (s0, _, some e) => (logPt s0 id e, false)
  | (s0, bs, none) =>
    match writeVa s0 none id va (statBytes bs c clip elem fmt mode) with
    | (s1, none) => (s1, true)
    | (_, some e) => (logPt s0 id e, false)

end Sys2Proof.Machine
end

