-- ==== Sys2Proof/Machine/Link.lean ====
section
/-!
DEFINITION. Ports and the link layer (R301 to R307, R320), and the relay (R312).
-/

namespace Sys2Proof.Machine

/-! ### Ports -/

/-- A command about a port that the device has. -/
def onPort (p : Nat) (s : State) (body : Port → State) : Out :=
  if 8 ≤ p then .fault (.noSuchUnit "port" p) else .next (body (getPort s p))

/-- A record about a port, raised in its half. -/
def portRec (s : State) (p code sev : Nat) : State :=
  logRec s (portHalf p) { code := code, sev := sev, scope := 7, who := mkWho none 0 p 0 0 }

/-- A port changed, with its readiness bit. -/
def movePort (s : State) (p : Nat) (x : Port) : State := refreshRdy (setPort s p x)

/-- UP on all wavelengths, DEGRADED on a whole group of four, else DOWN (R303). -/
def lightState (light : Byte) : Nat :=
  if light = 0xFF then 2 else if light &&& 0x0F = 0x0F ∨ light &&& 0xF0 = 0xF0 then 3 else 0

/-- Mode bits [3:2] of PCTRL: LONG 1, HUSIL 2. -/
def modeOf (v : B32) : Nat := bits v 3 2

/-- Round-trip limit of a mode, ns (Table 10-1). -/
def rttLimit (mode : Nat) : Nat := if mode = 1 then 1250000 else 24000

/-- Nothing waits at the port any more; the transport sends its messages again (R307). -/
def Port.flush (x : Port) : Port := { x with retry := [], txq := [], again := [], turn := none, credit := 0, nak := none }

/-- PCTRL: EN starts training or darkens the port; a mode is latched when EN goes from 0 to 1; HUSIL with LONG is
ignored (Table 10-10, R438). -/
def execPctrl (p : Nat) (v : B32) (s : State) : Out :=
  onPort p s fun x =>
    if !regsOn s ∨ modeOf v = 3 then s
    else
      let y := { x with ctrl := v &&& 0xD }
      if !bit v 0 then
        movePort s p { (y.flush) with st := 0, light := 0, tx := 0, rx := 0, acked := 0, fails := 0, badTrain := 0
                                      hops := 0xFF, through := [], relay := [] }
      else if bit x.ctrl 0 then setPort s p y
      else movePort s p { y with st := if hasImage s 4 then 1 else 0, mode := modeOf v, light := 0xFF }

/-- PORT_TRAINED: UP or DEGRADED on the wavelengths that work, or DOWN with LINK_LONG when the round trip passes the
limit of its mode. -/
def execPortTrained (p rtt : Nat) (s : State) : Out :=
  onPort p s fun x =>
    if x.st ≠ 1 ∨ !hasImage s 4 then s
    else
      let y := { x.flush with rtt := rtt }
      if rttLimit x.mode < rtt then portRec (movePort s p { y with st := 0 }) p 0x0702 0
      else movePort s p { y with st := lightState y.light, tx := 0, rx := 0, acked := 0, fails := 0, ackAt := ns s }

/-- WAVELENGTH_FAIL: `light` are the wavelengths that still work.  Without a whole group the port goes DOWN, in training
as well; with one it runs, or will run, on it (R303). -/
def execWavelengthFail (p : Nat) (light : Byte) (s : State) : Out :=
  onPort p s fun x =>
    let y := { x with light := x.light &&& light }
    if x.st = 0 ∨ x.st = 5 then s
    else if lightState y.light = 0 then movePort s p { y.flush with st := 0 }
    else if x.st = 2 ∨ x.st = 3 then movePort s p { y with st := lightState y.light }
    else setPort s p y

/-! ### Frames -/

/-- Frames that an ACK passes leave the retry buffer (R306). -/
def takeAck (s : State) (x : Port) (ack : Nat) : Port :=
  let d := (ack + 2 ^ 20 - x.acked) % 2 ^ 20
  if d = 0 ∨ x.retry.length < d then x
  else { x with acked := ack, retry := x.retry.drop d, ackAt := ns s
                again := x.again.filter fun f => (x.retry.drop d).any fun g => g.lseq == f.lseq }

/-- TH_DST of a head or single flit. -/
def flitDst (fl : List Byte) : Peer :=
  let x := leNat (slice fl 8 4)
  ⟨x / 2 ^ 17 % 64, x % 2 ^ 17⟩

/-- Does a frame belong to a message for another device?  A head or single flit says so itself; the others follow
their head's channel (R313). -/
def foreignFrame (s : State) (x : Port) (fr : Frame) : Bool :=
  if fr.kind = 1 ∨ fr.kind = 4 then decide (flitDst fr.flit ≠ ownPeer s) else x.through.contains fr.chan

/-- The channels of passing messages after a frame. -/
def passing (s : State) (x : Port) (fr : Frame) : List Byte :=
  if fr.kind = 1 then (if foreignFrame s x fr then [fr.chan] else []) ++ x.through.filter (· ≠ fr.chan)
  else if fr.kind = 3 then x.through.filter (· ≠ fr.chan) else x.through

/-- The frame is the one expected: accepted and counted, a relayed one in the device record (R309). -/
def acceptFrame (s : State) (p : Nat) (x : Port) (fr : Frame) : State :=
  let key := if fr.dev || foreignFrame s x fr then devKey else fr.tenant.toNat
  countRx (setPort s p { x with rx := (x.rx + 1) % 2 ^ 20, fails := 0, through := passing s x fr }) key p 256

/-- Does a received frame's CRC hold (R304)?  A frame that an uncorrectable codeword touched fails it (R305). -/
def crcHolds (fr : Frame) (crc : B32) (fecOk : Bool) : Bool := fecOk && decide (crc32c (frameBody fr) = crc)

/-- Does a port's code correct a codeword: RS(544,514) at most 15 symbols in error (R305), RS(528,514) of a port in Husil mode
at most 7 (R344, log entry 59)? -/
def Port.rsCorrects (x : Port) (symbols : Nat) : Bool := decide (symbols ≤ if x.mode = 2 then 7 else 15)

/-- Does a frame take an LSEQ: head, body, tail or single? -/
def sequenced (fr : Frame) : Bool := fr.kind != 0 && decide (fr.kind < 5)

/-- LINK_FRAME: codewords that could not be corrected have ended (PFEC_UNC).  A frame whose CRC fails is answered
with a NAK, and 16 failures of the LSEQ expected ask for retraining.  A sequenced frame is accepted only when its LSEQ is
the one expected, and every other one is discarded; link control and idle frames bring an ACK (R304 to R307).  The line
brings no frame before the one ahead of it has passed. -/
def execLinkFrame (p : Nat) (l : LineIn) (s : State) : Out :=
  let fr := l.frame
  onPort p s fun x =>
    if (x.st ≠ 2 ∧ x.st ≠ 3) ∨ 10 * ns s < x.recvAt then s
    else
      let x1 := { x with fecUnc := sat32 (x.fecUnc + l.ended.countP fun n => !x.rsCorrects n)
                         recvAt := max x.recvAt (10 * ns s - 9) + x.slotTime }
      if !crcHolds fr l.crc (l.touch.all x.rsCorrects) then
        setPort s p { x1 with crcErr := sat32 (x1.crcErr + 1), nak := some x1.rx
                              fails := if sequenced fr && fr.lseq == x1.rx then x1.fails + 1 else x1.fails }
      else if 5 < fr.kind ∨ (sequenced fr ∧ fr.lseq ≠ x1.rx) then setPort s p x1
      else if sequenced fr then acceptFrame s p (takeAck s x1 fr.ack) fr
      else
        let s1 := setPort s p (takeAck s x1 fr.ack)
        if fr.kind = 5 then countRx s1 devKey p 256 else s1

/-- Frames from an LSEQ on, of a retry buffer. -/
def framesFrom (l : List Frame) (q : Nat) : List Frame := l.dropWhile fun f => f.lseq != q

/-- NAK: every frame from the named LSEQ on is to be sent again, in order, ahead of new frames; PREPLAY and the device
record count each as it leaves (R306, R309). -/
def execNak (p lseq : Nat) (s : State) : Out :=
  onPort p s fun x =>
    if x.st ≠ 2 ∧ x.st ≠ 3 then s else setPort s p { x with again := framesFrom x.retry lseq }

/-! ### Retraining -/

/-- Does R307 ask for retraining: 16 failures of one LSEQ, or no ACK for four round trips? -/
def mustRetrain (s : State) (x : Port) : Bool :=
  decide (16 ≤ x.fails) || (!x.retry.isEmpty && decide (x.ackAt + 4 * x.rtt < ns s))

/-- A port retrains: LINK_RETRAIN. -/
def beginRetrain (s : State) (p : Nat) (x : Port) : State :=
  portRec (movePort s p { x with st := 4, retrains := sat32 (x.retrains + 1), fails := 0 }) p 0x0703 1

/-- RETRAIN. -/
def execRetrain (p : Nat) (s : State) : Out :=
  onPort p s fun x => if (x.st = 2 ∨ x.st = 3) ∧ mustRetrain s x then beginRetrain s p x else s

/-- RETRAIN_END: the sender resends from the last ACK; the third failure in a row takes the port DOWN with
LINK_DOWN, and its frames are discarded (R307). -/
def execRetrainEnd (p : Nat) (ok : Bool) (s : State) : Out :=
  onPort p s fun x =>
    if x.st ≠ 4 then s
    else if ok then
      movePort s p { x with st := lightState x.light, badTrain := 0, ackAt := ns s, again := x.retry }
    else if x.badTrain < 2 then beginRetrain s p { x with badTrain := x.badTrain + 1 }
    else portRec (movePort s p { x.flush with st := 0, badTrain := 0, acked := x.tx }) p 0x0704 0

/-! ### Light -/

/-- LOSS_OF_LIGHT: LOS, out of routing (R320). -/
def execLossOfLight (p : Nat) (s : State) : Out :=
  onPort p s fun x =>
    if x.st = 0 ∨ x.st = 5 then s else portRec (movePort s p { x with st := 5, light := 0 }) p 0x0701 0

/-- LIGHT_RETURN: the port trains again. -/
def execLightReturn (p : Nat) (s : State) : Out :=
  onPort p s fun x => if x.st ≠ 5 then s else movePort s p { x with st := 1, light := 0xFF }

/-! ### The relay -/

/-- HOPS of a head flit increased by this relay (Table 10-3). -/
def hopOn (fr : Frame) : Frame :=
  if fr.kind = 1 ∨ fr.kind = 4 then
    { fr with flit := leBytes 2 (min (leNat (fr.flit.take 2) + 1) 0xFFFF) ++ fr.flit.drop 2 }
  else fr

/-- CLASS in the transport header that a head or single flit begins with. -/
def flitCls (fr : Frame) : Nat := leNat (fr.flit.take 4) / 2 ^ 26 % 4

/-- A relayed flit waits at its port; it counts to the device record (R309). -/
def relayOn (s : State) (q cls : Nat) (fr : Frame) : State :=
  enqueue s q { cls := min cls 2, key := devKey, grp := none, step := 0, seq := 0, frames := [hopOn fr] }

/-- A message discarded for want of a usable port. -/
def noRoute (s : State) : State := s.setFab { s.fab with noRoute := sat32 (s.fab.noRoute + 1) }

/-- Where the flits behind a head on a channel of a port go on; none at the message's end. -/
def setThru (s : State) (p : Nat) (chan : Byte) (r : Option Thru) : State :=
  let x := getPort s p
  setPort s p { x with relay := r.toList ++ x.relay.filter fun y => y.chan ≠ chan }

/-- A head or single flit takes a port; without a usable one its message is discarded and counted (R311, R312). -/
def relayHead (s : State) (p : Nat) (dst : Peer) (seq : Nat) (fr : Frame) : State :=
  let keep (st : State) (n : Option (Nat × Nat)) : State := if fr.kind = 1 then setThru st p fr.chan (some ⟨fr.chan, n⟩) else st
  match routePort s 0xFF dst seq with
  | some q => keep (relayOn s q (flitCls fr) fr) (some (q, flitCls fr))
  | none => keep (noRoute s) none

/-- A later flit follows its head; when the head's port is no longer usable the rest of the message is discarded. -/
def relayRest (s : State) (p : Nat) (x : Port) (fr : Frame) : State :=
  match x.relay.find? fun r => r.chan = fr.chan with
  | none => s
  | some r =>
    let done (st : State) (t : Thru) : State := setThru st p fr.chan (if fr.kind = 3 then none else some t)
    match r.next with
    | none => done s r
    | some (q, c) => if usable s q then done (relayOn s q c fr) r else done (noRoute s) { r with next := none }

/-- RELAY_FLIT: a flit, accepted on port `p`, of a message for `dst`; `seq` is the message's TH_SEQ (R312). -/
def execRelayFlit (p : Nat) (dst : Peer) (seq : Nat) (fr : Frame) (s : State) : Out :=
  onPort p s fun x =>
    if !transportOn s ∨ dst = ownPeer s ∨ x.mode = 2 ∨ !sequenced fr then s
    else if fr.kind = 1 ∨ fr.kind = 4 then relayHead s p dst seq fr else relayRest s p x fr

end Sys2Proof.Machine
end

