-- ==== Sys2Proof/Machine/Boot.lean ====
section
/-!
DEFINITION. The boot chain (R389, R394 to R398, R403), training of memory and ports (R438), and the start of the
device when its reset input is released (R437).
-/

namespace Sys2Proof.Machine

/-! ### The start of bring-up (R437) -/

/-- Bring-up starts: time counts from 0, unlocked; the vaults compare the fuses (R389); their DRBGs give SN_BOOT and the seeds
of the masking generators (R390, R413), and the boot ROMs open the mailbox. -/
def bringUp (s : State) : State :=
  let s1 := s.setTime { s.time with run := true, ft := 0 }
  let s2 := s1.setSec { s1.sec with rngOk := ⟨true, true⟩ }
  let s3 := useDrbg (drawn (s2.setLed { s2.led with boot := freeVal s2 })) (vaultHalf s2)
  let s4 := reseedMask (reseedMask s3 .west) .east
  refreshRdy (s4.setBoot { s4.boot with opened := true, next := 1, fuseSplit := !fusesAgree s4 })

/-! ### Images (R394 to R397) -/

/-- BOOT_ADDR and BOOT_LEN. -/
def bootAddr (s : State) : B64 := rd64 s 0x1C008
def bootLen (s : State) : Nat := bits (rd32 s 0x1C010) 27 0

/-- The image in host memory: header, body, signature structure. -/
def imageHead (s : State) : List Byte := readMem s (hostBase + (bootAddr s).toNat) 256
def imageLen (s : State) : Nat := leNat (slice (imageHead s) 0x14 4)
/-- Header and body together. -/
def imageBytes (s : State) : List Byte := readMem s (hostBase + (bootAddr s).toNat) (256 + imageLen s)
def imageBody (s : State) : List Byte := (imageBytes s).drop 256

/-- STEPPING of Table 4-16. -/
def stepping : Nat := 0x4230

/-- Is a header malformed, or the command's address or length? -/
def imageBad (s : State) : Bool :=
  let b := imageHead s
  let n (o : Nat) : Nat := leNat (slice b o 4)
  let t := n 4
  decide ((bootAddr s).toNat % 4096 ≠ 0) || decide (2 ^ 52 ≤ (bootAddr s).toNat) ||
  decide (2 ^ 48 < hostBase + (bootAddr s).toNat + bootLen s) || decide ((rd32 s 0x1C010).toNat ≠ bootLen s) ||
  decide (bootLen s ≠ 256 + imageLen s + 4096) || n 0 != 0x46524C54 ||
  !([1, 2, 3, 4, 5, 6, 15].contains t) || decide (64 < n 0x0C) || leNat (slice b 0x18 8) != 0 ||
  leNat (slice b 0x60 160) != 0

/-- The first 0x50 bytes of the image's dual signature structure (Table 12-2). -/
def imageSig (s : State) : List Byte := readMem s (hostBase + (bootAddr s).toNat + 256 + imageLen s) 0x50

/-- Is a key ID that of a vendor firmware signing key that is not revoked (R394)? -/
def fwKey (s : State) (id : Nat) : Bool :=
  s.fuse.keyIds.zipIdx.any fun x => decide (x.1.toNat = id) && s.fuse.keyPresent.getLsbD x.2 && !s.fuse.keyRev.getLsbD x.2

/-- Is the type the one that may come now: the next of Table 12-4, or an SVN_RAISE before any other? -/
def imageInOrder (s : State) (t : Nat) : Bool := if t = 15 then s.boot.acc.isEmpty else t == s.boot.next

/-- Burned minimum of a type. -/
def svnMin (s : State) (t : Nat) : Nat := s.fuse.svn.getD (t - 1) 0

/-- Does IMG_DIGEST match the body (R394)? -/
def digestOk (s : State) : Bool := decide (bv 512 (leNat (slice (imageHead s) 0x20 64)) = Config.sha512 (imageBody s))

/-- The first check of R396 that an image fails in one half; `v` is what that half's vault finds of both signatures: the
public keys of a vendor signing key are nowhere in the spec, its key ID alone is (log entry 8). -/
def imageResult (s : State) (v : Byte) : Nat :=
  let b := imageHead s
  let t := leNat (slice b 4 4)
  if leNat (slice b 0 4) = 0x46524C54 ∧ [1, 2, 3, 4, 5, 6, 15].contains t ∧ !imageInOrder s t then 7
  else if imageBad s then 1
  else if t = 15 ∧ (imageLen s ≠ 6 ∨ (imageBody s).any fun x => decide (64 < x.toNat)) then 1
  else if !digestOk s then 1
  else if leNat (slice b 0x10 4) ≠ stepping then 8
  else if t ≠ 15 ∧ leNat (slice b 0x0C 4) < svnMin s t then 6
  else if !dsFits (imageSig s) 1 (256 + imageLen s) then 1
  else if !fwKey s (leNat (slice (imageSig s) 0x10 64)) then 4
  else if v ≠ 0 then v.toNat
  else if t = 6 ∧ !idcertOk s (imageBody s) then 9
  else 0

/-- The minima that an SVN_RAISE asks for. -/
def askedSvn (s : State) : List Nat := (List.range 6).map fun i => ((imageBody s).getD i 0).toNat

/-- The burned minima after an SVN_RAISE: bits are burned, none is cleared. -/
def raiseSvn (s : State) : List Nat := s.fuse.svn.zipIdx.map fun x => max x.1 ((askedSvn s).getD x.2 0)

/-- Does an SVN_RAISE ask for something above a present minimum? -/
def raises (s : State) : Bool := raiseSvn s != s.fuse.svn

/-- Is an SVN_RAISE accepted: it asks for nothing above the present minima, or every count after burning is the minimum asked
for (R397)? -/
def svnOk (s : State) : Bool := !raises s || raiseSvn s == askedSvn s

/-- Both vaults burn the bits of an SVN_RAISE; they stand also where it is refused. -/
def burnSvn (s : State) : State :=
  (s.setFuse { s.fuse with svn := raiseSvn s }).setFuseE { s.fuseE with svn := raiseSvn s }

/-- MR_FW (R398). -/
def mrFw (s : State) : B512 :=
  Config.sha512 (leBytes 64 Config.romDigest.toNat ++
    (List.range 5).flatMap fun i => leBytes 64 (Tab.get (fun _ => (0 : B512)) s.boot.mr (i + 1)).toNat)

/-- Ports that were enabled before the PORT image train now (R438). -/
def trainPorts (s : State) : State :=
  (List.range 8).foldl (fun st p =>
    let x := getPort st p
    if bit x.ctrl 0 ∧ x.st = 0 then setPort st p { x with st := 1, light := 0xFF } else st) s

/-- The rings run: a link that trained below x16 at 128 GT/s before is reported now (R420, R424). -/
def sageStarts (s : State) : State :=
  if !s.dev.degraded then s
  else logSpine (s.setDev { s.dev with degraded := false })
    { code := 0x0C01, data0 := bv 64 (s.dev.rate.toNat * 4 + s.dev.width.toNat) }

/-- What an accepted image starts (Table 12-4). -/
def imageStarts (s : State) (t : Nat) : State :=
  if t = 1 then sageStarts (s.setBoot { s.boot with sage := ⟨true, true⟩ })
  else if t = 4 then trainPorts s
  else if t = 5 then s.setBoot { s.boot with mrFw := mrFw s }
  else if t = 6 then (hedged s).setBoot { s.boot with done := true, chain := imageBody s, aliasRnd := rand256 s }
  else s

/-- An image that both halves have verified: measured, and what waits for it starts.  An SVN_RAISE is burned first, and then
accepted or refused with the bits standing (R397; its result is log entry 115's). -/
def acceptImage (s : State) : State :=
  let t := leNat (slice (imageHead s) 4 4)
  if t = 15 then
    if svnOk s then (burnSvn s).setBoot { s.boot with acc := s.boot.acc ++ [15] }
    else (burnSvn s).setBoot { s.boot with result := 6 }
  else
    let m := Config.sha512 (imageBytes s)
    imageStarts (s.setBoot { s.boot with
      acc := s.boot.acc ++ [t], next := t + 1, mr := Tab.put (fun _ => 0) s.boot.mr t m }) t

/-- BOOT_LOAD: both boot ROMs take the image at BOOT_ADDR; while BUSY the write is ignored with result 0x05. -/
def execBootLoad (w : BitVec 24) (s : State) : Out :=
  if !s.pwr.on ∨ !s.boot.opened ∨ s.boot.done ∨ s.boot.fuseSplit then .next s
  else if s.boot.busy then .next (s.setBoot { s.boot with result := 5 })
  else if w ≠ 0 then .next (irq (s.setBoot { s.boot with result := 1 }) 3)
  else .next (s.setBoot { s.boot with busy := true })

/-- IMAGE_VERIFY_COMPLETE: accepted when both halves accept; a split verdict refuses it with the refusing half's
result (R396). -/
def execImageVerifyComplete (rw re : Byte) (s : State) : Out :=
  if !s.boot.busy ∨ !s.dev.linkUp then .next s
  else
    let a := imageResult s rw
    let b := imageResult s re
    let s1 := s.setBoot { s.boot with busy := false, result := if a ≠ 0 then a else b, split := (a == 0) != (b == 0) }
    .next (refreshRdy (irq (if a = 0 ∧ b = 0 then acceptImage s1 else s1) 3))

/-- MEMORY_TRAINING_COMPLETE: the stacks and banks are trained, and the scrub of every frame begins (R438, R439). -/
def execMemoryTrainingComplete (s : State) : Out :=
  if !hasImage s 3 ∨ s.boot.trained then .next s
  else .next (refreshRdy (s.setBoot { s.boot with trained := true }))

end Sys2Proof.Machine
end

