-- ==== Sys2Proof/Machine/GovOps.lean ====
section
/-!
DEFINITION. The governors of filler work (R200, R201): their debts, in 1/1,024 ns.
-/

namespace Sys2Proof.Machine

def govDebt (s : State) : Gov → Nat
  | .cluster n => (getClu s n).debt
  | .borage => s.que.borDebt
  | .slice n => Tab.get (fun _ => 0) s.que.sliceDebt n
  | .bank h => s.que.bankDebt.get h

def setDebt (s : State) (g : Gov) (d : Nat) : State :=
  match g with
  | .cluster n => setClu s n { getClu s n with debt := d }
  | .borage => s.setQue { s.que with borDebt := d }
  | .slice n => s.setQue { s.que with sliceDebt := Tab.put (fun _ => 0) s.que.sliceDebt n d }
  | .bank h => s.setQue { s.que with bankDebt := s.que.bankDebt.set h d }

/-- A primary request waited `w` ns behind filler work: the time is added to the debt; a debt that
leaves 0 suspends filler work once more (FILL_SUSP). -/
def charge (s : State) (g : Gov) (w : Nat) : State :=
  if w = 0 then s
  else
    let s1 := setDebt s g (govDebt s g + 1024 * w)
    if govDebt s g = 0 then s1.setQue { s1.que with fillSusp := s1.que.fillSusp + 1 } else s1

/-- A request of a primary slot waited `w` ns behind filler work: for issue, a shared unit of the cluster, scratch or HBM. -/
def waited (sl : Slot) (w : Nat) (s : State) : State := if sl.fil then s else charge s (.cluster sl.cl) w

/-- A governor's debt after one nanosecond. -/
def decay (s : State) (d : Nat) : Nat := d - bits (rd32 s 0x1104C) 3 0

end Sys2Proof.Machine
end

