-- ==== Sys2Proof/Machine/Dill.lean ====
section
/-!
DEFINITION. Dill, the keyed generator (R77 to R81): Philox4x32 with ten rounds.
-/

namespace Sys2Proof.Machine

/-- The state of a Philox evaluation: two key words, four counter words. -/
structure Phx where
  k0 : Nat
  k1 : Nat
  x0 : Nat
  x1 : Nat
  x2 : Nat
  x3 : Nat
deriving DecidableEq, Repr

/-- One round, with the keys already bumped. -/
def phxRound (p : Phx) : Phx :=
  let a := 0xD2511F53 * p.x0
  let b := 0xCD9E8D57 * p.x2
  { p with
    x0 := (b / 2 ^ 32) ^^^ p.x1 ^^^ p.k0, x1 := b % 2 ^ 32
    x2 := (a / 2 ^ 32) ^^^ p.x3 ^^^ p.k1, x3 := a % 2 ^ 32 }

def phxBump (p : Phx) : Phx :=
  { p with k0 := (p.k0 + 0x9E3779B9) % 2 ^ 32, k1 := (p.k1 + 0xBB67AE85) % 2 ^ 32 }

def phxGo : Nat → Phx → Phx
  | 0, p => p
  | n + 1, p => phxGo n (phxRound (phxBump p))

/-- philox10 of R79. -/
def philox10 (k0 k1 x0 x1 x2 x3 : Nat) : Phx := phxGo 9 (phxRound ⟨k0, k1, x0, x1, x2, x3⟩)

def w32 (n i : Nat) : Nat := (n >>> (32 * i)) % 2 ^ 32

/-- The step key of a job seed and step number. -/
def stepKey (seed step : Nat) : Nat × Nat :=
  let p := philox10 (w32 seed 0) (w32 seed 1) (w32 step 0) (w32 step 1) (w32 seed 2) (w32 seed 3)
  (p.x0, p.x1)

/-- y0 to y3 of one element: stream, lane, use index, domain. -/
def dill (seed step stream lane use dom : Nat) : List Nat :=
  let (k0, k1) := stepKey seed step
  let p := philox10 k0 k1 (w32 lane 0) ((stream <<< 16) ||| (lane >>> 32) % 2 ^ 16) (use % 2 ^ 32)
    (dom <<< 24)
  [p.x0, p.x1, p.x2, p.x3]

/-- The n-bit random value of a rounding site. -/
def dillBits (n seed step stream lane use dom : Nat) : Nat :=
  (dill seed step stream lane use dom).headD 0 % 2 ^ n

end Sys2Proof.Machine
end

