-- ==== Sys2Proof/Machine/ShardOps.lean ====
section
/-!
DEFINITION. Shard headers (Table 8-1), the segments of a shard (Table 8-2) and registered jobs.
-/

namespace Sys2Proof.Machine

/-- A shard header's fields, Table 8-1. -/
structure Hdr where
  status : Nat
  ovf : Nat
  sStep : Nat
  wStep : Nat
  lsExp : Nat
  lsGood : Nat
  outJ : Nat
  rule : Nat
  mirror : Bool
  rnd : Bool
  gf16 : Bool
  lsDyn : Bool
  outEsc : Nat
  lrExp : Int
  job : B32
  stream : Nat
  shard : Nat
  sync : B32
  partner : Nat
  lsMax : Nat
  lsMin : Nat
  lsGrow : Nat
  row0 : Nat
  rows : Nat
  cols : Nat
  eps : Nat
  b1 : Nat
  c1 : Nat
  b2 : Nat
  c2 : Nat
  wd : Nat
  mu : Nat
  outLr : Nat
  outMu : Nat
  wVa : Nat
  gVa : Nat
  s0Va : Nat
  s1Va : Nat
  s2Va : Nat
  omVa : Nat
  oaVa : Nat
  param : Nat
  gstat : Nat
  merge : Nat
  ustat : Nat
  hcrc : Nat
deriving DecidableEq, Repr

/-- A header read from its 256 bytes. -/
def parseHdr (b : List Byte) : Hdr :=
  let n (o k : Nat) : Nat := leNat (slice b o k)
  let ctrl := n 0x40 4
  { status := n 0 4, ovf := n 4 4, sStep := n 8 8, wStep := n 0x10 8
    lsExp := n 0x18 4 / 2 ^ 16 % 64, lsGood := n 0x18 2, outJ := n 0x20 8
    rule := ctrl / 2 ^ 29 % 8, mirror := ctrl.testBit 28, rnd := ctrl.testBit 27
    gf16 := ctrl.testBit 26, lsDyn := ctrl.testBit 25, outEsc := ctrl / 2 ^ 16 % 16
    lrExp := signedOf 8 (ctrl / 2 ^ 8 % 256), job := bv 32 (n 0x44 4)
    stream := n 0x4A 2, shard := n 0x48 2, sync := bv 32 (n 0x4C 4), partner := n 0x50 4 % 2 ^ 17
    lsMax := n 0x54 4 / 2 ^ 24 % 64, lsMin := n 0x54 4 / 2 ^ 16 % 64, lsGrow := n 0x54 2
    row0 := n 0x58 3, rows := n 0x5C 3, cols := n 0x60 3, eps := n 0x64 4, b1 := n 0x68 4
    c1 := n 0x6C 4, b2 := n 0x70 4, c2 := n 0x74 4, wd := n 0x78 4, mu := n 0x7C 4
    outLr := n 0x80 4, outMu := n 0x84 4, wVa := n 0x88 8, gVa := n 0x90 8, s0Va := n 0x98 8
    s1Va := n 0xA0 8, s2Va := n 0xA8 8, omVa := n 0xB0 8, oaVa := n 0xB8 8, param := n 0xC0 8
    gstat := n 0xC8 8, merge := n 0xD0 8, ustat := n 0xD8 8, hcrc := n 0xF8 8 }

/-- The header bytes of a shard, through its context's translation. -/
def hdrBytes (s : State) (sh : Shard) : List Byte := (readVa s none sh.ctx sh.hva 256).1
def hdrOf (s : State) (sh : Shard) : Hdr := parseHdr (hdrBytes s sh)
/-- A header field written. -/
def setHdr (s : State) (sh : Shard) (off n v : Nat) : State := setVaNat s sh.ctx (sh.hva + off) n v

/-- SH_STATUS bits (Table 8-1). -/
def stReg : Nat := 31
def stA : Nat := 30
def stB : Nat := 29
def stOut : Nat := 28
def stHalt : Nat := 27
def Hdr.has (h : Hdr) (b : Nat) : Bool := h.status.testBit b
/-- SH_STATUS with one bit set or cleared. -/
def withBit (v b : Nat) (x : Bool) : Nat :=
  if v.testBit b = x then v else if x then v + 2 ^ b else v - 2 ^ b
def setStatus (s : State) (sh : Shard) (b : Nat) (x : Bool) : State :=
  setHdr s sh 0 4 (withBit (hdrOf s sh).status b x)

/-- Whole 4 KiB blocks of a byte count. -/
def blocks4k (n : Nat) : Nat := (n + 4095) / 4096

/-- A segment in place: KIND of Table 5-10, its number, address and bytes. -/
structure SegAt where
  kind : Nat
  idx : Nat
  va : Nat
  bytes : Nat
deriving DecidableEq, Repr

/-- The state segments of a rule (Table 8-2). -/
def stateSegs (h : Hdr) : List SegAt :=
  let e := h.rows * h.cols
  let s0 := if h.rule = 0 then [] else [⟨1, 1, h.s0Va, 2 * e⟩]
  let s1 := if h.rule = 3 then [⟨1, 2, h.s1Va, 2 * e⟩] else if h.rule = 4 then [⟨1, 2, h.s1Va, 2 * h.rows⟩]
    else if h.rule = 5 then [⟨1, 2, h.s1Va, (e + 3) / 4⟩] else []
  let s2 := if h.rule = 4 then [⟨1, 3, h.s2Va, 2 * h.cols⟩] else []
  s0 ++ s1 ++ s2

def wSeg (h : Hdr) : SegAt := ⟨0, 0, h.wVa, 2 * (h.rows * h.cols)⟩
def gSeg (h : Hdr) : SegAt := ⟨2, 4, h.gVa, 2 * (h.rows * h.cols)⟩
/-- Outer momentum and anchor, in a job with sites. -/
def outerSegs (h : Hdr) : List SegAt :=
  if h.merge = 0 then []
  else [⟨3, 5, h.omVa, 2 * (h.rows * h.cols)⟩, ⟨4, 6, h.oaVa, 2 * (h.rows * h.cols)⟩]
/-- The 4 KiB block that holds the header. -/
def hdrSeg (sh : Shard) : SegAt := ⟨5, 7, sh.hva / 4096 * 4096, 4096⟩

/-- The segments that an undo record copies (R167, R169). -/
def undoSegs (sh : Shard) (h : Hdr) (outer : Bool) : List SegAt :=
  if outer then wSeg h :: outerSegs h ++ [hdrSeg sh]
  else wSeg h :: stateSegs h ++ outerSegs h ++ [hdrSeg sh]

/-- The segments of the mirror check, in the order of R351. -/
def checkSegs (h : Hdr) (outer : Bool) : List SegAt :=
  if outer then wSeg h :: outerSegs h else wSeg h :: stateSegs h

/-- Segment bytes as stored, in whole 4 KiB blocks. -/
def segData (s : State) (sh : Shard) (g : SegAt) : List Byte :=
  (readVa s none sh.ctx g.va (4096 * blocks4k g.bytes)).1

/-- A segment written back. -/
def putSeg (s : State) (sh : Shard) (g : SegAt) (bs : List Byte) : State :=
  storeVa s sh.ctx g.va bs

/-- CRC-64 of each 4 KiB block of a segment (R351). -/
def segDigests (s : State) (sh : Shard) (g : SegAt) : List B64 :=
  let bs := segData s sh g
  (List.range (blocks4k g.bytes)).map fun i => crc64 (slice bs (4096 * i) 4096)

/-- The lines that a shard's header and segments occupy are read by an engine (R159). -/
def meetShard (s : State) (sh : Shard) : State :=
  if s.mem.lineErr = [] then s
  else
    let h := hdrOf s sh
    (hdrSeg sh :: wSeg h :: gSeg h :: stateSegs h ++ outerSegs h).foldl
      (fun st g => meetVa st none sh.ctx g.va (4096 * blocks4k g.bytes)) s

/-- The first error that reading the segments of a check meets (R160). -/
def checkErr (s : State) (sh : Shard) (outer : Bool) : Option VErr :=
  (checkSegs (hdrOf s sh) outer).findSome? fun g => (readVa s none sh.ctx g.va (4096 * blocks4k g.bytes)).2

/-- The digest list of a shard copy. -/
def digestList (s : State) (sh : Shard) (outer : Bool) : List B64 :=
  (checkSegs (hdrOf s sh) outer).flatMap (segDigests s sh)

/-- SH_HCRC as it should read: CRC-64 of bytes 0x40 to 0xF7 (R244). -/
def hcrcOf (s : State) (sh : Shard) : B64 := crc64 (slice (hdrBytes s sh) 0x40 0xB8)

/-- The header fingerprint (R349): bytes 0x08 to 0x27 and 0x40 to 0x87, with MIRROR, SH_SYNC and
SH_PARTNER taken as 0. -/
def fingerprint (s : State) (sh : Shard) : B64 :=
  let b := hdrBytes s sh
  let ctrl := leNat (slice b 0x40 4)
  crc64 (slice b 8 32 ++ leBytes 4 (withBit ctrl 28 false) ++ slice b 0x44 8 ++ List.replicate 8 0 ++
    slice b 0x54 0x34)

/-! ### Registered shards and jobs -/

/-- Is a registered shard the one whose header stands at an address of a context?  Contexts of a job share their shards;
translation is each context's own (R155). -/
def isShard (s : State) (ctx hva : Nat) (x : Shard) : Bool :=
  x.hva == hva && (x.ctx == ctx || decide ((getCtx s x.ctx).job = (getCtx s ctx).job))

def findShard (s : State) (ctx hva : Nat) : Option Shard := s.upd.shards.find? (isShard s ctx hva)

def shardsOf (s : State) (job : B32) : List Shard := s.upd.shards.filter fun x => x.job = job
def ownShards (s : State) (job : B32) : List Shard := (shardsOf s job).filter fun x => !x.mirror
def mirShards (s : State) (job : B32) : List Shard := (shardsOf s job).filter fun x => x.mirror
def shardBy (s : State) (job : B32) (idx : Nat) (mirror : Bool) : Option Shard :=
  (shardsOf s job).find? fun x => x.idx == idx && x.mirror == mirror

/-- The registered job of the primary or the filler contexts. -/
def jobReg (s : State) (fil : Bool) : Option JobReg := if fil then s.upd.jobF else s.upd.jobP
def setJobReg (s : State) (fil : Bool) (j : Option JobReg) : State :=
  s.setUpd (if fil then { s.upd with jobF := j } else { s.upd with jobP := j })
/-- Is the job registered, and for which kind of context? -/
def jobKind (s : State) (job : B32) : Option Bool :=
  match s.upd.jobP, s.upd.jobF with
  | some j, f => if j.job = job then some false else (match f with
      | some k => if k.job = job then some true else none
      | none => none)
  | none, some k => if k.job = job then some true else none
  | none, none => none
def jobHalted (s : State) (job : B32) : Bool :=
  match jobKind s job with
  | some f => (match jobReg s f with | some j => j.halted | none => false)
  | none => false

/-- A device of the own site by address. -/
def localPeer (s : State) (addr : Nat) : Peer := ⟨(ownPeer s).site, addr⟩

/-- The mirror pair of a job: primary or filler. -/
def pairOf (s : State) (fil : Bool) : Pair := if fil then s.mir.f else s.mir.p
def setPair (s : State) (fil : Bool) (p : Pair) : State :=
  s.setMir (if fil then { s.mir with f := p } else { s.mir with p := p })
/-- Is the mirror service of a job UP or CHECKING (R350)? -/
def pairServes (p : Pair) : Bool := p.st = .up || p.st = .checking

/-- Is a device declared absent (R319)? -/
def isAbsent (s : State) (p : Peer) : Bool := s.fab.watch.any fun w => w.peer = p && w.absent

/-- Is a member lost: declared absent, or in keep-alive mode as its heartbeat says (R360)? -/
def peerLost (s : State) (p : Peer) : Bool := s.fab.watch.any fun w => w.peer = p && (w.absent || w.ka)

/-! ### Steps of a job -/

/-- The outcome held for a step, the latest first. -/
def heldOut (s : State) (job : B32) (step : Nat) : Option OutMsg :=
  s.col.outs.find? fun o => o.job = job && o.step == step

/-- Is a step decided: Commit or Skip held (R228)? -/
def decidedAs (s : State) (job : B32) (step : Nat) : Option Outc :=
  match s.col.outs.find? fun o => o.job = job && o.step == step && o.out != .rerun with
  | some o => some o.out
  | none => none

/-- The ATTEMPT of a step: its Re-run outcomes so far (R296). -/
def attemptOf (s : State) (job : B32) (step : Nat) : Nat :=
  (s.col.outs.filter fun o => o.job = job && o.step == step && o.out == .rerun).length

/-- The most recently decided step of a job. -/
def lastDecided (s : State) (job : B32) : Option Nat :=
  ((s.col.outs.filter fun o => o.job = job && o.out != .rerun).map (·.step)).foldl
    (fun a n => some (match a with | some m => max m n | none => n)) none

/-- The vote at hand of a job: of those kept, the one of the lowest step. -/
def findVote (s : State) (job : B32) : Option Vote :=
  (s.col.votes.filter fun v => v.job = job).foldl (fun a v => match a with
    | none => some v
    | some b => if v.step < b.step then some v else some b) none

/-- The step in progress of a job (R160): after the last decided one; before any decision, the step
of its open vote, of its shards, or of words that have come. -/
def stepInProgress (s : State) (job : B32) : Nat :=
  match lastDecided s job with
  | some n => n + 1
  | none =>
    match s.col.votes.find? fun v => v.job = job && v.opened with
    | some v => v.step
    | none =>
      match ownShards s job with
      | sh :: _ => (hdrOf s sh).wStep + 1
      | [] => match findVote s job with | some v => v.step | none => 0

/-! ### Lovage messages (R353) -/

/-- TH_ENG of a Lovage message, Table 11-3. -/
def lovEng (kind shard seg first : Nat) : B64 :=
  bv 64 (kind * 2 ^ 56 + shard % 2 ^ 16 * 2 ^ 40 + seg % 16 * 2 ^ 36 + first % 2 ^ 36)

/-- A Lovage message: its payload begins with the step number and the attempt. -/
def sendLovage (s : State) (dst : Peer) (ctx : Nat) (job : B32) (eng : B64) (step : Nat) (data : List Byte)
    (body : Body) : State :=
  send s { cls := 2, typ := 9, dst := dst, ten := (getCtx s ctx).tenant, job := job, eng := eng
           payload := leBytes 8 step ++ leBytes 8 (attemptOf s job step) ++ data } body

end Sys2Proof.Machine
end

