-- ==== Sys2Proof/Machine/SorrelOps.lean ====
section
/-!
DEFINITION. Sorrel's journal: entry sizes and retention depth (R165, R166), the journal region (R164), the record
formats (R174 to R177), the life of an entry (R167 to R169), undo copies, damage and restores (R171, R172).
-/

namespace Sys2Proof.Machine

def framesFor (n : Nat) : Nat := (n + frameBytes - 1) / frameBytes

/-- Bytes of a shard's part of an inner entry: undo record and gradient record (R165). -/
def innerBytes (sh : Shard) (h : Hdr) : Nat :=
  (undoSegs sh h false ++ [gSeg h]).foldl (fun a g => a + 4096 * blocks4k g.bytes) 0

/-- Valid sites of the job (R332). -/
def validSites (s : State) : List Nat := (s.fab.sites.filter fun e => e.2.valid).map (·.1)

/-- Bytes of a shard's part of an outer-merge entry: its segments and the differences of the sites. -/
def outerBytes (s : State) (sh : Shard) (h : Hdr) : Nat :=
  let e := h.rows * h.cols
  (undoSegs sh h true).foldl (fun a g => a + 4096 * blocks4k g.bytes) 0 +
    (validSites s).length * (4096 * blocks4k e + 4096 * blocks4k (e / 32))

/-- E_h: frames of one entry of a job in half `h`. -/
def entryFrames (s : State) (job : B32) (h : Half) : Nat :=
  let own := (ownShards s job).filter fun x => x.half = h
  let inner := own.foldl (fun a x => a + innerBytes x (hdrOf s x)) 0
  let loose := own.any fun x => (hdrOf s x).merge != 0
  let outer := own.foldl (fun a x => a + outerBytes s x (hdrOf s x)) 0
  framesFor (if loose then max inner outer else inner)

/-- The depth test of R165 against room `c` per half. -/
def depthOf (e c : Two Nat) (maxDepth : Nat) : Nat :=
  if 4 * e.w ≤ c.w ∧ 4 * e.e ≤ c.e ∧ maxDepth = 2 then 2
  else if 3 * e.w ≤ c.w ∧ 3 * e.e ≤ c.e ∧ 1 ≤ maxDepth then 1 else 0

def jobE (s : State) (fil : Bool) : Two Nat :=
  match jobReg s fil with
  | some j => ⟨entryFrames s j.job .west, entryFrames s j.job .east⟩
  | none => ⟨0, 0⟩

/-! ### The journal region (R164, R165) -/

/-- The listed replay-store frames of a half, by index in the bank. -/
def rsListed (s : State) (h : Half) : List Nat :=
  (s.frm.tab.filter fun e => frameIsRs e.1 && frameHalf e.1 = h).map fun e => e.1 % halfFrames - hbmFrames

/-- The frames of a half's journal region. -/
def regSpans (s : State) (h : Half) : List (Nat × Nat) := (rsListed s h).foldl spanDel (s.frm.jreg.get h)

/-- C_h: frames of a half's journal region (R165). -/
def regionFrames (s : State) (h : Half) : Nat := spanSize (regSpans s h)

/-- The FREE replay-store frames of a half, and those of the region already. -/
def freeSpans (s : State) (h : Half) : List (Nat × Nat) :=
  let reached := s.frm.scrub.get h - hbmFrames
  (s.frm.jscr.get h).foldl spanCut ((rsListed s h).foldl spanDel (if reached = 0 then [] else [(0, reached)]))

/-- Every FREE frame of both banks becomes DEVICE (R164). -/
def takeRegion (s : State) : State :=
  s.setFrm { s.frm with jreg := ⟨freeSpans s .west, freeSpans s .east⟩ }

/-- The region's frames are released, to be scrubbed, once EN is 0 and no entry is left (R164, R150). -/
def leaveRegion (s : State) : State :=
  if s.jrn.en || !s.jrn.entries.isEmpty then s
  else s.setFrm { s.frm with
    jscr := ⟨s.frm.jscr.w ++ regSpans s .west, s.frm.jscr.e ++ regSpans s .east⟩, jreg := ⟨[], []⟩ }

/-- Depths of the primary and the filler job; a job not registered has depth 0. -/
def newDepths (s : State) : Nat × Nat :=
  let c : Two Nat := ⟨regionFrames s .west, regionFrames s .east⟩
  let p := match jobReg s false with
    | some _ => if s.jrn.en then depthOf (jobE s false) c s.jrn.maxDepth else 0
    | none => 0
  let e := jobE s false
  let room : Two Nat := if p = 0 then c else ⟨c.w - (p + 2) * e.w, c.e - (p + 2) * e.e⟩
  let f := match jobReg s true with
    | some _ => if s.jrn.en then depthOf (jobE s true) room s.jrn.maxDepth else 0
    | none => 0
  (p, f)

def depthNow (s : State) (fil : Bool) : Nat := if fil then s.jrn.depthF else s.jrn.depthP
def setDepth (s : State) (fil : Bool) (d : Nat) : State :=
  s.setJrn (if fil then { s.jrn with depthF := d } else { s.jrn with depthP := d })

/-- JRN_DEPTH: names the job and its new depth (R166). -/
def logDepth (s : State) (job : B32) (d : Nat) : State :=
  logSpine s { code := 0x0208, sev := 0, scope := 5, step := bv 64 (stepInProgress s job), job := job, data0 := bv 64 d }

def delEntries (s : State) (p : JEnt → Bool) : State :=
  s.setJrn { s.jrn with entries := s.jrn.entries.filter fun e => !p e }

/-- Is a Lovage check of a step after `step` open for the job (R38)? -/
def laterCheck (s : State) (job : B32) (step : Nat) : Bool :=
  s.mir.chks.any fun c => c.job = job && !c.done && decide (step < c.step)

/-- The oldest CHECKED entries beyond a lower depth are released at once (R166), none while a check of a later step is
open (R38). -/
def trimDepth (s : State) (fil : Bool) (job : B32) (d : Nat) : State :=
  let chk := (s.jrn.entries.filter fun e => e.fil == fil && e.st = .checked).map (·.step)
  let drop := ((sortOn id chk).take (chk.length - d)).filter fun n => !laterCheck s job n
  delEntries s fun e => e.fil == fil && e.st = .checked && drop.contains e.step

/-- A job's depth changes: the register, the entries beyond it, the record. -/
def newDepth (s : State) (fil : Bool) (d : Nat) : State :=
  if depthNow s fil = d then s
  else match jobReg s fil with
    | some j => logDepth (trimDepth (setDepth s fil d) fil j.job d) j.job d
    | none => setDepth s fil d

/-- The depths chosen again (R166). -/
def rechoose (s : State) : State :=
  let (p, f) := newDepths s
  newDepth (newDepth s false p) true f

/-! ### Record formats (R174 to R177) -/

def JSt.code : JSt → Nat
  | .open_ => 1 | .undo => 2 | .voted => 3 | .checked => 4 | .damaged => 5

/-- The copies that an entry holds in a half. -/
def JEnt.halfSegs (e : JEnt) (h : Half) : List Seg := e.segs.filter fun g => g.half = h

/-- Bytes of an entry's place in the journal index: header, 1,024 descriptors, 4,096 batch references. -/
def indexSlot : Nat := 163968
/-- Where a half's journal index begins: in the device region of its HBM, at an offset that the spec does not give (log
entry 88). -/
def indexBase (h : Half) : Nat := (if h = .west then westHbm else eastHbm) + hbmFrames * frameBytes + 944960
/-- Where the header of an entry stands. -/
def JEnt.indexPa (e : JEnt) (h : Half) : Nat := indexBase h + e.place * indexSlot

/-- A segment descriptor, Table 5-10. -/
def segDesc (g : Seg) : List Byte :=
  leBytes 8 (g.kind % 16 * 2 ^ 60 + g.va % 2 ^ 52) ++ leBytes 4 g.blocks ++
  leBytes 4 (g.shard % 2 ^ 16 * 2 ^ 16 + g.idx % 2 ^ 16) ++ leBytes 8 (g.pa % 2 ^ 48) ++ leBytes 8 g.crc.toNat

/-- A batch reference record, Table 5-11. -/
def refRec (r : BRef) : List Byte :=
  leBytes 8 (r.va % 2 ^ 52) ++ leBytes 4 r.len ++ leBytes 4 (r.ctx % 2 ^ 12) ++ leBytes 8 r.crc.toNat ++ leBytes 8 0

/-- Bytes 0x00 to 0x77 of an entry header, Table 5-9.  Both halves' headers name the batch references (log entry 88). -/
def jeHdr (e : JEnt) (h : Half) : List Byte :=
  let at_ := e.place * indexSlot + 128
  leBytes 8 e.step ++
  leBytes 4 (e.st.code * 2 ^ 28 + b2n e.outer * 2 ^ 26 + b2n e.fil * 2 ^ 25 + halfNo h * 2 ^ 24 + e.tenant.toNat * 2 ^ 12 +
    e.ctx % 2 ^ 12) ++
  leBytes 4 (e.mode % 4) ++ leBytes 4 ((e.halfSegs h).length * 2 ^ 16 + e.refs.length) ++ leBytes 4 e.lscale.toNat ++
  leBytes 4 at_ ++ leBytes 4 (at_ + 32 * 1024) ++ leBytes 4 (e.frames.get h) ++ leBytes 4 0 ++
  leBytes 8 e.tOpen ++ leBytes 8 e.tCheck ++ List.replicate 64 0

/-- The entry with JE_HCRC of both headers as they stand. -/
def JEnt.sealed (e : JEnt) : JEnt := { e with hcrc := ⟨crc64 (jeHdr e .west), crc64 (jeHdr e .east)⟩ }

/-- An entry's part of the journal index of a half: its header, descriptors and batch references, each at its place. -/
def jrnIndex (e : JEnt) (h : Half) : List (Nat × List Byte) :=
  let a := e.indexPa h
  [(a, jeHdr e h ++ leBytes 8 (e.hcrc.get h).toNat),
   (a + 128, (e.halfSegs h).flatMap segDesc), (a + 128 + 32 * 1024, e.refs.flatMap refRec)]

/-! ### Entries -/

def JEnt.is (e : JEnt) (fil outer : Bool) (step : Nat) : Bool := e.fil == fil && e.outer == outer && e.step == step

def findEnt (s : State) (fil outer : Bool) (step : Nat) : Option JEnt := s.jrn.entries.find? (·.is fil outer step)

/-- An entry changed; its headers carry JE_HCRC. -/
def mapEnt (s : State) (fil outer : Bool) (step : Nat) (f : JEnt → JEnt) : State :=
  s.setJrn { s.jrn with entries := s.jrn.entries.map fun e => if e.is fil outer step then (f e).sealed else e }

/-- The undo record's completion is reported to the mirror partner through Lovage (Table 5-7), unless it is lost. -/
def tellUndo (s : State) (fil outer : Bool) (job : B32) (step : Nat) : State :=
  let p := pairOf s fil
  if (pairServes p || p.st = .down) && !peerLost s (localPeer s p.partner) then
    sendLovage s (localPeer s p.partner) p.ctx job (lovEng 0x10 0 0 0) step []
      (.other 0x10 [job.toNat, step, b2n outer] [])
  else s

/-- 1 + the last step for which no entry opened. -/
def told (s : State) (fil outer : Bool) : Nat :=
  if outer then s.jrn.toldO else if fil then s.jrn.toldF else s.jrn.toldP
def setTold (s : State) (fil outer : Bool) (n : Nat) : State :=
  s.setJrn (if outer then { s.jrn with toldO := n } else if fil then { s.jrn with toldF := n } else { s.jrn with toldP := n })

/-- Has an inner entry of the registered job opened, or not opened at depth 0? -/
def begun (s : State) (fil : Bool) : Bool := if fil then s.jrn.begunF else s.jrn.begunP
def setBegun (s : State) (fil b : Bool) : State :=
  s.setJrn (if fil then { s.jrn with begunF := b } else { s.jrn with begunP := b })

/-- At depth 0 no entry opens and no undo record is waited for: the partner is told so once for each step (R173, R251). -/
def tellNoEnt (s : State) (fil outer : Bool) (job : B32) (step : Nat) : State :=
  if step < told s fil outer then s else tellUndo (setTold s fil outer (step + 1)) fil outer job step

/-- The first place of the index that no entry has. -/
def freePlace (s : State) : Nat :=
  ((List.range (s.jrn.entries.length + 1)).find? fun i => s.jrn.entries.all fun e => e.place != i).getD 0

/-- The lines of an entry's index in a half that hold something: header, descriptors, batch references. -/
def indexLines (e : JEnt) (h : Half) : List (Nat × Nat) :=
  let a := e.indexPa h
  [(a, 128), (a + 128, 32 * (e.halfSegs h).length), (a + 128 + 32 * 1024, 32 * e.refs.length)]

/-- The index of an entry in both halves is written afresh: its lines are whole. -/
def writeIndex (s : State) (e : JEnt) : State :=
  cleanLines (cleanLines s (e.indexPa .west) indexSlot) (e.indexPa .east) indexSlot

/-- An entry opens for a step: every registered own shard is to be copied (R168). -/
def openEnt (st : State) (fil outer : Bool) (job : B32) (step : Nat) : State :=
  let s := if outer then st else setBegun st fil true
  if depthNow s fil = 0 then tellNoEnt s fil outer job step
  else if (findEnt s fil outer step).isSome then s
  else
    let own := ownShards s job
    let ctx := match own with | x :: _ => x.ctx | [] => 0
    let c := getCtx s ctx
    let e : JEnt := {
      step := step, outer := outer, fil := fil, tenant := c.tenant, ctx := ctx, st := .open_, back := .open_,
      mode := modeFor c step, lscale := bv 32 (rnScale one32 (match own with
        | x :: _ => ((hdrOf s x).lsExp : Int) | [] => 0)),
      k := depthNow s fil, place := freePlace s,
      frames := ⟨entryFrames s job .west, entryFrames s job .east⟩, tOpen := ns s, tCheck := 0,
      segs := [], refs := [], todo := own.map (·.idx), grad := false, reported := false, merged := [], recheck := false,
      rerun := false, hcrc := ⟨0, 0⟩ }
    let s1 := writeIndex s e
    s1.setJrn { s1.jrn with entries := s1.jrn.entries ++ [e.sealed] }

/-- Do all own shards of a job stand at state_step = weight_step = n? -/
def standAt (s : State) (job : B32) (n : Nat) : Bool :=
  (ownShards s job).all fun x => (hdrOf s x).sStep == n && (hdrOf s x).wStep == n

/-- Is `step` one after which an outer round comes, so that its Phase B opens no entry (R168)? -/
def isRoundStep (s : State) (job : B32) (step : Nat) : Bool :=
  s.sx.en && decide (rd32 s 0x17040 = job) && s.sx.h != 0 && step != 0 && step % s.sx.h == 0

/-- The shards of a job come to stand at `step`: the next step's entry opens (R168). -/
def openNext (s : State) (job : B32) (step : Nat) : State :=
  match jobKind s job with
  | some fil => openEnt s fil false job (step + 1)
  | none => s

/-! ### Copies -/

/-- Bytes of a bank taken when an entry looks for room: its own copies, and the whole frames that others hold. -/
def takenBytes (s : State) (h : Half) (fil outer : Bool) (step : Nat) : List (Nat × Nat) :=
  s.jrn.entries.flatMap fun e => (e.halfSegs h).map fun g =>
    let b := g.pa + 4096 * g.blocks
    if e.is fil outer step then (g.pa, b)
    else (g.pa / frameBytes * frameBytes, (b + frameBytes - 1) / frameBytes * frameBytes)

/-- The lowest place in the journal region where a copy of `n` bytes lies contiguous (R176, log entry 88). -/
def copyPlace (s : State) (h : Half) (fil outer : Bool) (step n : Nat) : Option Nat :=
  let base := if h = .west then westRs else eastRs
  let reg := (regSpans s h).map fun x => (base + x.1 * frameBytes, base + x.2 * frameBytes)
  let used := takenBytes s h fil outer step
  (sortOn id (reg.map (·.1) ++ used.map (·.2))).find? fun a =>
    reg.any (fun r => decide (r.1 ≤ a) && decide (a + n ≤ r.2)) &&
      used.all fun u => decide (u.2 ≤ a) || decide (a + n ≤ u.1)

/-- Bytes filled with zeros up to whole 4 KiB blocks. -/
def padBlocks (bs : List Byte) : List Byte := bs ++ List.replicate (4096 * blocks4k bs.length - bs.length) 0

/-- The bytes that a copy holds. -/
def segBytes (s : State) (g : Seg) : List Byte := readMem s g.pa (4096 * g.blocks)

/-- Is a copy whole: no line of it uncorrectable, SEG_CRC right (R174)? -/
def segOk (s : State) (g : Seg) : Bool := !poisoned s g.pa (4096 * g.blocks) && crc64 (segBytes s g) == g.crc

/-- A copy of a segment written for an entry, over the one that it holds already; none where the region has no room. -/
def putCopy (s : State) (fil outer : Bool) (step : Nat) (g : Seg) (data : List Byte) : Option State :=
  let bs := padBlocks data
  let same (x : Seg) : Bool := x.kind == g.kind && x.shard == g.shard && x.idx == g.idx && x.blocks == blocks4k data.length
  let old := (findEnt s fil outer step).bind fun e => e.segs.find? same
  match (match old with
    | some x => some x.pa
    | none => copyPlace s g.half fil outer step bs.length) with
  | none => none
  | some pa =>
    some (mapEnt (writeMem s pa bs) fil outer step fun e =>
      { e with segs := e.segs.filter (fun x => !same x) ++
          [{ g with pa := pa, blocks := blocks4k data.length, crc := crc64 bs }] })

/-- How a copy ends: made; a live line or page that cannot be read; no room. -/
inductive CopyEnd where
  | made (s : State)
  | unread (s : State) (ctx : Nat) (e : VErr)
  | full (s : State)
deriving DecidableEq, Repr

/-- Segments of a shard copied into an entry, each read through the shard's own context. -/
def copySegs (fil outer : Bool) (step : Nat) (sh : Shard) : List SegAt → State → CopyEnd
  | [], s => .made s
  | g :: t, s =>
    match loadVa s sh.ctx g.va (if g.kind = 6 then g.bytes else 4096 * blocks4k g.bytes) with
    | (s1, _, some e) => .unread s1 sh.ctx e
    | (s1, bs, none) =>
      match putCopy s1 fil outer step ⟨g.kind, g.va, sh.idx, g.idx, sh.half, 0, 0, 0⟩ bs with
      | none => .full s1
      | some s2 => copySegs fil outer step sh t s2

/-- The undo copies of the shards that wait for one. -/
def copyShards (fil outer : Bool) (step : Nat) : List Shard → State → CopyEnd
  | [], s => .made s
  | sh :: t, s =>
    match copySegs fil outer step sh (undoSegs sh (hdrOf s sh) outer) s with
    | .made s1 => copyShards fil outer step t (mapEnt s1 fil outer step fun e => { e with todo := e.todo.filter (· ≠ sh.idx) })
    | x => x

/-- The undo record's completion is reported (Table 5-7). -/
def reportUndo (s : State) (fil outer : Bool) (job : B32) (step : Nat) : State :=
  tellUndo (mapEnt s fil outer step fun e => { e with st := if e.st = .open_ then .undo else e.st, reported := true })
    fil outer job step

/-- Outcome Skip: the entry is released at once (Table 5-7). -/
def entSkip (s : State) (fil : Bool) (step : Nat) : State :=
  leaveRegion (delEntries s fun e => e.fil == fil && !e.outer && e.step == step)

/-- Outcome Re-run: back to UNDO, the gradient record discarded (Table 5-7). -/
def entRerun (s : State) (fil : Bool) (step : Nat) : State :=
  mapEnt s fil false step fun e =>
    { e with
      st := if e.st = .open_ ∨ e.st = .damaged then e.st else .undo, grad := false, recheck := !e.refs.isEmpty
      rerun := true, segs := e.segs.filter fun g => g.kind != 2 }

/-- A G segment goes into the gradient record as it stands; one that cannot be read leaves what the record holds. -/
def gradCopy (fil : Bool) (step : Nat) (s : State) (sh : Shard) : State :=
  match copySegs fil false step sh [gSeg (hdrOf s sh)] s with
  | .made s1 => s1
  | .unread s1 ctx e => logPt s1 ctx e
  | .full s1 => s1

/-- Outcome Commit: VOTED, the gradient record completed from the G segments (Table 5-7).  An entry that is still OPEN or
damaged keeps what remains to be done. -/
def entCommit (s : State) (fil : Bool) (job : B32) (step : Nat) : State :=
  if (findEnt s fil false step).isNone then s
  else
    let own := ownShards s job
    let s1 := own.foldl (gradCopy fil step) s
    mapEnt s1 fil false step fun e =>
      { e with
        st := if e.st = .damaged then .damaged else .voted, back := .voted
        grad := own.all fun x => e.segs.any fun g => g.kind == 2 && g.shard == x.idx }

/-- Lovage agreement for step `s`: CHECKED, and the entries of steps up to s - k are released, k the depth in force when
each opened (R38, R166, R167). -/
def entAgree (s : State) (fil : Bool) (step : Nat) : State :=
  let s1 := mapEnt s fil false step fun e => if e.st = .voted ∧ e.grad then { e with st := .checked, tCheck := ns s } else e
  leaveRegion (delEntries s1 fun e =>
    e.fil == fil && (e.st = .checked || e.st = .damaged) && decide (e.step + e.k ≤ step) &&
      !laterCheck s (getCtx s e.ctx).job e.step)

/-- Agreement for an outer merge: its entry is CHECKED (R169). -/
def entAgreeOuter (s : State) (fil : Bool) (step : Nat) : State :=
  mapEnt s fil true step fun e => if e.st = .voted then { e with st := .checked, tCheck := ns s } else e

/-- The divergence procedure rewrote a shard: the next step's entry copies it again (R167). -/
def entReopen (s : State) (fil : Bool) (step shard : Nat) : State :=
  mapEnt s fil false step fun e => { e with st := .open_, reported := false, todo := shard :: e.todo.filter (· ≠ shard) }

/-! ### Damage (R171, R174) -/

/-- Bytes of a copy that are the live segment's: of KIND 6 an even index is the data stream, an odd one the scales. -/
def segLen (s : State) (sh : Shard) (g : Seg) : Nat :=
  let n := (hdrOf s sh).rows * (hdrOf s sh).cols / 32
  if g.kind = 6 then (if g.idx % 2 = 0 then 32 * n else n) else 4096 * g.blocks

/-- The lines of the journal index that hold an entry: header, descriptors, batch references of both halves. -/
def entLines (e : JEnt) : List (Nat × Nat) := indexLines e .west ++ indexLines e .east

/-- An entry in the journal index: no line uncorrectable, JE_HCRC right. -/
def hdrsOk (s : State) (e : JEnt) : Bool :=
  (entLines e).all (fun x => !poisoned s x.1 x.2) &&
  decide (e.hcrc = ⟨crc64 (jeHdr e .west), crc64 (jeHdr e .east)⟩)

/-- Is everything that an entry holds whole? -/
def entOk (s : State) (e : JEnt) : Bool := hdrsOk s e && e.segs.all (segOk s)

/-- A copy made again from the live segment, where the shard's state is unchanged. -/
def recopy (fil outer : Bool) (step : Nat) (job : B32) (s : State) (g : Seg) : State :=
  if segOk s g then s
  else match shardBy s job g.shard false with
    | none => s
    | some sh =>
      match loadVa s sh.ctx g.va (segLen s sh g) with
      | (s1, _, some _) => s1
      | (s1, bs, none) => (putCopy s1 fil outer step g bs).getD s1

/-- An entry found damaged: JRN_DAMAGED.  An OPEN or UNDO entry is written and copied again and returns to its state; one
whose live segments cannot be read, or of a later state, is DAMAGED (R171). -/
def entDamaged (s : State) (fil outer : Bool) (step : Nat) : State :=
  match findEnt s fil outer step with
  | none => s
  | some e =>
    let job := (getCtx s e.ctx).job
    let s1 := logSpine s { code := 0x0209, sev := 2, scope := 3, who := mkWho none 0 0 e.tenant e.ctx,
                           step := bv 64 step, job := job }
    let mark (t : State) : State := mapEnt t fil outer step fun x => { x with st := .damaged, back := e.st }
    if e.st = .open_ ∨ e.st = .undo then
      let s2 := mapEnt (writeIndex s1 e) fil outer step id
      let s3 := e.segs.foldl (recopy fil outer step job) s2
      match findEnt s3 fil outer step with
      | some x => if entOk s3 x then s3 else mark s3
      | none => s3
    else if e.st = .damaged then s1 else mark s1

/-- Sorrel reads an entry: what its lines hold is met, and damage takes effect. -/
def checkEnt (s : State) (fil outer : Bool) (step : Nat) : State :=
  match findEnt s fil outer step with
  | none => s
  | some e =>
    let s1 := (entLines e).foldl (fun st x => meetRange st x.1 x.2) s
    let s2 := e.segs.foldl (fun st g => meetRange st g.pa (4096 * g.blocks)) s1
    if e.st = .damaged ∨ entOk s2 e then s2 else entDamaged s2 fil outer step

/-- An uncorrectable line that belongs to entries: they are damaged. -/
def journalHit (s : State) (pa : Nat) : State :=
  let has (a n : Nat) : Bool := decide (a / 64 ≤ pa / 64) && decide (pa / 64 * 64 < a + n)
  (s.jrn.entries.filter fun e => (entLines e).any (fun x => decide (0 < x.2) && has x.1 x.2) ||
    e.segs.any fun g => has g.pa (4096 * g.blocks)).foldl (fun st e => checkEnt st e.fil e.outer e.step) s

/-! ### Restores (R172) -/

/-- Segments of a shard restored from an entry that has been read: those whose kind `p` accepts.  None when the record
cannot supply them. -/
def restoreSegs (s : State) (sh : Shard) (outer : Bool) (step : Nat) (p : Nat → Bool) : Option State :=
  match findEnt s sh.fil outer step with
  | none => none
  | some e =>
    let gs := e.segs.filter fun g => g.shard == sh.idx && p g.kind
    if e.st = .damaged ∨ gs.isEmpty ∨ gs.any (fun g => !segOk s g) then none
    else some (gs.foldl (fun st g => storeVa st sh.ctx g.va ((segBytes s g).take (segLen s sh g))) s)

/-- Bytes of the journaled header block of a shard: its loss-scale word (R256). -/
def journalLs (s : State) (sh : Shard) (step : Nat) : Option Nat :=
  match findEnt s sh.fil false step with
  | none => none
  | some e =>
    (e.segs.find? fun g => g.shard == sh.idx && g.kind == 5).map fun g => leNat (slice (segBytes s g) (sh.hva % 4096 + 0x18) 4)

end Sys2Proof.Machine
end

