-- ==== Sys2Proof/Machine/RuleOps.lean ====
section
/-!
DEFINITION. Rosemary's arithmetic: the rule menu (R248 to R250), the loss scale (R257), the noise
estimator (R260), the outer difference and merge (R261, R263), step parameters (R246).
-/

namespace Sys2Proof.Machine

/-! ### Elements -/

/-- 16-bit little-endian elements of bytes. -/
def halves : List Byte → List Nat
  | a :: b :: t => (a.toNat + 256 * b.toNat) :: halves t
  | _ => []

def unhalves (xs : List Nat) : List Byte := xs.flatMap (leBytes 2)

/-- The 2-bit codes of DIR bytes (R243), and back. -/
def dirCodes (bs : List Byte) : List Nat :=
  bs.flatMap fun b => (List.range 4).map fun i => b.toNat / 4 ^ i % 4
def dirByte (xs : List Nat) : Byte :=
  bv 8 (xs.getD 0 0 + 4 * xs.getD 1 0 + 16 * xs.getD 2 0 + 64 * xs.getD 3 0)
def dirBytes : List Nat → List Byte
  | a :: b :: c :: d :: t => dirByte [a, b, c, d] :: dirBytes t
  | [] => []
  | xs => [dirByte xs]

/-- One level of the tree of R129. -/
def pairUp (f : Nat → Nat → Nat) : List Nat → List Nat
  | a :: b :: t => f a b :: pairUp f t
  | xs => xs

/-- The tail tree over 2^k operands. -/
def treeOf (f : Nat → Nat → Nat) : Nat → List Nat → Nat
  | 0, xs => xs.headD 0
  | k + 1, xs => treeOf f k (pairUp f xs)

/-- Groups of `n` elements; `k` bounds their number. -/
def chunksOf {α : Type} (n : Nat) : Nat → List α → List (List α)
  | 0, _ => []
  | k + 1, xs => if xs.isEmpty then [] else xs.take n :: chunksOf n k (xs.drop n)

def groupsOf {α : Type} (n : Nat) (xs : List α) : List (List α) := chunksOf n (xs.length / n + 1) xs

/-- A list filled up with +0 to `n`. -/
def pad0 (n : Nat) (xs : List Nat) : List Nat := xs ++ List.replicate (n - xs.length) 0

/-- Sequential addition in the order given. -/
def seqSum : List W32 → W32
  | [] => 0
  | x :: xs => xs.foldl rnAdd x

/-- A row's sum: groups of 128 by the tree, then in group order (R250). -/
def rowSum (xs : List W32) : W32 :=
  seqSum ((groupsOf 128 xs).map fun g => treeOf rnAdd 7 (pad0 128 g))

/-- Column `j` of rows. -/
def column (rows : List (List Nat)) (j : Nat) : List Nat := rows.map fun r => r.getD j 0

/-! ### A phase -/

/-- What a phase of a step takes from header, context and parameter entry. -/
structure Par where
  h : Hdr
  seed : Nat
  step : Nat
  svc : Bool
  q : W32
  eta : W32
  bc1 : W32
  bc2 : W32
deriving DecidableEq, Repr

/-- The rounding of one of Rosemary's conversions (Table 8-4). -/
def Par.rnd (p : Par) (dom use lane : Nat) : Rnd :=
  if p.h.rnd then .sr 16 (dillBits 16 p.seed p.step p.h.stream lane use dom) else .rne

/-- cv of R248, with its counts. -/
def Par.cv (p : Par) (dom use lane : Nat) (x : W32) : Nat × Ctr :=
  cvtPlain bf16 p.svc (p.rnd dom use lane) (decode f32 x)

def Par.lane (p : Par) (k : Nat) : Nat := p.h.row0 * p.h.cols + k

/-- dec of a stored bfloat16. -/
def dbf (x : Nat) : W32 := toF32 (decode bf16 x)

/-- gh of a gradient element (R249). -/
def Par.gh (p : Par) (g : Nat) : W32 := rnMul (toF32 (decode (if p.h.gf16 then f16 else bf16) g)) p.q

/-- Codes and counts of converted elements. -/
def collect (l : List (Nat × Ctr)) : List Nat × Ctr := (l.map (·.1), l.foldl (fun a x => a.add x.2) {})

/-- Each element of a list with its number, converted. -/
def Par.each (p : Par) (use : Nat) (xs : List W32) : List Nat × Ctr :=
  collect (xs.zipIdx.map fun x => p.cv 3 use (p.lane x.2) x.1)

/-- The new state of Phase A from G, S0, S1 and S2: S0, S1 (DIR codes for sign momentum), S2. -/
def phaseAState (p : Par) (gs s0 s1 s2 : List Nat) : List Nat × List Nat × List Nat × Ctr :=
  let h := p.h
  let gh := gs.map p.gh
  let gm := gh.zip s0
  if h.rule = 1 ∨ h.rule = 2 then
    let (m, c) := p.each 1 (gm.map fun x => rnFma h.mu (dbf x.2) x.1)
    (m, s1, s2, c)
  else if h.rule = 3 then
    let (m, c) := p.each 1 (gm.map fun x => rnFma h.c1 x.1 (rnMul h.b1 (dbf x.2)))
    let (v, d) := p.each 2 ((gh.zip s1).map fun x => rnFma h.c2 (rnMul x.1 x.1) (rnMul h.b2 (dbf x.2)))
    (m, v, s2, c.add d)
  else if h.rule = 4 then
    let rows := groupsOf h.cols gh
    let e := rows.map fun r => r.map fun x => rnFma x x h.eps
    let (r1, c) := collect ((e.zip s1).zipIdx.map fun x =>
      p.cv 3 3 ((h.row0 + x.2) * h.cols)
        (rnFma h.c2 (rnDiv (rowSum x.1.1) (rnInt h.cols)) (rnMul h.b2 (dbf x.1.2))))
    let (c1, d) := collect (s2.zipIdx.map fun x =>
      p.cv 3 4 (h.row0 * h.cols + x.2)
        (rnFma h.c2 (rnDiv (seqSum (column e x.2)) (rnInt h.rows)) (rnMul h.b2 (dbf x.1))))
    let sr := seqSum (r1.map dbf)
    let uf := (rows.zip r1).flatMap fun x => (x.1.zip c1).map fun y =>
      rnDiv y.1 (rnSqrt (rnDiv (rnMul (dbf x.2) (dbf y.2)) sr))
    let (m, f) := p.each 1 ((uf.zip s0).map fun x => rnFma h.c1 x.1 (rnMul h.b1 (dbf x.2)))
    (m, r1, c1, (c.add d).add f)
  else if h.rule = 5 then
    let dir := gm.map fun x =>
      let k := rnFma h.c1 x.1 (rnMul h.b1 (dbf x.2))
      if pos32 k then 1 else if pos32 (rnNeg k) then 3 else 0
    let (m, c) := p.each 1 (gm.map fun x => rnFma h.c2 x.1 (rnMul h.b2 (dbf x.2)))
    (m, dir, s2, c)
  else (s0, s1, s2, {})

/-- d of Phase B for one element: gradient, S0, S1 elements; and the FMT_ERR it adds. -/
def phaseBD (p : Par) (g m x : Nat) : W32 × Nat :=
  let h := p.h
  if h.rule = 0 then (p.gh g, 0)
  else if h.rule = 2 then (rnFma h.mu (dbf m) (p.gh g), 0)
  else if h.rule = 3 then
    (rnDiv (rnMul (dbf m) p.bc1) (rnAdd (rnSqrt (rnMul (dbf x) p.bc2)) h.eps), 0)
  else if h.rule = 5 then
    (if x = 1 then one32 else if x = 3 then rnNeg one32 else 0, if x = 2 then 1 else 0)
  else (dbf m, 0)

/-- The new weights of Phase B (end of every rule in R250). -/
def phaseBW (p : Par) (ws gs s0 s1 : List Nat) : List Nat × Ctr :=
  collect (ws.zipIdx.map fun w =>
    let (d, bad) := phaseBD p (gs.getD w.2 0) (s0.getD w.2 0) (s1.getD w.2 0)
    let x := dbf w.1
    let t := rnFma (rnNeg p.eta) (rnFma p.h.wd x d) x
    let r := p.cv 3 0x10 (p.lane w.2) t
    (r.1, r.2.add { fmt := bad }))

/-! ### Outer round (R261, R263) -/

/-- The difference of a shard in blocks of 32. -/
def outerDiff (p : Par) (ws oa : List Nat) : List BlkOut :=
  (groupsOf 32 (oa.zip ws).zipIdx).map fun b =>
    encodeBlock 8 p.svc p.h.outEsc (b.map fun x =>
      (decode f32 (rnSub (dbf x.1.1) (dbf x.1.2)), p.rnd 4 0x20 (p.lane x.2)))

/-- One site of a merge: rounds missed, devices, its difference and outer momentum. -/
structure SiteIn where
  missed : Nat
  ndev : Nat
  delta : List FVal
  omom : List Nat
deriving DecidableEq, Repr

/-- The staleness weight a_k. -/
def stale (g : W32) : Nat → W32 → W32
  | 0, x => x
  | n + 1, x => stale g n (rnMul x g)

/-- New outer momentum and weights of a shard. -/
def outerMerge (p : Par) (sites : List SiteIn) (rejoin : Bool) (gam : W32) (om oa : List Nat) :
    List Nat × List Nat × Ctr :=
  let ak := sites.map fun k => rnMul (rnInt k.ndev) (stale gam k.missed one32)
  let aw := seqSum ak
  let wk := ak.map fun a => rnDiv a aw
  let nw := seqSum (sites.map fun k => rnInt k.ndev)
  let elem (i : Nat) : (Nat × Ctr) × (Nat × Ctr) × Ctr :=
    let dm := (sites.zip wk).foldl
      (fun d x => rnFma x.2 (toF32 (x.1.delta.getD i (.fin Dy.zero))) d) 0
    let uin : Nat × Ctr :=
      if rejoin then cvtPlain bf16 p.svc .rne (decode f32 (sites.foldl
        (fun a k => rnFma (rnDiv (rnInt k.ndev) nw) (dbf (k.omom.getD i 0)) a) 0))
      else (om.getD i 0, {})
    let u := p.cv 4 0x21 (p.lane i) (rnFma p.h.outMu (dbf uin.1) dm)
    let th := p.cv 4 0x22 (p.lane i)
      (rnFma (rnNeg p.h.outLr) (rnFma p.h.outMu (dbf u.1) dm) (dbf (oa.getD i 0)))
    (u, th, uin.2)
  let r := (List.range oa.length).map elem
  (r.map (·.1.1), r.map (·.2.1.1),
    r.foldl (fun a x => ((a.add x.1.2).add x.2.1.2).add x.2.2) {})

/-! ### Loss scale and noise estimator -/

/-- LS_EXP and LS_GOOD after an outcome, and does LS_FLOOR arise (R257)? -/
def lsNext (h : Hdr) (o : Outc) : Nat × Nat × Bool :=
  if !h.lsDyn then (h.lsExp, h.lsGood, false)
  else match o with
  | .commit =>
    if h.lsGrow ≤ h.lsGood + 1 then (if h.lsExp < h.lsMax then h.lsExp + 1 else h.lsExp, 0, false)
    else (h.lsExp, h.lsGood + 1, false)
  | .skip => if h.lsMin < h.lsExp then (h.lsExp - 1, 0, false) else (h.lsExp, 0, true)
  | .rerun => (h.lsExp, h.lsGood, false)

/-- What R260 writes: the five values with NOISE_INF, or none. -/
def noise (lsExp nb n : Nat) (vp vr : W32) : Option (List W32 × Bool) :=
  let b := rnInt nb
  let p := rnScale vp (-2 * (lsExp : Int))
  let r := rnScale vr (-2 * (lsExp : Int))
  let nf := rnInt n
  let nm := rnSub nf one32
  let den := rnSub r p
  if n < 2 ∨ !(finite32 p && finite32 r && finite32 den) then none
  else
    let g2 := rnDiv den (rnMul (rnMul (rnMul b b) nf) nm)
    let sv := rnDiv (rnSub p (rnDiv r nf)) (rnMul b nm)
    if pos32 den then some ([p, r, g2, sv, rnDiv (rnMul b (rnFma nf p (rnNeg r))) den], false)
    else some ([p, r, g2, sv, 0x7F800000], true)

/-! ### Step parameters (R246) -/

def spVa (h : Hdr) (step : Nat) : Nat := h.param + step % 16 * 64

/-- The parameter entry of a step, through the shard's context. -/
def spRead (s : State) (sh : Shard) (step : Nat) : List Byte × Option VErr :=
  readVa s none sh.ctx (spVa (hdrOf s sh) step) 64

/-- The lines of the parameter entry are read (R159). -/
def meetSp (s : State) (sh : Shard) (step : Nat) : State := meetVa s none sh.ctx (spVa (hdrOf s sh) step) 64

/-- The read-only fields of an entry written: OUTCOME and LS_NEXT, and for Commit the estimates. -/
def spBytes (bs : List Byte) (out : Outc) (ls : Nat) (est : Option (List W32 × Bool)) : List Byte :=
  let code := match out with | .commit => 1 | .skip => 2 | .rerun => 0
  let (v, i) := match est with | some (_, inf) => (1, b2n inf) | none => (0, 0)
  let old := slice bs 0x20 20
  slice bs 0 0x1C ++ leBytes 4 (v * 2 ^ 31 + i * 2 ^ 30 + ls % 64 * 2 ^ 8 + code) ++
  (match est with | some (xs, _) => xs.flatMap (leBytes 4) | none => old) ++ slice bs 0x34 12

/-- The entry of a step written after its outcome, once per job (R257, R260). -/
def spOutcome (s : State) (job : B32) (step : Nat) (m : OutMsg) : State :=
  match ownShards s job with
  | [] => s
  | sh :: _ =>
    let s := meetSp s sh step
    let h := hdrOf s sh
    match spRead s sh step with
    | (_, some e) => logPt s sh.ctx e
    | (bs, none) =>
      let est := if m.out = .commit then noise h.lsExp (leNat (slice bs 0x18 4)) m.g m.p.toNat m.r.toNat else none
      storeVa s sh.ctx (spVa h step) (spBytes bs m.out (lsNext h m.out).1 est)

/-- The constants of a phase of `step` on a shard (R249). -/
def parOf (s : State) (sh : Shard) (step : Nat) : Par :=
  let h := hdrOf s sh
  let bs := (spRead s sh step).1
  let n (o : Nat) : Nat := leNat (slice bs o 4)
  let c := getCtx s sh.ctx
  { h := h, seed := c.seed.toNat, step := step, svc := service c step
    q := rnScale (n 0x0C) (-(h.lsExp : Int)), eta := rnScale (n 8) h.lrExp, bc1 := n 0x10, bc2 := n 0x14 }

end Sys2Proof.Machine
end

