-- ==== Sys2Proof/Machine/VoteOps.lean ====
section
/-!
DEFINITION. The commit vote: words and their combination (R287, R288), sending and deciding (R289 to
R295), and what an outcome does on a member (R228, R254, R296, R297, R362, R363, Table 5-7).
-/

namespace Sys2Proof.Machine

/-! ### Groups and ranks -/

/-- The vote group of a job: group index and record (R270). -/
def voteGrp (s : State) (job : B32) : Option (Nat × Grp) :=
  s.col.groups.find? fun e =>
    e.2.st = .active && e.2.vote && ctxLive s e.2.ctx && decide ((getCtx s e.2.ctx).job = job)

def rankPeer (s : State) (g : Grp) (r : Nat) : Peer := g.list.getD r (ownPeer s)
def rankOf (g : Grp) (p : Peer) : Option Nat := g.list.idxOf? p

/-- Children of a rank in the vote tree, fanout 8 (R288). -/
def kidsOf (g : Grp) : List Nat :=
  ((List.range 8).map fun i => 8 * g.rank + 1 + i).filter (· < g.size)

/-- The nearest ancestor of a rank that is not declared absent (R291); the root is tried last. -/
def ancestor (s : State) (g : Grp) : Nat → Nat → Option Nat
  | 0, _ => none
  | k + 1, r =>
    if r = 0 then none
    else
      let p := (r - 1) / 8
      if isAbsent s (rankPeer s g p) then ancestor s g k p else some p

/-- The lowest rank not declared absent: the recovery root (R295). -/
def recoveryRoot (s : State) (g : Grp) : Nat :=
  ((List.range g.size).find? fun r => r == g.rank || !isAbsent s (rankPeer s g r)).getD g.rank

/-! ### Vote words -/

/-- CD_CTRL of a collective. -/
def Coll.ctrl (c : Coll) : Nat := bits (c.desc.getD 0 0) 31 0
def Coll.op (c : Coll) : Nat := c.ctrl / 2 ^ 28
def Coll.grad (c : Coll) : Bool := c.ctrl.testBit 19
def Coll.check (c : Coll) : Bool := c.ctrl.testBit 18
def Coll.isLast (c : Coll) : Bool := c.ctrl.testBit 16
def Coll.sigEn (c : Coll) : Bool := c.ctrl.testBit 14
def Coll.sync (c : Coll) : B32 := bv 32 (bits (c.desc.getD 1 0) 63 32)

/-- The job's collectives of a step and its current attempt, in ascending CD_SEQ. -/
def collsOf (s : State) (job : B32) (step : Nat) : List Coll :=
  sortOn Coll.seq (s.col.colls.filter fun c => c.job = job && c.step == step && c.attempt == attemptOf s job step)

def hasMark (l : List JobStep) (job : B32) (step : Nat) : Bool :=
  l.any fun x => x.job = job && x.step == step
def addMark (l : List JobStep) (job : B32) (step : Nat) : List JobStep :=
  if hasMark l job step then l else l ++ [⟨job, step⟩]
def dropMark (l : List JobStep) (job : B32) (step : Nat) : List JobStep :=
  l.filter fun x => !(x.job = job && x.step == step)
/-- Marks of a step and of later ones taken away. -/
def dropMarks (l : List JobStep) (job : B32) (step : Nat) : List JobStep :=
  l.filter fun x => !(x.job = job && decide (step ≤ x.step))

/-- A word with nothing in it. -/
def zeroWord (s : State) (job : B32) (step : Nat) : VWord :=
  { step := step, job := job, attempt := attemptOf s job step, nf := false, mism := false,
    notpres := false, absent := false, present := 0, p := 0, r := 0, mcnt := 0 }

/-- The word of a member that reports itself not present (R290). -/
def npWord (s : State) (job : B32) (step : Nat) : VWord := { zeroWord s job step with notpres := true }

/-- A member's own word (R287, R286). -/
def ownWord (s : State) (job : B32) (step : Nat) : VWord :=
  let cs := (collsOf s job step).filter fun c => c.grad && c.st = .complete
  let m := hasMark s.col.mism job step
  { zeroWord s job step with
    nf := hasMark s.col.nf job step, mism := m, present := 1, mcnt := b2n m
    p := bv 32 (seqSum (cs.map fun c => c.q.toNat)), r := bv 32 (seqSum (cs.map fun c => c.rho.toNat)) }

/-- A child's word combined into `v` (R288). -/
def addWord (v c : VWord) : VWord :=
  { v with
    nf := v.nf || c.nf, mism := v.mism || c.mism, notpres := v.notpres || c.notpres
    absent := v.absent || c.absent, present := v.present + c.present, mcnt := sat32 (v.mcnt + c.mcnt)
    p := bv 32 (rnAdd v.p.toNat c.p.toNat), r := bv 32 (rnAdd v.r.toNat c.r.toNat) }

/-- What a node holds: its own word, then its children's in ascending rank. -/
def combined (s : State) (v : Vote) : VWord :=
  ((sortOn (·.1) v.kids).map (·.2)).foldl addWord (v.own.getD (zeroWord s v.job v.step))

/-! ### The vote of a step -/

/-- The vote record of a job for a step; one of an earlier attempt gives way. -/
def theVote (s : State) (job : B32) (grp step : Nat) : Vote :=
  let new : Vote := { job := job, grp := grp, step := step, attempt := attemptOf s job step, opened := false,
                      deadline := 0, own := none, kids := [], notice := false, sent := false, recov := none }
  (s.col.votes.find? fun v => v.job = job && v.step == step && v.attempt == attemptOf s job step).getD new

/-- A vote record kept; words of other steps stay as they are. -/
def putVote (s : State) (v : Vote) : State :=
  s.setCol { s.col with votes := (s.col.votes.filter fun x => !(x.job = v.job && x.step == v.step)) ++ [v] }

/-- The votes that an outcome ends: that of its step, and with a Re-run those of later steps, which run again too. -/
def endVote (s : State) (m : OutMsg) : State :=
  s.setCol { s.col with votes := s.col.votes.filter fun x => !(x.job = m.job && (decide (x.step ≤ m.step) || m.out == .rerun)) }

/-- VOTE_WAIT of a group (Table 9-1). -/
def voteWait (s : State) (g : Grp) : Nat := if g.wait = 0 then bits (rd32 s 0x16050) 23 0 else g.wait
def retryLim (g : Grp) : Nat := if g.retry = 0 then 3 else g.retry

def sendVote (s : State) (g : Grp) (job : B32) (rank : Nat) (b : Body) : State :=
  sendTo s 0 3 (rankPeer s g rank) (getCtx s g.ctx).tenant job [] b

/-! ### What an outcome does -/

/-- Notices at every registered flag of the job for the step (R228).  The flag of a context that has been destroyed is in
quarantine: its signal is stale and counted so (R231). -/
def giveNotices (s : State) (job : B32) (step : Nat) (out : Outc) : State :=
  let code := match out with | .commit => 1 | .skip => 2 | .rerun => 3
  let hit := s.syn.tab.filter fun e => e.2.st != .free && e.2.reg && e.2.regStep == step && decide (e.2.regJob = job)
  hit.foldl (fun st e =>
    let o := getObj st e.1
    let st1 := setObj st e.1 { o with notice := code, reg := false }
    applySig st1 { n := 0, obj := mkHandle e.1 o.gen, amount := 1, who := mkSig st1 7 0 false 0 o.ctx,
                   arrive := false, ctx := none, queue := none, byCmd := false, remote := none }) s

/-- Slots of the contexts that a Contained error stopped are free of it once their kernels are gone (R112). -/
def unhalt (s : State) (ctxs : List Nat) : State :=
  (slotsWhere s fun x => x.halted && x.run.isNone && ctxs.contains (x.ctx.getD 4096)).foldl
    (fun st c => updSlot st c.1 c.2 fun x => { x with halted := false }) s

/-- Kernels abandoned and commands discarded for a job that runs `step` again (R362). -/
def rewind (s : State) (job : B32) (step : Nat) : State :=
  let ctxs := ctxsOfJob s job
  let s1 := unhalt (abandon s fun r => ctxs.contains r.ctx && decide (step ≤ r.cmd.step.toNat)) ctxs
  let qs := (s1.que.tab.filter fun e =>
    (e.2.st = .enabled || e.2.st = .halted) && ctxs.contains e.2.ctx).map (·.1)
  let s2 := qs.foldl (fun st q =>
    let x := getQ st q
    haltQueue (setQ st q { x with st := .enabled, rd := x.wr, head := none, waitDl := none }) q 9 false 0) s1
  dropWaits s2 fun w => match w with
    | .queue q => qs.contains q
    | .slot _ _ => false

/-- Kernels of a skipped step that wait on a cancelled collective are abandoned (R363). -/
def skipKernels (s : State) (job : B32) (step : Nat) (syncs : List B32) : State :=
  let ctxs := ctxsOfJob s job
  let held := (slotsWhere s fun x => match x.wait with
    | some w => syncs.contains w.obj
    | none => false).filterMap fun c => (getSlot s c.1 c.2).run
  abandon s fun r => ctxs.contains r.ctx && decide (r.cmd.step.toNat = step) && held.contains r.n

/-- Rosemary's part of Skip: both step fields, the loss scale, the signals (R33, R254, R257). -/
def skipShard (s : State) (sh : Shard) (step : Nat) : State :=
  let h := hdrOf s sh
  let (e, g, _) := lsNext h .skip
  let s1 := setHdr (setHdr (setHdr s sh 8 8 step) sh 0x10 8 step) sh 0x18 4 (e * 2 ^ 16 + g)
  engineSig s1 5 h.sync 1 0 sh.fil sh.ctx none

def skipShards (s : State) (job : B32) (step : Nat) : State :=
  let own := ownShards s job
  let s1 := match own with
    | sh :: _ =>
      if (lsNext (hdrOf s sh) .skip).2.2 then
        logRec s sh.half { code := 0x0505, sev := 0, scope := 5, job := job, step := bv 64 step }
      else s
    | [] => s
  let s2 := (shardsOf s1 job).foldl (fun st sh => skipShard st sh step) s1
  s2.setUpd { s2.upd with cmds := s2.upd.cmds.filter fun c =>
    !(c.step == step && c.kind != .out && c.kind != .exp && decide ((getCtx s2 c.ctx).job = job)) }

/-- The halt after too many digest Re-runs (R297, R32): VOTE_HALT and STOPPED contexts. -/
def voteHalt (s : State) (job : B32) (step : Nat) : State :=
  let s1 := logSpine s { code := 0x0604, sev := 2, scope := 5, job := job, step := bv 64 step }
  (ctxsOfJob s1 job).foldl stopCtxOnly s1

/-- The group record after an outcome (Table 9-1, R297). -/
def Grp.decide (g : Grp) (m : OutMsg) : Grp :=
  { g with
    decided := bv 64 m.step
    lastOut := match m.out with | .commit => 1 | .skip => 2 | .rerun => 3
    digReruns := if m.out ≠ .rerun then 0 else if m.digest then g.digReruns + 1 else g.digReruns
    attempt := if m.out = .rerun then (m.attempt + 1) % 256 else 0 }

/-- Collectives of later steps that have ended: their numbers are used again, since CD_SEQ restarts (R296). -/
def dropEnded (s : State) (job : B32) (step : Nat) : State :=
  s.setCol { s.col with colls := s.col.colls.filter fun c =>
    !(c.job = job && decide (step < c.step) && (c.st = .complete || c.st = .failed)) }

/-- Re-run: collectives from the step on are cancelled, the entry returns to UNDO, the job is
rewound, and a third digest Re-run halts it (R296, R297, R362).  Nothing of later steps stands: they run anew. -/
def applyRerun (s : State) (m : OutMsg) (fil : Bool) (digs lim : Nat) : State :=
  let s1 := dropEnded (cancelColls s fun c => c.job = m.job && decide (m.step ≤ c.step)) m.job m.step
  let s2 := rewind (entRerun s1 fil m.step) m.job m.step
  let s3 := s2.setCol { s2.col with
    reruns := sat32 (s2.col.reruns + 1)
    deliv := s2.col.deliv.filter fun d => !(d.job = m.job && decide (m.step ≤ d.step))
    nf := dropMarks s2.col.nf m.job m.step, mism := dropMarks s2.col.mism m.job m.step
    np := dropMarks s2.col.np m.job m.step }
  if m.digest ∧ lim ≤ digs then voteHalt s3 m.job m.step else s3

/-- Skip: collectives of the step are cancelled, headers take the step, the entry is released. -/
def applySkip (s : State) (m : OutMsg) (fil : Bool) : State :=
  let syncs := (s.col.colls.filter fun c =>
    (c.st = .queued || c.st = .running) && c.job = m.job && c.step == m.step).map Coll.sync
  let s1 := cancelColls s fun c => c.job = m.job && c.step == m.step
  let s2 := skipKernels s1 m.job m.step syncs
  let s3 := skipShards (spOutcome s2 m.job m.step m) m.job m.step
  let s4 := entSkip s3 fil m.step
  if isRoundStep s4 m.job m.step then s4 else openNext s4 m.job m.step

/-- Commit: the parameter entry with its estimates, the entry VOTED with the gradient record. -/
def applyCommit (s : State) (m : OutMsg) (fil : Bool) : State :=
  entCommit (spOutcome s m.job m.step m) fil m.job m.step

/-- In keep-alive mode an outcome is held and passed on; Rosemary, Sorrel and the queues are stopped (R378). -/
def heldOnly (s : State) (m : OutMsg) : State :=
  if m.out ≠ .rerun then s
  else s.setCol { s.col with reruns := sat32 (s.col.reruns + 1), np := dropMark s.col.np m.job m.step }

/-- The outcome of a step takes effect on this member (R296); a second copy of it has none. -/
def applyOutcome (s : State) (m : OutMsg) : State :=
  if s.col.outs.any fun o => o.job = m.job && o.step == m.step && o.attempt == m.attempt then s
  else
    let fil := (jobKind s m.job).getD false
    let s1 := s.setCol { s.col with outs := m :: s.col.outs }
    let s2 := giveNotices s1 m.job m.step m.out
    let (digs, lim, s3) := match voteGrp s2 m.job with
      | some (i, g) => ((g.decide m).digReruns, retryLim g, setGrp s2 i (g.decide m))
      | none => (0, 1, s2)
    let s4 := endVote s3 m
    if s.err.ka then heldOnly s4 m
    else match m.out with
    | .commit => applyCommit s4 m fil
    | .skip => applySkip s4 m fil
    | .rerun => applyRerun s4 m fil digs lim

/-- The outcome goes down the vote tree (R294). -/
def passDown (s : State) (g : Grp) (m : OutMsg) : State :=
  (kidsOf g).foldl (fun st k => sendVote st g m.job k (.outc m)) s

/-! ### Sending and deciding -/

/-- The root's decision by Table 1-7 (R293, R31). -/
def rootOutcome (g : Grp) (v : Vote) (w : VWord) : OutMsg :=
  let lost := decide (w.present < g.size) || w.notpres || w.absent || v.notice
  let out : Outc := if lost || w.mism then .rerun else if w.nf then .skip else .commit
  { job := v.job, step := v.step, attempt := v.attempt, out := out, digest := w.mism && !lost
    p := w.p, r := w.r, g := g.size }

def setLastWord (s : State) (w : VWord) : State := s.setCol { s.col with lastWord := some w }

/-- The root takes its decision of one step, sends it and holds it. -/
def rootTake (s : State) (g : Grp) (v : Vote) (w : VWord) : State :=
  let m := rootOutcome g v w
  applyOutcome (passDown (setLastWord s w) g m) m

/-- Does what the root holds of a step ask for its decision (R293)? -/
def mustDecide (g : Grp) (v : Vote) (w : VWord) : Bool :=
  w.present == g.size || w.notpres || w.absent || v.notice

/-- The root takes its decision, and that of the next step where a word has come early that asks for it: it decides the
steps in order (DESIGN CHOICE, log entry 108). -/
def rootDecide (s : State) (g : Grp) (v : Vote) (w : VWord) : State :=
  let t := rootTake s g v w
  match findVote t v.job, voteGrp t v.job with
  | some u, some (_, h) =>
    if u.step = stepInProgress t v.job ∧ mustDecide h u (combined t u) then rootTake t h u (combined t u) else t
  | _, _ => t

/-- A node's combined word goes to its nearest present ancestor; with none left the member waits the
latency bound and then asks the recovery root (R291, R295). -/
def forwardUp (s : State) (g : Grp) (v : Vote) (w : VWord) : State :=
  match ancestor s g (g.size + 1) g.rank with
  | some p => putVote (sendVote (setLastWord s w) g v.job p (.vword w)) { v with sent := true }
  | none =>
    putVote (setLastWord s w) { v with
      sent := true, recov := some (match v.recov with | some b => b | none => beat s + s.fab.lat) }

/-- After anything changed in a vote: the root decides, a node forwards (R291, R293).  `now` tells
that a word with NOTPRES or ABSENT has come, or an absence notice, or the deadline. -/
def voteMove (s : State) (g : Grp) (v : Vote) (now : Bool) : State :=
  let w := combined s v
  let s1 := putVote s v
  if g.rank = 0 then
    if (mustDecide g v w ∨ now) ∧ v.step = stepInProgress s1 v.job then rootDecide s1 g v w else s1
  else if now || (!v.sent && v.own.isSome && (kidsOf g).all fun k => v.kids.any fun e => e.1 == k) then
    forwardUp s1 g v w
  else s1

/-- The member is not present for the vote of a step: its word goes at once with NOTPRES (R290). -/
def notPresent (s : State) (job : B32) (step : Nat) : State :=
  if (decidedAs s job step).isSome then s
  else
    let s1 := s.setCol { s.col with np := addMark s.col.np job step }
    match voteGrp s1 job with
    | none => s1
    | some (i, g) =>
      let v := theVote s1 job i step
      voteMove s1 g { v with own := some (npWord s1 job step) } true

/-- A context enters STOPPED (R187); its job's vote of the step in progress is not present (R145). -/
def stopCtx (s : State) (id : Nat) : State :=
  if (getCtx s id).st ≠ .ready then s
  else
    let job := (getCtx s id).job
    let s1 := stopCtxOnly s id
    if (jobKind s1 job).isSome || (voteGrp s1 job).isSome then notPresent s1 job (stepInProgress s1 job) else s1

/-- Jobs that have a vote group here. -/
def voteJobs (s : State) : List B32 :=
  ((s.col.groups.filter fun e => e.2.st = .active && e.2.vote).map fun e => (getCtx s e.2.ctx).job).dedup

/-- A device in keep-alive mode sends NOTPRES for every job (R360). -/
def npAll (s : State) : State := (voteJobs s).foldl (fun st j => notPresent st j (stepInProgress st j)) s

/-- A record of any severity, with the votes' part of an entry into keep-alive mode. -/
def raiseAll (s : State) (h : Half) (x : Rec) : State :=
  let t := raise s h x
  if t.err.ka && !s.err.ka then npAll t else t

def raiseSpineAll (s : State) (x : Rec) : State :=
  let t := raiseSpine s x
  if t.err.ka && !s.err.ka then npAll t else t

/-- Keep-alive mode with its votes. -/
def goKeepAlive (s : State) (code : Nat) : State :=
  if s.err.ka then s else npAll (enterKeepAlive s code)

end Sys2Proof.Machine
end

