-- ==== Sys2Proof/Machine/Yupor.lean ====
section
/-!
DEFINITION. Issue of a Yupor instruction: who may issue, the field checks of R121, program faults
(R142 to R145), the registers of a slot (R115), CSRs (Table 4-2) and the capability table (R139).
-/

namespace Sys2Proof.Machine

/-! ### Registers -/

abbrev Lanes := List B32
def zeroLanes : Lanes := List.replicate 128 0

/-- S0 reads 0 (R115). -/
def sget (x : SlotSt) (r : BitVec 6) : B64 := if r = 0 then 0 else Tab.get (fun _ => 0) x.sreg r.toNat
/-- Writes to S0 are discarded. -/
def sset (x : SlotSt) (r : BitVec 6) (v : B64) : SlotSt :=
  if r = 0 then x else { x with sreg := Tab.put (fun _ => 0) x.sreg r.toNat v }
def vget (x : SlotSt) (r : Nat) : Lanes := Tab.get (fun _ => zeroLanes) x.vreg r
def vset (x : SlotSt) (r : Nat) (v : Lanes) : SlotSt :=
  { x with vreg := Tab.put (fun _ => zeroLanes) x.vreg r v }
def pget (x : SlotSt) (r : Nat) : B128 := Tab.get (fun _ => 0) x.preg r
def pset (x : SlotSt) (r : Nat) (v : B128) : SlotSt := { x with preg := Tab.put (fun _ => 0) x.preg r v }
def tget (x : SlotSt) (r : Nat) : BitVec 256 := Tab.get (fun _ => 0) x.treg r
def tset (x : SlotSt) (r : Nat) (v : BitVec 256) : SlotSt :=
  { x with treg := Tab.put (fun _ => 0) x.treg r v }

/-- A word of the upper left `h` rows and `w` columns of an accumulator tile or streaming buffer. -/
def accBlock (tile h w word : Nat) : Bool :=
  word / 8192 == tile && decide (word % 8192 / 128 < h) && decide (word % 128 < w)

/-- Words written anew have their parity right (R111). -/
def clearAcc (x : SlotSt) (p : Nat → Bool) : SlotSt := { x with accErr := x.accErr.filter fun k => !p k }

/-- No word of a set has wrong parity. -/
def accClean (x : SlotSt) (p : Nat → Bool) : Bool := !x.accErr.any p

/-- A row of an accumulator tile, 128 values (R116). -/
def accRow (x : SlotSt) (a r : Nat) : Lanes := Tab.getMany (fun _ => 0) x.acc (a * 8192 + r * 128) 128
def setAccRow (x : SlotSt) (a r : Nat) (v : Lanes) : SlotSt :=
  { x with acc := Tab.putMany (fun _ => 0) x.acc (a * 8192 + r * 128) v }

/-! ### Program faults -/

def cMAL : Nat := 1
def cALIGN : Nat := 2
def cTRANS : Nat := 3
def cCSR : Nat := 4
def cPOISON : Nat := 5
def cWD : Nat := 6
def cENG : Nat := 7

/-- The context whose work a slot runs. -/
def slotCtx (s : State) (cl : Nat) (fil : Bool) : Nat := (getSlot s cl fil).ctx.getD 0

/-- A program fault of a slot (R142, R145): FAULT and FAULT_PC of its first fault, CR_FAULT, the
record, the context STOPPED. -/
def progFault (s : State) (cl : Nat) (fil : Bool) (id code cls addr pc : Nat) : State :=
  let x := getSlot s cl fil
  let c := getCtx s id
  let s1 := if x.ctx = some id ∧ x.fault = 0 then
      setSlot s cl fil { x with
        fault := bv 64 (code * 2 ^ 56 + cls % 16 * 2 ^ 52 + addr % 2 ^ 52), faultPc := pc }
    else s
  let s2 := if c.faultCode = 0 then setCtx s1 id { getCtx s1 id with faultCl := cl, faultCode := code } else s1
  let s3 := logRec s2 (clHalf s cl)
    { code := 0x0105, sev := 2, scope := 2, who := mkWho (some (physCl s cl, fil)) 0 0 c.tenant id,
      step := x.stepNo, job := c.job, addr := bv 64 (addr % 2 ^ 52), data0 := bv 64 code }
  stopCtx s3 id

/-- An ENGINE fault of a command that a slot issued earlier: class, address, address of the
instruction (R143, R136). -/
def engineFault (s : State) (cl : Nat) (fil : Bool) (id cls addr pc : Nat) : State :=
  progFault s cl fil id cENG cls addr pc

/-! ### Issue -/

/-- Does the governor of a cluster admit filler work, and the power manager grant it (R200, R201)? -/
def fillerOk (s : State) (cl : Nat) : Bool :=
  (getClu s cl).debt == 0 && bits (rd32 s 0x1104C) 3 0 != 0 && !s.pwr.held.get (clHalf s cl)

/-- Does the slot issue its next instruction now? -/
def canIssue (s : State) (cl : Nat) (fil : Bool) : Bool :=
  let x := getSlot s cl fil
  live s && !s.err.ka && !(s.lead.half.get (clHalf s cl)).stopped && x.run.isSome && x.wait.isNone &&
  !x.halted && x.prep != .zero && !(getClu s cl).lending && (!fil || fillerOk s cl) &&
  match x.ctx with
  | some id => (getCtx s id).st = .ready
  | none => false

/-- What an instruction does when it issues. -/
inductive Eff where
  /-- its effect; the PC moves behind it -/
  | done (s : State)
  /-- its effect; the PC goes to the address -/
  | jump (s : State) (pc : Nat)
  /-- a program fault: code and address; the instruction has no other effect (R143) -/
  | fault (code addr : Nat)
  /-- a program fault found by a table walk, whose own record stands in the state (R154) -/
  | trap (s : State) (addr : Nat)
  /-- it waits: to be issued again (log entry 6) -/
  | hold (s : State)
deriving DecidableEq, Repr

/-- Length of an instruction in bytes (R120). -/
def insLen (f : Fld) : Nat := if f.form then 16 else 8

def setPc (s : State) (cl : Nat) (fil : Bool) (pc : Nat) : State :=
  updSlot s cl fil fun x => { x with pc := pc % 2 ^ 52 }

/-- Do matrix passes of the slot run still: a precise fault waits until every earlier instruction has completed (R143). -/
def inFlight (s : State) (sl : Slot) : Bool := !(getSlot s sl.cl sl.fil).passes.isEmpty

/-- The slot goes on at `pc`; what its instruction waited behind filler work is charged (R201). -/
def goOn (t : State) (sl : Slot) (pc : Nat) : State := waited sl sl.wait (setPc t sl.cl sl.fil pc)

/-- An instruction of class `cls` issued on a slot. -/
def issue (sl : Slot) (cls : Nat) (f : Fld) (s : State) (body : State → Eff) : Out :=
  if 512 ≤ sl.cl then .fault (.noSuchUnit "cluster" sl.cl)
  else if !canIssue s sl.cl sl.fil then .next s
  else
    let pc := (getSlot s sl.cl sl.fil).pc
    match body s with
    | .done t => .next (goOn t sl (pc + insLen f))
    | .jump t p => .next (goOn t sl p)
    | .fault code addr =>
      if inFlight s sl then .next s
      else .next (progFault s sl.cl sl.fil (slotCtx s sl.cl sl.fil) code cls addr pc)
    | .trap t addr =>
      if inFlight s sl then .next s
      else .next (progFault t sl.cl sl.fil (slotCtx s sl.cl sl.fil) cTRANS cls addr pc)
    | .hold t => .next t

/-- The first condition met, in the order listed (R144), else the effect. -/
def guard (cs : List (Bool × Nat × Nat)) (e : Eff) : Eff :=
  match cs.find? (·.1) with
  | some (_, c, a) => .fault c a
  | none => e

/-! ### Fields (R121 to R123) -/

/-- Which fields an instruction uses: forms, size of the register file each register field names (0:
unused), and the other fields. -/
structure Use where
  f64 : Bool := true
  f128 : Bool := false
  rd : Nat := 0
  ra : Nat := 0
  rb : Nat := 0
  rc : Nat := 0
  imm : Bool := false
  imm32 : Bool := false
  ext : Bool := false
  pred : Bool := false
  rnd : Bool := false
  bsrc : Bool := false
  nf : Bool := false
deriving DecidableEq, Repr

/-- A register field that is unused must be 0; one that is used lies in its file. -/
def badReg (file : Nat) (r : BitVec 6) : Bool := if file = 0 then r != 0 else decide (file ≤ r.toNat)

/-- Does an instruction break R117, R121 or R122? -/
def badFld (u : Use) (f : Fld) : Bool :=
  (if f.form then !u.f128 else !u.f64) ||
  badReg u.rd f.rd || badReg u.ra f.ra || badReg u.rb f.rb || badReg u.rc f.rc ||
  (f.imm18 != 0 && (f.form || !u.imm)) || (f.form && f.imm32 != 0 && !u.imm32) ||
  (f.form && f.ext != 0 && !u.ext) ||
  (f.pred != 0 && !f.pen) || (f.pen && !u.pred) || (f.rnd != 0 && !u.rnd) ||
  (f.bsrc != 0 && !u.bsrc) || (f.nf && !u.nf)

def imm18s (f : Fld) : Int := signedOf 18 f.imm18.toNat

/-- The second operand of a scalar instruction (R123). -/
def sOperand (x : SlotSt) (f : Fld) : B64 :=
  if f.bsrc = 2 then (if f.form then f.imm32.signExtend 64 else f.imm18.signExtend 64) else sget x f.rb

/-- The fields of an instruction with a second operand b by BSRC, registers of file `file`. -/
def useB (u : Use) (file : Nat) (f : Fld) : Use :=
  if f.bsrc = 2 then { u with f128 := true, rb := 0, imm := !f.form, imm32 := f.form, bsrc := true }
  else { u with rb := if f.bsrc = 0 then file else 64, bsrc := f.bsrc ≠ 3, f128 := false }

/-! ### Scratch accesses of instructions -/

/-- Sa plus the immediate (R125), modulo 2^64. -/
def scrAddr (x : SlotSt) (f : Fld) : Nat := unsignedOf 64 ((sget x f.ra).toNat + imm18s f)

/-- Offset in the cluster of a slot's offset. -/
def scrOff (s : State) (cl : Nat) (fil : Bool) (a : Nat) : Nat := (slotPart s cl fil).1 + a

/-- Bytes `[a, a + n)` lie in the slot's part (R84). -/
def inPart (s : State) (cl : Nat) (fil : Bool) (a n : Nat) : Bool := decide (a + n ≤ (slotPart s cl fil).2)

/-- A slot's access to a scratch word that cannot be corrected, recorded against it (R111). -/
def scrUeRec (s : State) (cl : Nat) (fil : Bool) (off : Nat) : State :=
  let id := slotCtx s cl fil
  logRec s (clHalf s cl)
    { code := 0x0102, sev := 2, scope := 2, who := mkWho (some (physCl s cl, fil)) 0 0 (getCtx s id).tenant id,
      step := (getSlot s cl fil).stepNo, job := (getCtx s id).job, addr := bv 64 off }

/-- The step that a slot's job is in: the slot's, or the one in progress where that is decided (R112). -/
def slotStep (s : State) (cl : Nat) (fil : Bool) : Nat :=
  let job := (getCtx s (slotCtx s cl fil)).job
  let n := (getSlot s cl fil).stepNo.toNat
  if (decidedAs s job n).isSome then stepInProgress s job else n

/-- A Contained error of R111 in a slot's work: the slot issues nothing more, and the device is not
present for its step's vote (R112). -/
def slotHalt (s : State) (cl : Nat) (fil : Bool) : State :=
  let s1 := updSlot s cl fil fun x => { x with halted := true }
  notPresent s1 (getCtx s (slotCtx s cl fil)).job (slotStep s cl fil)

/-- A second ACC_PAR or ARRAY_RES of a cluster within 1,024 beats is Fatal for the device (R113). -/
def cellErr (s : State) (cl : Nat) (fil : Bool) (code : Nat) : State :=
  let id := slotCtx s cl fil
  let fatal := match (getClu s cl).errBeat with
    | some b => decide (beat s ≤ b + 1024)
    | none => false
  let s1 := setClu s cl { getClu s cl with errBeat := some (beat s) }
  let s2 := raiseAll s1 (clHalf s cl)
    { code := code, sev := if fatal then 3 else 2, scope := if fatal then 0 else 2,
      who := mkWho (some (physCl s cl, fil)) 0 0 (getCtx s id).tenant id,
      step := (getSlot s cl fil).stepNo, job := (getCtx s id).job }
  slotHalt s2 cl fil

/-- A corrected scratch error (SCR_CE). -/
def scrCeRec (s : State) (cl : Nat) (fil : Bool) (w : Nat) : State :=
  let id := slotCtx s cl fil
  logRec s (clHalf s cl)
    { code := 0x0101, sev := 1, scope := 2, who := mkWho (some (physCl s cl, fil)) 0 0 (getCtx s id).tenant id,
      step := (getSlot s cl fil).stepNo, job := (getCtx s id).job, addr := bv 64 (8 * w) }

/-- A word found uncorrectable is poisoned (R111). -/
def scrSpoil (s : State) (cl w : Nat) : State :=
  s.setMem { s.mem with scrPoison := Tab.put (fun _ => false) s.mem.scrPoison (cl * 2 ^ 20 + w) true }

/-- An error that appears in the storage of a slot's cluster; no read has found it yet (R111). -/
def inject (s : State) (cl : Nat) (fil : Bool) : Upset → State
  | .scrCe w => s.setMem { s.mem with scrErr := Tab.put (fun _ => 0) s.mem.scrErr (cl * 2 ^ 20 + w) 1 }
  | .scrUe w => s.setMem { s.mem with scrErr := Tab.put (fun _ => 0) s.mem.scrErr (cl * 2 ^ 20 + w) 2 }
  | .accPar k => updSlot s cl fil fun x => { x with accErr := k :: x.accErr }
  | .none => s
  | .arrayRes => s

/-- A slot's work reads a scratch word: one bit in error is corrected and recorded; two poison the word and stop the
slot; the flag tells that the instruction does not go on (R111, R112). -/
def readWord (cl : Nat) (fil : Bool) (st : State × Bool) (w : Nat) : State × Bool :=
  let s := st.1
  let e := Tab.get (fun _ => 0) s.mem.scrErr (cl * 2 ^ 20 + w)
  if st.2 ∨ e = 0 then st
  else
    let s1 := s.setMem { s.mem with scrErr := Tab.put (fun _ => 0) s.mem.scrErr (cl * 2 ^ 20 + w) 0 }
    if e = 1 then (scrCeRec s1 cl fil w, false)
    else (slotHalt (scrUeRec (scrSpoil s1 cl w) cl fil (8 * w)) cl fil, true)

/-- A slot's work reads words of its cluster's scratch. -/
def meetWords (s : State) (cl : Nat) (fil : Bool) (ws : List Nat) : State × Bool :=
  if s.mem.scrErr = [] then (s, false) else ws.foldl (readWord cl fil) (s, false)

/-- Words of a slot's ranges (offset in its part, length). -/
def rangeWords (s : State) (cl : Nat) (fil : Bool) (rs : List (Nat × Nat)) : List Nat :=
  rs.flatMap fun r => scrWords (scrOff s cl fil r.1) r.2

/-- The first of a slot's ranges that touches a poisoned word. -/
def rangeBad (s : State) (cl : Nat) (fil : Bool) (rs : List (Nat × Nat)) : Option Nat :=
  (rs.find? fun r => scrBad s cl (scrOff s cl fil r.1) r.2).map (·.1)

/-- An instruction reads ranges of its slot's scratch: a poisoned word refuses it (POISON), then errors are met. -/
def readRanges (sl : Slot) (rs : List (Nat × Nat)) (s : State) (k : State → Eff) : Eff :=
  match rangeBad s sl.cl sl.fil rs with
  | some a => .fault cPOISON a
  | none =>
    let (t, stop) := meetWords s sl.cl sl.fil (rangeWords s sl.cl sl.fil rs)
    if stop then .hold t else k t

/-- Scratch bytes read by an instruction. -/
def readStep (sl : Slot) (a n : Nat) (s : State) (k : State → List Byte → Eff) : Eff :=
  readRanges sl [(a, n)] s fun t => k t (scrRead t sl.cl (scrOff t sl.cl sl.fil a) n)

/-- The words that a write covers only in part, as ranges: it needs the rest of them (R111). -/
def partRanges (a n : Nat) : List (Nat × Nat) :=
  ((scrWords a n).filter fun w => decide (8 * w < a) || decide (a + n < 8 * w + 8)).map fun w => (8 * w, 8)

/-- A store to scratch: alignment and extent are checked before; words written in part are read (R111). -/
def writeStep (sl : Slot) (a : Nat) (bs : List Byte) (s : State) : Eff :=
  readRanges sl (partRanges a bs.length) s fun t => .done (scrWrite t sl.cl (scrOff t sl.cl sl.fil a) bs)

/-- The words of `p` of its slot's accumulators or streaming buffers are read: wrong parity of one stops the slot
(ACC_PAR). -/
def readAcc (sl : Slot) (p : Nat → Bool) (s : State) (k : State → Eff) : Eff :=
  if accClean (getSlot s sl.cl sl.fil) p then k s
  else .hold (cellErr (updSlot s sl.cl sl.fil fun x => clearAcc x p) sl.cl sl.fil 0x0103)

/-- A slot's storage is worked on with an error in it: the flag tells that the work does not go on (R111, R112). -/
def meetUpset (s : State) (cl : Nat) (fil : Bool) (u : Upset) : State × Bool :=
  match u with
  | .none => (s, false)
  | .scrCe w => readWord cl fil (inject s cl fil u, false) w
  | .scrUe w => readWord cl fil (inject s cl fil u, false) w
  | .accPar _ => (cellErr s cl fil 0x0103, true)
  | .arrayRes => (cellErr s cl fil 0x0104, true)

/-! ### CSRs (Table 4-2, R119) -/

/-- Bytes of scratch that a slot addresses. -/
def scrSize (s : State) (cl : Nat) (fil : Bool) : Nat := (slotPart s cl fil).2

/-- MODE_NEXT of a context: the last value written, STARTUP at creation. -/
def modeNext (c : Ctx) : Nat := match c.writes with | w :: _ => w.2 | [] => 1

/-- A CSR's value; none at an offset not listed. -/
def csrRead (s : State) (cl : Nat) (fil : Bool) (o : Nat) : Option B64 :=
  let x := getSlot s cl fil
  let id := slotCtx s cl fil
  let c := getCtx s id
  match o with
  | 0x0 => some x.fstat
  | 0x1 => some (bv 64 (modeFor c x.stepNo.toNat * 16 + modeNext c))
  | 0x2 => some x.stepNo
  | 0x3 => some (c.seed.extractLsb' 0 64)
  | 0x4 => some (c.seed.extractLsb' 64 64)
  | 0x5 => some (bv 64 (b2n fil * 2 ^ 32 + c.tenant.toNat * 2 ^ 12 + id))
  | 0x6 => some (bv 64 cl)
  | 0x7 => some (bv 64 (scrSize s cl fil))
  | 0x8 => some (bv 64 s.time.cycle)
  | 0x9 => some (bv 64 (ns s))
  | 0xA => some x.fault
  | 0xB => some (bv 64 x.faultPc)
  | 0xC => some x.karg
  | _ => none

/-- A write of NUM_MODE: recorded with the step number in force as its threshold (R59); bits that cannot be written are
dropped (log entry 120). -/
def writeMode (c : Ctx) (v : Nat) : Ctx := { c with writes := (c.force, v % 4) :: c.writes }

/-- A CSR written; none where R119 makes it a fault.  Reserved and read-only bits of the value are dropped (log entry 120). -/
def csrWrite (s : State) (cl : Nat) (fil : Bool) (o : Nat) (v : B64) : Option State :=
  if o = 0 then some (updSlot s cl fil fun x => { x with fstat := v &&& 0x1F })
  else if o = 1 then
    let id := slotCtx s cl fil
    some (setCtx s id (writeMode (getCtx s id) v.toNat))
  else none

/-- The flags of a context: the OR of FSTAT over its slots (R119).  Table 6-1 gives the host no register for them (log
entry 121). -/
def ctxFlags (s : State) (id : Nat) : B64 :=
  (s.slot.filter fun e => e.2.ctx = some id).foldl (fun a e => a ||| e.2.fstat) 0

/-- Flags added to FSTAT, unless NF. -/
def setFlags (x : SlotSt) (nf : Bool) (fl : Nat) : SlotSt :=
  if nf then x else { x with fstat := x.fstat ||| bv 64 fl }

/-! ### The capability table (Table 4-16) -/

/-- The 32-bit word at a word-aligned offset; words not listed read 0. -/
def capWord (s : State) (o : Nat) : Nat :=
  if 0x200 ≤ o ∧ o < 0x600 then
    let n := (o - 0x200) / 2
    let e (i : Nat) : Nat := if i < s.fuse.grade then s.fuse.lmap.getD i 0xFFFF else 0xFFFF
    e n + e (n + 1) * 2 ^ 16
  else match o with
  | 0x000 => 0x00010000 | 0x004 => 0x600 | 0x008 => 0x4230 | 0x00C => 3 | 0x010 => 1
  | 0x014 => s.fuse.grade | 0x018 => 0x00400080 | 0x01C => 0x00600048 | 0x020 => 0x40200808
  | 0x024 => 0x00801000 | 0x028 => 0x00800000 | 0x02C => 1750
  | 0x030 => 1600000000000 % 2 ^ 32 | 0x034 => 1600000000000 / 2 ^ 32
  | 0x038 => 384000000000 % 2 ^ 32 | 0x03C => 384000000000 / 2 ^ 32
  | 0x040 => 0x00140800 | 0x044 => 0x00080850 | 0x048 => 0x7FF | 0x04C => 0x7F | 0x050 => 0x3F
  | 0x058 => 0x140C0C12 | 0x05C => 0x0E110600 | 0x060 => 0x34000007 | 0x064 => 20
  | _ => 0

end Sys2Proof.Machine
end

