-- ==== Sys2Proof/Machine/LineOps.lean ====
section
/-!
DEFINITION. When a slot's asynchronous work goes on, and the queue of its kernel.
-/

namespace Sys2Proof.Machine

/-- Does a slot's asynchronous work go on: a filler's yields while filler work is suspended (R200)? -/
def slotRuns (s : State) (cl : Nat) (fil : Bool) : Bool :=
  live s && !s.err.ka && !(s.lead.half.get (clHalf s cl)).stopped && (!fil || fillerOk s cl)

/-- The queue whose KERNEL runs on a slot. -/
def slotQueue (s : State) (x : SlotSt) : Option Nat :=
  match x.run with
  | some n => (s.que.run.find? fun r => r.n == n).map (·.q)
  | none => none

end Sys2Proof.Machine
end

