-- ==== Sys2Proof/Machine/LossOps.lean ====
section
/-!
DEFINITION. A job whose shards halt (R255), a LOST pair (R369), and the repair of a poisoned line of a shard
(R355).
-/

namespace Sys2Proof.Machine

/-! ### Commands of a shard -/

/-- The registered shard of a command. -/
def cmdShard (s : State) (c : UCmd) : Option Shard := findShard s c.ctx c.hva

/-- Commands of a shard in arrival order. -/
def shardCmds (s : State) (sh : Shard) : List UCmd := s.upd.cmds.filter fun c => cmdShard s c = some sh

/-- Is a phase or merge of the shard running? -/
def shardBusy (s : State) (sh : Shard) : Bool :=
  (shardCmds s sh).any fun c => c.ph = .inA || c.ph = .inB || c.ph = .merge

/-- Is a phase or merge of the shard pending or running (R245, R265)? -/
def shardPending (s : State) (sh : Shard) : Bool := (shardCmds s sh).any fun c => c.kind != .exp

/-! ### HALTED jobs and LOST pairs -/

/-- HALTED in every header of the job; the halting step (R255). -/
def haltJob (s : State) (job : B32) (step : Nat) : State :=
  let s1 := (shardsOf s job).foldl (fun st sh => setStatus st sh stHalt true) s
  match jobKind s1 job with
  | some fil => setJobReg s1 fil (some ⟨job, true, step⟩)
  | none => s1

/-- The pair of a job is LOST: PAIR_LOST at Fatal, contexts STOPPED, shards HALTED, journal entries kept
(R369). -/
def pairLost (s : State) (job : B32) : State :=
  let fil := (jobKind s job).getD false
  if (pairOf s fil).st = .lost ∧ jobHalted s job then s
  else
    let s1 := setPair s fil { pairOf s fil with st := .lost, job := job }
    let s2 := raiseSpineAll s1 { code := 0x0805, sev := 3, scope := 5, job := job,
                                 step := bv 64 (stepInProgress s1 job),
                                 dev := mkDev (localPeer s1 (pairOf s1 fil).partner) }
    let s3 := (ctxsOfJob s2 job).foldl stopCtx s2
    haltJob s3 job (match jobReg s3 fil with | some j => j.haltStep | none => 0)

/-- Is the owner or partner of a shard lost to this device (R360, R361)? -/
def partnerLost (s : State) (sh : Shard) : Bool :=
  (pairOf s sh.fil).st = .lost || peerLost s (localPeer s (hdrOf s sh).partner)

/-! ### Repair of poisoned lines (R355) -/

/-- FETCH_REQ: a copy of a shard, or one block of a segment kind of it, is asked of a device; the payload begins with the
step at which the copy here stands. -/
def sendFetch (s : State) (dst : Peer) (sh : Shard) (blk : List Nat) : State :=
  sendLovage s dst sh.ctx sh.job (lovEng 7 sh.idx (blk.getD 0 0) (blk.getD 2 0)) (hdrOf s sh).wStep []
    (.other 7 ([sh.job.toNat, sh.idx, b2n (!sh.mirror)] ++ blk) [])

/-- UNDO_REQ to the owner of a mirror copy: the record of the inner step, or of the outer merge (log entry 110). -/
def sendUndoReq (s : State) (sh : Shard) (step : Nat) (outer : Bool) : State :=
  sendLovage s (localPeer s (hdrOf s sh).partner) sh.ctx sh.job (lovEng 5 sh.idx (if outer then 6 else 0) 0) step []
    (.other 5 [sh.job.toNat, step, sh.idx, b2n outer] [])

/-- The block of a segment that holds a physical line. -/
def blockAt (s : State) (sh : Shard) (g : SegAt) (pa : Nat) : Option Nat :=
  (List.range (blocks4k g.bytes)).find? fun i =>
    match xlate s none sh.ctx (g.va + 4096 * i) .read with
    | .ok p => decide (p / 4096 = pa / 4096)
    | .miss _ _ _ => false

/-- The registered shard, segment and block that hold a physical line. -/
def shardAt (s : State) (pa : Nat) : Option (Shard × SegAt × Nat) :=
  s.upd.shards.findSome? fun sh =>
    let h := hdrOf s sh
    (wSeg h :: gSeg h :: stateSegs h ++ outerSegs h).findSome? fun g => (blockAt s sh g pa).map fun i => (sh, g, i)

/-- Does a row of Table 5-8 restore a segment of this kind now? -/
def restores (h : Hdr) (kind : Nat) : Bool :=
  (h.has stA && kind == 1) || (h.has stB && kind == 0) || (h.has stOut && (kind == 0 || kind == 3 || kind == 4))

/-- The latest entry of a job whose gradient record holds a G segment: what the segment holds (log entry 111). -/
def gradEnt (s : State) (sh : Shard) : Option JEnt :=
  s.jrn.entries.reverse.find? fun e =>
    e.fil == sh.fil && !e.outer && e.segs.any fun x => x.kind == 2 && x.shard == sh.idx

/-- The copy of a shard's G segment in the latest gradient record, when the entry, which has been read, is whole. -/
def gradCopyOf (s : State) (sh : Shard) : Option Seg :=
  (gradEnt s sh).bind fun e =>
    if e.st = .damaged then none else e.segs.find? fun x => x.kind == 2 && x.shard == sh.idx && segOk s x

/-- Sorrel reads the entry that holds a shard's gradient record (R171, R174). -/
def checkGrad (s : State) (sh : Shard) : State :=
  match gradEnt s sh with
  | some e => checkEnt s e.fil false e.step
  | none => s

/-- A block of a G segment rewritten from the gradient record: an own shard's from the journal, a mirror copy's from its
owner's, by way of the block (R355, log entry 111). -/
def regrad (s : State) (sh : Shard) (g : SegAt) (i : Nat) : State :=
  if sh.mirror then
    if pairServes (pairOf s sh.fil) && !partnerLost s sh then
      sendFetch s (localPeer s (hdrOf s sh).partner) sh [g.kind, g.idx, i]
    else s
  else
    let t := checkGrad s sh
    match gradCopyOf t sh with
    | some x => storeVa t sh.ctx (g.va + 4096 * i) (slice (segBytes t x) (4096 * i) 4096)
    | none => t

/-- The fall-back of R173: the shard is fetched from its partner, or the job goes back to its checkpoint. -/
def fallBack (s : State) (sh : Shard) : State :=
  if pairServes (pairOf s sh.fil) && !partnerLost s sh then
    sendFetch s (localPeer s (hdrOf s sh).partner) sh []
  else pairLost s sh.job

/-- A segment restored where Table 5-8 restores it: from the journal, a mirror copy from its owner's, whose blocks are
awaited. -/
def restoreSeg (s : State) (sh : Shard) (kind step : Nat) (outer : Bool) : State :=
  if sh.mirror then
    if partnerLost s sh then pairLost s sh.job
    else sendUndoReq (s.setMir { s.mir with fixes := s.mir.fixes ++ [⟨sh.job, sh.idx, step, outer, kind⟩] }) sh step outer
  else
    let s1 := checkEnt s sh.fil outer step
    match restoreSegs s1 sh outer step (· == kind) with
    | some s2 => s2
    | none => fallBack s1 sh

/-- Does a copy show equal steps, with no phase or merge pending or running (R355)? -/
def copySettled (s : State) (sh : Shard) : Bool :=
  (hdrOf s sh).sStep == (hdrOf s sh).wStep && !shardPending s sh

/-- A segment of a kind repaired without the partner's block: the second way of R355, else the third. -/
def repairElse (s : State) (sh : Shard) (kind : Nat) : State :=
  let h := hdrOf s sh
  if restores h kind then restoreSeg s sh kind (if h.has stOut then h.wStep else h.wStep + 1) (h.has stOut) else fallBack s sh

/-- A poisoned line of a shard repaired in the first way of R355 that applies. -/
def repair (s : State) (pa : Nat) : State :=
  match shardAt s pa with
  | none => s
  | some (sh, g, i) =>
    if g.kind = 2 then regrad s sh g i
    else if (pairOf s sh.fil).st = .up ∧ copySettled s sh then
      sendFetch s (localPeer s (hdrOf s sh).partner) sh [g.kind, g.idx, i]
    else repairElse s sh g.kind

/-- What a poisoned line met by Borage, Rosemary or Lovage does: the line is repaired, and the device is not
present for the job's step in progress (R160, R355). -/
def poisonVote (s : State) (job : B32) (e : VErr) : State :=
  match e with
  | .poison _ pa => notPresent (repair s pa) job (stepInProgress s job)
  | _ => s

/-- The repair alone, for a reader that votes nothing (Sorrel). -/
def poisonRepair (s : State) (e : VErr) : State :=
  match e with
  | .poison _ pa => repair s pa
  | _ => s

end Sys2Proof.Machine
end

