-- ==== Sys2Proof/Machine/BorageOps.lean ====
section
/-!
DEFINITION. Borage's shared work: descriptors (Tables 9-2 and 9-3), chunks (R277), ring sums (R280),
digests (R283), failures (R271, R278), norms (R286) and the mirror delivery (R284).
-/

namespace Sys2Proof.Machine

/-! ### The descriptor -/

/-- Word `i` of the descriptor, 64 bits. -/
def Coll.w (c : Coll) (i : Nat) : Nat := (c.desc.getD i 0).toNat
def Coll.inF (c : Coll) : Nat := c.ctrl / 2 ^ 24 % 16
def Coll.outF (c : Coll) : Nat := c.ctrl / 2 ^ 20 % 16
def Coll.mirror (c : Coll) : Bool := c.ctrl.testBit 17
def Coll.wrap (c : Coll) : Bool := c.ctrl.testBit 15
def Coll.handle (c : Coll) : B32 := bv 32 (c.w 0 / 2 ^ 32)
def Coll.src (c : Coll) : Nat := c.w 2
def Coll.dst (c : Coll) : Nat := c.w 3
/-- n, elements. -/
def Coll.len (c : Coll) : Nat := c.w 4
def Coll.tlen (c : Coll) : Nat := c.w 7 % 2 ^ 13
def Coll.rlen (c : Coll) : Nat := c.w 7 / 2 ^ 16 % 2 ^ 13
def Coll.dist (c : Coll) : Nat := c.w 7 / 2 ^ 32
def Coll.stats (c : Coll) : Nat := c.w 8
def Coll.shard (c : Coll) : Nat := c.w 9 % 2 ^ 32
def Coll.sigVal (c : Coll) : Nat := c.w 9 / 2 ^ 32
/-- Do its units carry a digest (R283)? -/
def Coll.digested (c : Coll) : Bool := c.grad || c.check
/-- REDUCE_SCATTER, ALL_GATHER, ALL_REDUCE. -/
def Coll.chunked (c : Coll) : Bool := c.op == 3 || c.op == 4 || c.op == 5
/-- REDUCE_SCATTER, ALL_REDUCE. -/
def Coll.adds (c : Coll) : Bool := c.op == 3 || c.op == 5

/-- Bytes per element of a byte-aligned format; 0 for the others. -/
def fmtBytes (f : Nat) : Nat :=
  if f = 0 ∨ f = 10 then 4 else if f = 1 ∨ f = 2 then 2 else if f = 3 ∨ f = 4 ∨ f = 9 then 1 else 0

def floatFmt (f : Nat) : Bool := decide (f ≤ 2)

/-- The group named by a handle, when it is ACTIVE with that generation. -/
def grpFor (s : State) (h : B32) : Option (Nat × Grp) :=
  let i := bits h 25 14
  let g := getGrp s i
  if bits h 31 26 = 0 ∧ g.st = .active ∧ g.gen = bv 14 (bits h 13 0) then some (i, g) else none

/-- Does a descriptor break Table 9-2's reserved fields or Table 9-3? -/
def Coll.badForm (c : Coll) : Bool :=
  let flags := c.ctrl / 2 ^ 15 % 32
  let allowed := if c.op = 1 then 0b01001 else if c.op = 2 then 0b01000 else if c.op = 3 then 0b11110
    else if c.op = 4 ∨ c.op = 5 then 0b01000 else 0
  c.op == 0 || decide (5 < c.op) || c.ctrl % 2 ^ 14 != 0 || flags &&& allowed != flags ||
  (if c.adds then !(floatFmt c.inF && floatFmt c.outF) else fmtBytes c.inF == 0 || c.outF != c.inF) ||
  (c.grad && !(c.outF == 1 || c.outF == 2)) || ((c.mirror || c.isLast) && !c.grad) ||
  [2, 3, 5, 6, 8].any (fun i => decide (2 ^ 52 ≤ c.w i)) || decide (2 ^ 40 ≤ c.len) ||
  c.w 7 / 2 ^ 13 % 8 != 0 || c.w 7 / 2 ^ 29 % 8 != 0 || decide (2 ^ 17 ≤ c.dist) || decide (2 ^ 16 ≤ c.shard) ||
  decide (4096 < c.tlen) || decide (4096 < c.rlen) || [10, 11, 12, 13, 14, 15].any (fun i => c.w i != 0)

/-! ### Chunks and tables -/

/-- len_c of R277. -/
def Coll.chunkLen (c : Coll) (g i : Nat) : Nat :=
  if c.w 5 = 0 then c.len / g + b2n (decide (i < c.len % g)) else c.lens.getD i 0

/-- off_c of R277. -/
def Coll.chunkOff (c : Coll) (g i : Nat) : Nat :=
  if c.w 5 = 0 then i * (c.len / g) + min i (c.len % g) else (c.lens.take i).sum

/-- An entry of a PERMUTE table: rank, offset, length; and does a reserved bit stand? -/
def permEntry (b : List Byte) : (Nat × Nat × Nat) × Bool :=
  let x := leNat b
  ((x % 2 ^ 17, x / 2 ^ 88, x / 2 ^ 48 % 2 ^ 40), x / 2 ^ 17 % 2 ^ 31 != 0)

/-- Are ranks within the group and named at most once? -/
def ranksOk (g : Nat) (t : List (Nat × Nat × Nat)) : Bool :=
  t.all (fun e => decide (e.1 < g)) && decide ((t.map (·.1)).Nodup)

/-- Two element ranges that share an element. -/
def touch (a b : Nat × Nat × Nat) : Bool :=
  decide (a.2.1 < b.2.1 + b.2.2) && decide (b.2.1 < a.2.1 + a.2.2) && a.2.2 != 0 && b.2.2 != 0

/-- Do ranges of a table overlap? -/
def tableOverlap : List (Nat × Nat × Nat) → Bool
  | [] => false
  | e :: t => t.any (touch e) || tableOverlap t

/-- The length that a table gives a rank; a missing rank has 0 (R279). -/
def permLen (t : List (Nat × Nat × Nat)) (r : Nat) : Nat :=
  match t.find? fun e => e.1 == r with | some e => e.2.2 | none => 0
def permOff (t : List (Nat × Nat × Nat)) (r : Nat) : Nat :=
  match t.find? fun e => e.1 == r with | some e => e.2.1 | none => 0

/-- What a descriptor and its tables come to. -/
inductive GoRes where
  | bad
  | err (e : VErr)
  | ok (c : Coll)
deriving DecidableEq, Repr

/-- Bytes of SRC and of DST of a chunked operation. -/
def Coll.spans (c : Coll) (g : Grp) : Nat × Nat :=
  let mine := c.chunkLen g.size g.rank
  ((if c.op = 4 then mine else c.len) * fmtBytes c.inF, (if c.op = 3 then mine else c.len) * fmtBytes c.outF)

/-- SRC and DST overlap where R277 forbids it. -/
def Coll.overlaps (c : Coll) (g : Grp) : Bool :=
  let (a, b) := c.spans g
  a != 0 && b != 0 && decide (c.src < c.dst + b) && decide (c.dst < c.src + a) &&
  !(c.op == 5 && c.src == c.dst && c.inF == c.outF)

/-- The own shard whose gradient a GRAD collective gives (R284). -/
def Coll.ownShard (s : State) (c : Coll) : Option Shard := shardBy s c.job c.shard false

/-- Does DST of a GRAD collective leave the shard's G segment (R284)? -/
def Coll.beyondG (s : State) (c : Coll) (g : Grp) : Bool :=
  match c.ownShard s with
  | none => true
  | some sh =>
    let q := gSeg (hdrOf s sh)
    decide (c.dst < q.va) || decide (q.va + q.bytes < c.dst + (c.spans g).2)

/-- The explicit chunk table, read and checked (R277). -/
def withLens (s : State) (c : Coll) (g : Grp) : GoRes :=
  if c.w 5 = 0 then .ok c
  else if c.tlen ≠ g.size then .bad
  else match readVa s none g.ctx (c.w 5) (8 * g.size) with
    | (_, some e) => .err e
    | (bs, none) =>
      let ws := (groupsOf 8 bs).map leNat
      if ws.any (fun x => decide (2 ^ 40 ≤ x)) || ws.sum != c.len then .bad else .ok { c with lens := ws }

/-- The tables of a PERMUTE, read and checked (R279). -/
def withPerm (s : State) (c : Coll) (g : Grp) : GoRes :=
  match readVa s none g.ctx (c.w 5) (16 * c.tlen), readVa s none g.ctx (c.w 6) (16 * c.rlen) with
  | (_, some e), _ => .err e
  | _, (_, some e) => .err e
  | (a, none), (b, none) =>
    let x := (groupsOf 16 a).map permEntry
    let y := (groupsOf 16 b).map permEntry
    let u := x.map (·.1)
    let v := y.map (·.1)
    if x.any (·.2) || y.any (·.2) || !ranksOk g.size u || !ranksOk g.size v || tableOverlap v then .bad
    else .ok { c with snd := u, rcv := v }

/-- Is a device a Husil device: a port of its route is in Husil mode, and a Husil device is a leaf (R344; log entry 105)? -/
def husilPeer (s : State) (p : Peer) : Bool :=
  let e := routeOf s p
  (List.range 8).any fun q => (getPort s q).mode == 2 && ((bits e 15 8).testBit q || (bits e 7 0).testBit q)

/-- The limits of R344 on a group that holds a Husil device: SHIFT, PERMUTE and ALL_GATHER, with CHECK = 0. -/
def Coll.husilBad (s : State) (c : Coll) (g : Grp) : Bool :=
  (g.list.any fun p => decide (p ≠ ownPeer s) && husilPeer s p) && (c.op == 3 || c.op == 5 || c.check || c.grad)

/-- Do two collectives of a group and step have one CD_SEQ in one attempt (R274)? -/
def Coll.sameNumber (c d : Coll) : Bool :=
  d.grp == c.grp && d.gen = c.gen && d.step == c.step && d.attempt == c.attempt && d.seq == c.seq

/-- The lines of a collective's tables are read (R159). -/
def meetTables (s : State) (c : Coll) (g : Grp) : State :=
  if c.op = 2 then meetVa (meetVa s none g.ctx (c.w 5) (16 * c.tlen)) none g.ctx (c.w 6) (16 * c.rlen)
  else if c.chunked ∧ c.w 5 ≠ 0 ∧ c.tlen = g.size then meetVa s none g.ctx (c.w 5) (8 * g.size)
  else s

/-- The checks of R273 to R284 on a descriptor, with its tables read.  The number of a collective that a Re-run of an
earlier step cancelled may be used again (R296). -/
def checkColl (s : State) (c : Coll) (g : Grp) : GoRes :=
  if c.badForm || c.husilBad s g || !sameJob s c.ctx g.ctx ||
      (s.col.colls.any fun d => c.sameNumber d && d.st != .cancelled) then .bad
  else if c.op = 1 then (if c.dist = 0 ∨ g.size ≤ c.dist then .bad else .ok c)
  else if c.op = 2 then withPerm s c g
  else match withLens s c g with
    | .ok d => if d.overlaps g || (d.grad && d.beyondG s g) then .bad else .ok d
    | r => r

/-! ### Keeping collectives -/

def putColl (s : State) (c : Coll) : State :=
  s.setCol { s.col with colls := s.col.colls.map fun d => if d.n = c.n then c else d }

def findColl (s : State) (n : Nat) : Option Coll := s.col.colls.find? fun c => c.n == n

def collGrp (s : State) (c : Coll) : Grp := getGrp s c.grp

/-- Collectives queued or running (R275). -/
def activeColls (s : State) : Nat := (s.col.colls.filter fun c => c.st = .queued || c.st = .running).length
def runningColls (s : State) : Nat := (s.col.colls.filter fun c => c.st = .running).length

/-- Every lower number of the same group, step and attempt has started (R274). -/
def lowerStarted (s : State) (c : Coll) : Bool :=
  (List.range c.seq).all fun k => s.col.colls.any fun d =>
    d.grp == c.grp && d.gen = c.gen && d.step == c.step && d.attempt == c.attempt && d.seq == k && d.st != .queued &&
      d.st != .cancelled

/-- A failed collective: it signals nothing (R299). -/
def collFail (s : State) (c : Coll) : State := putColl s { c with st := .failed }

def nfMark (s : State) (job : B32) (step : Nat) : State :=
  s.setCol { s.col with nf := addMark s.col.nf job step }

/-- An ENGINE fault of a collective at an address (class 7). -/
def collEngine (s : State) (c : Coll) (addr : Nat) : State := engineFault s c.cl c.fil c.ctx 7 addr c.pc

/-- A collective that cannot reach memory fails with ENGINE; poison withholds presence (R143, R160). -/
def collError (s : State) (c : Coll) (e : VErr) : State :=
  poisonVote (collEngine (logPt (collFail s c) (collGrp s c).ctx e) c e.va) c.job e

def collRec (s : State) (c : Coll) (code sev : Nat) (p : Peer) (d1 : Nat) : Rec :=
  { code := code, sev := sev, scope := 5, who := mkWho none 0 0 (getCtx s (collGrp s c).ctx).tenant (collGrp s c).ctx,
    step := bv 64 c.step, job := c.job, dev := mkDev p, addr := bv 64 c.handle.toNat, data0 := bv 64 c.seq
    data1 := bv 64 d1 }

/-- COLL_LEN, and the collective fails (R278, R279). -/
def collLen (s : State) (c : Coll) (p : Peer) : State := collFail (logSpine s (collRec s c 0x0601 2 p 0)) c

/-! ### Digests -/

/-- The digest of a unit (R283). -/
def unitDigest (bs : List Byte) (h : B32) (seq unit : Nat) : B64 :=
  crc64 (bs ++ leBytes 4 h.toNat ++ leBytes 4 seq ++ leBytes 4 unit ++ leBytes 4 0)

/-- A holder's digest differs from the one received: MISMATCH for the step and COLL_DIGEST (R283). -/
def mismatch (s : State) (job : B32) (step : Nat) (x : Rec) : State :=
  logSpine (s.setCol { s.col with mism := addMark s.col.mism job step, digMis := sat32 (s.col.digMis + 1) }) x

/-- A received unit's digest checked. -/
def checkUnit (s : State) (c : Coll) (unit : Nat) (origin : Peer) (bs : List Byte) (d : B64) : State :=
  if c.digested && unitDigest bs c.handle c.seq unit != d then
    mismatch s c.job c.step (collRec s c 0x0603 0 origin unit)
  else s

/-! ### Sending -/

/-- A Borage message to a rank of the group (R271). -/
def sendUnit (s : State) (c : Coll) (dst unit : Nat) (final : Bool) (n : Nat) (bs : List Byte) (d : B64) : State :=
  let g := collGrp s c
  let ten := (getCtx s g.ctx).tenant
  sendTo s 2 8 (rankPeer s g dst) ten c.job bs (.borage {
    group := c.grp, gen := g.gen.toNat, fprint := g.fprint.extractLsb' 0 32, step := c.step, attempt := c.attempt
    seq := c.seq, tenant := ten, job := c.job, rank := g.rank, unit := unit, final := final, reply := 0, n := n
    data := bs, digest := d })

/-- The next rank of the ring. -/
def nextRank (g : Grp) : Nat := (g.rank + 1) % g.size

/-- A finished unit goes on round the ring until it is back before its origin. -/
def passUnit (s : State) (c : Coll) (unit n : Nat) (bs : List Byte) (d : B64) : State :=
  let g := collGrp s c
  if nextRank g = unit then s else sendUnit s c (nextRank g) unit true n bs d

/-! ### Sums -/

/-- dec of R280 over bytes: binary32 patterns as they are, and a NaN of 16 bits widened with its payload, quiet or not
(DESIGN CHOICE, log entry 89). -/
def decEls (f : Nat) (bs : List Byte) : List W32 :=
  (groupsOf (fmtBytes f) bs).map fun b =>
    if f = 1 then widen f16 (leNat b) else if f = 2 then widen bf16 (leNat b) else leNat b

/-- Squared norm in blocks of 256 (R286). -/
def norm (xs : List W32) : W32 :=
  seqSum ((groupsOf 256 xs).map fun b => treeOf rnAdd 8 (pad0 256 (b.map fun x => rnMul x x)))

/-- Elements `[off, off + n)` of the member's source, decoded. -/
def srcEls (s : State) (c : Coll) (off n : Nat) : State × List W32 × Option VErr :=
  let w := fmtBytes c.inF
  let (s1, bs, e) := loadVa s (collGrp s c).ctx (c.src + off * w) (n * w)
  (s1, decEls c.inF bs, e)

/-- The one conversion of a chunk's sums (R280): its bytes, its counts, and is it non-finite (R285)? -/
def convChunk (s : State) (c : Coll) (ts : List W32) : List Byte × Ctr × Bool :=
  let inf := ts.any fun t => !finite32 t
  if c.outF = 0 then (ts.flatMap (leBytes 4), {}, inf)
  else
    let f := if c.outF = 1 then f16 else bf16
    let r := collect (ts.map fun t => cvtPlain f (service (getCtx s c.ctx) c.step) .rne (decode f32 t))
    (unhalves r.1, r.2, inf || r.2.ovf != 0 || r.1.any fun x => match decode f x with | .fin _ => false | _ => true)

/-- The conversion's counts added to CD_STATS; a record out of reach is an ENGINE fault (R105). -/
def collStats (s : State) (c : Coll) (k : Ctr) : State :=
  if c.stats = 0 ∨ c.outF = 0 then s
  else
    match statAdd s (collGrp s c).ctx c.stats k 0 0 c.outF (modeFor (getCtx s c.ctx) c.step) with
    | (s1, true) => s1
    | (s1, false) => collEngine s1 c c.stats

/-- The mirror delivery of the own chunk of a GRAD collective (R284). -/
def sendMirror (s : State) (c : Coll) (bs : List Byte) (d : B64) : State :=
  match c.ownShard s with
  | none => s
  | some sh =>
    let h := hdrOf s sh
    let ten := (getCtx s sh.ctx).tenant
    sendTo s 2 8 (localPeer s h.partner) ten c.job bs (.mdel {
      src := ownPeer s, tenant := ten, job := c.job, step := c.step, attempt := c.attempt, seq := c.seq, shard := c.shard
      off := c.dst - h.gVa, group := c.handle, unit := (collGrp s c).rank, data := bs, digest := d })

/-- A reduced chunk of an own shard goes into the gradient record of its step (Table 5-7). -/
def entChunk (s : State) (sh : Shard) (step off : Nat) (bs : List Byte) : State :=
  let g := gSeg (hdrOf s sh)
  match findEnt s sh.fil false step with
  | none => s
  | some e =>
    let old := match e.segs.find? fun x => x.kind == 2 && x.shard == sh.idx with
      | some x => segBytes s x
      | none => List.replicate (4096 * blocks4k g.bytes) 0
    (putCopy s sh.fil false step ⟨2, g.va, sh.idx, g.idx, sh.half, 0, 0, 0⟩
      (old.take off ++ bs ++ old.drop (off + bs.length))).getD s

/-- The device's last chunk of a step is reduced: the step's parameter entry must match (R247), and the
gradient statistics are looked at (Table 8-8). -/
def lastChunk (s : State) (job : B32) (step : Nat) : State :=
  let own := ownShards s job
  let hot := own.any fun sh =>
    let h := hdrOf s sh
    h.gstat != 0 && (vaNat s sh.ctx h.gstat 4 != 0 || vaNat s sh.ctx (h.gstat + 8) 4 != 0)
  let s0 := if hot then nfMark s job step else s
  match own with
  | [] => s0
  | sh :: _ =>
    let s1 := meetSp s0 sh step
    let bad := match spRead s1 sh step with
      | (_, some _) => true
      | (bs, none) => leNat (slice bs 0 8) != step
    if !bad then s1
    else
      notPresent (logRec s1 sh.half { code := 0x0501, sev := 2, scope := 5, step := bv 64 step, job := job,
                                      who := mkWho none 0 0 (getCtx s1 sh.ctx).tenant sh.ctx,
                                      addr := bv 64 (spVa (hdrOf s1 sh) step) }) job step

/-- The own chunk's sums are final: converted, stored, given to the mirror partner, passed on (R280). -/
def ownChunk (s : State) (c : Coll) (ts : List W32) : State :=
  let g := collGrp s c
  let (bs, k, bad) := convChunk s c ts
  let at_ := c.dst + (if c.op = 5 then c.chunkOff g.size g.rank * fmtBytes c.outF else 0)
  match writeVa s none g.ctx at_ bs with
  | (s1, some e) => collError s1 c e
  | (s1, none) =>
    let c1 := { c with own := true, rho := if c.grad then bv 32 (norm ts) else c.rho }
    let s2 := collStats (putColl s1 c1) c k
    let s3 := if bad && c.digested then nfMark s2 c.job c.step else s2
    let d := if c.digested then unitDigest bs c.handle c.seq g.rank else 0
    let s4 := match c.grad, c.ownShard s3 with
      | true, some sh => entChunk (sendMirror s3 c bs d) sh c.step (c.dst - (hdrOf s3 sh).gVa) bs
      | _, _ => s3
    let s5 := if c.isLast then lastChunk s4 c.job c.step else s4
    if c.op = 5 then passUnit s5 c g.rank ts.length bs d else s5

/-- A partial sum of chunk `u` that holds this member's value: it ends here or goes to the next rank. -/
def sumOn (s : State) (c : Coll) (u : Nat) (ts : List W32) : State :=
  let g := collGrp s c
  if u = g.rank then ownChunk s c ts
  else sendUnit s c (nextRank g) u false ts.length (ts.flatMap (leBytes 4)) 0

/-! ### Completion -/

/-- Whether everything that R275 asks of a running collective has happened. -/
def collDone (c : Coll) (g : Grp) : Bool :=
  let others := (List.range g.size).filter (· != g.rank)
  c.own && (!c.grad || c.mir) &&
  (if c.op = 4 ∨ c.op = 5 then others.all (c.got.contains ·)
   else if c.op = 2 then others.all (c.got.contains ·)
   else if c.op = 1 then (!c.wrap && decide (g.rank < c.dist)) || !c.got.isEmpty
   else true)

/-- The ranks from which delivered bytes of a range are known: does a set of ranges cover `[p, n)`? -/
def covers (rs : List (Nat × Nat)) (n : Nat) : Nat → Nat → Bool
  | 0, p => decide (n ≤ p)
  | k + 1, p =>
    if n ≤ p then true
    else match rs.find? fun r => decide (r.1 ≤ p) && decide (p < r.1 + r.2) with
      | some r => covers rs n k (r.1 + r.2)
      | none => false

/-- Has the mirror delivery of a mirror copy been received whole for a step (R289)? -/
def delivered (s : State) (sh : Shard) (step : Nat) : Bool :=
  let rs := (s.col.deliv.filter fun d => d.job = sh.job && d.step == step && d.shard == sh.idx).map fun d => (d.off, d.len)
  covers rs (gSeg (hdrOf s sh)).bytes rs.length 0

end Sys2Proof.Machine
end

