-- ==== Sys2Proof/Machine/SyncInstr.lean ====
section
/-!
DEFINITION. The sync class (R137, Table 4-14): SIG, WAIT, ARRIVE, CONS, SREAD, CREG.
-/

namespace Sys2Proof.Machine

/-! ### An object's record (Table 7-1) -/

def SoTy.code : SoTy → Nat
  | .counter => 0 | .flag => 1 | .barrier => 2

def SoSt.code : SoSt → Nat
  | .free => 0 | .active => 1 | .quarantine => 2

/-- SO_FLAGS. -/
def soFlags (o : SObj) : Nat :=
  b2n o.overrun * 2 ^ 31 + b2n o.set * 2 ^ 30 + b2n o.cntSat * 2 ^ 29 + b2n o.wdFired * 2 ^ 28 +
  o.notice % 4 * 2 ^ 26 + b2n o.reg * 2 ^ 25 + o.ovrCnt

/-- SO_VALUE. -/
def soValue (o : SObj) : Nat :=
  match o.ty with
  | .counter => o.value
  | .flag => o.regStep
  | .barrier => o.round * 2 ^ 48 + o.parts * 2 ^ 32 + o.next * 2 ^ 16 + o.count

/-- The 64 bytes of a record. -/
def soBytes (o : SObj) : List Byte :=
  leBytes 4 (o.st.code * 2 ^ 30 + o.ty.code * 2 ^ 28 + o.gen.toNat * 2 ^ 14 + o.ctx % 4096) ++
  leBytes 4 (soFlags o) ++ leBytes 8 (soValue o) ++ leBytes 8 o.sig1.toNat ++ leBytes 8 o.sig2.toNat ++
  leBytes 8 o.tSig ++ leBytes 8 o.qend ++ leBytes 4 (min o.waiters.length 0xFFFF) ++ leBytes 4 (o.wd % 2 ^ 24) ++
  leBytes 8 0

/-! ### Instructions -/

/-- The identity of a slot as signaller or waiter (Table 7-2). -/
def slotWho (s : State) (sl : Slot) : B64 :=
  let x := getSlot s sl.cl sl.fil
  mkSig s 1 sl.cl sl.fil ((slotQueue s x).getD 0) (slotCtx s sl.cl sl.fil)

/-- May a slot's context operate on an object (R215)? -/
def mayUse (s : State) (sl : Slot) (o : SObj) : Bool := sameJob s (slotCtx s sl.cl sl.fil) o.ctx

/-- The checks that a local operation meets before its effect: it follows the slot's earlier signals to the object
(R217); a stale handle or an object that `fits` refuses is malformed, an object of another tenant or job a TRANSLATION
fault (R231, R232, R215). -/
def onObj (s : State) (sl : Slot) (bad : Bool) (h : B64) (fits : SObj → Bool) (k : SObj → Eff) : Eff :=
  if bad || bits h 63 32 != 0 then .fault cMAL 0
  else if onWay s (srcOf (slotWho s sl)) (h.extractLsb' 0 32) then .hold s
  else match objFor s (h.extractLsb' 0 32) with
    | none => .fault cMAL 0
    | some o =>
      if !fits o then .fault cMAL 0
      else if !mayUse s sl o then .fault cTRANS (h.toNat % 2 ^ 32)
      else k o

/-- SIG and ARRIVE: a signal sets out, for an object here or of another device of the site (R216); it
waits for the slot's matrix work (R225). -/
def sendSig (s : State) (sl : Slot) (bad : Bool) (dst : B64) (amount : B64) (arr : Bool) : Eff :=
  let x := getSlot s sl.cl sl.fil
  let id := slotCtx s sl.cl sl.fil
  let c := getCtx s id
  let h := dst.extractLsb' 0 32
  let who := slotWho s sl
  if bad || bits dst 63 50 != 0 then .fault cMAL 0
  else if bit dst 49 then
    if !x.passes.isEmpty then .hold s
    else .done (sendTo s 1 6 (localPeer s (bits dst 48 32)) c.tenant c.job (leBytes 8 amount.toNat)
      (.sync { src := ownPeer s, tenant := c.tenant, job := c.job, handle := h, arrive := arr,
               amount := amount, who := who }))
  else
    let o := objFor s h
    let wrong := arr && (match o with | some o => o.ty != .barrier | none => false)
    let alien := match o with | some o => !mayUse s sl o | none => false
    if wrong then .fault cMAL 0
    else if alien then .fault cTRANS h.toNat
    else if !x.passes.isEmpty then .hold s
    else .done (emit s { n := 0, obj := h, amount := amount, who := who, arrive := arr, ctx := none,
                         queue := slotQueue s x, byCmd := false, remote := none })

/-- SIG. -/
def execSig (sl : Slot) (f : Fld) (s : State) : Out :=
  issue sl 6 f s fun t =>
    let x := getSlot t sl.cl sl.fil
    sendSig t sl (badFld (useB { ra := 64 } 64 f) f) (sget x f.ra) (sOperand x f) false

/-- ARRIVE. -/
def execArrive (sl : Slot) (f : Fld) (s : State) : Out :=
  issue sl 6 f s fun t =>
    let x := getSlot t sl.cl sl.fil
    sendSig t sl (badFld { ra := 64, rb := 64 } f) (sget x f.ra) (bv 64 ((sget x f.rb).toNat % 2 ^ 16)) true

/-- D of a wait that begins now (R233). -/
def waitDur (s : State) (o : SObj) : Nat := if o.wd = 0 then bits (rd32 s 0x14060) 23 0 else o.wd

/-- The deadline beat of a wait that begins now (R233, R235). -/
def deadlineOf (s : State) (o : SObj) : Option Nat :=
  if s.time.locked && !s.err.ka then some (beat s + waitDur s o + 1) else none

/-- A slot waits at an object: it goes on at once when the condition holds, else it is held there. -/
def waitAt (s : State) (sl : Slot) (f : Fld) (h : B32) (o : SObj) (cond : Nat) (arg : B64) : Eff :=
  if condMet o cond arg then
    .done (setObj s (hIdx h) (taken o ⟨.slot sl.cl sl.fil, 0, cond, arg, none, 0⟩))
  else
    let w : Waiter := { src := .slot sl.cl sl.fil, who := slotWho s sl, cond := cond, arg := arg,
                        deadline := deadlineOf s o, dur := waitDur s o }
    let s1 := setObj s (hIdx h) { o with waiters := o.waiters ++ [w] }
    .hold (updSlot s1 sl.cl sl.fil fun y => { y with wait := some ⟨h, y.pc + insLen f, ns s⟩ })

/-- WAIT: IMM18[1:0] names the condition; other bits of IMM18 set are MALFORMED (log entry 103). -/
def execWait (sl : Slot) (f : Fld) (s : State) : Out :=
  issue sl 6 f s fun t =>
    let x := getSlot t sl.cl sl.fil
    let cond := f.imm18.toNat
    let arg := if cond = 2 then bv 64 ((sget x f.rb).toNat % 2 ^ 16) else sget x f.rb
    onObj t sl (badFld { ra := 64, rb := 64, imm := true } f || decide (2 < cond)) (sget x f.ra)
      (fun o => condFits o cond) fun o => waitAt t sl f ((sget x f.ra).extractLsb' 0 32) o cond arg

/-- CONS: waits for SET and clears it. -/
def execCons (sl : Slot) (f : Fld) (s : State) : Out :=
  issue sl 6 f s fun t =>
    let x := getSlot t sl.cl sl.fil
    onObj t sl (badFld { ra := 64 } f) (sget x f.ra) (fun o => condFits o 3) fun o =>
      waitAt t sl f ((sget x f.ra).extractLsb' 0 32) o 3 0

/-- SREAD: the state of an object into Sd. -/
def execSread (sl : Slot) (f : Fld) (s : State) : Out :=
  issue sl 6 f s fun t =>
    let x := getSlot t sl.cl sl.fil
    onObj t sl (badFld { rd := 64, ra := 64 } f) (sget x f.ra) (fun _ => true) fun o =>
      let v := match o.ty with
        | .flag => soFlags o + o.regStep % 2 ^ 32 * 2 ^ 32
        | _ => soValue o
      .done (setSlot t sl.cl sl.fil (sset x f.rd (bv 64 v)))

def noticeCode : Outc → Nat
  | .commit => 1 | .skip => 2 | .rerun => 3

/-- CREG: the flag is registered for a step; a decided step's notice is given at once (R228). -/
def execCreg (sl : Slot) (f : Fld) (s : State) : Out :=
  issue sl 6 f s fun t =>
    let x := getSlot t sl.cl sl.fil
    let job := (getCtx t (slotCtx t sl.cl sl.fil)).job
    let step := (sget x f.rb).toNat
    let past := match lastDecided t job with | some n => decide (step < n) | none => false
    onObj t sl (badFld { ra := 64, rb := 64 } f || past) (sget x f.ra) (fun o => o.ty = .flag && !o.reg) fun o =>
      let h := (sget x f.ra).extractLsb' 0 32
      match decidedAs t job step with
      | none => .done (setObj t (hIdx h) { o with reg := true, regStep := step, regJob := (getCtx t o.ctx).job })
      | some out =>
        let t1 := setObj t (hIdx h) { o with regStep := step, notice := noticeCode out }
        .done (applySig t1 { n := 0, obj := h, amount := 1, who := mkSig t 7 0 false 0 o.ctx, arrive := false,
                             ctx := none, queue := none, byCmd := false, remote := none })

end Sys2Proof.Machine
end

