-- ==== Sys2Proof/Machine/SyncHost.lean ====
section
/-!
DEFINITION. Sync objects: the host's commands (R229, R230, R236, R240), signals at their homes (R217 to
R224), the watchdog (R233, R234) and power lending (R238, R239).
-/

namespace Sys2Proof.Machine

/-- SYNC_ARG0. -/
def syncArg0 (s : State) : B64 := rd64 s 0x14008
/-- SYNC_ARG1. -/
def syncArg1 (s : State) : B64 := rd64 s 0x14010

/-- Twice the configured latency bound from now: the end of a quarantine (R230, R190, R270). -/
def quarEnd (s : State) : Nat := ns s + 2 * latNs s

/-! ### Commands -/

/-- A command of the block; `w` is SYNC_CMD less OP, whose reserved bits must be 0; `ka`: keep-alive mode accepts it. -/
def syncCmd (c : Instr) (w : BitVec 56) (s : State) (create ka : Bool) (body : Nat → SObj → State) : Out :=
  blockCmd .sync ka c s fun t =>
    let i := bits w 31 14
    let o := getObj t i
    if bits w 53 32 ≠ 0 ∨ (!create ∧ bits w 55 54 ≠ 0) then finish .sync 3 t
    else if !create ∧ (o.st ≠ .active ∨ o.gen ≠ bv 14 (bits w 13 0)) then finish .sync 6 t
    else body i o

/-- CREATE (R229). -/
def execSyncCreate (w : BitVec 56) (s : State) : Out :=
  syncCmd (.syncCreate w) w s true false fun i o =>
    let a := syncArg0 s
    let ty := bits w 55 54
    let cx := bits a 11 0
    if ty = 3 ∨ bits a 23 12 ≠ 0 ∨ (ty = 2 ∧ bits a 39 24 = 0) then finish .sync 3 s
    else if o.st = .quarantine then finish .sync 4 s
    else if o.st ≠ .free then finish .sync 1 s
    else if (getCtx s cx).st = .free then finish .sync 7 s
    else
      let g := o.gen + 1
      let new : SObj := { st := .active, ty := if ty = 0 then .counter else if ty = 1 then .flag else .barrier,
                          gen := g, ctx := cx, parts := bits a 39 24, wd := bits a 63 40 }
      let s1 := setObj s i new
      finish .sync 0 (setBlk s1 .sync { getBlk s1 .sync with handle := mkHandle i g })

/-- DESTROY (R230). -/
def execSyncDestroy (w : BitVec 56) (s : State) : Out :=
  syncCmd (.syncDestroy w) w s false false fun i o =>
    if !o.waiters.isEmpty || o.reg then finish .sync 2 s
    else finish .sync 0 (setObj s i { o with st := .quarantine, qend := quarEnd s })

/-- RESET (R240). -/
def execSyncReset (w : BitVec 56) (s : State) : Out :=
  syncCmd (.syncReset w) w s false false fun i o =>
    let a := syncArg0 s
    if !o.waiters.isEmpty then finish .sync 2 s
    else match o.ty with
      | .counter => finish .sync 0 (setObj s i { o with value := a.toNat })
      | .flag => finish .sync 0 (setObj s i { o with set := false, overrun := false, ovrCnt := 0, notice := 0 })
      | .barrier => finish .sync 0 (setObj s i { o with round := bits a 15 0, count := 0, next := 0 })

/-- READ: the record into SYNC_IMG (R236). -/
def execSyncRead (w : BitVec 56) (s : State) : Out :=
  syncCmd (.syncRead w) w s false true fun _ o => finish .sync 0 (wrBytes s 0x14020 (soBytes o))

/-- A waiter's record, Table 7-6. -/
def waiterBytes (x : Waiter) : List Byte :=
  leBytes 8 x.who.toNat ++ leBytes 4 (x.cond % 4 * 2 ^ 30) ++ leBytes 4 0 ++ leBytes 8 x.arg.toNat ++
  leBytes 8 (x.deadline.getD 0)

/-- READ_WAITERS: one record per waiter to host memory. -/
def execReadWaiters (w : BitVec 56) (s : State) : Out :=
  syncCmd (.readWaiters w) w s false false fun _ o =>
    let n := min (bits (syncArg0 s) 15 0) o.waiters.length
    let a := (syncArg1 s).toNat
    if bits (syncArg1 s) 63 52 ≠ 0 ∨ a % 32 ≠ 0 ∨ !(decide (hostBase + a + 32 * n ≤ 2 ^ 48)) then finish .sync 3 s
    else if !s.dev.linkUp then busy .sync (s.setLink (s.link ++ [⟨.readWaiters w, ns s⟩]))
    else
      let s1 := writeMem s (hostBase + a) ((o.waiters.take n).flatMap waiterBytes)
      finish .sync 0 (setBlk s1 .sync { getBlk s1 .sync with count := n })

/-- CLEAR_OVR: a flag's OVERRUN is cleared. -/
def execClearOvr (w : BitVec 56) (s : State) : Out :=
  syncCmd (.clearOvr w) w s false false fun i o =>
    if o.ty ≠ .flag then finish .sync 1 s
    else finish .sync 0 (setObj s i { o with overrun := false })

/-- Fabric time reaches SO_QEND: the object becomes FREE. -/
def execSyncQuarantineEnd (i : Nat) (s : State) : Out :=
  let o := getObj s i
  if o.st ≠ .quarantine ∨ ns s < o.qend then .next s
  else .next (setObj s i { gen := o.gen })

/-! ### Signals at their homes -/

/-- Signal `n` reaches an object of type `ty`: it is applied, after every earlier one of its source
to the same object (R217).  A stale one is dropped by any of the three commands. -/
def deliver (n : Nat) (ty : SoTy) (s : State) : Out :=
  match s.syn.sigs.find? fun g => g.n == n with
  | none => .next s
  | some g =>
    let due := live s && !(s.syn.sigs.any fun h => decide (h.n < n) && srcOf h.who = srcOf g.who && h.obj = g.obj) &&
      (match objFor s g.obj with | some o => o.ty = ty | none => true)
    if !due then .next s
    else .next (applySig (s.setSyn { s.syn with sigs := s.syn.sigs.filter fun h => h.n != n }) g)

def execCounterSignal (n : Nat) (s : State) : Out := deliver n .counter s
def execFlagSignal (n : Nat) (s : State) : Out := deliver n .flag s
def execBarrierArrival (n : Nat) (s : State) : Out := deliver n .barrier s

/-- REMOTE_SIGNAL: a SYNC message is applied, or dropped for tenant or job (R216). -/
def execRemoteSignal (m : SyncMsg) (s : State) : Out :=
  if !transportOn s then .next s
  else match objFor s m.handle with
  | none => .next (staleDrop s)
  | some o =>
    let c := getCtx s o.ctx
    if c.tenant ≠ m.tenant ∨ c.job ≠ m.job then .next (foreign s m.handle m.who (mkDev m.src))
    else .next (applySig s { n := 0, obj := m.handle, amount := m.amount, who := m.who, arrive := m.arrive,
                             ctx := none, queue := none, byCmd := false, remote := some m.src })

/-- BARRIER_REJECTION: the queue named in the signaller identity halts (R224). -/
def execBarrierRejection (who : B64) (s : State) : Out :=
  .next (haltQueue s (bits who 31 12) 6 false 0)

/-! ### The watchdog -/

/-- A queue whose WAIT expired: the WAIT is abandoned without a signal, and the queue halts with WD_EXPIRED, which names no
command at QD_RD (R234, R199). -/
def queueExpired (s : State) (q : Nat) : State :=
  let x := getQ s q
  haltQueue (setQ s q { x with rd := x.rd + 1, head := none, waitDl := none }) q 8 false 0

/-- A slot whose wait expired: WATCHDOG, with the object's handle as its address. -/
def slotExpired (s : State) (cl : Nat) (fil : Bool) (h : B32) : State :=
  let x := getSlot s cl fil
  progFault (setSlot s cl fil { x with wait := none }) cl fil (slotCtx s cl fil) cWD 6 h.toNat x.pc

/-- WATCHDOG_EXPIRY: the waiter `who` of object `i`, whose deadline beat has come, is removed. -/
def execWatchdogExpiry (i : Nat) (who : B64) (s : State) : Out :=
  let o := getObj s i
  match o.waiters.find? fun w => w.who = who && (match w.deadline with | some d => decide (d ≤ beat s) | none => false) with
  | none => .next s
  | some w =>
    let o1 : SObj := { o with waiters := o.waiters.filter (· ≠ w), wdFired := true }
    let s1 := setObj s i o1
    let s2 := s1.setSyn { s1.syn with wdCnt := sat32 (s1.syn.wdCnt + 1) }
    let s3 := logRec s2 (objHalf i) (recObj s2 i o1 0x0404 2 who 0 0)
    .next (match w.src with
      | .slot cl fil => slotExpired s3 cl fil (mkHandle i o.gen)
      | .queue q => queueExpired s3 q)

/-! ### Power lending -/

/-- A slot keeps its cluster from lending unless it is unbound or waiting, with no pass in flight. -/
def idleSlot (x : SlotSt) : Bool := (x.ctx.isNone || x.wait.isSome) && x.passes.isEmpty

/-- When the oldest wait of a cluster began. -/
def oldestWait (s : State) (cl : Nat) : Option Nat :=
  match (getSlot s cl false).wait, (getSlot s cl true).wait with
  | some a, some b => some (min a.since b.since)
  | some a, none => some a.since
  | none, some b => some b.since
  | none, none => none

/-- The conditions of R238. -/
def mayLendNow (s : State) (cl : Nat) : Bool :=
  bit (rd32 s 0x14064) 8 && idleSlot (getSlot s cl false) && idleSlot (getSlot s cl true) &&
  match oldestWait s cl with
  | some b => decide (b + bits (rd32 s 0x14064) 7 0 * 1024 ≤ ns s)
  | none => false

def execLendStart (cl : Nat) (s : State) : Out :=
  if 512 ≤ cl then .fault (.noSuchUnit "cluster" cl)
  else if live s && !s.err.ka && mayLendNow s cl then .next (setClu s cl { getClu s cl with lending := true })
  else .next s

/-- The base allowance of a cluster of a half in mW, scaled down to the half's share (R454). -/
def allowance (s : State) (h : Half) : Nat :=
  if halfClusters s h = 0 then 0
  else if s.pwr.started then min 6250 (s.pwr.share.get h / halfClusters s h) else 6250

/-- The allowance that a half's clusters have lent: the allowance in force of each whose loan is granted (R238, R454). -/
def lentOf (s : State) (h : Half) : Nat := (s.clu.filter fun e => e.2.granted && clHalf s e.1 = h).length * allowance s h

/-- The lent allowance of a half after `p` has settled which clusters' is granted. -/
def settleLent (s : State) (h : Half) (p : Clu → Bool) : State :=
  let s1 := s.setClu (s.clu.filterMap fun e =>
    if clHalf s e.1 = h then
      let c := { e.2 with granted := p e.2 }
      if c = {} then none else some (e.1, c)
    else some e)
  s1.setPwr { s1.pwr with lent := s1.pwr.lent.set h (lentOf s1 h) }

/-- LEND_GRANT: lending clusters' allowance goes to the half's working ones. -/
def execLendGrant (h : Half) (s : State) : Out :=
  .next (if live s && !s.pwr.fast then settleLent s h fun c => c.granted || c.lending else s)

/-- LEND_WAKE: a lending cluster with a waiter released leaves clock gating. -/
def execLendWake (cl : Nat) (s : State) : Out :=
  if 512 ≤ cl then .fault (.noSuchUnit "cluster" cl)
  else
    let c := getClu s cl
    let woken := !(idleSlot (getSlot s cl false) && idleSlot (getSlot s cl true)) || (oldestWait s cl).isNone
    .next (if c.lending && woken then setClu s cl { c with lending := false } else s)

/-- LEND_REVOKE: the allowance of clusters that no longer lend goes back. -/
def execLendRevoke (h : Half) (s : State) : Out := .next (settleLent s h fun c => c.granted && c.lending)

end Sys2Proof.Machine
end

