-- ==== Sys2Proof/Machine/Borage.lean ====
section
/-!
DEFINITION. Borage's rows: the collective register block (R269 to R272, R300), the start of a collective, the
messages it takes and its completion (R271, R274, R275, R278 to R284).
-/

namespace Sys2Proof.Machine

/-! ### Groups -/

/-- A command of the block; `w` is COLL_CMD less OP, whose reserved bits must be 0. -/
def collCmd (ka : Bool) (c : Instr) (w : BitVec 56) (s : State) (body : Nat → Grp → State) : Out :=
  blockCmd .collective ka c s fun t =>
    if bits w 55 26 ≠ 0 then finish .collective 3 t else body (bits w 25 14) (getGrp t (bits w 25 14))

/-- The generation that a command carries. -/
def cmdGen (w : BitVec 56) : BitVec 14 := bv 14 (bits w 13 0)

/-- COLL_IMG. -/
def collImg (s : State) : List Byte := imgOf s .collective

/-- A member's entry of a membership list, and does a reserved bit stand? -/
def listEntry (b : List Byte) : Peer × Bool :=
  let x := leNat b
  (⟨x / 2 ^ 17 % 64, x % 2 ^ 17⟩, decide (2 ^ 23 ≤ x))

/-- The record of an image, without what CREATE adds (Table 9-1). -/
def imgGrp (b : List Byte) : Grp :=
  let n (o : Nat) : Nat := leNat (slice b o 4)
  { st := .active, vote := (n 0).testBit 29, weight := n 0 / 2 ^ 25 % 16, ctx := n 0 % 2 ^ 12, size := n 8, rank := n 0xC
    listVa := leNat (slice b 0x10 8), ports := bv 8 (n 0x18), retry := n 0x1C / 2 ^ 28, wait := n 0x1C % 2 ^ 24 }

/-- A writable field of the image that Table 9-1 or R270 does not admit. -/
def grpImgBad (b : List Byte) : Bool :=
  let n (o : Nat) : Nat := leNat (slice b o 4)
  let g := imgGrp b
  n 0 / 2 ^ 12 % 2 ^ 13 != 0 || g.weight == 0 || g.size == 0 || decide (131072 < g.size) || decide (g.size ≤ g.rank) ||
  decide (2 ^ 52 ≤ g.listVa) || n 0x18 == 0 || decide (2 ^ 8 ≤ n 0x18) || n 0x1C / 2 ^ 24 % 16 != 0

/-- Is a membership list acceptable to R270, and as a vote group's to R344: a Husil device is no member of one? -/
def listOk (s : State) (g : Grp) (es : List (Peer × Bool)) : Bool :=
  let ps := es.map (·.1)
  es.all (fun e => !e.2) && decide (ps.map Peer.addr).Nodup && decide (ps[g.rank]? = some (ownPeer s)) &&
  (!g.vote || ps.all fun p => p.site == (ownPeer s).site && (decide (p = ownPeer s) || !husilPeer s p))

/-- GROUP_CREATE (R270). -/
def execGroupCreate (w : BitVec 56) (s : State) : Out :=
  collCmd false (.groupCreate w) w s fun i x =>
    let g := imgGrp (collImg s)
    if x.st = .quarantine then finish .collective 4 s
    else if x.st = .active then finish .collective 1 s
    else if grpImgBad (collImg s) then finish .collective 3 s
    else if !ctxLive s g.ctx then finish .collective 7 s
    else match loadVa s g.ctx g.listVa (4 * g.size) with
    | (s, _, some e) => finish .collective 3 (poisonVote (logPt s g.ctx e) (getCtx s g.ctx).job e)
    | (s, bs, none) =>
      let es := (groupsOf 4 bs).map listEntry
      if !listOk s g es then finish .collective 3 s
      else if g.vote && (voteGrp s (getCtx s g.ctx).job).isSome then finish .collective 8 s
      else
        let s1 := setGrp s i { g with gen := x.gen + 1, fprint := crc64 bs, list := es.map (·.1) }
        finish .collective 0 (setBlk s1 .collective { getBlk s1 .collective with handle := mkHandle i (x.gen + 1) })

/-- GROUP_DESTROY (R272). -/
def execGroupDestroy (w : BitVec 56) (s : State) : Out :=
  collCmd false (.groupDestroy w) w s fun i g =>
    if g.st ≠ .active then finish .collective 1 s
    else if g.gen ≠ cmdGen w then finish .collective 6 s
    else if (s.col.colls.any fun c => c.grp == i && c.gen = g.gen && (c.st = .queued || c.st = .running)) ||
        (s.col.votes.any fun v => v.grp == i) then finish .collective 2 s
    else finish .collective 0 (setGrp s i { g with st := .quarantine, qend := quarEnd s })

/-- Fabric time reaches the end of a group's quarantine: the group becomes FREE. -/
def execGroupQuarantineEnd (g : Nat) (s : State) : Out :=
  let x := getGrp s g
  if x.st ≠ .quarantine ∨ ns s < x.qend then .next s else .next (setGrp s g { gen := x.gen })

/-- A group record, Table 9-1. -/
def grpBytes (g : Grp) : List Byte :=
  let st := match g.st with | .free => 0 | .active => 1 | .quarantine => 2
  leBytes 4 (st * 2 ^ 30 + b2n g.vote * 2 ^ 29 + g.weight * 2 ^ 25 + g.ctx) ++ leBytes 4 g.gen.toNat ++
  leBytes 4 g.size ++ leBytes 4 g.rank ++ leBytes 8 g.listVa ++ leBytes 4 g.ports.toNat ++
  leBytes 4 (g.retry * 2 ^ 28 + g.wait) ++ leBytes 8 g.fprint.toNat ++ leBytes 8 g.decided.toNat ++
  leBytes 4 (g.lastOut * 2 ^ 30 + min g.digReruns 15 * 2 ^ 24 + g.attempt % 256 * 2 ^ 16) ++ leBytes 12 0

/-- GROUP_READ: the record into COLL_IMG. -/
def execGroupRead (w : BitVec 56) (s : State) : Out :=
  collCmd true (.groupRead w) w s fun _ g =>
    if g.gen ≠ cmdGen w then finish .collective 6 s else finish .collective 0 (wrBytes s 0x16008 (grpBytes g))

/-- A vote word, Table 9-4. -/
def wordBytes (w : VWord) : List Byte :=
  leBytes 8 w.step ++ leBytes 4 w.job.toNat ++
  leBytes 4 (w.attempt % 256 * 2 ^ 24 + b2n w.nf * 2 ^ 23 + b2n w.mism * 2 ^ 22 + b2n w.notpres * 2 ^ 21 +
    b2n w.absent * 2 ^ 20 + w.present % 2 ^ 18) ++
  leBytes 4 w.p.toNat ++ leBytes 4 w.r.toNat ++ leBytes 4 w.mcnt ++ leBytes 4 0

/-- VOTE_READ: the last word sent, or combined at the root, into the first 32 bytes of COLL_IMG (R300). -/
def execVoteRead (w : BitVec 56) (s : State) : Out :=
  collCmd true (.voteRead w) w s fun _ g =>
    if g.gen ≠ cmdGen w then finish .collective 6 s
    else finish .collective 0 (wrBytes s 0x16008 (match s.col.lastWord with
      | some x => wordBytes x
      | none => List.replicate 32 0))

/-! ### The start of a collective -/

/-- Does Borage run work of this kind now (R200, R201)? -/
def borageRuns (s : State) (fil : Bool) : Bool :=
  live s && !s.err.ka &&
  (!fil || (bits (rd32 s 0x1104C) 3 0 != 0 && !s.pwr.held.w && !s.pwr.held.e && govDebt s .borage == 0))

/-- A unit's digest, for a collective that carries digests. -/
def digestOf (c : Coll) (unit : Nat) (bs : List Byte) : B64 :=
  if c.digested then unitDigest bs c.handle c.seq unit else 0

/-- REDUCE_SCATTER and ALL_REDUCE: this rank begins the sum of the chunk before its own (R280). -/
def startSum (s : State) (c : Coll) (g : Grp) : State :=
  let u := (g.rank + g.size - 1) % g.size
  match srcEls s c (c.chunkOff g.size u) (c.chunkLen g.size u) with
  | (s1, _, some e) => collError s1 c e
  | (s1, xs, none) => sumOn s1 c u xs

/-- The squared norm of the member's whole source, for GRAD (R286). -/
def startNorm (s : State) (c : Coll) : State × Except VErr Coll :=
  if !c.grad then (s, .ok c)
  else match srcEls s c 0 c.len with
    | (s1, _, some e) => (s1, .error e)
    | (s1, xs, none) => (s1, .ok { c with q := bv 32 (norm xs) })

/-- ALL_GATHER: the own chunk stands in its place and goes round. -/
def startGather (s : State) (c : Coll) (g : Grp) : State :=
  let n := c.chunkLen g.size g.rank
  let w := fmtBytes c.inF
  match loadVa s g.ctx c.src (n * w) with
  | (s, _, some e) => collError s c e
  | (s, bs, none) =>
    match writeVa s none g.ctx (c.dst + c.chunkOff g.size g.rank * w) bs with
    | (t, some e) => collError t c e
    | (t, none) => passUnit (putColl t { c with own := true }) c g.rank n bs (digestOf c g.rank bs)

/-- SHIFT: the n elements go to the rank k further on (R278). -/
def startShift (s : State) (c : Coll) (g : Grp) : State :=
  let c1 := { c with own := true }
  let peer := (g.rank + c.dist) % g.size
  if !c.wrap ∧ g.size ≤ g.rank + c.dist then putColl s c1
  else match loadVa s g.ctx c.src (c.len * fmtBytes c.inF) with
  | (s, _, some e) => collError s c e
  | (s, bs, none) => sendUnit (putColl s c1) c peer peer true c.len bs (digestOf c peer bs)

/-- One piece of a PERMUTE sent (R279). -/
def sendPiece (s : State) (c : Coll) (g : Grp) (r : Nat) : State × Option VErr :=
  let n := permLen c.snd r
  match loadVa s g.ctx (c.src + permOff c.snd r * fmtBytes c.inF) (n * fmtBytes c.inF) with
  | (s1, _, some e) => (s1, some e)
  | (s1, bs, none) => (sendUnit s1 c r r true n bs (digestOf c r bs), none)

def sendPieces (c : Coll) (g : Grp) : List Nat → State → State × Option VErr
  | [], s => (s, none)
  | r :: t, s => match sendPiece s c g r with
    | (s1, some e) => (s1, some e)
    | (s1, none) => sendPieces c g t s1

/-- The local copy of a PERMUTE: entries that name the own rank. -/
def localPiece (s : State) (c : Coll) (g : Grp) : State × Option VErr :=
  let w := fmtBytes c.inF
  match loadVa s g.ctx (c.src + permOff c.snd g.rank * w) (permLen c.snd g.rank * w) with
  | (s, _, some e) => (s, some e)
  | (s, bs, none) => writeVa s none g.ctx (c.dst + permOff c.rcv g.rank * w) bs

/-- PERMUTE: every other rank gets its piece, empty where the table has none. -/
def startPermute (s : State) (c : Coll) (g : Grp) : State :=
  if permLen c.snd g.rank ≠ permLen c.rcv g.rank then collLen s c (ownPeer s)
  else match sendPieces c g ((List.range g.size).filter (· != g.rank)) (putColl s { c with own := true }) with
  | (t, some e) => collError t c e
  | (s1, none) => match localPiece s1 c g with
    | (t, some e) => collError t c e
    | (t, none) => t

/-- COLLECTIVE_START: the next collective of its group and step starts when fewer than 256 run (R274, R275); a primary
one that waited behind filler work charges Borage's governor (R201). -/
def execCollectiveStart (x : Late Nat) (s : State) : Out :=
  match findColl s x.op with
  | none => .next s
  | some c =>
    let g := collGrp s c
    if c.st ≠ .queued ∨ !borageRuns s c.fil ∨ g.st ≠ .active ∨ g.gen ≠ c.gen ∨ !lowerStarted s c ∨ 256 ≤ runningColls s then
      .next s
    else match startNorm (if c.fil then s else charge s .borage x.wait) { c with st := .running } with
    | (s0, .error e) => .next (collError s0 c e)
    | (s0, .ok c1) =>
      let s1 := putColl s0 c1
      .next (if c1.adds then startSum s1 c1 g else if c1.op = 4 then startGather s1 c1 g
        else if c1.op = 1 then startShift s1 c1 g else startPermute s1 c1 g)

/-! ### Messages -/

/-- A partial sum: the member's value is added and the sum goes on (R280); a second copy has no effect. -/
def takePartial (s : State) (c : Coll) (g : Grp) (m : BMsg) : State :=
  if c.parts.contains m.unit ∨ !c.adds ∨ g.size ≤ m.unit then s
  else if m.n ≠ c.chunkLen g.size m.unit ∨ m.data.length ≠ 4 * m.n then collLen s c (rankPeer s g m.rank)
  else match srcEls s c (c.chunkOff g.size m.unit) m.n with
  | (s1, _, some e) => collError s1 c e
  | (s1, xs, none) =>
    let c1 := { c with parts := m.unit :: c.parts }
    sumOn (putColl s1 c1) c1 m.unit (List.zipWith rnAdd ((groupsOf 4 m.data).map leNat) xs)

/-- Where a finished unit goes on this member: the mark of its arrival, the elements expected, the element
offset in DST, and its origin. -/
def unitPlace (c : Coll) (g : Grp) (m : BMsg) : Option (Nat × Nat × Nat × Nat) :=
  if c.op = 4 ∨ c.op = 5 then
    if g.size ≤ m.unit ∨ m.unit = g.rank then none
    else some (m.unit, c.chunkLen g.size m.unit, c.chunkOff g.size m.unit, m.unit)
  else if c.op = 1 then
    if m.rank ≠ (g.rank + g.size - c.dist % g.size) % g.size ∨ (!c.wrap ∧ g.rank < c.dist) then none
    else some (m.rank, c.len, 0, m.rank)
  else if c.op = 2 then
    if g.size ≤ m.rank ∨ m.rank = g.rank then none else some (m.rank, permLen c.rcv m.rank, permOff c.rcv m.rank, m.rank)
  else none

/-- A finished unit is written, its digest checked, and a chunk goes on round the ring (R278, R279, R283). -/
def takeUnit (s : State) (c : Coll) (g : Grp) (m : BMsg) : State :=
  match unitPlace c g m with
  | none => s
  | some (key, n, off, origin) =>
    let w := fmtBytes c.outF
    if c.got.contains key then s
    else if m.n ≠ n ∨ m.data.length ≠ n * w then collLen s c (rankPeer s g m.rank)
    else match writeVa s none g.ctx (c.dst + off * w) m.data with
    | (t, some e) => collError t c e
    | (t, none) =>
      let c1 := { c with got := key :: c.got }
      let s1 := checkUnit (putColl t c1) c1 m.unit (rankPeer s g origin) m.data m.digest
      if c.op = 4 ∨ c.op = 5 then passUnit s1 c1 m.unit m.n m.data m.digest else s1

/-- The partner's answer to a mirror delivery: written, or dropped for want of the copy (R275, R284). -/
def takeReply (s : State) (c : Coll) (m : BMsg) : State :=
  if m.reply = 1 then putColl s { c with mir := true } else collEngine (collFail s c) c c.dst

/-- The running collective that a message belongs to. -/
def collFor (s : State) (m : BMsg) : Option Coll :=
  s.col.colls.find? fun c => c.grp == m.group && c.gen.toNat == m.gen && c.step == m.step && c.attempt == m.attempt &&
    c.seq == m.seq && c.st = .running

/-- A message with another fingerprint: GRP_MISMATCH, and the collective fails (R271). -/
def grpMismatch (s : State) (g : Grp) (m : BMsg) : State :=
  let s1 := logSpine s { code := 0x0602, sev := 2, scope := 5, who := mkWho none 0 0 (getCtx s g.ctx).tenant g.ctx,
                         step := bv 64 m.step, job := (getCtx s g.ctx).job, dev := mkDev (rankPeer s g m.rank)
                         addr := bv 64 (mkHandle m.group g.gen).toNat, data0 := bv 64 m.seq, data1 := bv 64 m.fprint.toNat }
  match s1.col.colls.find? fun c => c.grp == m.group && c.gen = g.gen && c.step == m.step && c.seq == m.seq &&
      (c.st = .queued || c.st = .running) with
  | some c => collFail s1 c
  | none => s1

/-- BORAGE_MESSAGE: the checks of R271, then the running collective takes the message; one whose collective has
not started here waits (log entry 6). -/
def execBorageMessage (m : BMsg) (s : State) : Out :=
  let g := getGrp s m.group
  let x := getCtx s g.ctx
  if !borageRuns s false ∨ !transportOn s then .next s
  else if g.st ≠ .active ∨ g.gen.toNat ≠ m.gen ∨ m.attempt < attemptOf s x.job m.step then .next (staleDrop s)
  else if m.reply = 0 ∧ m.fprint ≠ g.fprint.extractLsb' 0 32 then .next (grpMismatch s g m)
  else if m.tenant ≠ x.tenant ∨ m.job ≠ x.job then .next (s.setCol { s.col with foreign := sat32 (s.col.foreign + 1) })
  else match collFor s m with
  | none => .next s
  | some c => .next (if m.reply ≠ 0 then takeReply s c m else if m.final then takeUnit s c g m else takePartial s c g m)

/-- The answer to a mirror delivery. -/
def mirReply (s : State) (m : MDel) (r : Nat) : State :=
  sendTo s 2 8 m.src m.tenant m.job [] (.borage {
    group := hIdx m.group, gen := (hGen m.group).toNat, fprint := 0, step := m.step, attempt := m.attempt, seq := m.seq
    tenant := m.tenant, job := m.job, rank := 0, unit := m.unit, final := true, reply := r, n := 0, data := [], digest := 0 })

/-- The registered mirror copy that a delivery is for. -/
def copyFor (s : State) (m : MDel) : Option Shard :=
  match shardBy s m.job m.shard true with
  | none => none
  | some sh =>
    if localPeer s (hdrOf s sh).partner = m.src ∧ (getCtx s sh.ctx).tenant = m.tenant ∧
        m.off + m.data.length ≤ (gSeg (hdrOf s sh)).bytes then some sh else none

/-- MIRROR_DELIVERY: the chunk is written at the same offset of the mirror copy's G segment, its digest is checked,
and the owner is answered (R283, R284). -/
def execMirrorDelivery (m : MDel) (s : State) : Out :=
  if !borageRuns s false ∨ !transportOn s then .next s
  else if m.attempt < attemptOf s m.job m.step then .next (staleDrop s)
  else match copyFor s m with
  | none => .next (mirReply s m 2)
  | some sh =>
    match writeVa s none sh.ctx ((gSeg (hdrOf s sh)).va + m.off) m.data with
    | (t, some e) => .next (poisonVote (mirReply (logPt t sh.ctx e) m 2) m.job e)
    | (t, none) =>
      let t1 := if unitDigest m.data m.group m.seq m.unit = m.digest then t
        else mismatch t m.job m.step
          { code := 0x0603, sev := 0, scope := 5, who := mkWho none 0 0 m.tenant sh.ctx, step := bv 64 m.step, job := m.job,
            dev := mkDev m.src, addr := bv 64 m.group.toNat, data0 := bv 64 m.seq, data1 := bv 64 m.unit }
      let d : Deliv := ⟨m.job, m.step, m.shard, m.off, m.data.length⟩
      .next (mirReply (t1.setCol { t1.col with deliv := t1.col.deliv ++ [d] }) m 1)

/-! ### Completion -/

/-- COLLECTIVE_COMPLETE: the destination writes are acknowledged, and of a GRAD collective the mirror delivery;
CD_SYNC is signalled (R275, R227). -/
def execCollectiveComplete (n : Nat) (s : State) : Out :=
  match findColl s n with
  | none => .next s
  | some c =>
    if c.st ≠ .running ∨ !live s ∨ s.err.ka ∨ !collDone c (collGrp s c) then .next s
    else
      let s1 := putColl s { c with st := .complete }
      .next (if c.sigEn then engineSig s1 4 c.sync (bv 64 c.sigVal) c.cl c.fil c.ctx c.queue else s1)

end Sys2Proof.Machine
end

