-- ==== Sys2Proof/Machine/Chive.lean ====
section
/-!
DEFINITION. Chive, the check-value units (R418, R419, Table 12-14).
-/

namespace Sys2Proof.Machine

/-- Offset of a unit's registers in BAR0. -/
def chvBase (u : Nat) : Nat := 0x1C400 + 0x40 * u

def chvCfg (s : State) (u : Nat) : B32 := rd32 s (chvBase u)
def chvLen (s : State) (u : Nat) : Nat := bits (rd32 s (chvBase u + 4)) 23 0
def chvPoly (s : State) (u : Nat) : Nat := (rd64 s (chvBase u + 8)).toNat
def chvInit (s : State) (u : Nat) : Nat := (rd64 s (chvBase u + 0x10)).toNat
def chvXor (s : State) (u : Nat) : Nat := (rd64 s (chvBase u + 0x18)).toNat
def chvSrc (s : State) (u : Nat) : Nat := bits (rd64 s (chvBase u + 0x20)) 51 0

/-- W, ALIVE_EN and MODE. -/
def chvW (s : State) (u : Nat) : Nat := bits (chvCfg s u) 5 0 + 1
def chvAlive (s : State) (u : Nat) : Bool := bit (chvCfg s u) 29
def chvMode (s : State) (u : Nat) : Nat := bits (chvCfg s u) 28 27

/-- Is a unit's set-up malformed (R418)? -/
def chvBad (s : State) (u : Nat) : Bool :=
  chvMode s u == 3 || decide (chvW s u < 8) || decide (bits (chvCfg s u) 26 6 ≠ 0) || chvLen s u == 0 ||
  decide (bits (rd32 s (chvBase u + 4)) 31 24 ≠ 0) || decide (bits (rd64 s (chvBase u + 0x20)) 63 52 ≠ 0) ||
  [chvPoly s u, chvInit s u, chvXor s u].any fun x => decide (2 ^ chvW s u ≤ x)

/-- The check value of R418 with a unit's parameters. -/
def chvCrc (s : State) (u : Nat) (bs : List Byte) : Nat :=
  crc (chvW s u) (chvPoly s u) (chvInit s u) (bit (chvCfg s u) 31) (bit (chvCfg s u) 30) (chvXor s u) bs

/-- Bytes of the check value. -/
def chvCheck (s : State) (u : Nat) : Nat := (chvW s u + 7) / 8

/-- Bytes that a run touches: payload, and what follows it. -/
def chvSpan (s : State) (u : Nat) : Nat :=
  if chvMode s u = 0 then chvLen s u else chvLen s u + b2n (chvAlive s u) + chvCheck s u

/-- Does every byte of a range lie in a frame or in the host window? -/
def chvReach (a n : Nat) : Bool :=
  (inHost a && decide (a + n ≤ 2 ^ 48)) ||
  ((frameOf a).isSome && (frameOf (a + n - 1)).isSome && decide (paHalf a = paHalf (a + n - 1)) &&
    decide ((a < westRs) = (a + n - 1 < westRs)))

/-- A run ends with a RESULT. -/
def chvEnd (s : State) (u : Nat) (x : ChvU) (res : Byte) : State :=
  setChv s u { x with busy := false, done := true, res := res }

/-- RUN. -/
def execRun (u : Nat) (w : BitVec 24) (s : State) : Out :=
  let x := getChv s u
  if 32 ≤ u then .fault (.noSuchUnit "Chive unit" u)
  else if !regsOn s then .next s
  else if x.busy then .next (setChv s u { x with res := 5 })
  else if !mayLead s then .next (setChv (s.setHeld (s.held ++ [.run u w])) u { x with busy := true })
  else
    let y : ChvU := { x with done := false, mismatch := false, rept := false, skip := false, gap := 0, res := 0 }
    if chvBad s u then .next (chvEnd s u y 3) else .next (setChv s u { y with busy := true })

/-- Generate: the alive byte and the check value follow the payload. -/
def chvGenerate (s : State) (u : Nat) (x : ChvU) (pay : List Byte) : State :=
  let a : Byte := x.last + 1
  let bs := if chvAlive s u then pay ++ [a] else pay
  let v := chvCrc s u bs
  let s1 := writeMem s (chvSrc s u + chvLen s u) ((if chvAlive s u then [a] else []) ++ leBytes (chvCheck s u) v)
  let y : ChvU := if chvAlive s u then { x with last := a, first := false } else { x with first := false }
  chvEnd s1 u { y with result := bv 64 v } 0

/-- The alive counter on a match, Table 12-12. -/
def chvSeen (x : ChvU) (a : Byte) : ChvU :=
  if x.first then { x with first := false, last := a }
  else if a = x.last then { x with rept := true }
  else if a = x.last + 1 then { x with last := a }
  else { x with skip := true, gap := a - x.last - 1, last := a }

/-- Check: the value is computed again and compared. -/
def chvVerify (s : State) (u : Nat) (x : ChvU) (all : List Byte) : State :=
  let n := chvLen s u + b2n (chvAlive s u)
  let v := chvCrc s u (all.take n)
  let y : ChvU := { x with result := bv 64 v }
  if leNat (slice all n (chvCheck s u)) ≠ v then chvEnd s u { y with mismatch := true } 0
  else chvEnd s u (if chvAlive s u then chvSeen y (all.getD (chvLen s u) 0) else y) 0

/-- CHIVE_RUN_COMPLETE: the unit's mode does its work; a poisoned line or a refused address is result 0x0B. -/
def execChiveRunComplete (u : Nat) (s : State) : Out :=
  let x := getChv s u
  if 32 ≤ u then .fault (.noSuchUnit "Chive unit" u)
  else if !x.busy ∨ s.held.any (fun c => match c with | .run v _ => v == u | _ => false) ∨
      (inHost (chvSrc s u) ∧ !s.dev.linkUp) then .next s
  else
    let n := chvSpan s u
    let rd := if chvMode s u = 2 then n else chvLen s u
    let t := meetRange s (chvSrc s u) rd
    if !chvReach (chvSrc s u) n then .next (chvEnd s u x 0xB)
    else if poisoned t (chvSrc s u) rd then .next (chvEnd t u x 0xB)
    else
      let bs := readMem t (chvSrc s u) rd
      if chvMode s u = 0 then .next (chvEnd t u { x with result := bv 64 (chvCrc t u bs) } 0)
      else if chvMode s u = 1 then .next (chvGenerate t u x bs)
      else .next (chvVerify t u x bs)

/-- RESET_ALIVE. -/
def execResetAlive (u : Nat) (w : BitVec 24) (s : State) : Out :=
  let x := getChv s u
  if 32 ≤ u then .fault (.noSuchUnit "Chive unit" u)
  else if !regsOn s then .next s
  else if x.busy then .next (setChv s u { x with res := 5 })
  else .next (setChv s u { x with last := w.extractLsb' 0 8, first := true })

/-- A reserved OP of CHV_CMD. -/
def chvBadOp (u : Nat) (s : State) : State :=
  setChv s u { getChv s u with res := if (getChv s u).busy then 5 else 3 }

end Sys2Proof.Machine
end

