-- ==== Sys2Proof/Machine/UpdOps.lean ====
section
/-!
DEFINITION. Rosemary's commands: their queue, faults and records (R251, R253, R267), what halts a job
(R255), a LOST pair (R369), the conditions of a phase (R35, R245, R251).
-/

namespace Sys2Proof.Machine

/-! ### Faults and records -/

/-- An ENGINE fault of an update command (class 8); Lovage's own commands belong to no slot. -/
def updEngine (s : State) (c : UCmd) (addr : Nat) : State :=
  if c.lov then s else engineFault s c.cl c.fil c.ctx 8 addr c.pc

/-- A record of Table 8-11 about a command. -/
def updRec (s : State) (h : Half) (c : UCmd) (code sev addr : Nat) : State :=
  logRec s h { code := code, sev := sev, scope := 3, who := mkWho none 0 0 (getCtx s c.ctx).tenant c.ctx,
               step := bv 64 c.step, job := (getCtx s c.ctx).job, addr := bv 64 addr }

/-- UPD_STEP with ENGINE: the header cannot be resumed (R251, R253). -/
def updStep (s : State) (h : Half) (c : UCmd) : State := updEngine (updRec s h c 0x0502 2 c.hva) c c.hva

/-- Memory out of reach: ENGINE, and poison withholds presence (R143, R160). -/
def updError (s : State) (c : UCmd) (e : VErr) : State :=
  poisonVote (updEngine (logPt s c.ctx e) c e.va) (getCtx s c.ctx).job e

/-! ### The commands in Rosemary -/

def putUCmd (s : State) (c : UCmd) : State :=
  s.setUpd { s.upd with cmds := s.upd.cmds.map fun d => if d.n = c.n then c else d }
def dropUCmd (s : State) (n : Nat) : State :=
  s.setUpd { s.upd with cmds := s.upd.cmds.filter fun d => d.n != n }
def addUCmd (s : State) (c : UCmd) : State :=
  s.setUpd { s.upd with cmds := s.upd.cmds ++ [{ c with n := s.upd.next }], next := s.upd.next + 1 }
def findUCmd (s : State) (n : Nat) : Option UCmd := s.upd.cmds.find? fun c => c.n == n

/-- The command is the first of its shard that is not an export: commands of a shard run one at a time, in
arrival order. -/
def isFirst (s : State) (sh : Shard) (c : UCmd) : Bool :=
  match (shardCmds s sh).find? fun d => d.kind != .exp with
  | some d => d.n == c.n
  | none => false

/-- Do the slices of a half admit filler work (R200, R201)? -/
def slicesOk (s : State) (h : Half) : Bool :=
  bits (rd32 s 0x1104C) 3 0 != 0 && !s.pwr.held.get h &&
  (List.range 4).all fun i => govDebt s (.slice (4 * halfNo h + i)) == 0

/-- Does Rosemary work on a shard now? -/
def shardRuns (s : State) (sh : Shard) : Bool :=
  live s && !s.err.ka && !(s.lead.half.get sh.half).stopped && (!sh.fil || slicesOk s sh.half)

/-- The context that an instruction acts for has the shard's tenant and job (R251). -/
def shardFor (s : State) (ctx hva : Nat) : Option Shard :=
  match findShard s ctx hva with
  | some sh => if sameJob s ctx sh.ctx then some sh else none
  | none => none

/-- The header's first error through its context's translation. -/
def hdrErr (s : State) (sh : Shard) : Option VErr := (readVa s none sh.ctx sh.hva 256).2

/-- A restore that no record can supply: ENGINE, and the job falls back to its checkpoint (R253, R369). -/
def noRecord (s : State) (sh : Shard) (c : UCmd) : State :=
  pairLost (updEngine (dropUCmd s c.n) c c.hva) sh.job

/-! ### Conditions -/

/-- Is the undo record that a phase or merge waits for complete (R35, R169, R251)?  None is waited for where the depth was 0
when the entry would have opened (R166). -/
def undoReady (s : State) (sh : Shard) (outer : Bool) (step : Nat) : Bool :=
  if sh.mirror then
    partnerLost s sh || s.upd.owner.any fun o => o.job = sh.job && o.step == step && o.outer == outer &&
      o.src = localPeer s (hdrOf s sh).partner
  else match findEnt s sh.fil outer step with
    | some e => e.reported
    | none => depthNow s sh.fil == 0 || decide (step < told s sh.fil outer)

/-- Do the header's constants stand as REGISTER found them (R245)? -/
def hdrOk (s : State) (sh : Shard) : Bool := hcrcOf s sh == bv 64 (hdrOf s sh).hcrc

/-- HDR_CHANGED with ENGINE: nothing starts. -/
def hdrChanged (s : State) (sh : Shard) (c : UCmd) : State :=
  updEngine (updRec (dropUCmd s c.n) sh.half c 0x0503 2 c.hva) c c.hva

/-- Update commands of a shard whose point the header now shows complete (R251). -/
def settleCmds (s : State) (sh : Shard) : State :=
  let h := hdrOf s sh
  let gone := (shardCmds s sh).filter fun c =>
    (c.kind = .a && (h.sStep == c.step || h.wStep == c.step)) ||
    ((c.kind = .b || c.kind = .ab) && h.wStep == c.step) || (c.kind = .out && c.ph != .dec && h.outJ == c.arg)
  s.setUpd { s.upd with cmds := s.upd.cmds.filter fun c => !(gone.any fun d => d.n == c.n) }

/-- The segment kinds that the header as it stands restores (Tables 5-8 and 8-7); a merge runs again from the recorded
differences. -/
def restoreKinds (c : UCmd) (h : Hdr) : List Nat :=
  if c.kind = .out then (if h.has stOut then [0, 3, 4, 6] else [])
  else if h.has stA then (if (stateSegs h).isEmpty then [] else [1])
  else if h.has stB then [0] else []

/-- Does a command wait for a restore (R253)? -/
def owes (s : State) (sh : Shard) (c : UCmd) : Bool := c.restore && !(restoreKinds c (hdrOf s sh)).isEmpty

/-- Does Table 8-7 resolve the header for step `n`: a row, with whether it restores? -/
def resume87 (h : Hdr) (n : Nat) : Option Bool :=
  let a := h.has stA
  let b := h.has stB
  if h.wStep + 1 ≠ n then none
  else if h.sStep = h.wStep ∧ !b then some a
  else if h.sStep = n ∧ !a then some b
  else none

end Sys2Proof.Machine
end

