-- ==== Sys2Proof/Machine/OuterOps.lean ====
section
/-!
DEFINITION. The outer merge descriptor (Table 8-9) and the streams of a shard's difference (R261, R262).
-/

namespace Sys2Proof.Machine

/-- An entry of the descriptor. -/
structure MSite where
  missed : Nat
  site : Nat
  ndev : Nat
  dataVa : Nat
  scaleVa : Nat
  omomVa : Nat
deriving DecidableEq, Repr

/-- The descriptor's fields. -/
structure MDesc where
  j : Nat
  rejoin : Bool
  ownOut : Bool
  count : Nat
  ownSite : Nat
  stale : Nat
  sync : B32
deriving DecidableEq, Repr

def parseMDesc (b : List Byte) : MDesc :=
  let n (o k : Nat) : Nat := leNat (slice b o k)
  let c := n 8 4
  { j := n 0 8, rejoin := c.testBit 31, ownOut := c.testBit 30, count := c / 2 ^ 23 % 128, ownSite := c % 64
    stale := n 0x0C 4, sync := bv 32 (n 0x10 4) }

def parseMSite (b : List Byte) : MSite :=
  let n (o k : Nat) : Nat := leNat (slice b o k)
  { missed := n 2 2, site := n 0 2 % 64, ndev := n 4 4, dataVa := n 8 8, scaleVa := n 0x10 8, omomVa := n 0x18 8 }

def mergeDesc (s : State) (sh : Shard) : MDesc := parseMDesc (readVa s none sh.ctx (hdrOf s sh).merge 64).1
/-- Entry `k` of the descriptor. -/
def mergeSite (s : State) (sh : Shard) (k : Nat) : MSite :=
  parseMSite (readVa s none sh.ctx ((hdrOf s sh).merge + 0x40 + 32 * k) 32).1
/-- The entries in use. -/
def mergeSites (s : State) (sh : Shard) (d : MDesc) : List MSite := (List.range d.count).map (mergeSite s sh)

/-- Blocks of 32 elements of a shard. -/
def shardBlocks (h : Hdr) : Nat := h.rows * h.cols / 32

/-- A shard's streams in the buffers of an entry (log entry 55). -/
def dataAt (e : MSite) (sh : Shard) : Nat := e.dataVa + Config.shardOffset sh.idx
def scaleAt (e : MSite) (sh : Shard) : Nat := e.scaleVa + Config.shardOffset sh.idx
def omomAt (e : MSite) (sh : Shard) : Nat := e.omomVa + Config.shardOffset sh.idx

/-- The differences of the merge set as received, as segments of KIND 6: for each site the data stream under an even
index, the scales under an odd one (R169, R176, log entry 88). -/
def diffSegs (s : State) (sh : Shard) : List SegAt :=
  let n := shardBlocks (hdrOf s sh)
  (mergeSites s sh (mergeDesc s sh)).flatMap fun e =>
    [⟨6, 8 + 2 * e.site, dataAt e sh, 32 * n⟩, ⟨6, 9 + 2 * e.site, scaleAt e sh, n⟩]

end Sys2Proof.Machine
end

