-- ==== Sys2Proof/Machine/UpdInstr.lean ====
section
/-!
DEFINITION. The update class (R138, Table 4-15; R251, R264, R265): UPD.A, UPD.B, UPD.AB, UPD.OUT, UPD.EXP.
-/

namespace Sys2Proof.Machine

/-- The command that an instruction of a slot gives. -/
def newUCmd (s : State) (sl : Slot) (kind : UKind) (hva arg : Nat) : UCmd :=
  let x := getSlot s sl.cl sl.fil
  { n := 0, cl := sl.cl, fil := sl.fil, ctx := slotCtx s sl.cl sl.fil, queue := slotQueue s x, kind := kind
    hva := hva, arg := arg, step := x.stepNo.toNat, ph := .wait, lov := false, restore := false, asked := false
    pc := x.pc }

/-- UPD.A, UPD.B, UPD.AB by the cases of R251. -/
def updInner (s : State) (sh : Shard) (c : UCmd) : State :=
  let h := hdrOf s sh
  if h.wStep = c.step then s
  else if c.step ≠ h.wStep + 1 then updStep s sh.half c
  else if c.kind = .a ∧ h.sStep = c.step then s
  else match resume87 h c.step with
    | none => updStep s sh.half c
    | some r => addUCmd s { c with restore := r && !shardBusy s sh, ph := if h.sStep = c.step then .mid else .wait }

/-- The outer round that UPD.OUT serves: STEP_NO = j × H of the round in progress (R264, R336). -/
def outRound (s : State) (job : B32) (step : Nat) : Option Nat :=
  match s.sx.cur with
  | some r => if s.sx.en && decide (rd32 s 0x17040 = job) && r.j * s.sx.h == step then some r.j else none
  | none => none

/-- Has the round in progress been applied with OWN_OUT = 1? -/
def ownOutDone (s : State) : Bool :=
  match s.sx.cur with
  | some r => r.applied.isSome && r.ownOut
  | none => false

/-- UPD.OUT: the journal's outer entry opens and the command waits (R169, R264); once the round is applied with OWN_OUT = 1
it completes without effect (R263). -/
def updOut (s : State) (sh : Shard) (c : UCmd) : State :=
  let h := hdrOf s sh
  match outRound s sh.job c.step with
  | none => updStep s sh.half c
  | some j =>
    if h.merge = 0 then updStep s sh.half c
    else if h.outJ = j ∨ ownOutDone s then s
    else
      let s1 := openEnt s sh.fil true sh.job c.step
      addUCmd s1 { c with arg := j, restore := h.has stOut && !shardBusy s sh }

/-- An update command enters Rosemary, or is answered at once (R251, R255). -/
def updTake (s : State) (c : UCmd) : State :=
  match shardFor s c.ctx c.hva with
  | none => updStep s (clHalf s c.cl) c
  | some sh =>
    match hdrErr s sh with
    | some e => updError s c e
    | none =>
      if !(hdrOf s sh).has stReg ∨ (hdrOf s sh).job ≠ (getCtx s c.ctx).job then updStep s sh.half c
      else if jobHalted s sh.job then updEngine s c c.hva
      else match c.kind with
        | .exp => addUCmd s { c with since := some (ns s) }
        | .out => updOut s sh c
        | _ => updInner s sh c

/-- An instruction of the class; `u` its fields, `arg` the export's address. -/
def updIssue (sl : Slot) (f : Fld) (s : State) (u : Use) (kind : UKind) : Out :=
  issue sl 8 f s fun t =>
    let x := getSlot t sl.cl sl.fil
    let a := (sget x f.ra).toNat
    let b := if kind = .exp then (sget x f.rb).toNat else 0
    guard [(badFld u f, cMAL, 0), (a % 256 != 0, cALIGN, a), (b % 4096 != 0, cALIGN, b)]
      (.done (updTake t (newUCmd t sl kind a b)))

/-- UPD.A. -/
def execUpdA (sl : Slot) (f : Fld) (s : State) : Out := updIssue sl f s { ra := 64 } .a
/-- UPD.B. -/
def execUpdB (sl : Slot) (f : Fld) (s : State) : Out := updIssue sl f s { ra := 64 } .b
/-- UPD.AB. -/
def execUpdAb (sl : Slot) (f : Fld) (s : State) : Out := updIssue sl f s { ra := 64 } .ab
/-- UPD.OUT. -/
def execUpdOut (sl : Slot) (f : Fld) (s : State) : Out := updIssue sl f s { ra := 64 } .out
/-- UPD.EXP. -/
def execUpdExp (sl : Slot) (f : Fld) (s : State) : Out := updIssue sl f s { ra := 64, rb := 64 } .exp

/-! ### The export (R265) -/

/-- The segments of an export: S0, S1, S2, OM, with address and bytes; unused ones have none. -/
def expSegs (h : Hdr) : List (Nat × Nat) :=
  let of (i : Nat) : Nat × Nat := match (stateSegs h).find? fun g => g.idx == i with
    | some g => (g.va, g.bytes)
    | none => (0, 0)
  [of 1, of 2, of 3, match (outerSegs h).head? with | some g => (g.va, g.bytes) | none => (0, 0)]

/-- The header fields of an export, by offset. -/
def expHead (h : Hdr) : List (Nat × List Byte) :=
  [(0x00, leBytes 8 h.sStep), (0x08, leBytes 4 (h.rule * 2 ^ 29 + h.rows)), (0x0C, leBytes 4 h.cols),
   (0x10, leBytes 4 h.row0), (0x14, leBytes 8 h.outJ), (0x1C, (expSegs h).flatMap fun g => leBytes 4 g.2)]

/-- Pieces written in order up to the first error. -/
def writeAll (ctx : Nat) : List (Nat × List Byte) → State → State × Option VErr
  | [], s => (s, none)
  | (va, bs) :: ps, s =>
    match writeVa s none ctx va bs with
    | (s1, none) => writeAll ctx ps s1
    | r => r

/-- The segments' places behind offset 0x1000, each padded to 4 KiB. -/
def expPlace : Nat → List (Nat × Nat) → List (Nat × Nat × Nat)
  | _, [] => []
  | o, (va, n) :: t => (o, va, n) :: expPlace (o + 4096 * blocks4k n) t

/-- Segment bytes read for an export, filled with zeros up to 4 KiB (log entry 55). -/
def expRead (s : State) (ctx dst : Nat) : List (Nat × Nat × Nat) → List (Nat × List Byte) × Option VErr
  | [] => ([], none)
  | (o, va, n) :: t =>
    match readVa s none ctx va n with
    | (_, some e) => ([], some e)
    | (bs, none) =>
      let (r, e) := expRead s ctx dst t
      ((dst + o, padBlocks bs) :: r, e)

/-- Bytes of an export. -/
def expLen (h : Hdr) : Nat := 0x1000 + ((expSegs h).map fun g => 4096 * blocks4k g.2).sum

/-- UPD_EXP_COMPLETE: the whole record is written and EX_SYNC is signalled with 1; one to host memory waits while the link is
down (R433). -/
def execUpdExpComplete (n : Nat) (s : State) : Out :=
  match findUCmd s n with
  | none => .next s
  | some c =>
    match cmdShard s c with
    | none => .next s
    | some sh =>
      let h := hdrOf s sh
      if c.kind ≠ .exp ∨ !shardRuns s sh ∨ shardPending s sh ∨ (!s.dev.linkUp ∧ hostVa s sh.ctx c.arg (expLen h) .write) then .next s
      else
        let s1 := meetShard (dropUCmd s n) sh
        match expRead s1 sh.ctx c.arg (expPlace 0x1000 (expSegs h)) with
        | (_, some e) => .next (updError s1 c e)
        | (ps, none) =>
          let sync := bv 32 (vaNat s1 sh.ctx (c.arg + 0x3C) 4)
          match writeAll sh.ctx ((expHead h).map (fun p => (c.arg + p.1, p.2)) ++ ps) s1 with
          | (s2, some e) => .next (updError s2 c e)
          | (s2, none) => .next (engineSig s2 5 sync 1 c.cl c.fil c.ctx c.queue)

end Sys2Proof.Machine
end

