-- ==== Sys2Proof/Machine/PhaseOps.lean ====
section
/-!
DEFINITION. What Rosemary's phases and merges compute and write (R248 to R255, R261 to R264, Table 8-6).
-/

namespace Sys2Proof.Machine

/-! ### Reading and writing segments -/

/-- The 16-bit elements of a segment. -/
def readEls (s : State) (ctx va n : Nat) : List Nat × Option VErr :=
  let (bs, e) := readVa s none ctx va (2 * n)
  (halves bs, e)

/-- The first error of several reads. -/
def firstErr : List (Option VErr) → Option VErr
  | [] => none
  | some e :: _ => some e
  | none :: t => firstErr t

/-- The elements of S1: 2-bit codes under the sign-momentum rule. -/
def readS1 (s : State) (ctx : Nat) (h : Hdr) : List Nat × Option VErr :=
  let e := h.rows * h.cols
  if h.rule = 3 then readEls s ctx h.s1Va e
  else if h.rule = 4 then readEls s ctx h.s1Va h.rows
  else if h.rule = 5 then
    let (bs, x) := readVa s none ctx h.s1Va ((e + 3) / 4)
    ((dirCodes bs).take e, x)
  else ([], none)

def readS0 (s : State) (ctx : Nat) (h : Hdr) : List Nat × Option VErr :=
  if h.rule = 0 then ([], none) else readEls s ctx h.s0Va (h.rows * h.cols)
def readS2 (s : State) (ctx : Nat) (h : Hdr) : List Nat × Option VErr :=
  if h.rule = 4 then readEls s ctx h.s2Va h.cols else ([], none)

/-- The bytes that Phase A writes, by address. -/
def stateWrites (h : Hdr) (n0 n1 n2 : List Nat) : List (Nat × List Byte) :=
  (if h.rule = 0 then [] else [(h.s0Va, unhalves n0)]) ++
  (if h.rule = 3 ∨ h.rule = 4 then [(h.s1Va, unhalves n1)] else if h.rule = 5 then [(h.s1Va, dirBytes n1)] else []) ++
  (if h.rule = 4 then [(h.s2Va, unhalves n2)] else [])

/-! ### Counts and halts -/

/-- Counts of work of Rosemary into format `fmt`: the statistics record, SH_UPD_OVF, UPD_OVF_CNT (R248). -/
def phaseStats (s : State) (sh : Shard) (step : Nat) (k : Ctr) (n fmt : Nat) : State :=
  let h := hdrOf s sh
  let s1 := (statAdd s sh.ctx h.ustat k 0 n fmt (modeFor (getCtx s sh.ctx) step)).1
  let s2 := setHdr s1 sh 4 4 (sat32 (h.ovf + k.ovf))
  s2.setUpd { s2.upd with ovf := sat32 (s2.upd.ovf + k.ovf) }

/-- Did a conversion overflow, or meet a NaN, under SERVICE (R255)? -/
def nonFinite (s : State) (sh : Shard) (step : Nat) (k : Ctr) : Bool :=
  service (getCtx s sh.ctx) step && (k.ovf != 0 || k.nan != 0)

/-- UPD_NONFINITE: the job's shards halt. -/
def nonFiniteHalt (s : State) (sh : Shard) (step : Nat) : State :=
  logRec (haltJob s sh.job step) sh.half
    { code := 0x0504, sev := 2, scope := 5, who := mkWho none 0 0 (getCtx s sh.ctx).tenant sh.ctx,
      step := bv 64 step, job := sh.job, addr := bv 64 sh.hva }

/-- A phase that cannot reach memory: its command faults; the shard's later commands restore first (R253). -/
def phaseError (s : State) (sh : Shard) (c : UCmd) (e : VErr) : State :=
  let s1 := updError (dropUCmd s c.n) c e
  let mark (d : UCmd) : UCmd :=
    if cmdShard s1 d = some sh ∧ d.kind ≠ .exp then { d with restore := true, asked := false } else d
  s1.setUpd { s1.upd with cmds := s1.upd.cmds.map mark }

/-! ### The phases -/

/-- The gradient record that a phase reads in place of the G segment: on an own shard under the divergence procedure
(Table 5-8). -/
def gradRec (s : State) (sh : Shard) (step : Nat) (lov : Bool) : Option Seg :=
  if lov && !sh.mirror then
    (findEnt s sh.fil false step).bind fun e => e.segs.find? fun g => g.kind == 2 && g.shard == sh.idx
  else none

/-- The lines of that record are read (R159). -/
def meetGrad (s : State) (sh : Shard) (step : Nat) (lov : Bool) : State :=
  match gradRec s sh step lov with
  | some g => meetRange s g.pa (4096 * g.blocks)
  | none => s

/-- The gradients that a phase reads. -/
def gradEls (s : State) (sh : Shard) (step : Nat) (lov : Bool) : List Nat × Option VErr :=
  let h := hdrOf s sh
  match gradRec s sh step lov with
  | some g => (halves ((segBytes s g).take (2 * (h.rows * h.cols))), none)
  | none => readEls s sh.ctx h.gVa (h.rows * h.cols)

/-- Phase A: the state after it with its counts and conversions, or the error met. -/
def phaseA (s : State) (sh : Shard) (step : Nat) (lov : Bool) : State × Option VErr × Ctr × Nat :=
  let s := meetGrad (meetSp s sh step) sh step lov
  let h := hdrOf s sh
  let p := parOf s sh step
  let (gs, e0) := gradEls s sh step lov
  let (s0, e1) := readS0 s sh.ctx h
  let (s1, e2) := readS1 s sh.ctx h
  let (s2, e3) := readS2 s sh.ctx h
  match firstErr [(spRead s sh step).2, e0, e1, e2, e3] with
  | some e => (s, some e, {}, 0)
  | none =>
    if h.rule = 0 then (s, none, {}, 0)
    else
      let (n0, n1, n2, k) := phaseAState p gs s0 s1 s2
      let (t, e) := writeAll sh.ctx (stateWrites h n0 n1 n2) s
      (t, e, k, n0.length + (if h.rule = 3 ∨ h.rule = 4 then n1.length else 0) + (if h.rule = 4 then n2.length else 0))

/-- Phase B. -/
def phaseB (s : State) (sh : Shard) (step : Nat) (lov : Bool) : State × Option VErr × Ctr × Nat :=
  let s := meetGrad (meetSp s sh step) sh step lov
  let h := hdrOf s sh
  let n := h.rows * h.cols
  let (ws, e0) := readEls s sh.ctx h.wVa n
  let (gs, e1) := if h.rule = 0 ∨ h.rule = 2 then gradEls s sh step lov else ([], none)
  let (s0, e2) := readS0 s sh.ctx h
  let (s1, e3) := if h.rule = 4 then ([], none) else readS1 s sh.ctx h
  match firstErr [(spRead s sh step).2, e0, e1, e2, e3] with
  | some e => (s, some e, {}, 0)
  | none =>
    let (nw, k) := phaseBW (parOf s sh step) ws gs s0 s1
    let (t, e) := writeVa s none sh.ctx h.wVa (unhalves nw)
    (t, e, k, n)

/-- The loss-scale fields of the header for the next step (R257). -/
def lsWord (h : Hdr) : Nat := let (e, g, _) := lsNext h .commit; e * 2 ^ 16 + g

/-! ### The outer round -/

/-- Position of a site among the job's valid sites (R341). -/
def sitePos (s : State) (site : Nat) : Nat := ((validSites s).filter (· < site)).length

/-- Rosemary's constants for an outer round of step `step`. -/
def outPar (s : State) (sh : Shard) (step : Nat) : Par :=
  let c := getCtx s sh.ctx
  { h := hdrOf s sh, seed := c.seed.toNat, step := step, svc := service c step, q := 0, eta := 0, bc1 := 0, bc2 := 0 }

/-- Before a rejoin round's difference: OUT_BUSY and the common anchor into OA (R340). -/
def loadAnchor (s : State) (sh : Shard) : State × Option VErr :=
  let h := hdrOf s sh
  let s1 := setStatus s sh stOut true
  match loadVa s1 sh.ctx ((rd64 s 0x17060).toNat % 2 ^ 52 + Config.shardOffset sh.idx) (2 * (h.rows * h.cols)) with
  | (t, _, some e) => (t, some e)
  | (t, bs, none) => writeVa t none sh.ctx h.oaVa bs

/-- The entry of the own site: once the decision of the round is applied the one with its SITE_ID, before that the one at
its place among the job's valid sites (R262, R341). -/
def ownSiteEnt (s : State) (sh : Shard) (step : Nat) : MSite :=
  let own := (ownPeer s).site
  let done := match s.sx.cur with | some r => r.applied.isSome && r.j * s.sx.h == step | none => false
  let before := mergeSite s sh (sitePos s own)
  if done then ((mergeSites s sh (mergeDesc s sh)).find? fun m => m.site == own).getD before else before

/-- The difference encoded into the buffers of the own site's entry (R261). -/
def encodeOut (s : State) (sh : Shard) (step : Nat) : State × Option VErr × Ctr × Nat :=
  let h := hdrOf s sh
  let n := h.rows * h.cols
  let (ws, e0) := readEls s sh.ctx h.wVa n
  let (oa, e1) := readEls s sh.ctx h.oaVa n
  match firstErr [e0, e1] with
  | some e => (s, some e, {}, 0)
  | none =>
    let bl := outerDiff (outPar s sh step) ws oa
    let m := ownSiteEnt s sh step
    let (t, e) := writeAll sh.ctx
      [(dataAt m sh, bl.flatMap fun b => packBlock 8 b.codes b.side), (scaleAt m sh, bl.map fun b => bv 8 b.scale)] s
    (t, e, bl.foldl (fun a b => a.add b.ctr) {}, n)

/-- One site's part of a merge, from its buffers, with the malformed blocks in it. -/
def siteIn (s : State) (sh : Shard) (d : MDesc) (m : MSite) : SiteIn × Option VErr × Nat :=
  let h := hdrOf s sh
  let k := shardBlocks h
  let (db, e0) := readVa s none sh.ctx (dataAt m sh) (32 * k)
  let (sb, e1) := readVa s none sh.ctx (scaleAt m sh) k
  let (om, e2) := if d.rejoin then readEls s sh.ctx (omomAt m sh) (h.rows * h.cols) else ([], none)
  let bl := (List.range k).map fun i => decodeBlock 8 (slice db (32 * i) 32) (sb.getD i 0).toNat
  ({ missed := m.missed, ndev := m.ndev, omom := om, delta := bl.flatMap (·.1) }, firstErr [e0, e1, e2],
   (bl.map (·.2)).sum)

/-- The lines of the descriptor and of the sites' buffers are read (R159). -/
def meetMerge (s : State) (sh : Shard) : State :=
  let h := hdrOf s sh
  let s1 := meetVa s none sh.ctx h.merge 64
  let d := mergeDesc s1 sh
  let s2 := meetVa s1 none sh.ctx (h.merge + 0x40) (32 * d.count)
  (mergeSites s2 sh d).foldl (fun st m =>
    let a := meetVa (meetVa st none sh.ctx (dataAt m sh) (32 * shardBlocks h)) none sh.ctx (scaleAt m sh) (shardBlocks h)
    if d.rejoin then meetVa a none sh.ctx (omomAt m sh) (2 * (h.rows * h.cols)) else a) s2

/-- The merge of R263: W, OM and OA written. -/
def mergeOut (s : State) (sh : Shard) (step : Nat) : State × Option VErr × Ctr × Nat :=
  let s := meetMerge s sh
  let h := hdrOf s sh
  let n := h.rows * h.cols
  let d := mergeDesc s sh
  let ins := (mergeSites s sh d).map (siteIn s sh d)
  let (om, e0) := readEls s sh.ctx h.omVa n
  let (oa, e1) := readEls s sh.ctx h.oaVa n
  match firstErr (e0 :: e1 :: ins.map (·.2.1)) with
  | some e => (s, some e, {}, 0)
  | none =>
    let (u, th, k) := outerMerge (outPar s sh step) (ins.map (·.1)) d.rejoin d.stale om oa
    let (t, e) := writeAll sh.ctx [(h.omVa, unhalves u), (h.wVa, unhalves th), (h.oaVa, unhalves th)] s
    (t, e, { k with fmt := k.fmt + (ins.map (·.2.2)).sum }, 2 * n)

/-! ### Checks begin (R351) -/

def sameChk (a b : Chk) : Bool :=
  a.job = b.job && a.step == b.step && a.shard == b.shard && a.mirror == b.mirror && a.outer == b.outer

/-- The check of a shard copy begins (R351); the divergence procedure has set it back before (R356). -/
def startCheck (s : State) (sh : Shard) (step : Nat) (outer : Bool) : State :=
  let new : Chk := { job := sh.job, step := step, shard := sh.idx, mirror := sh.mirror, outer := outer, mine := none
                     theirs := none, given := none, got := none, done := false, again := none }
  if !pairServes (pairOf s sh.fil) ∨ (s.mir.chks.any (sameChk new)) then s
  else s.setMir { s.mir with chks := s.mir.chks ++ [new] }

end Sys2Proof.Machine
end

