-- ==== Sys2Proof/Machine/SiteOps.lean ====
section
/-!
DEFINITION. The site exchange's shared work: streams (R333), reports and receipts (R335, R337), the decision
(R337, R340), the buffers of a merge descriptor (R341), the common anchor (R340).
-/

namespace Sys2Proof.Machine

/-! ### Who -/

/-- The job that the site exchange serves (SX_JOB). -/
def sxJob (s : State) : B32 := rd32 s 0x17040
def ownSite (s : State) : Nat := (ownPeer s).site
/-- Does the site exchange work: SITEX of Table 13-7, with the time, cipher, sessions and memory that Table 1-3 asks of it
(R23, R26)? -/
def sxOn (s : State) : Bool :=
  live s && s.sx.en && !s.err.ka && transportOn s && s.time.locked && regsOn s && bothRng s && hasImage s 5 && hasImage s 6 &&
  framesOn s

/-- The acting coordinator of a site: the reserve one when the coordinator is absent (R332). -/
def coordOf (s : State) (k : Nat) : Peer :=
  let e := siteOf s k
  if isAbsent s ⟨k, e.coord⟩ then ⟨k, e.alt⟩ else ⟨k, e.coord⟩
def isCoord (s : State) : Bool := decide (coordOf s (ownSite s) = ownPeer s)

/-- Valid sites other than the own one. -/
def otherSites (s : State) : List Nat := (validSites s).filter (· != ownSite s)
/-- This device's peer at a site. -/
def peerAt (s : State) (k : Nat) : Peer := ⟨k, (siteOf s k).peer⟩

/-- The tenant of the job that the site exchange serves, to which its messages count (R309). -/
def sxTenant (s : State) : BitVec 12 :=
  match ctxsOfJob s (sxJob s) with
  | id :: _ => (getCtx s id).tenant
  | [] => 0

/-- The site exchange's messages over SX_CTRL. -/
def sendCtrl (s : State) (d : Peer) (kind : Nat) (args : List Nat) : State :=
  sendTo s 1 7 d (sxTenant s) (sxJob s) [] (.other kind args [])

/-- A record of the site exchange. -/
def sxRec (s : State) (code sev : Nat) (p : Peer) (d0 d1 : Nat) : State :=
  logSpine s { code := code, sev := sev, scope := 5, step := bv 64 (stepInProgress s (sxJob s)), job := sxJob s, dev := mkDev p, data0 := bv 64 d0, data1 := bv 64 d1 }

/-- The round in progress changed. -/
def setRound (s : State) (r : Round) : State := s.setSx { s.sx with cur := some r }

/-! ### Streams -/

/-- Escapes in a block of codes: E2M1X code 0b1000. -/
def escapes (b : List Byte) : Nat :=
  ((b.take 16).map fun x => b2n (x.toNat % 16 == 8) + b2n (x.toNat / 16 == 8)).sum

/-- A block in the packed form of the streams, and back in slotted form (Table 2-11). -/
def toPacked (b : List Byte) : List Byte := b.take (16 + 2 * escapes b)
/-- A packed block that ends before its entries is malformed (R72): entries that did not come are filled with exponent
0xFF, codes that did not come with escapes, so that the slotted form is malformed too (log entry 92). -/
def toSlotted (b : List Byte) : List Byte :=
  if b.length < 16 then List.replicate 16 0x88 ++ List.replicate 16 0xFF
  else
    let need := min 16 (2 * escapes b)
    let got := min need ((b.length - 16) / 2 * 2)
    b.take (16 + got) ++ List.replicate (need - got) 0xFF ++ List.replicate (16 - need) 0

/-- The 32-byte stream header: round, shard index, first block, block count, own site ID, lineage, each little-endian (R333,
log entry 114). -/
def streamHead (j shard first n site : Nat) (lineage : B64) : List Byte :=
  leBytes 8 j ++ leBytes 4 shard ++ leBytes 4 first ++ leBytes 4 n ++ leBytes 4 site ++ leBytes 8 lineage.toNat

/-- Both streams of one shard, from its buffers, sent to a device; blocks at most 16,384 a message (R313, R333). -/
def sendStreams (s : State) (sh : Shard) (site : Nat) (d : Peer) (j : Nat) : State :=
  let m := mergeSite s sh (sitePos s site)
  let n := shardBlocks (hdrOf s sh)
  let ten := (getCtx s sh.ctx).tenant
  let (s, db, e0) := loadVa s sh.ctx (dataAt m sh) (32 * n)
  let (s, scales, e1) := loadVa s sh.ctx (scaleAt m sh) n
  let data := groupsOf 32 db
  let tag (i : Nat) : Byte := bv 8 (i % 256)
  match firstErr [e0, e1] with
  | some e => poisonVote (logPt s sh.ctx e) sh.job e
  | none =>
  (List.range ((n + 16383) / 16384)).foldl (fun st k =>
    let lo := 16384 * k
    let ds := (slice data lo 16384).zipIdx.flatMap fun x => tag (lo + x.2) :: toPacked x.1
    let cs := (slice scales lo 16384).zipIdx.flatMap fun x => [tag (lo + x.2), x.1]
    let args := [j, sh.idx, lo, min 16384 (n - lo), site, s.sx.lineage.toNat]
    let hd := streamHead j sh.idx lo (min 16384 (n - lo)) site s.sx.lineage
    sendTo (sendTo st 2 0xA d ten sh.job (hd ++ ds) (.other 1 args [])) 2 0xB d ten sh.job (hd ++ cs) (.other 1 args [])) s

/-- A shard segment of a site as SX_STATE, under its CRC-64 (R340, R342). -/
def sendStateOf (s : State) (sh : Shard) (site kind va : Nat) (d : Peer) : State :=
  match loadVa s sh.ctx va (2 * ((hdrOf s sh).rows * (hdrOf s sh).cols)) with
  | (s1, _, some e) => poisonVote (logPt s1 sh.ctx e) sh.job e
  | (s1, bs, none) =>
    sendTo s1 2 0xC d (getCtx s sh.ctx).tenant sh.job bs (.other 1 [site, sh.idx, kind, (crc64 bs).toNat] [])

/-- A segment of the own site. -/
def sendState (s : State) (sh : Shard) (kind va : Nat) (d : Peer) : State := sendStateOf s sh (ownSite s) kind va d

/-- What has come whole is kept by site and shard copy. -/
def shardKey (sh : Shard) : Nat := 2 * sh.idx + b2n sh.mirror
def isWhole (r : Round) (k : Nat) (sh : Shard) : Bool := r.whole.contains (k, shardKey sh)

/-! ### Reports and receipts -/

/-- The sites of which own and mirror copies hold a whole difference, the own site once it is encoded (R335). -/
def holdMask (s : State) (r : Round) : B64 :=
  let shs := shardsOf s (sxJob s)
  let has (k : Nat) : Bool := if k = ownSite s then r.enc else shs.all fun sh => isWhole r k sh
  bv 64 (((validSites s).filter has).map fun k => 2 ^ k).sum

/-- The sites that a site's devices hold, by their reports: the receipt's mask (R337). -/
def siteMask (s : State) (r : Round) : B64 :=
  let n := (siteOf s (ownSite s)).ndev
  let full (k : Nat) : Bool :=
    let rs := r.reports.filter fun x => x.mask.getLsbD k
    let covered := if k = ownSite s then rs.map fun x => x.src.addr else (rs.flatMap fun x => [x.src.addr, x.partner])
    decide (n ≤ covered.dedup.length)
  bv 64 (((validSites s).filter full).map fun k => 2 ^ k).sum

/-- The receipt of the own site. -/
def ownReceipt (s : State) (r : Round) : Receipt :=
  { site := ownSite s, round := r.j, mask := siteMask s r, lineage := s.sx.lineage, caLin := s.sx.caLin, log := s.sx.log }

/-- Does the site stay out of a round: in the round at which it joins, and in a rejoin round with a common anchor that is too
old (R342, R343)? -/
def sitsOut (s : State) (r : Round) : Bool :=
  (s.sx.stale && r.rejoin) || match s.sx.joinAt with | some j => decide (r.j ≤ j) | none => false

/-- The receipt goes to every coordinator of the job, the own one included; a site that stays out of the round sends none. -/
def sendReceipt (s : State) (r : Round) : State :=
  if r.sent ∨ sitsOut s r then s
  else
    let c := ownReceipt s r
    let s1 := setRound s { r with sent := true, receipts := r.receipts.filter (fun x => x.site != c.site) ++ [c] }
    (otherSites s).foldl (fun st k => sendTo st 1 7 (coordOf s k) (sxTenant s) (sxJob s) [] (.receipt c)) s1

/-- Has the data deadline of a round passed: what comes now counts as not received (R40, R334, R335)? -/
def dataLate (s : State) (r : Round) : Bool := decide (r.t0 + s.sx.dataWait < beat s)

/-- A device's report at its coordinator, by the data deadline; with every device covered for every site the receipt goes
out. -/
def takeReport (s : State) (x : Rep) : State :=
  match s.sx.cur with
  | none => s
  | some r =>
    if dataLate s r then s
    else
    let r1 := { r with reports := r.reports.filter (fun y => y.src ≠ x.src) ++ [x] }
    let s1 := setRound s r1
    if !r1.sent && (validSites s).all fun k => (siteMask s1 r1).getLsbD k then sendReceipt s1 r1 else s1

/-- The device's report of what it holds now, with its mirror partner; a device without one names itself (log entry 114). -/
def sendReport (s : State) : State :=
  match s.sx.cur with
  | none => s
  | some r =>
    let m := holdMask s r
    let p := pairOf s ((jobKind s (sxJob s)).getD false)
    let partner := if pairServes p then p.partner else (ownPeer s).addr
    if m = 0 then s
    else if isCoord s then takeReport s ⟨ownPeer s, partner, m⟩
    else sendCtrl s (coordOf s (ownSite s)) 1 [partner, r.j, m.toNat]

/-- The own differences are encoded: they go to every peer, and the report says so (R335). -/
def sendDiffs (s : State) (j : Nat) : State :=
  let own := ownShards s (sxJob s)
  sendReport ((otherSites s).foldl (fun st k => own.foldl (fun st sh => sendStreams st sh (ownSite s) (peerAt s k) j) st) s)

/-! ### Received streams -/

/-- The records of one stream that have come, in block order from block 0 to the first that has not. -/
def streamHere (r : Round) (k key : Nat) (data : Bool) (n : Nat) : List (Byte × List Byte) :=
  let ps := sortOn Strm.first (r.streams.filter fun x => x.site == k && x.shard == key && x.data == data)
  (ps.foldl (fun (a : List (Byte × List Byte)) x =>
    if x.first ≤ a.length then a.take x.first ++ x.tags.zip x.blocks else a) []).take n

/-- Streams of a shard copy from a site dropped. -/
def dropStreams (r : Round) (k key : Nat) : Round :=
  { r with streams := r.streams.filter fun x => !(x.site == k && x.shard == key) }

/-- Tags that differ: SCALE_SKEW, no part is consumed, and the origin is asked for both streams (R334). -/
def scaleSkew (s : State) (r : Round) (sh : Shard) (k : Nat) (src : Peer) : State :=
  let s1 := setRound s (dropStreams r k (shardKey sh))
  let s2 := s1.setFab { s1.fab with skew := sat32 (s1.fab.skew + 1) }
  sendCtrl (sxRec s2 0x070A 2 src k sh.idx) src 2 [r.j, sh.idx]

/-- Blocks from `lo` on, data record and scale record of each with the same tag, are written in slotted form into the
buffers of the site's entry (R333, R341). -/
def putDiff (s : State) (sh : Shard) (k lo : Nat) (data scales : List (Byte × List Byte)) : State :=
  let m := mergeSite s sh (sitePos s k)
  (writeAll sh.ctx [(dataAt m sh + 32 * lo, data.flatMap fun x => toSlotted x.2),
    (scaleAt m sh + lo, scales.flatMap (·.2))] s).1

/-- A difference is whole: an own shard's goes on to the mirror partner; the coordinator hears of it (R335). -/
def keepDiff (s : State) (r : Round) (sh : Shard) (k : Nat) : State :=
  let r1 := dropStreams { r with whole := (k, shardKey sh) :: r.whole } k (shardKey sh)
  let s1 := setRound s r1
  sendReport (if sh.mirror ∨ !pairServes (pairOf s sh.fil) then s1
    else sendStreams s1 sh k (localPeer s (hdrOf s sh).partner) r.j)

/-- A part of a stream has come: of each block of which both records are there now the tags are compared and the block is
written; with the last the difference is whole (R333, R334). -/
def takeStream (s : State) (r : Round) (sh : Shard) (k : Nat) (src : Peer) (x : Strm) : State :=
  if isWhole r k sh then s
  else
    let r1 := { r with streams := r.streams ++ [x] }
    let n := shardBlocks (hdrOf s sh)
    let key := shardKey sh
    let had := min (streamHere r k key true n).length (streamHere r k key false n).length
    let d := streamHere r1 k key true n
    let c := streamHere r1 k key false n
    let m := min d.length c.length
    if (d.take m).map (·.1) ≠ (c.take m).map (·.1) then scaleSkew s r1 sh k src
    else
      let s1 := if had < m then putDiff s sh k had ((d.take m).drop had) ((c.take m).drop had) else s
      if m = n then keepDiff s1 r1 sh k else setRound s1 r1

/-! ### The decision (R337, R340) -/

def hasSite (m : B64) (k : Nat) : Bool := m.getLsbD k
def maskOf (l : List Nat) : B64 := bv 64 (l.map fun k => 2 ^ k).sum
def sitesOf (m : B64) : List Nat := (List.range 64).filter fun k => m.getLsbD k
def ndevOf (s : State) (l : List Nat) : Nat := (l.map fun k => (siteOf s k).ndev).sum

/-- Q of this coordinator, in ascending site ID, and its proposer. -/
def quorum (r : Round) : List Receipt := sortOn Receipt.site r.receipts
def proposerOf (r : Round) : Option Nat := (quorum r).head?.map (·.site)

/-- The sites of `base` with the lineage that the most devices hold; the group of the lowest site wins a tie. -/
def largest (s : State) (base : List Receipt) : List Receipt :=
  let grp (l : B64) : List Receipt := base.filter fun x => x.lineage = l
  let best := base.foldl (fun (a : Option B64) x => match a with
    | none => some x.lineage
    | some b => if ndevOf s ((grp b).map (·.site)) < ndevOf s ((grp x.lineage).map (·.site)) then some x.lineage else a) none
  match best with
  | some l => grp l
  | none => []

/-- The M of the largest partition of a past round, from the logs of the sites of P. -/
def bestM (logs : List (B64 × Nat)) : B64 :=
  let lowest (m : B64) : Nat := (sitesOf m).headD 64
  (logs.foldl (fun (a : Option (B64 × Nat)) x => match a with
    | none => some x
    | some b => if b.2 < x.2 ∨ (b.2 = x.2 ∧ lowest x.1 < lowest b.1) then some x else a) none).elim 0 (·.1)

/-- MISSED of a site: rounds since the last whole one whose largest partition's M leaves it out (R340). -/
def missedOf (p : List Receipt) (k : Nat) : Nat :=
  let n := p.foldl (fun a x => max a x.log.length) 0
  ((List.range n).filter fun i => !hasSite (bestM (p.filterMap fun x => x.log[i]?)) k).length

/-- LINEAGE after a decision (R339). -/
def nextLineage (l : B64) (d : Decision) : B64 :=
  crc64 (leBytes 8 l.toNat ++ leBytes 8 d.round ++ leBytes 8 d.m.toNat ++ leBytes 1 d.proposer)

/-- Is a decision's round whole: M holds every valid site? -/
def wholeRound (s : State) (d : Decision) : Bool := (validSites s).all fun k => hasSite d.m k

/-- LINEAGE of a site that applies a decision with OWN_OUT = 0: a rejoin round decided whole resets it (R339, R340). -/
def lineageAfter (s : State) (d : Decision) : B64 :=
  if d.rejoin && wholeRound s d then 0 else nextLineage s.sx.lineage d

/-- The proposer's decision, with the new lineage. -/
def decideRound (s : State) (r : Round) : Decision :=
  let q := quorum r
  let me := ownReceipt s r
  let base := q.filter fun x => x.caLin = me.caLin
  let p := if r.rejoin then base else largest s base
  let ps := p.map (·.site)
  let m := ps.filter fun k => p.all fun x => hasSite x.mask k
  let d : Decision :=
    { round := r.j, proposer := ownSite s, q := maskOf (q.map (·.site)), p := maskOf ps, m := maskOf m, rejoin := r.rejoin
      rejoinNext := decide (ps.length < q.length) && !r.rejoin
      missed := m.map fun k => if r.rejoin then missedOf p k else 0 }
  { d with lineage := lineageAfter s d }

/-! ### Applying a decision -/

/-- The devices of the own site that have reported to this coordinator. -/
def reporters (s : State) (r : Round) : List Peer := (r.reports.map (·.src)).filter (· ≠ ownPeer s)

/-- The other devices of the job at the own site: the members of its vote group, which are all of the site (R270). -/
def siteDevs (s : State) : List Peer :=
  match voteGrp s (sxJob s) with
  | some (_, g) => g.list.filter (· ≠ ownPeer s)
  | none => []

/-- A buffer moved within one context's memory. -/
def moveBuf (s : State) (ctx : Nat) (src dst n : Nat) : State :=
  match loadVa s ctx src n with
  | (t, bs, none) => storeVa t ctx dst bs
  | (t, _, some e) => logPt t ctx e

/-- Entry `n` takes the contents of entry `x` for a shard (R341). -/
def moveEntry (s : State) (sh : Shard) (x n : Nat) (rejoin : Bool) : State :=
  let h := hdrOf s sh
  let a := mergeSite s sh x
  let b := mergeSite s sh n
  let s1 := moveBuf s sh.ctx (dataAt a sh) (dataAt b sh) (32 * shardBlocks h)
  let s2 := moveBuf s1 sh.ctx (scaleAt a sh) (scaleAt b sh) (shardBlocks h)
  if rejoin then moveBuf s2 sh.ctx (omomAt a sh) (omomAt b sh) (2 * (h.rows * h.cols)) else s2

/-- Later entries move down, so that entry n holds the n-th site of M. -/
def moveDown (s : State) (sh : Shard) (m : List Nat) (rejoin : Bool) : State :=
  m.zipIdx.foldl (fun st k => if sitePos s k.1 = k.2 then st else moveEntry st sh (sitePos s k.1) k.2 rejoin) s

/-- The RO fields of a shard's merge descriptor (R341, Table 8-9). -/
def fillDesc (s : State) (sh : Shard) (d : Decision) (ownOut : Bool) : State :=
  let va := (hdrOf s sh).merge
  if va = 0 then s
  else
    let m := sitesOf d.m
    let put (st : State) (o n v : Nat) : State := setVaNat st sh.ctx (va + o) n v
    let c := vaNat s sh.ctx (va + 8) 4
    let ctrl := b2n d.rejoin * 2 ^ 31 + b2n ownOut * 2 ^ 30 + m.length * 2 ^ 23 + c / 2 ^ 6 % 2 ^ 17 * 2 ^ 6 + ownSite s
    let s1 := put (put s 0 8 d.round) 8 4 ctrl
    m.zipIdx.foldl (fun st k =>
      let o := 0x40 + 32 * k.2
      let id := vaNat st sh.ctx (va + o) 2
      put (put (put st o 2 (id / 2 ^ 6 * 2 ^ 6 + k.1)) (o + 2) 2 (d.missed.getD k.2 0)) (o + 4) 4 (siteOf s k.1).ndev) s1

/-- LINEAGE, CA_LINEAGE and the log after a decision (R339, R340). -/
def keepHistory (s : State) (d : Decision) (ownOut : Bool) : State :=
  let x := s.sx
  let lin := if ownOut then x.lineage else lineageAfter s d
  if !ownOut ∧ wholeRound s d then s.setSx { x with lineage := lin, caLin := lin, log := [], stale := false }
  else
    let log := x.log ++ [(d.m, ndevOf s (sitesOf d.m))]
    let s1 := s.setSx { x with lineage := lin, log := log.take 64, stale := x.stale || decide (64 < log.length) }
    if 64 < log.length ∧ !x.stale ∧ isCoord s then sxRec s1 0x070D 2 (ownPeer s) d.round 0 else s1

/-- The common anchor buffer of a shard takes its OA after a whole round (R340). -/
def keepAnchor (s : State) (sh : Shard) : State :=
  let h := hdrOf s sh
  moveBuf s sh.ctx h.oaVa ((rd64 s 0x17060).toNat % 2 ^ 52 + Config.shardOffset sh.idx) (2 * (h.rows * h.cols))

/-- W, OA and OM of a shard for a joiner (R342). -/
def sendShard (s : State) (sh : Shard) (d : Peer) : State :=
  let h := hdrOf s sh
  sendState (sendState (sendState s sh 0 h.wVa d) sh 4 h.oaVa d) sh 3 h.omVa d

/-- LINEAGE, CA_LINEAGE and the log for a joiner (R342). -/
def sendHistory (s : State) (d : Peer) : State :=
  let bs := leBytes 8 s.sx.lineage.toNat ++ leBytes 8 s.sx.caLin.toNat ++
    s.sx.log.flatMap fun e => leBytes 8 e.1.toNat ++ leBytes 8 e.2
  sendTo s 2 0xC d (sxTenant s) (sxJob s) bs (.other 1 [ownSite s, 0, 8, (crc64 bs).toNat] [])

/-- The joiners served at round `j`. -/
def joinersOf (s : State) (j : Nat) : List Peer := (s.sx.joins.filter fun x => decide (x.2 ≤ j)).map (·.1)

/-- What the end of a shard's merge means to the site exchange: the common anchor after a whole round, and the state
that joiners fetch (R340, R342). -/
def mergedShard (s : State) (sh : Shard) : State :=
  match s.sx.cur with
  | none => s
  | some r => match r.applied with
    | none => s
    | some d =>
      let s1 := if wholeRound s d then keepAnchor s sh else s
      if sh.mirror then s1
      else (joinersOf s1 r.j).foldl (fun st p => sendShard st sh (peerAt st p.site)) s1

/-- The lineages and the log go to the joiners with the last shard. -/
def joinersDone (s : State) : State :=
  match s.sx.cur with
  | none => s
  | some r =>
    let s1 := (joinersOf s r.j).foldl (fun st p => sendHistory st (peerAt st p.site)) s
    s1.setSx { s1.sx with joins := s1.sx.joins.filter fun x => decide (r.j < x.2) }

end Sys2Proof.Machine
end

