-- ==== Sys2Proof/Machine/Rosemary.lean ====
section
/-!
DEFINITION. Rosemary: the update register block (R244, R245, R256, R268), the phases (R35, R251 to R255) and
the outer merge (R261 to R264).
-/

namespace Sys2Proof.Machine

/-! ### REGISTER (R244) -/

/-- UPD_ARG0 and the header address in it. -/
def updArg0 (s : State) : B64 := rd64 s 0x15008

/-- Reserved bits of a header. -/
def hdrReserved (b : List Byte) : Bool :=
  let n (o k : Nat) : Nat := leNat (slice b o k)
  decide (n 0 4 % 2 ^ 27 ≠ 0) || decide (2 ^ 22 ≤ n 0x18 4) || n 0x1C 4 != 0 || n 0x28 24 != 0 || n 0xE0 24 != 0 ||
  decide (n 0x40 4 / 2 ^ 20 % 32 ≠ 0) || decide (n 0x40 4 % 256 ≠ 0) || decide (2 ^ 17 ≤ n 0x50 4) ||
  decide (n 0x54 4 / 2 ^ 30 ≠ 0) || decide (n 0x54 4 / 2 ^ 22 % 4 ≠ 0) ||
  [0x58, 0x5C, 0x60].any (fun o => decide (2 ^ 24 ≤ n o 4)) ||
  (List.range 11).any fun i => decide (2 ^ 52 ≤ n (0x88 + 8 * i) 8)

/-- Addresses of segments that the rule, or a job without sites, does not use. -/
def unusedVas (h : Hdr) : List Nat :=
  (if h.rule = 0 then [h.s0Va, h.s1Va, h.s2Va] else if h.rule = 3 ∨ h.rule = 5 then [h.s2Va]
   else if h.rule = 4 then [] else [h.s1Va, h.s2Va]) ++
  (if h.merge = 0 then [h.omVa, h.oaVa] else [])

/-- Every segment in use: address and bytes. -/
def usedSegs (h : Hdr) : List SegAt := wSeg h :: gSeg h :: stateSegs h ++ outerSegs h

/-- Is a header malformed for a context (R242 to R244)? -/
def hdrBad (b : List Byte) (h : Hdr) (job : B32) : Bool :=
  hdrReserved b || decide (5 < h.rule) || h.rows == 0 || decide (h.cols % 32 ≠ 0) || h.cols == 0 ||
  decide (2 ^ 32 < h.rows * h.cols) || decide (h.lrExp < -64) || decide (63 < h.lrExp) || h.lsGrow == 0 ||
  (unusedVas h).any (· != 0) || (usedSegs h).any (fun g => decide (g.va % 4096 ≠ 0)) ||
  decide (h.param % 1024 ≠ 0) || h.ustat == 0 || decide (h.ustat % 64 ≠ 0) || decide (h.gstat % 64 ≠ 0) ||
  decide (h.merge % 64 ≠ 0) || h.job != job || (h.rule == 4 && !pos32 h.eps)

/-- The half of HBM in which all of a virtual range lies, in TENANT frames of the context's tenant (R243). -/
def rangeHalf (s : State) (ctx va n : Nat) : Option Half :=
  let hs := (pieces va n).map fun p =>
    match xlate s none ctx p.1 .write with
    | .miss _ _ _ => none
    | .ok pa => match frameOf pa with
      | none => none
      | some k =>
        if frmKind s k = .tenant ∧ frmTenant s k = (getCtx s ctx).tenant ∧ !frameIsRs k then some (frameHalf k) else none
  match hs with
  | [] => some .west
  | x :: t => if t.all (· == x) then x else none

/-- The half of a shard: its header, ring and segments all lie there. -/
def shardHalf (s : State) (ctx hva : Nat) (h : Hdr) : Option Half :=
  match rangeHalf s ctx hva 256 with
  | none => none
  | some x =>
    if rangeHalf s ctx h.param 1024 = some x ∧
        (usedSegs h).all fun g => g.bytes == 0 || rangeHalf s ctx g.va (4096 * blocks4k g.bytes) = some x
    then some x else none

/-- Does an own shard differ from the job's others in what all must share? -/
def ownConflict (s : State) (h : Hdr) (own : List Shard) : Bool :=
  own.any fun x =>
    let o := hdrOf s x
    o.param != h.param || o.lsExp != h.lsExp || o.lsGood != h.lsGood || o.lsMax != h.lsMax || o.lsMin != h.lsMin ||
      o.lsGrow != h.lsGrow || o.merge != h.merge

/-- Segment descriptors that a shard needs in one journal entry. -/
def segCount (h : Hdr) : Nat := (usedSegs h).length + 1

/-- The result of a REGISTER's checks, or the shard. -/
def checkReg (s : State) (ctx hva : Nat) : Except Nat (Shard × Hdr) :=
  let c := getCtx s ctx
  let (b, e) := readVa s none ctx hva 256
  let h := parseHdr b
  if c.st = .free ∨ hva % 256 ≠ 0 then .error 1
  else if e.isSome then .error 2
  else if hdrBad b h c.job then .error 1
  else match shardHalf s ctx hva h with
  | none => .error 2
  | some half =>
    let own := (ownShards s c.job).filter fun x => !isShard s ctx hva x
    if !h.mirror ∧ ownConflict s h own then .error 1
    else if (match jobReg s c.fil with | some j => decide (j.job ≠ c.job) | none => false) then .error 3
    else if 8192 ≤ (s.upd.shards.filter fun x => !isShard s ctx hva x).length ∨
        (!h.mirror ∧ 1024 < (own.map fun x => segCount (hdrOf s x)).sum + segCount h) then .error 4
    else .ok (⟨hva, ctx, half, h.mirror, c.job, c.fil, h.shard⟩, h)

/-- The first error that REGISTER meets: the header's read, then a walk for the parameter ring or a segment (R154). -/
def regErr (s : State) (ctx hva : Nat) : Option VErr :=
  let (b, e) := readVa s none ctx hva 256
  let h := parseHdr b
  match e with
  | some e => some e
  | none =>
    (((h.param, 1024) :: ((usedSegs h).filter fun g => g.bytes != 0).map fun g => (g.va, 4096 * blocks4k g.bytes)).flatMap
      fun r => pieces r.1 r.2).findSome? fun p => match xlate s none ctx p.1 .write with
        | .miss l q b => some (.trans p.1 l q b)
        | .ok _ => none

/-- What a refused REGISTER leaves behind: the record of a walk that failed, and no presence for a line of the header
that cannot be read (R154, R160). -/
def regFail (s : State) (ctx hva : Nat) : State :=
  match regErr s ctx hva with
  | some e => poisonVote (logPt s ctx e) (getCtx s ctx).job e
  | none => s

/-- A shard registered: REG, SH_UPD_OVF and SH_HCRC, the job with its first shard, the depth, and an entry that
is OPEN or UNDO copies an own shard too (R164, R166, R168). -/
def addShard (s : State) (sh : Shard) : State :=
  let s1 := setHdr (setStatus s sh stReg true) sh 4 4 0
  let s2 := setHdr s1 sh 0xF8 8 (hcrcOf s1 sh).toNat
  let s3 := s2.setUpd { s2.upd with shards := (s2.upd.shards.filter fun x => !isShard s2 sh.ctx sh.hva x) ++ [sh] }
  let fresh := (jobReg s3 sh.fil).isNone
  let s4 := if fresh then setJobReg s3 sh.fil (some ⟨sh.job, false, 0⟩) else s3
  let s5 := rechoose s4
  let s6 := if fresh ∧ depthNow s5 sh.fil = 0 then logDepth s5 sh.job 0 else s5
  if sh.mirror then s6
  else
    let reopen (e : JEnt) : JEnt :=
      if e.fil == sh.fil && (e.st = .open_ || e.st = .undo) then
        ({ e with st := .open_, reported := false, todo := sh.idx :: e.todo.filter (· ≠ sh.idx) } : JEnt).sealed
      else e
    s6.setJrn { s6.jrn with entries := s6.jrn.entries.map reopen }

/-- Must a REGISTER wait for the job's VOTED entry (R168)? -/
def entryVoted (s : State) (fil : Bool) : Bool := s.jrn.entries.any fun e => e.fil == fil && e.st = .voted

/-- The REGISTER command on its header. -/
def registerGo (s : State) (w : BitVec 56) : State :=
  let hva := bits (updArg0 s) 51 0
  if bits w 55 12 ≠ 0 ∨ bits (updArg0 s) 63 52 ≠ 0 then finish .update 1 s
  else if s.upd.shards.any fun x => isShard s (bits w 11 0) hva x && shardPending s x then finish .update 6 s
  else
  let s := meetVa s none (bits w 11 0) hva 256
  match checkReg s (bits w 11 0) hva with
  | .error e => finish .update e (if e = 2 then regFail s (bits w 11 0) hva else s)
  | .ok (sh, _) =>
    if !sh.mirror ∧ entryVoted s sh.fil then busy .update (s.setUpd { s.upd with regWait := some w })
    else finish .update 0 (addShard s sh)

/-- REGISTER. -/
def execRegister (w : BitVec 56) (s : State) : Out :=
  blockCmd .update false (.register w) s fun t => registerGo t w

/-- A REGISTER that waited goes on when no entry of its job is VOTED any more. -/
def registerResume (s : State) : State :=
  match s.upd.regWait with
  | none => s
  | some w =>
    if entryVoted s (getCtx s (bits w 11 0)).fil then s
    else registerGo (s.setUpd { s.upd with regWait := none }) w

/-! ### DEREGISTER and READ -/

/-- With its last shard a job is no longer registered: its entries go, and a LOST pair is OFF (R369). -/
def dropJob (s : State) (fil : Bool) (job : B32) : State :=
  if !(shardsOf s job).isEmpty then rechoose s
  else
    let s1 := leaveRegion (delEntries (setJobReg s fil none) fun e => e.fil == fil)
    let s1 := s1.setMir { s1.mir with fixes := s1.mir.fixes.filter fun x => x.job ≠ job }
    let s2 := if (pairOf s1 fil).st = .lost then setPair s1 fil Pair.reset else s1
    let s3 := if depthNow s2 fil = 0 then s2 else logDepth (setDepth s2 fil 0) job 0
    rechoose (setBegun (setTold s3 fil false 0) fil false)

/-- The registered shard whose header address a command without CTX_ID names: of several, the one registered first (log
entry 90). -/
def namedShard (s : State) (hva : Nat) : Option Shard := s.upd.shards.find? fun x => x.hva == hva

/-- DEREGISTER (R245). -/
def execDeregister (w : BitVec 56) (s : State) : Out :=
  blockCmd .update false (.deregister w) s fun t =>
    if bits w 55 12 ≠ 0 ∨ bits (updArg0 t) 63 52 ≠ 0 then finish .update 1 t
    else match namedShard t (bits (updArg0 t) 51 0) with
    | none => finish .update 6 t
    | some sh =>
      if shardPending t sh || (hdrOf t sh).has stHalt then finish .update 6 t
      else
        let t1 := setStatus t sh stReg false
        let t2 := t1.setUpd { t1.upd with shards := t1.upd.shards.filter fun x => x != sh }
        finish .update 0 (dropJob t2 sh.fil sh.job)

/-- READ: the header into UPD_IMG. -/
def execUpdRead (w : BitVec 56) (s : State) : Out :=
  blockCmd .update true (.updRead w) s fun t =>
    if bits w 55 12 ≠ 0 ∨ bits (updArg0 t) 63 52 ≠ 0 then finish .update 1 t
    else match namedShard t (bits (updArg0 t) 51 0) with
    | none => finish .update 6 t
    | some sh =>
      let t1 := meetVa t none sh.ctx sh.hva 256
      finish .update 0 (wrBytes t1 0x15040 (hdrBytes t1 sh))

/-! ### ROLLBACK (R256, R364) -/

/-- The header after a rollback to the start of step `s`: steps, loss scale, no mark of an update. -/
def rollHdr (s : State) (sh : Shard) (step ls : Nat) : State :=
  let s1 := setHdr (setHdr (setHdr s sh 8 8 (step - 1)) sh 0x10 8 (step - 1)) sh 0x18 4 ls
  [stA, stB, stOut, stHalt].foldl (fun st b => setStatus st sh b false) s1

/-- The own shards restored from the undo record of the step; none when a record cannot. -/
def rollOwn (step : Nat) : List Shard → State → State × Bool
  | [], s => (s, true)
  | sh :: t, s =>
    let s0 := checkEnt s sh.fil false step
    match restoreSegs s0 sh false step (fun k => k == 0 || k == 1), journalLs s0 sh step with
    | some s1, some ls => rollOwn step t (rollHdr s1 sh step ls)
    | _, _ => (s0, false)

/-- An outcome held for the step becomes Re-run; later ones are forgotten: the job stands at the start of the
step, as after a Re-run (R256). -/
def undoOutcomes (s : State) (job : B32) (step : Nat) : State :=
  let back (o : OutMsg) : OutMsg := if o.job = job && o.step == step then { o with out := .rerun } else o
  let s1 := s.setCol { s.col with
    outs := (s.col.outs.filter fun o => !(o.job = job && decide (step < o.step))).map back
    deliv := s.col.deliv.filter fun d => !(d.job = job && decide (step ≤ d.step))
    colls := s.col.colls.filter fun c => !(c.job = job && decide (step ≤ c.step) && c.st != .running && c.st != .queued) }
  match voteGrp s1 job with
  | some (i, g) => setGrp s1 i { g with lastOut := 3, attempt := attemptOf s1 job step % 256 }
  | none => s1

/-- Pending commands of a job stand at their beginning again (R254, R256). -/
def restartCmds (s : State) (job : B32) : State :=
  let mark (c : UCmd) : UCmd :=
    if c.kind = .exp then c
    else match cmdShard s c with
      | some sh => if sh.job = job then { c with ph := .wait, restore := false, asked := false } else c
      | none => c
  s.setUpd { s.upd with cmds := s.upd.cmds.map mark }

/-- ROLLBACK is whole: the job is no longer HALTED, its entry of the step is as after Re-run, and what waits waits for the
step's next vote. -/
def rollDone (s : State) (fil : Bool) (job : B32) (step : Nat) : State :=
  let s1 := setJobReg s fil (some ⟨job, false, 0⟩)
  let s2 := delEntries (entRerun s1 fil step) fun e => e.fil == fil && decide (step < e.step)
  let s3 := s2.setMir { s2.mir with chks := s2.mir.chks.filter fun c => !(c.job = job && decide (step ≤ c.step)) }
  let s4 := restartCmds (undoOutcomes s3 job step) job
  finish .update 0 (s4.setUpd { s4.upd with roll := none, was := [] })

/-- A ROLLBACK that waits for owners' records ends when no copy is HALTED any more. -/
def rollCheck (s : State) (job : B32) : State :=
  match s.upd.roll, jobKind s job with
  | some j, some fil =>
    if j ≠ job ∨ (mirShards s job).any (fun x => (hdrOf s x).has stHalt) then s
    else rollDone s fil job (match jobReg s fil with | some r => r.haltStep | none => 0)
  | _, _ => s

/-- The owner of a mirror copy is lost, or its entry damaged: result 0x09, and the pair is LOST. -/
def rollFail (s : State) : State :=
  match s.upd.roll with
  | none => s
  | some job => pairLost (finish .update 9 (s.setUpd { s.upd with roll := none, was := [] })) job

/-- The header of a shard and the segments that a command may write, as they stand: what the command's end without effect
puts back (R444). -/
def shardImage (s : State) (sh : Shard) : List (Nat × Nat × List Byte) :=
  let h := hdrOf s sh
  ((sh.hva, 256) :: (wSeg h :: stateSegs h ++ outerSegs h).map fun g => (g.va, g.bytes)).map fun p =>
    (sh.ctx, p.1, (readVa s none sh.ctx p.1 p.2).1)
def imagesOf (s : State) (l : List Shard) : List (Nat × Nat × List Byte) := l.flatMap (shardImage s)

/-- ROLLBACK of a halted job; an own shard whose record cannot serve falls back with its pair (R171, R173, R369). -/
def rollback (s : State) (fil : Bool) (job : B32) (step : Nat) : State :=
  let before := imagesOf s (shardsOf s job)
  match rollOwn step (ownShards s job) s with
  | (s1, false) => pairLost (finish .update 9 s1) job
  | (s1, true) =>
    let ms := mirShards s1 job
    let s2 := s1.setUpd { s1.upd with roll := some job, was := before }
    if ms.isEmpty then rollDone s2 fil job step
    else if ms.any (partnerLost s2) then rollFail s2
    else busy .update (ms.foldl (fun st x => sendUndoReq st x step false) s2)

/-- ROLLBACK. -/
def execRollback (w : BitVec 56) (s : State) : Out :=
  blockCmd .update false (.rollback w) s fun t =>
    let job := (updArg0 t).extractLsb' 0 32
    if bits w 55 12 ≠ 0 ∨ bits (updArg0 t) 63 32 ≠ 0 then finish .update 1 t
    else match jobKind t job with
    | none => finish .update 6 t
    | some fil => match jobReg t fil with
      | some j =>
        if !j.halted then finish .update 8 t
        else if depthNow t fil = 0 then finish .update 7 t
        else rollback t fil job j.haltStep
      | none => finish .update 6 t

/-! ### Phases -/

/-- May work of the command on its shard start: the shard's first command, no restore left, the job not HALTED (R255)? -/
def cmdTurn (s : State) (sh : Shard) (c : UCmd) : Bool :=
  shardRuns s sh && isFirst s sh c && !owes s sh c && !jobHalted s sh.job

/-- May a phase of the command start: no merge is running either? -/
def phaseTurn (s : State) (sh : Shard) (c : UCmd) : Bool := cmdTurn s sh c && !(hdrOf s sh).has stOut

/-- A primary phase waited `w` ns behind filler work in slice `i` of its half: the slice's governor is charged (R201). -/
def chargeSlice (s : State) (sh : Shard) (i w : Nat) : State :=
  if sh.fil then s else charge s (.slice (4 * halfNo sh.half + i % 4)) w

/-- A command and its shard, when `p` lets the event happen. -/
def onCmd (s : State) (n : Nat) (p : UCmd → Shard → Bool) (k : UCmd → Shard → State) : Out :=
  match findUCmd s n with
  | none => .next s
  | some c => match cmdShard s c with
    | none => .next s
    | some sh => .next (if p c sh then k c sh else s)

/-- Is the step decided as Commit, or Lovage's own command (R35, R356)? -/
def mayUpdate (s : State) (sh : Shard) (c : UCmd) : Bool :=
  c.lov || (decidedAs s sh.job c.step = some .commit && undoReady s sh false c.step)

/-- PHASE_A_START: with the vote passed and the undo record complete, A_BUSY is written before the first state
write (Table 8-6). -/
def execPhaseAStart (p : PhaseIn) (st : State) : Out :=
  onCmd st p.n (fun c sh => c.kind != .out && c.kind != .exp && c.ph = .wait && phaseTurn st sh c && mayUpdate st sh c)
    fun c sh =>
      let s := chargeSlice st sh p.slice p.wait
      let h := hdrOf s sh
      if !hdrOk s sh then hdrChanged s sh c
      else if h.wStep = c.step ∨ (h.sStep = c.step ∧ c.kind = .a) then settleCmds s sh
      else if (resume87 h c.step).isNone then updStep (dropUCmd s p.n) sh.half c
      else if h.sStep = c.step then putUCmd s { c with ph := .mid }
      else putUCmd (setStatus s sh stA true) { c with ph := .inA, restore := false }

/-- The header after Phase A (Table 8-6), the counts, and what an overflow under SERVICE does. -/
def endA (s : State) (sh : Shard) (c : UCmd) (k : Ctr) (n : Nat) : State :=
  let s1 := setStatus (setHdr (phaseStats s sh c.step k n 2) sh 8 8 c.step) sh stA false
  let s2 := settleCmds (putUCmd s1 { c with ph := .mid }) sh
  if nonFinite s sh c.step k then nonFiniteHalt s2 sh c.step else s2

/-- PHASE_A_COMPLETE: the new state is written and state_step = s. -/
def execPhaseAComplete (n : Nat) (s : State) : Out :=
  onCmd s n (fun c sh => c.ph = .inA && shardRuns s sh) fun c sh =>
    match phaseA (meetShard s sh) sh c.step c.lov with
    | (t, some e, _, _) => phaseError t sh c e
    | (t, none, k, m) => endA t sh c k m

/-- PHASE_B_START: B_BUSY is written before the first weight write. -/
def execPhaseBStart (p : PhaseIn) (st : State) : Out :=
  onCmd st p.n (fun c sh => (c.kind = .b || c.kind = .ab) && c.ph = .mid && phaseTurn st sh c && mayUpdate st sh c)
    fun c sh =>
      let s := chargeSlice st sh p.slice p.wait
      let h := hdrOf s sh
      if !hdrOk s sh then hdrChanged s sh c
      else if h.wStep = c.step then settleCmds s sh
      else if (resume87 h c.step).isNone then updStep (dropUCmd s p.n) sh.half c
      else putUCmd (setStatus s sh stB true) { c with ph := .inB, restore := false }

/-- The header after Phase B, SH_SYNC (R37), the mirror check (R351) and the next step's journal entry (R168). -/
def endB (s : State) (sh : Shard) (c : UCmd) (k : Ctr) (n : Nat) : State :=
  let h := hdrOf s sh
  let s1 := setHdr (setHdr (phaseStats s sh c.step k n 2) sh 0x10 8 c.step) sh 0x18 4 (lsWord h)
  let s2 := settleCmds (setStatus s1 sh stB false) sh
  if nonFinite s sh c.step k then nonFiniteHalt s2 sh c.step
  else
    let s3 := startCheck (engineSig s2 5 h.sync 1 c.cl sh.fil sh.ctx c.queue) sh c.step false
    if c.lov ∨ sh.mirror ∨ jobHalted s3 sh.job ∨ !standAt s3 sh.job c.step ∨ isRoundStep s3 sh.job c.step then s3
    else openNext s3 sh.job c.step

/-- PHASE_B_COMPLETE: the new weights are written and weight_step = s. -/
def execPhaseBComplete (n : Nat) (s : State) : Out :=
  onCmd s n (fun c sh => c.ph = .inB && shardRuns s sh) fun c sh =>
    match phaseB (meetShard s sh) sh c.step c.lov with
    | (t, some e, _, _) => phaseError t sh c e
    | (t, none, k, m) => endB t sh c k m

/-! ### The outer merge -/

/-- The round that a command serves, when it is the one in progress. -/
def roundOf (s : State) (c : UCmd) : Option Round :=
  match s.sx.cur with
  | some r => if r.j = c.arg then some r else none
  | none => none

/-- What a command does with the decision of its round: it merges, or completes without effect (R263, R338). -/
def onDecision (s : State) (c : UCmd) : State :=
  match roundOf s c with
  | none => s
  | some r =>
    if r.applied.isNone then s
    else if r.ownOut then dropUCmd s c.n
    else putUCmd s { c with ph := .merge }

/-- The site exchange is signalled when every own shard's difference is encoded (R261, R335). -/
def encSignal (s : State) (job : B32) (j : Nat) : State :=
  let all := (ownShards s job).all fun x => (hdrOf s x).outJ == j ||
    (shardCmds s x).any fun d => d.kind = .out && d.arg == j && d.ph != .wait
  match s.sx.cur with
  | some r =>
    if all ∧ r.j = j ∧ !r.enc ∧ !sitsOut s r then sendDiffs (setRound s { r with enc := true }) j else s
  | none => s

/-- OUTER_ENCODE_COMPLETE: the shard's difference is in its buffers; in a rejoin round the anchor is loaded
first (R340). -/
def execOuterEncodeComplete (n : Nat) (s : State) : Out :=
  onCmd s n (fun c sh => c.kind = .out && c.ph = .wait && cmdTurn s sh c &&
      !(hdrOf s sh).has stA && !(hdrOf s sh).has stB) fun c sh =>
    if !hdrOk s sh then hdrChanged s sh c
    else if (hdrOf s sh).outJ = c.arg then settleCmds s sh
    else
      let s := meetShard s sh
      let (s1, e) := if (match roundOf s c with | some r => r.rejoin | none => false) then loadAnchor s sh else (s, none)
      match e with
      | some e => phaseError s1 sh c e
      | none => match encodeOut s1 sh c.step with
        | (t, some e, _, _) => phaseError t sh c e
        | (t, none, k, m) =>
          let c1 : UCmd := { c with ph := .dec }
          let t1 := putUCmd (phaseStats t sh c.step k m 8) c1
          onDecision (if sh.mirror then t1 else encSignal t1 sh.job c.arg) c1

/-- Has every own shard merged round j? -/
def allMerged (l : List Shard) (s : State) (j : Nat) : Bool := l.all fun x => (hdrOf s x).outJ == j

/-- The end of a shard's merge: the header, the entry VOTED with the last own shard, OM_SYNC with the last shard,
the check, and the next step's entry (R168, R169, R264, R351). -/
def endMerge (s : State) (sh : Shard) (c : UCmd) : State :=
  let s1 := setStatus (setHdr s sh 0x20 8 c.arg) sh stOut false
  let s2 := mergedShard (startCheck (dropUCmd s1 c.n) sh c.step true) sh
  let own := allMerged (ownShards s2 sh.job) s2 c.arg
  let s3 := if own ∧ !sh.mirror then
      openNext (mapEnt s2 sh.fil true c.step fun e => { e with st := if e.st = .undo then .voted else e.st }) sh.job c.step
    else s2
  if allMerged (shardsOf s3 sh.job) s3 c.arg then
    joinersDone (engineSig s3 5 (mergeDesc s3 sh).sync 1 c.cl sh.fil sh.ctx c.queue)
  else s3

/-- OUTER_MERGE_COMPLETE: OUT_BUSY, then u', θ and θa are written, then SH_OUT_J = j (R263, R264). -/
def execOuterMergeComplete (n : Nat) (s : State) : Out :=
  onCmd s n (fun c sh => c.kind = .out && c.ph = .merge && cmdTurn s sh c && undoReady s sh true c.step) fun c sh =>
    if !hdrOk s sh then hdrChanged s sh c
    else match mergeOut (setStatus (meetShard s sh) sh stOut true) sh c.step with
      | (t, some e, _, _) => phaseError t sh c e
      | (t, none, k, m) =>
        let t1 := endMerge (phaseStats t sh c.step k m 2) sh c
        if nonFinite t sh c.step k then nonFiniteHalt t1 sh c.step else t1

end Sys2Proof.Machine
end

