-- ==== Sys2Proof/Machine/PairOps.lean ====
section
/-!
DEFINITION. Mirror service going DOWN (R350) and a PROMOTE that loses its source (R366).
-/

namespace Sys2Proof.Machine

/-- A record about the pair of a job. -/
def pairRec (s : State) (p : Pair) (code sev : Nat) (d0 d1 : Nat) : Rec :=
  { code := code, sev := sev, scope := 6, who := mkWho none 0 0 (getCtx s p.ctx).tenant p.ctx, job := p.job
    step := bv 64 (stepInProgress s p.job), dev := mkDev (localPeer s p.partner), data0 := bv 64 d0, data1 := bv 64 d1 }

/-- The mirror service of a pair enters DOWN: MIRROR_DOWN.  A PAIR command that was testing the pair ends with it
(log entry 44). -/
def downPair (s : State) (fil : Bool) : State :=
  let p := pairOf s fil
  if p.st = .off ∨ p.st = .down ∨ p.st = .lost then s
  else
    let s1 := logSpine (setPair s fil { p with st := .down }) (pairRec s p 0x0802 0 0 0)
    if p.st = .pairing ∧ s.mir.promo.isNone then finish .resilience 4 s1 else s1

/-- Every pair with a partner goes DOWN, or those of them that `q` takes. -/
def downWith (s : State) (p : Peer) (q : Pair → Bool) : State :=
  [false, true].foldl (fun st fil =>
    if localPeer st (pairOf st fil).partner = p ∧ q (pairOf st fil) then downPair st fil else st) s

/-- PROMO_FAIL: result 0x07, and the pair is LOST. -/
def promoFail (s : State) : State :=
  match s.mir.promo with
  | none => s
  | some p =>
    let s1 := finish .resilience 7 (s.setMir { s.mir with promo := none })
    let s2 := logSpine s1 { code := 0x0806, sev := 2, scope := 6, who := mkWho none 0 0 (getCtx s p.ctx).tenant p.ctx,
                            step := bv 64 (stepInProgress s p.job), job := p.job, dev := mkDev (localPeer s p.src) }
    pairLost s2 p.job

end Sys2Proof.Machine
end

