-- ==== Sys2Proof/Machine/Transport.lean ====
section
/-!
DEFINITION. The transport: delivery in TH_SEQ order, acknowledgement, retransmission, age, release and resync of
connections (R314, R315, R326 to R331).
-/

namespace Sys2Proof.Machine

def findConnId (s : State) (c : Nat) : Option Conn := s.fab.conns.find? fun x => x.id == c
def dropConn (s : State) (c : Nat) : State :=
  s.setFab { s.fab with conns := s.fab.conns.filter fun x => x.id != c }

/-! ### Lost messages (R315) -/

/-- The collective of a lost Borage message fails. -/
def lostColl (s : State) (grp gen step attempt seq : Nat) : State :=
  match s.col.colls.find? fun c => c.grp == grp && c.gen.toNat == gen && c.step == step && c.attempt == attempt &&
      c.seq == seq && (c.st = .queued || c.st = .running) with
  | some c => collFail s c
  | none => s

/-- A message is reported lost to its engine: a collective fails, a Lovage message takes the pair of its job DOWN (R350). -/
def lost (s : State) (o : OutM) : State :=
  match o.body with
  | .borage m => if m.reply = 0 then lostColl s m.group m.gen m.step m.attempt m.seq else s
  | .mdel m => lostColl s (hIdx m.group) (hGen m.group).toNat m.step m.attempt m.seq
  | _ => if o.m.typ = 9 then downWith s o.m.dst fun p => p.job = o.m.job else s

/-- Unacknowledged messages that meet `p` are lost; the connection shows the gap from then on. -/
def loseFrom (s : State) (c : Conn) (p : OutM → Bool) : State :=
  let gone := c.unacked.filter p
  if gone.isEmpty then s
  else flushWaits (gone.foldl lost (putConn s { c with unacked := c.unacked.filter fun o => !p o, gap := true }))

/-- Every message of a connection is expired and the connection released (R328): those that it still sends are lost, those
held early are discarded, and MSG_EXPIRED counts each of these (R315). -/
def killConn (s : State) (c : Conn) : State :=
  let s1 := dropConn s c.id
  flushWaits (c.unacked.foldl lost (s1.setFab { s1.fab with expired := sat32 (s1.fab.expired + c.early.length) }))

/-! ### Epochs at the destination (R330, R331, R402) -/

/-- The epoch whose low 32 bits a message carries and which lies nearest the current one. -/
def nearEpoch (s : State) (e : Nat) : Nat :=
  let c := s.fab.epoch
  let b := c / 2 ^ 32 * 2 ^ 32 + e % 2 ^ 32
  if c + 2 ^ 31 < b ∧ 2 ^ 32 ≤ b then b - 2 ^ 32 else if b + 2 ^ 31 < c then b + 2 ^ 32 else b

/-- Fabric time at which an epoch begins. -/
def epochStart (s : State) (e : Nat) : Nat := e * 2 ^ s.fab.encLog2

/-- What the destination makes of a message's epoch: it drops it, cannot take it yet, or has its key. -/
inductive EpochRes where
  | drop | early | ok
deriving DecidableEq, Repr

def epochRes (s : State) (src : Peer) (e : Nat) : EpochRes :=
  let held := (s.sec.keys.filter fun k => k.peer = src && !k.out).map (·.epoch)
  if s.fab.epoch + 1 < e || held.all (fun h => decide (e < h)) then .drop
  else if !held.contains e || (decide (e = s.fab.epoch + 1) && decide (ns s + beatNs < epochStart s e)) then .early
  else .ok

/-- EPOCH_DROP, and RESYNC names the current epoch and the next TH_SEQ expected (R331). -/
def epochDrop (s : State) (m : Msg) : State :=
  let s1 := s.setFab { s.fab with epochDrop := sat32 (s.fab.epochDrop + 1) }
  send s1 { cls := 0, typ := 4, dst := m.src }
    (.other 1 [m.cls, s.fab.epoch, (theConn s1 m.src m.cls false).next] [])

/-- A tag failure: counted; the second of one TH_SEQ is GCM_FAIL, and the connection is released (R328). -/
def tagFail (s : State) (m : Msg) : State :=
  let s1 := s.setFab { s.fab with gcmFail := sat32 (s.fab.gcmFail + 1) }
  let c := theConn s1 m.src m.cls false
  if c.tagBad.contains m.seq then
    killConn (logSpine s1 { code := 0x0709, sev := 2, scope := 0, who := mkWho none 0 0 m.ten 0, job := m.job,
                            step := bv 64 (if m.job = 0 then 0 else stepInProgress s m.job)
                            dev := mkDev m.src, data0 := bv 64 m.seq }) c
  else putConn s1 { c with tagBad := m.seq :: c.tagBad }

/-! ### Delivery -/

/-- Messages held early that follow on directly are delivered. -/
def drain : Nat → Nat → List Msg → Nat × List Msg
  | 0, n, l => (n, l)
  | k + 1, n, l => if l.any fun m => m.seq == n then drain k (n + 1) (l.filter fun m => m.seq != n) else (n, l)

/-- A connection takes a message: delivered in order, held early, or a duplicate (R314). -/
def takeSeq (s : State) (c : Conn) (m : Msg) : Conn :=
  let c1 : Conn := { c with ackDue := true, rel := ns s + 2 * latNs s }
  let c2 : Conn := if m.gap ∧ c.next < m.seq then { c1 with next := m.seq, early := c1.early.filter fun x => decide (m.seq ≤ x.seq) }
    else c1
  if m.seq < c2.next then c2
  else if c2.next < m.seq then
    if c2.early.any fun x => x.seq == m.seq then c2 else { c2 with early := c2.early ++ [m] }
  else
    let (n, e) := drain (c2.early.length + 1) (m.seq + 1) c2.early
    { c2 with next := n, early := e }

/-- Is there no room for the connection on which a message comes (R314: 65,536)? -/
def connsFull (s : State) (m : Msg) : Bool :=
  (findConn s m.src m.cls false).isNone && decide (65536 ≤ s.fab.conns.length)

/-- Has a message passed its age (R315)?  Without fabric time a device cannot tell (R25). -/
def aged (s : State) (m : Msg) : Bool := s.time.locked && decide (m.tsent + latNs s < ns s)

/-- TRANSPORT_MESSAGE: a whole message reaches its destination.  Its engine takes it by a command of its own
(log entry 13).  One for whose connection there is no room is discarded unacknowledged, and its origin sends it again. -/
def execTransportMessage (m : Msg) (s : State) : Out :=
  if !transportOn s ∨ m.dst ≠ ownPeer s then .next s
  else if m.typ = 0 ∨ 0xC < m.typ ∨ m.cls = 3 ∨ maxPayload < m.payload.length then
    .next (s.setFab { s.fab with msgBad := sat32 (s.fab.msgBad + 1) })
  else if aged s m then .next (s.setFab { s.fab with expired := sat32 (s.fab.expired + 1) })
  else
    let go := if m.enc then epochRes s m.src (nearEpoch s m.epoch) else .ok
    match go with
    | .drop => .next (epochDrop s m)
    | .early => .next s
    | .ok =>
      if m.enc && !m.tagOk then .next (tagFail s m)
      else if m.typ = 1 ∨ connsFull s m then .next s
      else .next (putConn (if m.enc then useSess s m.src else s) (takeSeq s (theConn s m.src m.cls false) m))

/-! ### Acknowledgement -/

/-- How often a device has been sent an ACK. -/
def acksTo (s : State) (p : Peer) : Nat := match s.fab.acks.find? fun e => e.1 = p with | some e => e.2 | none => 0

/-- ACK_TIMER: a cumulative ACK goes to the origin; it is not sequenced and never sent again.  It waits for the first lock,
since it carries fabric time (R25). -/
def execAckTimer (c : Nat) (s : State) : Out :=
  match findConnId s c with
  | none => .next s
  | some x =>
    let m0 : Msg := { cls := 0, typ := 1, dst := x.peer, src := ownPeer s }
    let enc := mustEnc s m0
    if x.out ∨ !x.ackDue ∨ x.next = 0 ∨ !transportOn s ∨ !s.time.locked ∨ (enc ∧ (keyOf s x.peer s.fab.epoch true).isNone) then .next s
    else
      let n := acksTo s x.peer
      let m : Msg := { m0 with enc := enc, seq := n, tsent := ns s, epoch := if enc then s.fab.epoch else 0 }
      let s1 := putConn s { x with ackDue := false }
      let s2 := s1.setFab { s1.fab with acks := s1.fab.acks.filter (fun e => e.1 ≠ x.peer) ++ [(x.peer, n + 1)] }
      .next (transmit s2 ⟨m, .other 1 [x.cls, x.next - 1] [], ns s, ns s⟩)

/-- ACK: every message of the connection up to TH_SEQ `seq` is acknowledged; GAP ends with one that carried it. -/
def execAck (src : Peer) (cls seq : Nat) (s : State) : Out :=
  match findConn s src cls true with
  | none => .next s
  | some c =>
    if !transportOn s then .next s
    else
      let hit := c.unacked.filter fun o => decide (o.m.seq ≤ seq)
      let c1 : Conn := { c with
        unacked := c.unacked.filter fun o => decide (seq < o.m.seq)
        gap := c.gap && !(hit.any fun o => o.m.gap), rel := ns s + 2 * latNs s }
      .next (flushWaits (putConn s c1))

/-- The time after which a message to a destination is sent again: four round trips, at least 50 µs (R314). -/
def resendAfter (s : State) (o : OutM) : Nat :=
  max 50000 (match routePort s (bodyPorts s o.body) o.m.dst o.m.seq with | some p => 4 * (getPort s p).rtt | none => 0)

/-- RETRANSMIT_TIMER: unacknowledged messages whose interval has passed are sent again, unchanged; that is traffic of the
connection. -/
def execRetransmitTimer (c : Nat) (s : State) : Out :=
  match findConnId s c with
  | none => .next s
  | some x =>
    if !x.out ∨ !transportOn s then .next s
    else
      let due (o : OutM) : Bool := decide (o.last + resendAfter s o ≤ ns s) && !aged s o.m
      let s1 := putConn s { x with
        unacked := x.unacked.map fun o => if due o then { o with last := ns s } else o
        rel := if x.unacked.any due then ns s + 2 * latNs s else x.rel }
      .next ((x.unacked.filter due).foldl (fun st o => transmit st { o with last := ns s }) s1)

/-! ### Age and release -/

/-- MESSAGE_AGE_EXPIRY: past TH_TSENT + FAB_LAT the origin reports the message and every later one of the connection
lost; a destination discards one that it holds early (R314, R315). -/
def execMessageAgeExpiry (c seq : Nat) (s : State) : Out :=
  match findConnId s c with
  | none => .next s
  | some x =>
    let old (m : Msg) : Bool := m.seq == seq && aged s m
    if x.out then
      if x.unacked.any fun o => old o.m then .next (loseFrom s x fun o => decide (seq ≤ o.m.seq)) else .next s
    else if x.early.any old then
      let s1 := putConn s { x with early := x.early.filter fun m => !old m }
      .next (s1.setFab { s1.fab with expired := sat32 (s1.fab.expired + 1) })
    else .next s

/-- CONNECTION_RELEASE: no traffic for 2 × FAB_LAT beats of fabric time. -/
def execConnectionRelease (c : Nat) (s : State) : Out :=
  match findConnId s c with
  | none => .next s
  | some x => if !s.time.locked ∨ ns s < x.rel ∨ !x.unacked.isEmpty then .next s else .next (dropConn s c)

/-- RESYNC: messages of older epochs are lost; the sequence goes on from the next TH_SEQ (R331). -/
def execResync (src : Peer) (cls epoch next : Nat) (s : State) : Out :=
  match findConn s src cls true with
  | none => .next s
  | some c =>
    if !transportOn s then .next s
    else
      let c1 : Conn := { c with next := max c.next next }
      .next (loseFrom (putConn s c1) c1 fun o => o.m.enc && decide (o.m.epoch < epoch))

/-- SESSION_WAIT_EXPIRY: the message that waits at place `k` has waited 64 beats for its session (R326). -/
def execSessionWaitExpiry (k : Nat) (s : State) : Out :=
  match s.fab.waits[k]? with
  | none => .next s
  | some w =>
    if !s.time.locked ∨ beat s < w.since + 64 ∨ !mustEnc s w.m ∨ (keyOf s w.m.dst s.fab.epoch true).isSome then .next s
    else .next (lost (s.setFab { s.fab with waits := s.fab.waits.eraseIdx k }) ⟨w.m, w.body, ns s, ns s⟩)

end Sys2Proof.Machine
end

