-- ==== Sys2Proof/Machine/Vote.lean ====
section
/-!
DEFINITION. The rows of the commit vote: opening, words, the deadline, absence notices, outcomes and the
recovery root (R289 to R297).
-/

namespace Sys2Proof.Machine

/-! ### Agreement (R34) -/

/-- The latest step before `n` with the outcome Commit. -/
def lastCommit (s : State) (job : B32) (n : Nat) : Option Nat :=
  ((s.col.outs.filter fun o => o.job = job && o.out == .commit && decide (o.step < n)).map (·.step)).foldl
    (fun a k => some (match a with | some m => max m k | none => k)) none

/-- Has Lovage reported agreement for a shard copy's update of step `u`, inner or outer? -/
def agreedOn (s : State) (sh : Shard) (u : Nat) (outer : Bool) : Bool :=
  s.mir.chks.any fun c => c.job = sh.job && c.shard == sh.idx && c.mirror == sh.mirror && c.step == u &&
    c.outer == outer && c.done

/-- The latest outer merge at or after step `u`, of those since the pair was formed: checks of one exist, or one runs. -/
def mergeAfter (s : State) (job : B32) (u : Nat) : Option Nat :=
  let chks := (s.mir.chks.filter fun c => c.job = job && c.outer && decide (u ≤ c.step)).map (·.step)
  let runs := (s.upd.cmds.filter fun c => c.kind = .out && c.ph = .merge && decide ((getCtx s c.ctx).job = job) &&
    decide (u ≤ c.step)).map (·.step)
  (chks ++ runs).foldl (fun a k => some (match a with | some m => max m k | none => k)) none

/-- Is the agreement there that R34 asks before the vote of step `n`?  The pairing comparison stands in where the
shards have had no update since (Table 11-1). -/
def agreedFor (s : State) (job : B32) (n : Nat) : Bool :=
  let p := pairOf s ((jobKind s job).getD false)
  let shs := shardsOf s job
  pairServes p && p.job = job &&
  match lastCommit s job n with
  | none => match mergeAfter s job 0 with
    | some v => shs.all fun sh => agreedOn s sh v true
    | none => true
  | some u =>
    match mergeAfter s job u with
    | some v => shs.all fun sh => agreedOn s sh v true
    | none => decide (u ≤ p.step) || shs.all fun sh => agreedOn s sh u false

/-! ### Opening -/

/-- A member's word is ready (R289); after a failed collective it never is (R299). -/
def wordReady (s : State) (job : B32) (step : Nat) : Bool :=
  let cs := collsOf s job step
  match cs.find? fun c => c.isLast with
  | none => false
  | some l =>
    (cs.all fun c => c.st != .failed &&
      (!(c.grad || c.ctrl.testBit 18) || decide (l.seq < c.seq) || c.st = .complete)) &&
    ((mirShards s job).all fun sh => delivered s sh step) &&
    agreedFor s job step

/-- Is a context of the job STOPPED: then the member is not present (R145)? -/
def jobStopped (s : State) (job : B32) : Bool :=
  (ctxsOfJob s job).any fun id => (getCtx s id).st = .stopped

/-- VOTE_OPEN: the word is ready; it goes to the parent, and the deadline is armed.  A member that is not present
says so (R290). -/
def execVoteOpen (job : B32) (s : State) : Out :=
  let step := stepInProgress s job
  match voteGrp s job with
  | none => .next s
  | some (i, g) =>
    let v := theVote s job i step
    if !live s ∨ v.opened ∨ hasMark s.col.np job step ∨ (decidedAs s job step).isSome then .next s
    else if s.err.ka then .next (notPresent s job step)
    else if !wordReady s job step then .next s
    else if jobStopped s job then .next (notPresent s job step)
    else .next (voteMove s g { v with opened := true, own := some (ownWord s job step), deadline := beat s + voteWait s g } false)

/-! ### The recovery root (R295) -/

def rootAbsent (s : State) (g : Grp) : Bool := g.rank != 0 && isAbsent s (rankPeer s g 0)

/-- Ranks other than the own one that are not declared absent. -/
def presentRanks (s : State) (g : Grp) : List Nat :=
  (List.range g.size).filter fun r => r != g.rank && !isAbsent s (rankPeer s g r)

def isRecoveryRoot (s : State) (g : Grp) : Bool := rootAbsent s g && recoveryRoot s g == g.rank

/-- The recovery root has every present member's word and no outcome: Re-run. -/
def recoveryDecide (s : State) (g : Grp) (v : Vote) : State :=
  let w := combined s v
  let m : OutMsg := { job := v.job, step := v.step, attempt := v.attempt, out := .rerun, digest := false, p := w.p, r := w.r,
                      g := g.size }
  applyOutcome ((presentRanks s g).foldl (fun st r => sendVote st g m.job r (.outc m)) s) m

/-- The recovery root after something changed. -/
def recoveryMove (s : State) (g : Grp) (v : Vote) : State :=
  if v.recov.isNone && (presentRanks s g).all fun r => v.kids.any fun e => e.1 == r then recoveryDecide s g v
  else putVote s v

/-- RECOVERY_ROOT_WAIT: the latency bound has passed since the root was declared absent; the member sends its word
to the recovery root, which asks every present member. -/
def execRecoveryRootWait (job : B32) (s : State) : Out :=
  match findVote s job, voteGrp s job with
  | some v, some (_, g) =>
    match v.recov with
    | none => .next s
    | some b =>
      if beat s < b ∨ !live s ∨ !rootAbsent s g then .next s
      else
        let w := combined s v
        let v1 := { v with recov := none, sent := true }
        let s1 := setLastWord s w
        if isRecoveryRoot s g then
          .next (recoveryMove ((presentRanks s g).foldl (fun st r => sendVote st g job r (.vword w)) s1) g v1)
        else .next (putVote (sendVote s1 g job (recoveryRoot s g) (.vword w)) v1)
  | _, _ => .next s

/-! ### Words -/

/-- The outcome held for a word's step and attempt. -/
def heldFor (s : State) (w : VWord) : Option OutMsg :=
  s.col.outs.find? fun o => o.job = w.job && o.step == w.step && o.attempt == w.attempt

/-- A word of the current step and attempt: not decided, of the attempt in hand, not behind the vote at hand. -/
def wordTimely (s : State) (w : VWord) : Bool :=
  (decidedAs s w.job w.step).isNone && w.attempt == attemptOf s w.job w.step &&
  match lastDecided s w.job with
  | some n => decide (n < w.step)
  | none => true

/-- VOTE_WORD: a child's word is combined or forwarded; a member that asks for an outcome held here gets it
(R291, R295).  A word from a lower rank is a recovery root's query: it is answered with the own word where no outcome is
held, by a member that has not declared rank 0 absent too. -/
def execVoteWord (src : Peer) (w : VWord) (s : State) : Out :=
  match voteGrp s w.job with
  | none => .next s
  | some (i, g) =>
    match rankOf g src, heldFor s w with
    | none, _ => .next s
    | some r, some m => if !live s ∨ !transportOn s then .next s else .next (sendVote s g w.job r (.outc m))
    | some r, none =>
      if !live s ∨ !transportOn s ∨ !wordTimely s w then .next s
      else
        let v := theVote s w.job i w.step
        let v1 := { v with kids := v.kids.filter (fun e => e.1 != r) ++ [(r, w)] }
        if r < g.rank then
          if rootAbsent s g && recoveryRoot s g == r then .next s
          else .next (sendVote s g w.job r (.vword (combined s v)))
        else if isRecoveryRoot s g then .next (recoveryMove s g v1)
        else .next (voteMove s g v1 (w.notpres || w.absent))

/-- VOTE_DEADLINE: the deadline beat passes; a node forwards what it holds with ABSENT, the root decides (R291, R293). -/
def execVoteDeadline (job : B32) (s : State) : Out :=
  match findVote s job, voteGrp s job with
  | some v, some (_, g) =>
    if !live s ∨ !v.opened ∨ beat s < v.deadline ∨ v.sent then .next s
    else if g.rank = 0 then .next (rootDecide s g v (combined s v))
    else .next (forwardUp s g v { combined s v with absent := true })
  | _, _ => .next s

/-- ABSENCE_NOTICE: the root, before its decision, decides Re-run; after it the notice has no effect (R293). -/
def execAbsenceNotice (job : B32) (step : Nat) (src : Peer) (s : State) : Out :=
  match voteGrp s job with
  | none => .next s
  | some (i, g) =>
    let late : Bool := match lastDecided s job with | some n => decide (step < n) | none => false
    if !live s ∨ g.rank ≠ 0 ∨ (rankOf g src).isNone ∨ (decidedAs s job step).isSome ∨ late then .next s
    else .next (voteMove s g { theVote s job i step with notice := true } true)

/-- VOTE_OUTCOME: the member holds the outcome, forwards it down, and it takes effect (R294, R296). -/
def execVoteOutcome (m : OutMsg) (s : State) : Out :=
  match voteGrp s m.job with
  | none => .next s
  | some (_, g) =>
    if !live s ∨ (decidedAs s m.job m.step).isSome ∨ m.attempt ≠ attemptOf s m.job m.step then .next s
    else if isRecoveryRoot s g then
      .next (applyOutcome ((presentRanks s g).foldl (fun st r => sendVote st g m.job r (.outc m)) s) m)
    else .next (applyOutcome (passDown s g m) m)

/-! ### A member declared absent (R292, R295) -/

/-- What a declared absence does in one vote: a notice to the root for the step whose outcome is not held; when the
root, or the recovery root, is the one, the wait of R295 begins; a recovery root waits for one member less. -/
def voteAbsent (s : State) (p : Peer) (job : B32) : State :=
  match voteGrp s job with
  | none => s
  | some (i, g) =>
    match rankOf g p with
    | none => s
    | some r =>
      let step := stepInProgress s job
      if (decidedAs s job step).isSome then s
      else if rootAbsent s g && (r == 0 || decide (r < recoveryRoot s g)) then
        putVote s { theVote s job i step with recov := some (beat s + s.fab.lat) }
      else if isRecoveryRoot s g then match findVote s job with
        | some v => recoveryMove s g v
        | none => s
      else if g.rank = 0 then voteMove s g { theVote s job i step with notice := true } true
      else sendVote s g job 0 (.absence job step)

end Sys2Proof.Machine
end

