-- ==== Sys2Proof/Machine/Heart.lean ====
section
/-!
DEFINITION. Heartbeats and absence (R318, R319), the lowered latency bound (R316), the epoch change and the
retirement of keys (R329, R330).
-/

namespace Sys2Proof.Machine

/-! ### Heartbeats -/

/-- HEARTBEAT_SEND: at position 1 of each beat every watched partner gets the beat, the status and NUM_REV (R318). -/
def execHeartbeatSend (s : State) : Out :=
  if !live s ∨ !transportOn s ∨ !s.time.locked ∨ beat s < s.fab.hbSent then .next s
  else
    let s1 := s.setFab { s.fab with hbSent := beat s + 1 }
    .next (s.fab.watch.foldl (fun st w =>
      send st { cls := 0, typ := 2, dst := w.peer } (.other 1 [beat s, if s.err.ka then 2 else 1, 3] [])) s1)

/-- A record about a partner. -/
def partnerRec (s : State) (code : Nat) (p : Peer) : State :=
  logSpine s { code := code, sev := 0, scope := 0, dev := mkDev p }

/-- Restores that a lost owner was to supply (R253, R355, R364). -/
def lostOwner (s0 : State) (p : Peer) : State :=
  let bad := s0.mir.fixes.filter fun x => match shardBy s0 x.job x.shard true with
    | some sh => localPeer s0 (hdrOf s0 sh).partner = p
    | none => false
  let s := bad.foldl (fun st x => pairLost st x.job) (s0.setMir { s0.mir with fixes := s0.mir.fixes.filter fun x => !bad.contains x })
  let gone := s.upd.cmds.filter fun c => c.restore && c.asked
  let s1 := gone.foldl (fun st c => match cmdShard st c with
    | some sh => if sh.mirror ∧ localPeer st (hdrOf st sh).partner = p then noRecord st sh c else st
    | none => st) s
  match s1.upd.roll with
  | none => s1
  | some job =>
    if (mirShards s1 job).any fun x => (hdrOf s1 x).has stHalt && decide (localPeer s1 (hdrOf s1 x).partner = p) then rollFail s1
    else s1

/-- A member of a job is lost, absent or in keep-alive mode (R360): the mirror service with it goes DOWN, a promotion from
it fails, and no restore comes from it.  A source that was in keep-alive mode before (`fresh` false) still serves its copies
(R366), but does not pair. -/
def memberLost (s : State) (p : Peer) (fresh : Bool) : State :=
  let s1 := downWith s p fun _ => true
  let fails := match s1.mir.promo with
    | some x => decide (localPeer s1 x.src = p) && (fresh || x.pairing)
    | none => false
  let s2 := if fails then promoFail s1 else s1
  lostOwner s2 p

/-- HEARTBEAT: the partner's beat, status and revision; PARTNER_BACK from one that was absent; a partner with the
keep-alive status is lost (R319, R350, R360). -/
def execHeartbeat (src : Peer) (b status numRev : Nat) (s : State) : Out :=
  match s.fab.watch.find? fun w => w.peer = src with
  | none => .next s
  | some w =>
    if !transportOn s then .next s
    else
      let w1 : Watch := { w with got := b :: w.got, absent := false, ka := status == 2, numRev := numRev
                                 miss := if w.absent then 0 else w.miss }
      let s1 := s.setFab { s.fab with watch := s.fab.watch.map fun x => if x.peer = src then w1 else x }
      let s2 := if w.absent then partnerRec s1 0x0706 src else s1
      .next (if status = 2 then memberLost s2 src (!w.ka) else s2)

/-! ### Absence -/

/-- A session closes when its peer is declared absent (R411): its keys are erased. -/
def closeSess (s : State) (p : Peer) : State :=
  s.setSec { s.sec with
    sess := s.sec.sess.filter (fun x => x.peer ≠ p), keys := s.sec.keys.filter (fun k => k.peer ≠ p)
    atts := s.sec.atts.filter fun a => a.peer ≠ p }

/-- What a declared absence does (R319): PARTNER_ABSENT, the mirror service, a promotion, the votes, the session. -/
def declareAbsent (s : State) (p : Peer) : State :=
  let s1 := memberLost (partnerRec s 0x0705 p) p true
  closeSess ((voteJobs s1).foldl (fun st j => voteAbsent st p j) s1) p

/-- ABSENCE_CHECK: at position 1 of beat b, has partner `k`'s heartbeat of beat b − 1 arrived?  The fourth failure
in a row declares it absent. -/
def execAbsenceCheck (k : Nat) (s : State) : Out :=
  match s.fab.watch[k]? with
  | none => .next s
  | some w =>
    if !live s ∨ !transportOn s ∨ !s.time.locked ∨ beat s < w.seen then .next s
    else
      let came := w.got.any fun b => b + 1 == beat s
      let miss := if came then 0 else w.miss + 1
      let gone := decide (4 ≤ miss) && !w.absent
      let w1 : Watch := { w with
        got := w.got.filter fun b => decide (beat s ≤ b), seen := beat s + 1, miss := miss, absent := w.absent || gone }
      let s1 := s.setFab { s.fab with watch := s.fab.watch.set k w1 }
      .next (if gone then declareAbsent s1 w.peer else s1)

/-! ### The bound and the epochs -/

/-- FAB_LAT_LOWER_EFFECT: the lowered bound governs from its beat on (R316). -/
def execFabLatLowerEffect (s : State) : Out :=
  match s.fab.latPend with
  | none => .next s
  | some (v, b) => if beat s < b then .next s else .next (s.setFab { s.fab with lat := v, latPend := none })

/-- EPOCH_CHANGE: new messages take the new epoch; a new EPOCH_LOG2 takes effect with it (R329). -/
def execEpochChange (s : State) : Out :=
  if !live s ∨ !s.time.locked ∨ ns s / 2 ^ s.fab.encLog2 ≤ s.fab.epoch then .next s
  else
    let n := s.fab.encNext
    let e := ns s / 2 ^ n
    let keys := s.sec.keys.map fun k =>
      if k.epoch + 1 = e ∧ k.retire.isNone then { k with retire := some (e * 2 ^ n + (s.fab.lat + 1) * beatNs) } else k
    let s1 := s.setFab { s.fab with encLog2 := n, epoch := e, encAll := s.fab.encAllNext }
    .next (flushWaits (s1.setSec { s1.sec with keys := keys }))

/-- A session that another has replaced is no longer held once its epochs are over and its keys have retired (R411). -/
def dropOld (s : State) : State :=
  let gone (x : Sess) : Bool := match x.stop with
    | some f => decide (f ≤ s.fab.epoch) && !(s.sec.keys.any fun k => k.peer = x.peer && k.id = x.id)
    | none => false
  s.setSec { s.sec with sess := s.sec.sess.filter fun x => !gone x }

/-- EPOCH_KEY_RETIRE: keys whose time has come, or older than the previous epoch, are erased (R330). -/
def execEpochKeyRetire (s : State) : Out :=
  if !live s then .next s
  else .next (dropOld (s.setSec { s.sec with keys := s.sec.keys.filter fun k =>
    !(match k.retire with | some t => decide (t ≤ ns s) | none => false) && decide (s.fab.epoch ≤ k.epoch + 1) }))

end Sys2Proof.Machine
end

