-- ==== Sys2Proof/Machine/Sessions.lean ====
section
/-!
DEFINITION. Sessions between devices: establishment (R407 to R411), epoch keys (R399, R400, R402), and the random bit
generators (R390, R413).
-/

namespace Sys2Proof.Machine

/-! ### Random bits -/

/-- DRBG_RESEED: after 2^20 requests. -/
def execDrbgReseed (h : Half) (s : State) : Out :=
  if s.sec.drbg.get h < 2 ^ 20 ∨ !s.sec.rngOk.get h then .next s
  else .next (s.setSec { s.sec with drbg := s.sec.drbg.set h 0 })

/-- MASK_RESEED: after 2^20 blocks the masking generator takes a new seed from the DRBG. -/
def execMaskReseed (h : Half) (s : State) : Out :=
  if s.sec.mask.get h < 2 ^ 20 ∨ !s.sec.rngOk.get h then .next s
  else .next (reseedMask s h)

/-- HEALTH_TEST_FAIL: the cryptography of the half stops; RNG_FAULT, Fatal with scope device, once the rings run. -/
def execHealthTestFail (h : Half) (s : State) : Out :=
  if !s.pwr.on ∨ !s.sec.rngOk.get h then .next s
  else
    let s1 := s.setSec { s.sec with rngOk := s.sec.rngOk.set h false }
    .next (refreshRdy (if s1.boot.sage.get h then raiseAll s1 h { code := 0x0B04, sev := 3, scope := 0 } else s1))

/-! ### Keys -/

/-- Do sessions work: SESSIONS of Table 13-7? -/
def sessOn (s : State) : Bool := hasImage s 6 && transportOn s && s.time.locked && regsOn s && bothRng s

/-- Order of devices: site ID, then address (R400, R409). -/
def peerLt (a b : Peer) : Bool := decide (a.site < b.site) || (a.site == b.site && decide (a.addr < b.addr))

/-- "EPOCH" in ASCII. -/
def epochLabel : List Byte := [0x45, 0x50, 0x4F, 0x43, 0x48]

/-- The context of an epoch key: session ID, direction, epoch big-endian. -/
def epochCtx (id : B64) (dir e : Nat) : List Byte := leBytes 8 id.toNat ++ [bv 8 dir] ++ (leBytes 8 e).reverse

/-- The key of one direction of a session in an epoch. -/
def epochKey (s : State) (x : Sess) (e : Nat) (out : Bool) : TKey :=
  let up := if out then peerLt (ownPeer s) x.peer else peerLt x.peer (ownPeer s)
  { peer := x.peer, id := x.id, epoch := e, out := out
    key := kdf x.srk epochLabel (epochCtx x.id (if up then 1 else 2) e), retire := none
    h := Config.aes (kdf x.srk epochLabel (epochCtx x.id (if up then 1 else 2) e)) 0 }

/-- Does the session serve epoch `e`? -/
def Sess.serves (x : Sess) (e : Nat) : Bool :=
  decide (x.first ≤ e) && match x.stop with | some f => decide (e < f) | none => true

/-- Transport key slots of each half: the keys of every session stand in both halves' slots (R414, log entry 124). -/
def keySlots : Nat := 12288

/-- Both keys of a session for an epoch, where they are not held and slots are free; a key of an epoch that is over retires by
R330. -/
def formKeys (s : State) (x : Sess) (e : Nat) : State :=
  let ret : Option Nat := if e < s.fab.epoch then some (epochStart s (e + 1) + (s.fab.lat + 1) * beatNs) else none
  [true, false].foldl (fun st out =>
    if (st.sec.keys.any fun k => k.peer = x.peer && k.epoch == e && k.out == out) || decide (keySlots ≤ st.sec.keys.length) then st
    else st.setSec { st.sec with keys := st.sec.keys ++ [{ epochKey st x e out with retire := ret }] }) s

/-- The epoch after the one in force, with the length it will have (R329). -/
def nextEpoch (s : State) : Nat := (s.fab.epoch + 1) * 2 ^ s.fab.encLog2 / 2 ^ s.fab.encNext

/-- EPOCH_KEY_FORM: from two beats before the next epoch on its keys are formed for every session (R402). -/
def execEpochKeyForm (s : State) : Out :=
  if !live s ∨ !s.time.locked ∨ !vaultOk s ∨ ns s + 2 * beatNs < epochStart s (s.fab.epoch + 1) then .next s
  else
    let e := nextEpoch s
    .next ((s.sec.sess.filter (·.serves e)).foldl (fun st x => formKeys st x e) s)

/-! ### Establishment -/

def dropAtt (s : State) (p : Peer) : State :=
  s.setSec { s.sec with atts := s.sec.atts.filter fun b => b.peer ≠ p }

/-- A failed establishment: its secrets are discarded, SESS_FAIL, and a new attempt a beat later (R408).  The spec
gives the reason no code: it is a free value. -/
def sessFail (s : State) (p : Peer) : State :=
  let s1 := s.setSec { s.sec with fails := sat32 (s.sec.fails + 1) }
  let s2 := logSpine (drawn s1) { code := 0x0B01, dev := mkDev p, data0 := freeVal s1 }
  putAtt s2 { peer := p, init := true, repl := hasSess s2 p, stage := 0, retry := some (beat s + 1) }

/-- An accepted session: it serves from FIRST_EPOCH on, an older one of the peer until then; the keys of FIRST_EPOCH
and the next epoch are derived at once, and messages that waited go out (R407, R411). -/
def openSess (s : State) (p : Peer) (first : Nat) (th : B512) (srk : BitVec 256) : State :=
  let x : Sess := { peer := p, id := th.extractLsb' 0 64, srk := srk, first := first, stop := none, used := ns s }
  let old (y : Sess) : Sess := if y.peer = p ∧ y.stop.isNone then { y with stop := some first } else y
  let s1 := dropAtt s p
  let s2 := s1.setSec { s1.sec with
    sess := (s1.sec.sess.map old).filter (fun y => !(y.peer = p && decide (y.stop = some y.first))) ++ [x]
    keys := s1.sec.keys.filter fun k => !(k.peer = p && decide (first ≤ k.epoch)) }
  flushWaits (formKeys (formKeys s2 x first) x (first + 1))

/-- The answer to S_INIT: X25519 key, encapsulation and nonce are drawn, TH and SRK formed, and S_RESP goes out signed with the
alias key under domain 0x04 (R407). -/
def answerInit (s : State) (m : SInitIn) : State :=
  let s1 := hedged s
  let s2 := hedged s1
  let s3 := hedged s2
  let eph := rand256 s
  let (ct, kss) := Config.kemEncaps m.kem (rand256 s1)
  let b := sRespBytes (Config.x25519Public eph) ct (rand256 s2) (certChain s)
  let th := thOf (sInitBytes m.eph m.kem m.nonce m.chain) b
  let sig := dualSign (aliasKey s) 4 (rand256 s3) (leBytes 64 th.toNat)
  let a : Att := { peer := m.src, init := false, repl := hasSess s m.src, stage := 2, retry := none, chain := m.chain
                   th := th, srk := srkOf (Config.x25519 eph m.eph) kss th, sig := sig }
  sendSess (putAtt (hedged s3) a) m.src 2 (b ++ sig)

/-- S_INIT: the device answers as responder; of two devices that have both sent one, the lower stays initiator (R409).  A new
session that finds no room is not begun: the peer's attempt waits (R410). -/
def execSInit (m : SInitIn) (s : State) : Out :=
  if !sessOn s then .next s
  else match findAtt s m.src with
  | some a =>
    if a.init && a.stage == 1 && peerLt (ownPeer s) m.src then .next s
    else if a.stage ≠ 0 then .next (answerInit s m)
    else .next ((sessRoom s m.src).elim s fun t => answerInit t m)
  | none => .next ((sessRoom s m.src).elim s fun t => answerInit t m)

/-- What the initiator makes of S_RESP: TH, the session root key, and whether the peer's chain and its signature over TH
verify (R407, R408). -/
def respTh (a : Att) (eph : BitVec 256) (ct : List Byte) (nonce : BitVec 256) (chain : List Byte) : B512 :=
  thOf a.first (sRespBytes eph ct nonce chain)
def respOk (s : State) (th : B512) (c : SignedChain) : Bool :=
  match peerAlias s c.chain with
  | some pub => dsVerify pub 4 (leBytes 64 th.toNat) c.sig
  | none => false

/-- FIRST_EPOCH as the initiator chooses it (R407). -/
def firstEpoch (s : State) (p : Peer) : Nat := if hasSess s p then s.fab.epoch + 2 else s.fab.epoch

/-- S_FIN goes out: FIRST_EPOCH, and the signature over SHA-512(TH ‖ S_RESP's signature ‖ FIRST_EPOCH). -/
def sendFin (s : State) (p : Peer) (th : B512) (sig : List Byte) : State :=
  let first := firstEpoch s p
  sendSess (hedged s) p 3 (leBytes 8 first ++ dualSign (aliasKey s) 4 (rand256 s) (finBody th sig first))

/-- S_RESP: verified, S_FIN names FIRST_EPOCH, and the initiator has accepted the session. -/
def execSResp (src : Peer) (eph : BitVec 256) (ct : List Byte) (nonce : BitVec 256) (cert : SignedChain) (s : State) : Out :=
  match findAtt s src with
  | none => .next s
  | some a =>
    if !sessOn s ∨ !a.init ∨ a.stage ≠ 1 then .next s
    else
      let th := respTh a eph ct nonce cert.chain
      if !respOk s th cert then .next (sessFail s src)
      else .next (openSess (sendFin s src th cert.sig) src (firstEpoch s src) th
        (srkOf (Config.x25519 a.eph eph) (Config.kemDecaps a.kem ct) th))

/-- Does FIRST_EPOCH lie within one epoch of the own view (R407)? -/
def firstOk (s : State) (src : Peer) (first : Nat) : Bool :=
  let c := firstEpoch s src
  decide (first ≤ c + 1) && decide (c ≤ first + 1)

/-- The signature structure of S_FIN from its fields (Table 12-2). -/
def finSig (head : B128) (keyId ed : B512) (ml : BitVec 26472) : List Byte :=
  leBytes 16 head.toNat ++ leBytes 64 keyId.toNat ++ leBytes 64 ed.toNat ++ leBytes 3309 ml.toNat ++ List.replicate 643 0

/-- Does S_FIN verify with the alias key of the peer's chain? -/
def finOk (s : State) (a : Att) (first : Nat) (sig : List Byte) : Bool :=
  match peerAlias s a.chain with
  | some pub => dsVerify pub 4 (finBody a.th a.sig first) sig
  | none => false

/-- S_FIN: verified, and the responder accepts the session. -/
def execSFin (src : Peer) (first : Nat) (head : B128) (keyId ed : B512) (ml : BitVec 26472) (s : State) : Out :=
  match findAtt s src with
  | none => .next s
  | some a =>
    if !sessOn s ∨ a.init ∨ a.stage ≠ 2 then .next s
    else if !finOk s a first (finSig head keyId ed ml) || !firstOk s src first then .next (sessFail s src)
    else .next (openSess s src first a.th a.srk)

/-- SESSION_RETRY: a beat after a failure the new attempt starts; without room it waits on (R408, R410). -/
def execSessionRetry (dst : Peer) (s : State) : Out :=
  match findAtt s dst with
  | none => .next s
  | some a =>
    match a.retry with
    | none => .next s
    | some b =>
      if !sessOn s ∨ beat s < b then .next s
      else match sessRoom s dst with
      | none => .next s
      | some t => .next (startAtt t dst)

/-- SESSION_REPLACE: the lower device replaces a session that has served SESS_LIFE epochs (R411). -/
def execSessionReplace (dst : Peer) (s : State) : Out :=
  match s.sec.sess.find? fun x => x.peer = dst && x.stop.isNone with
  | none => .next s
  | some x =>
    if !sessOn s ∨ !peerLt (ownPeer s) dst ∨ (findAtt s dst).isSome ∨ s.fab.epoch < x.first + bits (rd32 s 0x1C064) 7 0 then
      .next s
    else .next ((sessRoom s dst).elim s fun t => startAtt t dst)

end Sys2Proof.Machine
end

