-- ==== Sys2Proof/Machine/Cipher.lean ====
section
/-!
DEFINITION. Host key slots and the host's cipher requests (R414 to R417, Tables 12-10 and 12-14).
-/

namespace Sys2Proof.Machine

/-! ### The ring -/

def cqBase (s : State) : Nat := (rd64 s 0x1C0A0).toNat
def cqLog2 (s : State) : Nat := bits (rd32 s 0x1C0A8) 4 0
/-- Address of the entry of request `i`. -/
def cqAt (s : State) (i : Nat) : Nat := hostBase + cqBase s + i % 2 ^ cqLog2 s * 128

/-- A request, Table 12-10. -/
structure CReq where
  op : Nat
  slot : Nat
  iv : BitVec 96
  len : Nat
  aad : Nat
  aadLen : Nat
  src : Nat
  dst : Nat
  tag : B128
  /-- a reserved bit is set -/
  bad : Bool
deriving DecidableEq, Repr

/-- A request read from its 128 bytes; the slot is half × 64 + slot. -/
def parseCReq (b : List Byte) : CReq :=
  let n (o k : Nat) : Nat := leNat (slice b o k)
  let c := n 0 4
  { op := c / 2 ^ 28, slot := c / 2 ^ 7 % 2 * 64 + c % 64, iv := bv 96 (n 8 12), len := n 0x14 4 % 2 ^ 24
    aad := n 0x18 8, aadLen := n 4 4 % 2 ^ 16, src := n 0x20 8, dst := n 0x28 8, tag := bv 128 (n 0x40 16)
    bad := decide (c / 2 ^ 8 % 2 ^ 20 ≠ 0) || c.testBit 6 || decide (2 ^ 16 ≤ n 4 4) || decide (2 ^ 24 ≤ n 0x14 4) ||
      decide (2 ^ 52 ≤ n 0x18 8) || decide (2 ^ 52 ≤ n 0x20 8) || decide (2 ^ 52 ≤ n 0x28 8) || n 0x34 12 != 0 ||
      n 0x50 48 != 0 }

def creqOf (s : State) (i : Nat) : CReq := parseCReq (readMem s (cqAt s i) 128)

/-! ### Host key slots (R414) -/

/-- A pending erasure: the slot, with the index of the first request after it. -/
def eraseOf (slot bound : Nat) : Nat := slot + 128 * bound
def eraseSlot (e : Nat) : Nat := e % 128
def eraseBound (e : Nat) : Nat := e / 128

/-- Was request `i` queued before index `b`? -/
def before (i b : Nat) : Bool := decide ((bv 32 b - bv 32 i - 1).toNat < 2 ^ 31)

/-- Does a queued or running request name the slot? -/
def slotNamed (s : State) (slot : Nat) : Bool := s.sec.reqs.any fun i => (creqOf s i).slot == slot

/-- Is the slot waiting for its erasure? -/
def slotErasing (s : State) (slot : Nat) : Bool := s.sec.erase.any fun e => eraseSlot e == slot

/-- A host key command: its slot in bits [6:0]. -/
def hkeyCmd (c : Instr) (w : BitVec 24) (s : State) (body : State → Nat → State) : Out :=
  blockCmd .hkey false c s fun t => if bits w 23 7 ≠ 0 then finish .hkey 3 t else body t (bits w 6 0)

def setHost (s : State) (k : Nat) (v : Option HKey) : State :=
  s.setSec { s.sec with host := Tab.put (fun _ => none) s.sec.host k v }

/-- A key as a slot holds it, with its GHASH key H: the cipher of the zero block. -/
def hostKey (key : BitVec 256) : HKey := { key := key, h := Config.aes key 0 }

/-- HKEY_LOAD: only while IDE is active; a slot that a request names is refused. -/
def execHkeyLoad (w : BitVec 24) (s : State) : Out :=
  hkeyCmd (.hkeyLoad w) w s fun t k =>
    if !t.dev.ide then finish .hkey 9 t
    else if slotErasing t k || slotNamed t k then finish .hkey 0xA t
    else finish .hkey 0 (setHost t k (some (hostKey (bv 256 (leNat (imgOf t .hkey))))))

/-- HKEY_ERASE: at once, or when the requests that name the slot have completed. -/
def execHkeyErase (w : BitVec 24) (s : State) : Out :=
  hkeyCmd (.hkeyErase w) w s fun t k =>
    if slotErasing t k then finish .hkey 0xA t
    else if slotNamed t k then
      finish .hkey 0 (t.setSec { t.sec with erase := t.sec.erase ++ [eraseOf k t.sec.cqWr.toNat] })
    else finish .hkey 0 (setHost t k none)

/-- SLOT_ERASE: host slot `k` is erased when no request queued before the command names it any more. -/
def execSlotErase (k : Nat) (s : State) : Out :=
  match s.sec.erase.find? fun e => eraseSlot e == k with
  | none => .next s
  | some e =>
    if s.sec.reqs.any fun i => before i (eraseBound e) && (creqOf s i).slot == k then .next s
    else .next (setHost (s.setSec { s.sec with erase := s.sec.erase.filter fun x => eraseSlot x != k }) k none)

/-! ### Requests -/

/-- CQR_WR: requests up to the index start; nothing in keep-alive mode, without a ring, or past a full one. -/
def execCqrWr (v : B32) (s : State) : Out :=
  let n := (v - s.sec.cqWr).toNat
  if !regsOn s ∨ s.err.ka ∨ !rdyBit s 29 ∨ cqBase s = 0 ∨ cqLog2 s < 4 ∨ 16 < cqLog2 s ∨ 2 ^ cqLog2 s < n + s.sec.reqs.length then
    .next s
  else .next (s.setSec { s.sec with
    cqWr := v, reqs := s.sec.reqs ++ (List.range n).map fun i => (s.sec.cqWr + bv 32 i).toNat })

/-- Bytes of a range that can be reached: in assignable HBM or the host window. -/
def cipherRange (a n : Nat) : Bool :=
  n == 0 || decide (a + n ≤ westHbm + hbmFrames * frameBytes) ||
  (decide (eastHbm ≤ a) && decide (a + n ≤ eastHbm + hbmFrames * frameBytes)) ||
  (decide (hostBase ≤ a) && decide (a + n ≤ 2 ^ 48))

/-- Is a request malformed (R415)? -/
def creqBad (r : CReq) : Bool :=
  r.bad || (r.op != 1 && r.op != 2) || !cipherRange r.src r.len || !cipherRange r.dst r.len || !cipherRange r.aad r.aadLen ||
  (r.src != r.dst && decide (r.src < r.dst + r.len) && decide (r.dst < r.src + r.len))

/-- Bytes of a range before its first poisoned line. -/
def cleanBytes (s : State) (a n : Nat) : Nat :=
  match (linesOf a n).find? fun l => Tab.get (fun _ => false) s.mem.poison l with
  | some l => 64 * l - a
  | none => n

/-- The lines of a range that it covers only in part: what a write of it leaves of them is read first, since every device
write is of whole lines (R160). -/
def partLines (a n : Nat) : List Nat := (linesOf a n).filter fun l => decide (64 * l < a) || decide (a + n < 64 * l + 64)

/-- Bytes of a destination before the first poisoned line that it covers only in part. -/
def openBytes (s : State) (a n : Nat) : Nat :=
  match (partLines a n).find? fun l => Tab.get (fun _ => false) s.mem.poison l with
  | some l => 64 * l - a
  | none => n

/-- The lines that a request reads: its additional data, its source, and what stands beside its destination. -/
def creqMeet (s : State) (r : CReq) : State :=
  (partLines r.dst r.len).foldl readLine (meetRange (meetRange s r.aad r.aadLen) r.src r.len)

/-- CQ_STATUS: DONE, TAG_OK, UNTRUSTED, ERR. -/
def putStatus (s : State) (i : Nat) (ok unt : Bool) (err : Nat) : State :=
  let s1 := writeMem s (cqAt s i + 0x30) (leBytes 4 (2 ^ 31 + b2n ok * 2 ^ 30 + b2n unt * 2 ^ 29 + err))
  let s2 := s1.setSec { s1.sec with
    reqs := s1.sec.reqs.filter (· != i), cqRd := s1.sec.cqRd + 1
    untrusted := if unt then sat32 (s1.sec.untrusted + 1) else s1.sec.untrusted }
  irq s2 5

/-- A request that meets a poisoned line: what came before it is written, and it stops. -/
def creqPoison (s : State) (i : Nat) (r : CReq) (key : BitVec 256) (aad : List Byte) : State :=
  let n := if cleanBytes s r.aad r.aadLen < r.aadLen then 0 else min (cleanBytes s r.src r.len) (openBytes s r.dst r.len)
  let t := readMem s r.src n
  let out := if r.op = 1 then (Config.gcmEncrypt key r.iv aad t).1 else (Config.gcmDecrypt key r.iv aad t).1
  putStatus (if n = 0 then s else writeMem s r.dst out) i false true 3

/-- A request carried out (R415, R416); CIPHER_UNTRUSTED goes to the ring of the half whose engine raised it (R372). -/
def creqRun (s : State) (i : Nat) (r : CReq) (key : BitVec 256) : State :=
  let aad := readMem s r.aad r.aadLen
  let text := readMem s r.src r.len
  if cleanBytes s r.aad r.aadLen < r.aadLen ∨ cleanBytes s r.src r.len < r.len ∨ openBytes s r.dst r.len < r.len then
    creqPoison s i r key aad
  else if r.op = 1 then
    let (c, t) := Config.gcmEncrypt key r.iv aad text
    putStatus (writeMem (writeMem s r.dst c) (cqAt s i + 0x40) (leBytes 16 t.toNat)) i false false 0
  else
    let (p, t) := Config.gcmDecrypt key r.iv aad text
    let s1 := writeMem s r.dst p
    if t = r.tag then putStatus s1 i true false 0
    else putStatus (logRec s1 (halfOf (r.slot / 64)) { code := 0x0B03, addr := bv 64 r.dst }) i false true 0

/-- Is the slot empty for request `i`: never loaded, or erased by a command before it? -/
def slotKeyFor (s : State) (i slot : Nat) : Option HKey :=
  if s.sec.erase.any fun e => eraseSlot e == slot && !before i (eraseBound e) then none
  else Tab.get (fun _ => none) s.sec.host slot

/-- CIPHER_REQUEST_COMPLETE: request `i` ends; without the link to the ring, or with its half's cryptography stopped,
it waits. -/
def execCipherRequestComplete (i : Nat) (s : State) : Out :=
  let r := creqOf s i
  let h := halfOf (r.slot / 64)
  if !s.sec.reqs.contains i ∨ !s.dev.linkUp ∨ !s.sec.rngOk.get h ∨ cqBase s = 0 then .next s
  else if creqBad r then .next (putStatus s i false false 2)
  else match slotKeyFor s i r.slot with
  | none => .next (putStatus s i false false 1)
  | some key => .next (creqRun (creqMeet (useMask s h (r.aadLen + r.len)) r) i r key.key)

end Sys2Proof.Machine
end

