-- ==== Sys2Proof/Machine/CollInstr.lean ====
section
/-!
DEFINITION. The collective class (R138, Table 4-15): COLL.GO, COLL.NF, COLL.Q.
-/

namespace Sys2Proof.Machine

/-- The job of the context that runs on a slot. -/
def slotJob (s : State) (sl : Slot) : B32 := (getCtx s (slotCtx s sl.cl sl.fil)).job

/-- A collective as its descriptor words and the issuing slot give it, not yet checked. -/
def newColl (s : State) (sl : Slot) (ws : List B64) (grp : Nat) (g : Grp) : Coll :=
  let x := getSlot s sl.cl sl.fil
  let job := slotJob s sl
  { n := s.col.next, grp := grp, gen := g.gen, job := job, step := x.stepNo.toNat
    attempt := attemptOf s job x.stepNo.toNat, seq := (ws.getD 1 0).toNat % 2 ^ 32, cl := sl.cl, fil := sl.fil
    ctx := slotCtx s sl.cl sl.fil, queue := slotQueue s x, desc := ws, st := .queued, lens := [], snd := [], rcv := []
    own := false, parts := [], got := [], q := 0, rho := 0, mir := false, pc := x.pc }

/-- An ENGINE fault of the collective class found while the descriptor is read (R143, R160). -/
def goError (s : State) (sl : Slot) (e : Option VErr) (addr : Nat) : State :=
  let id := slotCtx s sl.cl sl.fil
  let pc := (getSlot s sl.cl sl.fil).pc
  let job := slotJob s sl
  match e with
  | none => engineFault s sl.cl sl.fil id 7 addr pc
  | some v => poisonVote (engineFault (logPt s id v) sl.cl sl.fil id 7 v.va pc) job v

/-- The collective of a descriptor is queued, or its descriptor is reported (R273). -/
def goColl (s : State) (sl : Slot) (ws : List B64) (addr : Nat) : State :=
  match grpFor s (bv 32 ((ws.getD 0 0).toNat / 2 ^ 32)) with
  | none => goError s sl none addr
  | some (i, g) =>
    let c0 := newColl s sl ws i g
    let s1 := if c0.badForm then s else meetTables s c0 g
    match checkColl s1 c0 g with
    | .bad => goError s1 sl none addr
    | .err e => goError s1 sl (some e) addr
    | .ok c => s1.setCol { s1.col with
        colls := s1.col.colls.filter (fun d => !c.sameNumber d) ++ [c], next := s1.col.next + 1 }

/-- COLL.GO. -/
def execCollGo (sl : Slot) (f : Fld) (s : State) : Out :=
  issue sl 7 f s fun t =>
    let a := (sget (getSlot t sl.cl sl.fil) f.ra).toNat
    guard [(badFld { ra := 64 } f, cMAL, 0), (a % 64 != 0, cALIGN, a)]
      (if 1024 ≤ activeColls t then .hold t
       else .done (match loadVa t (slotCtx t sl.cl sl.fil) a 128 with
         | (u, _, some e) => goError u sl (some e) a
         | (u, bs, none) => goColl u sl ((groupsOf 8 bs).map fun b => bv 64 (leNat b)) a))

/-- COLL.NF: the non-finite flag of STEP_NO's vote. -/
def execCollNf (sl : Slot) (f : Fld) (s : State) : Out :=
  issue sl 7 f s fun t =>
    guard [(badFld {} f, cMAL, 0)]
      (.done (nfMark t (slotJob t sl) (getSlot t sl.cl sl.fil).stepNo.toNat))

def CSt.code : CSt → Nat
  | .queued => 1 | .running => 2 | .complete => 3 | .cancelled => 4 | .failed => 5

/-- COLL.Q: the state of a collective of the slot's step, of its latest attempt (R276). -/
def execCollQ (sl : Slot) (f : Fld) (s : State) : Out :=
  issue sl 7 f s fun t =>
    let x := getSlot t sl.cl sl.fil
    let a := sget x f.ra
    let step := x.stepNo.toNat
    let job := slotJob t sl
    let v := match grpFor t (a.extractLsb' 0 32) with
      | none => 0
      | some (i, g) =>
        match (t.col.colls.filter fun c => c.grp == i && c.gen = g.gen && c.step == step &&
            c.seq == bits a 63 32).getLast? with
        | some c => c.st.code * 2 ^ 60 + c.attempt % 256 * 2 ^ 52
        | none => attemptOf t job step % 256 * 2 ^ 52
    guard [(badFld { rd := 64, ra := 64 } f, cMAL, 0)] (.done (setSlot t sl.cl sl.fil (sset x f.rd (bv 64 v))))

end Sys2Proof.Machine
end

