-- ==== Sys2Proof/Machine/MemCmds.lean ====
section
/-!
DEFINITION. The memory register block (R149, R150, R157, R163), the scrub engine, table walks (R152 to
R156), the patrol (R161), and the governors' release (R200).
-/

namespace Sys2Proof.Machine

/-! ### Frames -/

/-- MEM_ARG0 and MEM_ARG1. -/
def memArg0 (s : State) : B64 := rd64 s 0x10008
def memArg1 (s : State) : B64 := rd64 s 0x10010

/-- The frames that a command names, or its RESULT. -/
def namedFrames (s : State) : Except Nat (List Nat) :=
  let a := (memArg0 s).toNat
  let n := (memArg1 s).toNat
  if 2 ^ 52 ≤ a ∨ a % frameBytes ≠ 0 ∨ n = 0 then .error 4
  else if 2 * halfFrames < n then .error 2
  else
    let ks := (List.range n).map fun i => frameOf (a + i * frameBytes)
    if ks.any (·.isNone) then .error 2 else .ok (ks.filterMap id)

/-- Does the journal hold a frame? -/
def journalHolds (s : State) (k : Nat) : Bool := frameIsRs k && frmKind s k = .device

/-- A command of the block over frames: reserved bits, then the frames, then `body`. -/
def frameCmd (c : Instr) (w : BitVec 56) (s : State) (body : List Nat → Except Nat State) : Out :=
  blockCmd .memory false c s fun t =>
    if bit w 52 ∨ bits w 39 12 ≠ 0 then finish .memory 4 t
    else match namedFrames t with
      | .error e => finish .memory e t
      | .ok ks => match body ks with
        | .error e => finish .memory e t
        | .ok t1 => finish .memory 0 t1

/-- ASSIGN: FREE frames to TENANT or PTABLE of a tenant. -/
def execAssign (w : BitVec 56) (s : State) : Out :=
  frameCmd (.assign w) w s fun ks =>
    let kind := bits w 55 53
    let e := mkEntry (FKind.ofCode kind) (bv 12 (bits w 51 40))
    if kind ≠ 1 ∧ kind ≠ 2 then .error 4
    else if s.jrn.en && ks.any frameIsRs then .error 3
    else if ks.any fun k => frmKind s k != .free then .error 1
    else .ok (ks.foldl (fun st k => setFrm st k e) s)

/-- Entries leave every TLB of both levels. -/
def dropEntries (s : State) (p : TlbE → Bool) : State :=
  s.setMmu { s.mmu with
    tlb := s.mmu.tlb.filter fun t => !p t
    l1 := (s.mmu.l1.map fun e => (e.1, e.2.filter fun t => !p t)).filter fun e => !e.2.isEmpty }

/-- TLB entries that map any part of a frame are dropped. -/
def dropTlb (s : State) (k : Nat) : State :=
  let a := framePa k
  dropEntries s fun t => decide (t.pa < a + frameBytes) && decide (a < t.pa + t.size)

/-- RELEASE: TENANT or PTABLE frames leave every TLB and enter SCRUB. -/
def execRelease (w : BitVec 56) (s : State) : Out :=
  frameCmd (.release w) w s fun ks =>
    if ks.any (journalHolds s) then .error 3
    else if ks.any fun k => frmKind s k != .tenant && frmKind s k != .ptable then .error 1
    else .ok (ks.foldl (fun st k => setFrm (dropTlb st k) k (mkEntry .scrub 0)) s)

/-- RETIRE: FREE frames to RETIRED. -/
def execRetire (w : BitVec 56) (s : State) : Out :=
  frameCmd (.retire w) w s fun ks =>
    if ks.any (journalHolds s) then .error 3
    else if ks.any fun k => frmKind s k != .free then .error 1
    else .ok (ks.foldl (fun st k => setFrm st k (mkEntry .retired 0)) s)

/-- A frame becomes FREE; a replay-store frame joins the journal region while EN = 1, which then chooses
the depth again (R164, R166). -/
def frameFree (s : State) (k : Nat) : State :=
  let s1 := zeroMem s (framePa k) frameBytes
  let h := frameHalf k
  if s1.jrn.en && frameIsRs k then
    refreshRdy (rechoose (s1.setFrm { s1.frm with
      jreg := s1.frm.jreg.set h (spanAdd (s1.frm.jreg.get h) (k % halfFrames - hbmFrames)) }))
  else refreshRdy s1

/-- FRAME_SCRUBBED: the scrub engine of a half finishes a frame: the next one after a reset (R439), one of a released
journal region (R164), or one that RELEASE put into SCRUB (R150). -/
def execFrameScrubbed (k : Nat) (s : State) : Out :=
  let h := frameHalf k
  let i := k % halfFrames
  if 2 * halfFrames ≤ k then .fault (.noSuchUnit "frame" k)
  else if !framesOn s ∨ !live s ∨ (s.lead.half.get h).stopped then .next s
  else if s.frm.scrub.get h = i then
    .next (frameFree (s.setFrm { s.frm with scrub := s.frm.scrub.set h (i + 1) }) k)
  else if frmKind s k ≠ .scrub ∨ s.frm.scrub.get h < i then .next s
  else if Tab.get (fun _ => 0) s.frm.tab k ≠ 0 then .next (frameFree (setFrm s k 0) k)
  else .next (frameFree (s.setFrm { s.frm with jscr := s.frm.jscr.set h (spanDel (s.frm.jscr.get h) (i - hbmFrames)) }) k)

/-! ### Invalidation (R157) -/

/-- An invalidation is in flight: the block is BUSY until it completes. -/
def invalCmd (c : Instr) (w : BitVec 56) (s : State) (i : Inval) : Out :=
  blockCmd .memory false c s fun t =>
    if bit w 52 ∨ bits w 39 12 ≠ 0 ∨ bits (memArg0 t) 63 52 ≠ 0 then finish .memory 4 t
    else busy .memory (t.setMmu { t.mmu with inval := some i })

/-- INVAL_CTX. -/
def execInvalCtx (w : BitVec 56) (s : State) : Out := invalCmd (.invalCtx w) w s (.ctx (bits w 11 0))
/-- INVAL_RANGE. -/
def execInvalRange (w : BitVec 56) (s : State) : Out :=
  invalCmd (.invalRange w) w s (.range (bits w 11 0) (memArg0 s).toNat (memArg1 s).toNat)
/-- INVAL_ALL. -/
def execInvalAll (w : BitVec 56) (s : State) : Out := invalCmd (.invalAll w) w s .all

/-- Does an invalidation cover a TLB entry? -/
def Inval.covers : Inval → TlbE → Bool
  | .ctx id, t => t.ctx == id
  | .range id lo n, t => t.ctx == id && decide (t.va < lo + n) && decide (lo < t.va + t.size)
  | .all, _ => true

/-- INVALIDATION_COMPLETE: no TLB holds an entry that the command covers. -/
def execInvalidationComplete (s : State) : Out :=
  match s.mmu.inval with
  | none => .next s
  | some i =>
    let s1 := dropEntries s i.covers
    .next (finish .memory 0 (s1.setMmu { s1.mmu with inval := none }))

/-! ### Table walks (R152 to R156) -/

/-- A TLB with an entry filled: one of the same page gives way, else at `cap` entries of those that `same` names the
oldest. -/
def fillInto (l : List TlbE) (e : TlbE) (cap : Nat) (same : TlbE → Bool) : List TlbE :=
  let old := l.filter fun t => !(t.tile == e.tile && t.ctx == e.ctx && t.va == e.va && t.size == e.size)
  match decide (cap ≤ (old.filter same).length), (old.filter same).getLast? with
  | true, some x => e :: old.filter (· ≠ x)
  | _, _ => e :: old

/-- A slot's first-level TLB keeps 64 entries; its tile's shared TLB 3,072 entries for primary and 1,024 for filler
contexts (R156). -/
def fillTlb (s : State) (sl : Slot) (e : TlbE) : State :=
  let k := slotKey sl.cl sl.fil
  s.setMmu { s.mmu with
    tlb := fillInto s.mmu.tlb e (if e.fil then 1024 else 3072) fun t => t.tile == e.tile && t.fil == e.fil
    l1 := Tab.put (fun _ => []) s.mmu.l1 k (fillInto (Tab.get (fun _ => []) s.mmu.l1 k) e 64 fun _ => true) }

/-- The page-table entries that a walk reads from a table at level `lv` down. -/
def walkPtes (s : State) (id va : Nat) : Nat → Nat → List Nat
  | 0, base => [base + 8 * (va / 4096 % 512)]
  | lv + 1, base =>
    let idx := if lv = 2 then va / 2 ^ 39 % 8192 else va / 2 ^ (21 + 9 * lv) % 512
    (base + 8 * idx) :: match walkAt s id (getCtx s id) va (lv + 1) base with
      | .stop _ _ => []
      | .down b => walkPtes s id va lv b

/-- The lines of the tables that a walk reads are read (R159). -/
def meetWalk (s : State) (id va : Nat) : State :=
  ((walkPtes s id va 3 (getCtx s id).root).filter fun p => ownedBy s p .ptable (getCtx s id).tenant).foldl
    (fun st p => readLine st (p / 64)) s

/-- TABLE_WALK: a walk for a slot's context fills its TLBs, or ends in a TRANSLATION fault of the slot; a walk that served
an engine leaves the fault to the engine's command; what it waited behind filler work is charged to the cluster (R201).  `l`: an error in a line that the walk may read. -/
def execTableWalk (sl : Slot) (va : Nat) (a : Acc) (l : LineRead) (s : State) : Out :=
  if 512 ≤ sl.cl then .fault (.noSuchUnit "cluster" sl.cl)
  else match (getSlot s sl.cl sl.fil).ctx with
  | none => .next s
  | some id =>
    if !live s ∨ s.err.ka then .next s
    else
      let s1 := waited sl sl.wait (injectLine s l)
      let fail (t : State) : State :=
        if canIssue t sl.cl sl.fil then progFault t sl.cl sl.fil id cTRANS 0 va (getSlot t sl.cl sl.fil).pc else t
      if 2 ^ 52 ≤ va then .next (fail s1)
      else match walk s1 id (getCtx s1 id) va 3 (getCtx s1 id).root with
        | (.miss lv p pt, _) => .next (fail (logPt (meetWalk s1 id va) id (.trans va lv p pt)))
        | (.ok _, none) => .next s1
        | (.ok _, some e) =>
          let s2 := fillTlb (meetWalk s1 id va) sl { e with tile := clTile s1 sl.cl }
          .next (if e.allows a then s2 else fail s2)

/-! ### The patrol (R161) -/

def getPat (s : State) (u : Nat) : PatUnit := Tab.get (fun _ => {}) s.frm.pat u
def setPat (s : State) (u : Nat) (x : PatUnit) : State :=
  s.setFrm { s.frm with pat := Tab.put (fun _ => {}) s.frm.pat u x }

/-- A line of a unit as the patrol counts it: `n` symbols of it in error. -/
def PatUnit.meet (p : PatUnit) (line n : Nat) : PatUnit :=
  if n = 0 then p else if n = 1 then { p with ce := p.ce + 1, lines := p.lines ++ [line] } else { p with ue := p.ue + 1 }

/-- The pass over a unit ends: PATROL_SUM with the counts, and up to 16 lines corrected in both passes (log entry 86);
with the last unit a pass over the whole device is complete. -/
def patEnd (s : State) (u : Nat) : State :=
  let p := getPat s u
  let twice := (p.lines.filter p.prev.contains).dedup.take 16
  let h : Half := if u < 20 then (if u < 10 then .west else .east) else halfOf (u - 20)
  let s1 := logRec s h { code := 0x0205, sev := 0, scope := 7, who := mkWho none 0 (if u < 20 then u else u - 20) 0 0,
                         addr := bv 64 (64 * twice.headD 0), data0 := bv 64 p.ce, data1 := bv 64 p.ue
                         more := twice.map fun l => bv 64 (64 * l) }
  let s2 := setPat s1 u { prev := p.lines, done := true }
  if (List.range 22).all fun v => (getPat s2 v).done then
    let s3 := (List.range 22).foldl (fun st v => setPat st v { getPat st v with done := false }) s2
    s3.setFrm { s3.frm with pass := s3.frm.pass + 1 }
  else s2

/-- An uncorrectable line that the patrol found: a shard's is repaired (R355), a journal entry's is damaged (R171). -/
def patrolBad (s : State) (pa : Nat) : State := journalHit (repair s pa) pa

/-- PATROL_READ: the patrol reads the line at `pa`, of unit `u` (stacks 0 to 19, banks 20 and 21); `l`: an error that has
come into a line; `last` ends the pass over the unit. -/
def execPatrolRead (pa : Nat) (l : LineRead) (u : Nat) (last : Bool) (s : State) : Out :=
  if 22 ≤ u then .fault (.noSuchUnit "memory unit" u)
  else if !live s ∨ !framesOn s ∨ !bit (rd32 s 0x10028) 8 then .next s
  else
    let s1 := injectLine (patRoll s) l
    let n := (lineErr s1 (pa / 64)).syms.length
    let s2 := readLine s1 (pa / 64)
    let s3 := setPat s2 u ((getPat s2 u).meet (pa / 64) n)
    let s4 := if 2 ≤ n then patrolBad s3 pa else s3
    .next (if last then patEnd s4 u else s4)

/-- A write of PATROL_CTRL: EN and PERIOD_LOG2, as written (log entry 122). -/
def execPatrolCtrl (v : B32) (s : State) : Out :=
  if !regsOn s then .next s else .next (refreshRdy (wr32 s 0x10028 (v &&& 0x13F)))

/-! ### The governors -/

/-- GOVERNOR_DEBT_CLEARED: a governor's last debt falls away, and filler work of its unit goes on. -/
def execGovernorDebtCleared (g : Gov) (s : State) : Out :=
  .next (if live s && decide (govDebt s g ≤ bits (rd32 s 0x1104C) 3 0) then setDebt s g 0 else s)

end Sys2Proof.Machine
end

