-- ==== Sys2Proof/Machine/Contexts.lean ====
section
/-!
DEFINITION. The context register block (R182 to R187, Tables 6-1, 6-2 and 6-7).
-/

namespace Sys2Proof.Machine

/-- A command of the block, `ka` when keep-alive mode accepts it (Table 13-10); `w` is CTX_CMD less OP, whose reserved
bits must be 0. -/
def ctxCmdKa (ka : Bool) (c : Instr) (w : BitVec 56) (s : State) (body : Nat → Ctx → State) : Out :=
  blockCmd .context ka c s fun t =>
    if bits w 55 40 ≠ 0 ∨ bits w 25 22 ≠ 0 then finish .context 3 t
    else body (bits w 11 0) (getCtx t (bits w 11 0))

/-- A command that keep-alive mode refuses. -/
def ctxCmd (c : Instr) (w : BitVec 56) (s : State) (body : Nat → Ctx → State) : Out := ctxCmdKa false c w s body

/-! ### CREATE, DESTROY, READ -/

/-- The record image in CTX_IMG. -/
def ctxImg (s : State) : List Byte := imgOf s .context

/-- The context that an image makes (R183). -/
def imgCtx (b : List Byte) : Ctx :=
  let n (o k : Nat) : Nat := leNat (slice b o k)
  { st := .ready, tenant := bv 12 (n 0 4 / 2 ^ 12), fil := (n 4 4).testBit 0, hostMem := (n 4 4).testBit 2
    root := n 8 8, seed := bv 128 (n 0x10 16), job := bv 32 (n 0x20 4) }

/-- A reserved bit of the image is set (Table 6-1), or CR_ROOT is not aligned. -/
def imgBad (b : List Byte) : Bool :=
  let n (o k : Nat) : Nat := leNat (slice b o k)
  decide (n 0 4 / 2 ^ 30 ≠ 0) || decide (n 0 4 / 2 ^ 24 % 16 ≠ 0) || decide (n 4 4 / 2 ^ 3 ≠ 0) ||
  (n 4 4).testBit 1 || decide (2 ^ 48 ≤ n 8 8) || decide (n 8 8 % 2 ^ 16 ≠ 0) || decide (n 0x24 4 / 2 ^ 2 ≠ 0) ||
  decide (n 0x28 4 / 2 ^ 10 ≠ 0) || decide (n 0x2C 4 / 2 ^ 18 ≠ 0) || decide (n 0x30 16 ≠ 0)

/-- Does a new context disagree with one that exists and has its job? -/
def jobConflict (s : State) (c : Ctx) : Bool :=
  s.ctx.any fun e => e.2.st != .free && e.2.job = c.job &&
    (e.2.tenant != c.tenant || e.2.fil != c.fil || e.2.seed != c.seed)

/-- CREATE: the first condition of R183 that fails is reported. -/
def execCtxCreate (w : BitVec 56) (s : State) : Out :=
  ctxCmd (.ctxCreate w) w s fun id x =>
    let b := ctxImg s
    let c := imgCtx b
    if x.st ≠ .free then finish .context 1 s
    else if imgBad b then finish .context 3 s
    else if !ownedBy s c.root .ptable c.tenant then finish .context 7 s
    else if jobConflict s c then finish .context 4 s
    else if !ledgerOn s then finish .context 6 s
    else finish .context 0 (setCtx s id c)

/-- Is a queue, ENABLED or HALTED, bound to the context? -/
def queueBound (s : State) (id : Nat) : Bool :=
  s.que.tab.any fun e => (e.2.st = .enabled || e.2.st = .halted) && e.2.ctx == id

/-- Objects and groups of a destroyed context enter QUARANTINE (R230, R272). -/
def orphan (s : State) (id : Nat) : State :=
  let q := quarEnd s
  let s1 := s.setSyn { s.syn with tab := s.syn.tab.map fun e =>
    if e.2.st = .active ∧ e.2.ctx = id then (e.1, { e.2 with st := .quarantine, qend := q }) else e }
  s1.setCol { s1.col with groups := s1.col.groups.map fun e =>
    if e.2.st = .active ∧ e.2.ctx = id then (e.1, { e.2 with st := .quarantine, qend := q }) else e }

/-- DESTROY. -/
def execCtxDestroy (w : BitVec 56) (s : State) : Out :=
  ctxCmd (.ctxDestroy w) w s fun id x =>
    if x.st = .free then finish .context 1 s
    else if !(slotsOfCtx s id).isEmpty || queueBound s id then finish .context 2 s
    else finish .context 0 (orphan (setCtx s id {}) id)

/-- A context record, Table 6-1. -/
def ctxBytes (s : State) (id : Nat) : List Byte :=
  let c := getCtx s id
  let st := match c.st with | .free => 0 | .ready => 1 | .stopped => 2
  leBytes 4 (st * 2 ^ 28 + c.tenant.toNat * 2 ^ 12 + id) ++ leBytes 4 (b2n c.hostMem * 4 + b2n c.fil) ++
  leBytes 8 c.root ++ leBytes 16 c.seed.toNat ++ leBytes 4 c.job.toNat ++ leBytes 4 (modeNext c) ++
  leBytes 4 (slotsOfCtx s id).length ++ leBytes 4 (c.faultCl * 2 ^ 8 + c.faultCode) ++ leBytes 16 0

/-- READ: the record into CTX_IMG. -/
def execCtxRead (w : BitVec 56) (s : State) : Out :=
  ctxCmdKa true (.ctxRead w) w s fun id _ => finish .context 0 (wrBytes s 0x11008 (ctxBytes s id))

/-! ### BIND and UNBIND -/

def firstCl (w : BitVec 56) : Nat := bits w 21 12
def countCl (w : BitVec 56) : Nat := bits w 35 26 + 1
/-- The logical clusters that a command names. -/
def namedCl (w : BitVec 56) : List Nat := (List.range (countCl w)).map (firstCl w + ·)

/-- May the context be bound to its slot of a cluster (R185)? -/
def slotFree (s : State) (fil : Bool) (cl : Nat) : Bool :=
  (getSlot s cl fil).ctx.isNone &&
    (!fil || ((getSlot s cl false).ctx.isSome && decide ((getClu s cl).priMib < 8)))

/-- A slot zeroed on a change of tenant (R151): its scratch, accumulators and registers. -/
def zeroSlot (s : State) (cl : Nat) (fil : Bool) : State :=
  updSlot (scrZero s cl fil) cl fil fun x =>
    { x with sreg := [], vreg := [], preg := [], treg := [], acc := [], accMode := [], accSat := 0, accErr := [], prep := .ready }

/-- A slot named by a BIND; one that belonged to another tenant is to be zeroed before it issues.  What the binding
changes takes effect when the command completes, so that one that a change of leader ends leaves nothing (R444). -/
def bindSlot (s : State) (id : Nat) (fil : Bool) (mib : Nat) (cl : Nat) : State :=
  let t := (getCtx s id).tenant
  updSlot s cl fil fun x =>
    { x with ctx := some id, mib := mib
             prep := match x.prevTenant with | some p => if p ≠ t then .zero else .bind | none => .bind }

/-- The binding of a slot takes effect: PRI_MIB of a primary slot, the tenant, the slot's CSRs. -/
def bound (s : State) (c : Nat × Bool) : State :=
  let x := getSlot s c.1 c.2
  let s1 := if c.2 then s else setClu s c.1 { getClu s c.1 with priMib := x.mib }
  updSlot s1 c.1 c.2 fun y =>
    { y with prevTenant := some (getCtx s (y.ctx.getD 0)).tenant, run := none, wait := none, halted := false
             passes := [], fstat := 0, fault := 0, faultPc := 0, filFrom := s.time.cycle }

/-- BIND: every named slot or none; the command stays BUSY until BIND_COMPLETE.  `u` is an error that the
first slot's storage shows meanwhile. -/
def execBind (w : BitVec 56) (u : Upset) (s : State) : Out :=
  ctxCmd (.bind w u) w s fun id x =>
    let mib := bits w 39 36
    if x.st = .free then finish .context 1 s
    else if s.fuse.grade < firstCl w + countCl w ∨ (!x.fil ∧ (mib < 4 ∨ 8 < mib)) then finish .context 3 s
    else if !(namedCl w).all (slotFree s x.fil) then finish .context 2 s
    else
      let s1 := (namedCl w).foldl (fun st cl => bindSlot st id x.fil mib cl) s
      let s2 := if (getSlot s1 (firstCl w) x.fil).prep = .zero then (meetUpset s1 (firstCl w) x.fil u).1 else s1
      busy .context s2

/-- BIND_COMPLETE: the slots that change tenant are zero and every named slot is ready to issue. -/
def execBindComplete (s : State) : Out :=
  let zs := slotsWhere s (·.prep = .zero)
  let bs := slotsWhere s (·.prep = .bind)
  if zs.isEmpty ∧ bs.isEmpty then .next s
  else
    let s1 := (zs ++ bs).foldl bound s
    let s2 := zs.foldl (fun st c => zeroSlot st c.1 c.2) s1
    .next (finish .context 0 (bs.foldl (fun st c => updSlot st c.1 c.2 fun x => { x with prep := .ready }) s2))

/-- The slots of an UNBIND in progress. -/
def unbinding (s : State) : List (Nat × Bool) := slotsWhere s (·.prep = .unbind)

/-- UNBIND: BUSY until none of the slots runs a kernel. -/
def execUnbind (w : BitVec 56) (s : State) : Out :=
  ctxCmd (.unbind w) w s fun id x =>
    if x.st = .free then finish .context 1 s
    else if s.fuse.grade < firstCl w + countCl w then finish .context 3 s
    else if !(namedCl w).all fun cl => (getSlot s cl x.fil).ctx = some id &&
        (x.fil || (getSlot s cl true).ctx.isNone) then finish .context 2 s
    else busy .context ((namedCl w).foldl (fun st cl => updSlot st cl x.fil fun y => { y with prep := .unbind }) s)

/-- UNBIND_COMPLETE: the slots are released. -/
def execUnbindComplete (s : State) : Out :=
  let us := unbinding s
  if us.isEmpty ∨ us.any (fun c => (getSlot s c.1 c.2).run.isSome) then .next s
  else .next (finish .context 0 (us.foldl (fun st c =>
    updSlot st c.1 c.2 fun x => { x with ctx := none, prep := .ready }) s))

/-! ### STOP and RESUME -/

/-- STOP (R187). -/
def execCtxStop (w : BitVec 56) (s : State) : Out :=
  ctxCmd (.ctxStop w) w s fun id x =>
    if x.st ≠ .ready then finish .context 1 s else finish .context 0 (stopCtx s id)

/-- RESUME: CR_FAULT and the slots' FAULT and FAULT_PC are cleared. -/
def execCtxResume (w : BitVec 56) (s : State) : Out :=
  ctxCmd (.ctxResume w) w s fun id x =>
    if x.st ≠ .stopped then finish .context 1 s
    else
      let s1 := setCtx s id { x with st := .ready, faultCl := 0, faultCode := 0 }
      finish .context 0 ((slotsOfCtx s1 id).foldl (fun st c =>
        updSlot st c.1 c.2 fun y => { y with fault := 0, faultPc := 0 }) s1)

end Sys2Proof.Machine
end

