-- ==== Sys2Proof/Machine/Control.lean ====
section
/-!
DEFINITION. The control class (R126, Table 4-7).
-/

namespace Sys2Proof.Machine

/-- The target of a branch at `pc`: IMM18 or IMM32 times 8 bytes from the branch itself. -/
def target (pc : Nat) (f : Fld) : Nat :=
  unsignedOf 52 (pc + 8 * (if f.form then signedOf 32 f.imm32.toNat else imm18s f))

/-- A conditional branch. -/
def branch (sl : Slot) (f : Fld) (s : State) (test : B64 → B64 → Bool) : Out :=
  issue sl 1 f s fun t =>
    let x := getSlot t sl.cl sl.fil
    guard [(badFld { ra := 64, rb := 64, imm := true } f, cMAL, 0)]
      (if test (sget x f.ra) (sget x f.rb) then .jump t (target x.pc f) else .done t)

def execJ (sl : Slot) (f : Fld) (s : State) : Out :=
  issue sl 1 f s fun t =>
    guard [(badFld { f128 := true, imm := true, imm32 := true } f, cMAL, 0)]
      (.jump t (target (getSlot t sl.cl sl.fil).pc f))
def execBeq (sl : Slot) (f : Fld) (s : State) : Out := branch sl f s fun a b => a == b
def execBne (sl : Slot) (f : Fld) (s : State) : Out := branch sl f s fun a b => a != b
def execBlt (sl : Slot) (f : Fld) (s : State) : Out := branch sl f s fun a b => a.slt b
def execBge (sl : Slot) (f : Fld) (s : State) : Out := branch sl f s fun a b => !a.slt b
def execBltu (sl : Slot) (f : Fld) (s : State) : Out := branch sl f s fun a b => a.ult b

/-- CALL: Sd takes the address of the next instruction. -/
def execCall (sl : Slot) (f : Fld) (s : State) : Out :=
  issue sl 1 f s fun t =>
    let x := getSlot t sl.cl sl.fil
    guard [(badFld { f128 := true, rd := 64, imm := true, imm32 := true } f, cMAL, 0)]
      (.jump (setSlot t sl.cl sl.fil (sset x f.rd (bv 64 ((x.pc + insLen f) % 2 ^ 52)))) (target x.pc f))

/-- JR: to Sa[51:0]; a target that is not a multiple of 8 is an ALIGN fault of the JR. -/
def execJr (sl : Slot) (f : Fld) (s : State) : Out :=
  issue sl 1 f s fun t =>
    let x := getSlot t sl.cl sl.fil
    let a := (sget x f.ra).toNat % 2 ^ 52
    guard [(badFld { ra := 64 } f, cMAL, 0), (a % 8 != 0, cALIGN, a)] (.jump t a)

/-- A KERNEL command after one of its slots has ended (R194). -/
def slotEnded (n : Option Nat) (k : Nat) (r : RunCmd) : RunCmd :=
  if n = some r.n then { r with left := r.left.filter fun i => i != k } else r

/-- HALT: once the slot's matrix work is complete the kernel ends on this slot; the queue counts the
command complete when every slot of it has ended. -/
def execHalt (sl : Slot) (f : Fld) (s : State) : Out :=
  issue sl 1 f s fun t =>
    let x := getSlot t sl.cl sl.fil
    guard [(badFld {} f, cMAL, 0)]
      (if x.passes.isEmpty then
        let t1 := setSlot t sl.cl sl.fil { x with run := none }
        let rs := t1.que.run.map (slotEnded x.run (slotKey sl.cl sl.fil))
        .done (t1.setQue { t1.que with run := rs })
      else .hold t)

/-- CFENCE: waits for the slot's earlier matrix accesses; vector accesses complete in issue order. -/
def execCfence (sl : Slot) (f : Fld) (s : State) : Out :=
  issue sl 1 f s fun t =>
    guard [(badFld {} f, cMAL, 0)]
      (if (getSlot t sl.cl sl.fil).passes.isEmpty then .done t else .hold t)

def execNop (sl : Slot) (f : Fld) (s : State) : Out :=
  issue sl 1 f s fun t => guard [(badFld {} f, cMAL, 0)] (.done t)

end Sys2Proof.Machine
end

