-- ==== Sys2Proof/Machine/Flr.lean ====
section
/-!
DEFINITION. Function level reset and hot reset, and what they wait for (R443).
-/

namespace Sys2Proof.Machine

/-- KA_STAT.CODE before a reset. -/
def kaBefore (s : State) : Nat := if s.err.ka then s.err.kaCode else 0

/-- RST_STAT of a reset kind and source. -/
def rstWord (kind src : Nat) (s : State) : B32 := bv 32 (kind * 2 ^ 28 + src * 2 ^ 24 + kaBefore s)

/-- Configuration space, MSI-X, IRQ_EN and BAR2_SEL as after a hot reset. -/
def resetConfig (s : State) : State :=
  (s.setDev { s.dev with irqEn := 0, bar2Sel := 0 }).setRegs (Tab.clear s.regs 0x30000 0x100)

/-- Steps 2 and 3 of R443: every queue HALTED with cause 0x07, LED_BASE and CQR_BASE 0; then FLR_DONE. -/
def flr (s : State) (kind : Nat) : State :=
  let s1 := (s.que.tab.map (·.1)).foldl (fun st q => haltQueue st q 7 false 0) s
  let s2 := wr64 (s1.setLed { s1.led with base := 0 }) 0x1C0A0 0
  let s3 := resetConfig s2
  logSpine (s3.setDev { s3.dev with rstStat := rstWord kind 0 s3 }) { code := 0x0C06, data0 := bv 64 kind }

/-- Step 1 of R443: is a write that was issued before the reset outstanding still? -/
def flrBusy (s : State) (w : FlrWait) : Bool :=
  (s.dma.xfers.any fun v => w.dma.contains v.n) || (w.snap.isSome && (s.led.snaps.head?.map (·.seq)) == w.snap)

/-- A reset that waits goes on once its writes have completed or timed out. -/
def flrSettle (s : State) : State :=
  match s.dev.flrWait with
  | none => s
  | some w => if flrBusy s w then s else flr (s.setDev { s.dev with flrWait := none }) w.kind

/-- A snapshot's write that timed out is waited for no longer. -/
def flrSnapGone (s : State) : State :=
  s.setDev { s.dev with flrWait := s.dev.flrWait.map fun w => { w with snap := none } }

end Sys2Proof.Machine
end

