-- ==== Sys2Proof/Machine/Dma.lean ====
section
/-!
DEFINITION. The DMA class (R135, R136, Tables 4-12 and 4-13).
-/

namespace Sys2Proof.Machine

/-- A transfer's descriptor. -/
structure DmaD where
  srcMem : Bool
  dstMem : Bool
  sigEn : Bool
  rows : Nat
  bytes : Nat
  sync : B32
  src : Nat
  dst : Nat
  sStride : Nat
  dStride : Nat
  sigVal : B64
  /-- it breaks Table 4-13 -/
  bad : Bool
deriving DecidableEq, Repr

def parseDma (w : List B64) : DmaD :=
  let n (i : Nat) : Nat := (w.getD i 0).toNat
  let lo (i : Nat) : Nat := n i % 2 ^ 32
  let hi (i : Nat) : Nat := n i / 2 ^ 32
  let dir := lo 0 / 2 ^ 8 % 4
  { srcMem := dir % 2 == 0, dstMem := dir == 1 || dir == 2, sigEn := lo 0 % 2 == 1
    rows := hi 0 % 2 ^ 16 + 1, bytes := lo 1, sync := bv 32 (hi 1), src := n 2, dst := n 3
    sStride := lo 4, dStride := hi 4, sigVal := bv 64 (lo 5)
    bad := decide (2 ^ 10 ≤ lo 0) || decide (lo 0 / 2 % 2 ^ 7 ≠ 0) || decide (2 ^ 16 ≤ hi 0) || decide (2 ^ 24 ≤ lo 1) ||
      lo 1 == 0 || decide (2 ^ 52 ≤ n 2) || decide (2 ^ 52 ≤ n 3) || hi 5 != 0 || n 6 != 0 || n 7 != 0 ||
      [lo 1, n 2, n 3, lo 4, hi 4].any fun v => v % 64 != 0 }

/-- Bytes from the first to behind the last that one end of a transfer touches. -/
def DmaD.extent (d : DmaD) (base stride : Nat) : Nat := base + (d.rows - 1) * stride + d.bytes

/-- The scratch end that reaches beyond the slot's part, if one does (R84). -/
def DmaD.beyond (d : DmaD) (size : Nat) : Option Nat :=
  if !d.srcMem && decide (size < d.extent d.src d.sStride) then some d.src
  else if !d.dstMem && decide (size < d.extent d.dst d.dStride) then some d.dst
  else none

/-- DMA.GO: the transfer described at scratch offset Sa is issued. -/
def execDmaGo (sl : Slot) (f : Fld) (w : Nat) (s : State) : Out :=
  issue sl 5 f s fun t =>
    let x := getSlot t sl.cl sl.fil
    let a := (sget x f.ra).toNat
    let off := scrOff t sl.cl sl.fil a
    let inp := inPart t sl.cl sl.fil a 64
    let bad := badFld { ra := 64 } f
    let ok := inp && a % 64 == 0 && (rangeBad t sl.cl sl.fil [(a, 64)]).isNone
    let ws := (List.range 8).map fun i => bv 64 (leNat (scrRead t sl.cl (off + 8 * i) 8))
    let d := parseDma ws
    let beyond := if ok then d.beyond (slotPart t sl.cl sl.fil).2 else none
    guard [(bad || (ok && d.bad), cMAL, 0), (a % 64 != 0, cALIGN, a), (!inp, cTRANS, a),
           (beyond.isSome, cTRANS, beyond.getD 0), (!ok, cPOISON, a)]
      (readRanges sl [(a, 64)] t fun t0 =>
       let n := t0.dma.next
       let v : DmaX := { n := n, cl := sl.cl, fil := sl.fil, ctx := slotCtx t sl.cl sl.fil, desc := ws
                         step := x.stepNo, queue := slotQueue t x, pc := x.pc, since := ns t }
       let t1 := t0.setDma { t0.dma with xfers := t0.dma.xfers ++ [v], next := n + 1 }
       .done (if sl.fil then t1 else charge t1 (.cluster sl.cl) w))

/-- Transfers of a slot that are not complete. -/
def xfersOf (s : State) (cl : Nat) (fil : Bool) : List DmaX :=
  s.dma.xfers.filter fun v => v.cl == cl && v.fil == fil

/-- DMA.CNT. -/
def execDmaCnt (sl : Slot) (f : Fld) (s : State) : Out :=
  issue sl 5 f s fun t =>
    guard [(badFld { rd := 64 } f, cMAL, 0)]
      (.done (updSlot t sl.cl sl.fil fun x => sset x f.rd (bv 64 (xfersOf t sl.cl sl.fil).length)))

/-- DMA.DRAIN waits until the slot's transfers are complete. -/
def execDmaDrain (sl : Slot) (f : Fld) (s : State) : Out :=
  issue sl 5 f s fun t =>
    guard [(badFld {} f, cMAL, 0)] (if (xfersOf t sl.cl sl.fil).isEmpty then .done t else .hold t)

/-! ### The transfer -/

/-- Source and destination of every 64-byte piece, in order. -/
def DmaD.pieces (d : DmaD) : List (Nat × Nat) :=
  (List.range d.rows).flatMap fun r => (List.range (d.bytes / 64)).map fun i =>
    (d.src + r * d.sStride + 64 * i, d.dst + r * d.dStride + 64 * i)

/-- 64 bytes read at one end, what their line or words hold being met; the error.  Where the slot's part has become
smaller since the transfer was issued, an access beyond it is refused (R84). -/
def dmaRead (s : State) (v : DmaX) (mem : Bool) (a : Nat) : State × List Byte × Option VErr :=
  if mem then
    let s1 := meetVa s (some (v.cl, v.fil)) v.ctx a 64
    (s1, readVa s1 (some (v.cl, v.fil)) v.ctx a 64)
  else if !inPart s v.cl v.fil a 64 then (s, [], some (.trans a 0 0 false))
  else if (rangeBad s v.cl v.fil [(a, 64)]).isSome then (s, [], some (.poison a (scrOff s v.cl v.fil a)))
  else
    let (s1, stop) := meetWords s v.cl v.fil (rangeWords s v.cl v.fil [(a, 64)])
    if stop then (s1, [], some (.scr a)) else (s1, scrRead s1 v.cl (scrOff s1 v.cl v.fil a) 64, none)

def dmaWrite (s : State) (v : DmaX) (mem : Bool) (a : Nat) (bs : List Byte) : State × Option VErr :=
  if mem then writeVa s (some (v.cl, v.fil)) v.ctx a bs
  else if !inPart s v.cl v.fil a 64 then (s, some (.trans a 0 0 false))
  else (scrWrite s v.cl (scrOff s v.cl v.fil a) bs, none)

/-- Pieces moved in order up to the first error; the writes before it stand (R136). -/
def dmaMove (v : DmaX) (d : DmaD) : List (Nat × Nat) → State → State × Option VErr
  | [], s => (s, none)
  | (a, b) :: ps, s =>
    match dmaRead s v d.srcMem a with
    | (s1, _, some e) => (s1, some e)
    | (s1, bs, none) =>
      match dmaWrite s1 v d.dstMem b bs with
      | (s2, some e) => (s2, some e)
      | (s2, none) => dmaMove v d ps s2

/-- What the error of a transfer does: ENGINE against the issuing slot; a poisoned line is repaired and journal entries
it belongs to are damaged (R160, R171, R355).  An error of the slot's own scratch has stopped the slot (R112). -/
def dmaFail (s : State) (v : DmaX) (mem : Bool) (e : VErr) : State :=
  match e with
  | .scr _ => s
  | .poison va pa =>
    if mem then journalHit (repair (engineFault (logPt s v.ctx e) v.cl v.fil v.ctx 5 va v.pc) pa) pa
    else engineFault s v.cl v.fil v.ctx 5 va v.pc
  | _ => engineFault (logPt s v.ctx e) v.cl v.fil v.ctx 5 e.va v.pc

/-- Does a transfer reach the host window, whose requests wait while the link is down (R433)? -/
def dmaHost (s : State) (v : DmaX) (d : DmaD) : Bool :=
  let at_ (a : Nat) (k : Acc) : Bool := match xlate s (some (v.cl, v.fil)) v.ctx a k with
    | .ok pa => inHost pa
    | .miss _ _ _ => false
  d.pieces.any fun p => (d.srcMem && at_ p.1 .read) || (d.dstMem && at_ p.2 .write)

/-- DMA_COMPLETE: transfer `n` runs to its end; `u` and `l` are errors that show in its slot's storage and in a line.  It
signals SYNC when every byte was moved; an error raises ENGINE against the issuing slot and it never signals.  A reset that
waited for its writes goes on (R443). -/
def execDmaComplete (n : Nat) (u : Upset) (l : LineRead) (s : State) : Out :=
  match s.dma.xfers.find? fun v => v.n == n with
  | none => .next s
  | some v =>
    let d := parseDma v.desc
    if !slotRuns s v.cl v.fil ∨ (!s.dev.linkUp ∧ dmaHost s v d) then .next s
    else
      let s1 := s.setDma { s.dma with xfers := s.dma.xfers.filter fun y => y.n != n }
      match dmaMove v d d.pieces (injectLine (inject s1 v.cl v.fil u) l) with
      | (s3, some e) => .next (flrSettle (dmaFail s3 v d.srcMem e))
      | (s3, none) =>
        .next (flrSettle (if d.sigEn then engineSig s3 3 d.sync d.sigVal v.cl v.fil v.ctx v.queue else s3))

end Sys2Proof.Machine
end

