-- ==== Sys2Proof/Machine/FabRegs.lean ====
section
/-!
DEFINITION. The fabric register block (R310, R316, R346, Tables 10-6 and 10-10) and the host memory that its load
commands read (R425, R433).
-/

namespace Sys2Proof.Machine

/-! ### Commands that use host memory -/

/-- A register command that reads or writes host memory: while the link is down its CXL.cache requests wait and the
command stays BUSY (R433). -/
def hostCmd (b : Blk) (c : Instr) (s : State) (body : State) : State :=
  if s.dev.linkUp then body else busy b (s.setLink (s.link ++ [⟨c, ns s⟩]))

/-- FAB_ARG. -/
def fabArg (s : State) : B64 := rd64 s 0x17010

/-- Bytes of the buffer at FAB_ARG. -/
def fabBuf (s : State) (n : Nat) : List Byte := readMem s (hostBase + (fabArg s).toNat) n

/-- A load: `n` bytes from FAB_ARG, then `body`, which refuses what is malformed. -/
def loadCmd (c : Instr) (w : BitVec 56) (s : State) (n : Nat) (body : State → List Byte → Option State) : Out :=
  blockCmd .fabric true c s fun t =>
    let count := bits w 17 0
    if bits w 55 35 ≠ 0 ∨ bits (fabArg t) 63 52 ≠ 0 ∨ (fabArg t).toNat % 64 ≠ 0 ∨ count = 0 ∨ 131072 < count ∨
        2 ^ 48 < hostBase + (fabArg t).toNat + n then finish .fabric 3 t
    else if !fabValid t then finish .fabric 8 t
    else hostCmd .fabric c t (match body t (fabBuf t n) with
      | some t1 => finish .fabric 0 t1
      | none => finish .fabric 3 t)

/-- LOAD_ROUTES: COUNT entries from FIRST on, in one action. -/
def execLoadRoutes (w : BitVec 56) (s : State) : Out :=
  loadCmd (.loadRoutes w) w s (2 * bits w 17 0) fun t bs =>
    let first := bits w 34 18
    if 131072 < first + bits w 17 0 then none
    else some (t.setFab { t.fab with
      routes := Tab.putMany (fun _ => 0) t.fab.routes first ((groupsOf 2 bs).map fun b => bv 16 (leNat b)) })

/-- A site entry of Table 10-6; none when a reserved bit stands or NDEV is out of range. -/
def parseSite (b : List Byte) : Option SiteE :=
  let x := leNat (slice b 0 8)
  let y := leNat (slice b 8 4)
  let e : SiteE := { valid := x.testBit 63, ndev := x / 2 ^ 44 % 2 ^ 18, coord := x / 2 ^ 17 % 2 ^ 17, alt := x % 2 ^ 17
                     peer := y % 2 ^ 17, route := bv 16 (leNat (slice b 12 2)) }
  if x.testBit 62 || x / 2 ^ 34 % 2 ^ 10 != 0 || decide (2 ^ 17 ≤ y) || leNat (slice b 14 2) != 0 ||
      (e.valid && (e.ndev == 0 || decide (131072 < e.ndev))) then none else some e

/-- Does an entry for site `k` bring a Husil device into the site exchange: as a coordinator or the peer here, or by a route
through a port in Husil mode (R344)? -/
def siteHusil (s : State) (k : Nat) (e : SiteE) : Bool :=
  e.valid && if k = (ownPeer s).site then husilPeer s ⟨k, e.coord⟩ || husilPeer s ⟨k, e.alt⟩
    else (List.range 8).any fun q => (getPort s q).mode == 2 && ((bits e.route 15 8).testBit q || (bits e.route 7 0).testBit q)

/-- LOAD_SITES: all 64 entries. -/
def execLoadSites (w : BitVec 56) (s : State) : Out :=
  loadCmd (.loadSites w) w s 1024 fun t bs =>
    let es := (groupsOf 16 bs).map parseSite
    if es.any (·.isNone) || (es.zipIdx.any fun x => x.1.elim false (siteHusil t x.2)) then none
    else some (t.setFab { t.fab with sites := Tab.putMany (fun _ => {}) [] 0 (es.map fun e => e.getD {}) })

/-- An entry of the watch list at place `i`; a partner that stands there already keeps its state. -/
def watchEntry (s : State) (i : Nat) (b : List Byte) : Option Watch :=
  let x := leNat b
  let p : Peer := ⟨x / 2 ^ 17 % 64, x % 2 ^ 17⟩
  if !x.testBit 31 then none
  else match s.fab.watch.find? fun w => w.pos == i && w.peer = p with
  | some w => some w
  | none => some { pos := i, peer := p, got := [], miss := 0, absent := false, ka := false, numRev := 0 }

/-- LOAD_WATCH (R318). -/
def execLoadWatch (w : BitVec 56) (s : State) : Out :=
  loadCmd (.loadWatch w) w s (4 * bits w 17 0) fun t bs =>
    let first := bits w 34 18
    let es := groupsOf 4 bs
    if 64 < first + bits w 17 0 ∨ es.any (fun b => decide (leNat b / 2 ^ 23 % 2 ^ 8 ≠ 0)) then none
    else
      let new := es.zipIdx.filterMap fun x => watchEntry t (first + x.2) x.1
      let old := t.fab.watch.filter fun x => decide (x.pos < first) || decide (first + bits w 17 0 ≤ x.pos)
      some (t.setFab { t.fab with watch := sortOn Watch.pos (old ++ new) })

/-- LOAD_ENC: the tenant map. -/
def execLoadEnc (w : BitVec 56) (s : State) : Out :=
  loadCmd (.loadEnc w) w s 512 fun t bs =>
    some (t.setFab { t.fab with
      encMap := Tab.putMany (fun _ => false) [] 0 ((List.range 4096).map fun i => ((bs.getD (i / 8) 0).getLsbD (i % 8))) })

/-- READ_ROUTE: one route entry in FAB_STAT. -/
def execReadRoute (w : BitVec 56) (s : State) : Out :=
  blockCmd .fabric true (.readRoute w) s fun t =>
    let first := bits w 34 18
    if bits w 55 35 ≠ 0 ∨ 131072 ≤ first ∨ bits w 17 0 = 0 ∨ 131072 < bits w 17 0 then finish .fabric 3 t
    else finish .fabric 0 (setBlk t .fabric { getBlk t .fabric with count := (Tab.get (fun _ => 0) t.fab.routes first).toNat })

/-! ### Registers -/

/-- FAB_ID: set once (R310). -/
def execFabId (v : B32) (s : State) : Out :=
  if !regsOn s ∨ fabValid s then .next s else .next (refreshRdy (s.setFab { s.fab with id := v &&& 0x807FFFFF }))

/-- The first beat at least `n` beats after now. -/
def beatAfter (s : State) (n : Nat) : Nat := (ns s + n * beatNs + (beatNs - 1)) / beatNs

/-- FAB_LAT: a raise at once, a lowering 2 × (old bound) + 1 beats later (R316); 0 is ignored. -/
def execFabLat (v : B32) (s : State) : Out :=
  let n := bits v 5 0
  if !regsOn s ∨ n = 0 then .next s
  else if s.fab.lat ≤ n then .next (s.setFab { s.fab with lat := n, latPend := none })
  else .next (s.setFab { s.fab with latPend := some (n, beatAfter s (2 * s.fab.lat + 1)) })

/-- ENC_CTRL: ALL and EPOCH_LOG2 for the next epoch boundary; a value outside 30 to 40 is ignored. -/
def execEncCtrl (v : B32) (s : State) : Out :=
  let n := bits v 5 0
  if !regsOn s ∨ n < 30 ∨ 40 < n then .next s
  else .next (s.setFab { s.fab with encNext := n, encAllNext := bit v 8 })

/-- SX_CTRL: EN with H outside its range, or a window of 0, is malformed and ignored (Table 10-10). -/
def execSxCtrl (v : B32) (s : State) : Out :=
  let on := bit v 31
  if !regsOn s ∨ bits v 27 16 = 0 ∨ bits v 7 0 = 0 ∨ (on ∧ (s.sx.h < 16 ∨ 4096 < s.sx.h)) then .next s
  else .next (refreshRdy (s.setSx { s.sx with en := on, dataWait := bits v 27 16, decWait := bits v 7 0 }))

/-- SX_H: ignored while EN = 1 (R39). -/
def execSxH (v : B32) (s : State) : Out :=
  if !regsOn s ∨ s.sx.en then .next s else .next (s.setSx { s.sx with h := bits v 12 0 })

end Sys2Proof.Machine
end

