-- ==== Sys2Proof/Machine/Thyme.lean ====
section
/-!
DEFINITION. Thyme: in-band exchange, first lock, the time root, holdover (R321 to R325, R440, R462).
-/

namespace Sys2Proof.Machine

/-! ### Configuration -/

/-- TIME_CTRL. -/
def timeCtrl (s : State) : B32 := rd32 s 0x17020
/-- A time root takes its references from the baseboard (R321). -/
def isRoot (s : State) : Bool := bit (timeCtrl s) 2 && bit (timeCtrl s) 1 && bit (timeCtrl s) 0
/-- Does the device take its time in-band? -/
def inBand (s : State) : Bool := bit (timeCtrl s) 0 && !bit (timeCtrl s) 2

/-- PASYM of a port, signed ns. -/
def pasym (s : State) (p : Nat) : Int := signedOf 32 (rd32 s (0x1710C + 0x20 * p)).toNat

/-- The upstream port: usable, not Husil, fewest hops, lowest number (R322). -/
def upstream (s : State) : Option Nat :=
  let ok := (List.range 8).filter fun p => usable s p && (getPort s p).mode != 2 && decide ((getPort s p).hops < 0xFF)
  ok.foldl (fun a p => match a with
    | some q => if (getPort s p).hops < (getPort s q).hops then some p else a
    | none => some p) none

/-! ### The step at first lock (R25, R440) -/

/-- A held time moved by a step. -/
def moved (d : Int) (t : Nat) : Nat := ((t : Int) + d).toNat

/-- An unacknowledged message's times moved. -/
def OutM.moved (o : OutM) (d : Int) : OutM :=
  { o with m := { o.m with tsent := Machine.moved d o.m.tsent }, first := Machine.moved d o.first, last := Machine.moved d o.last }

/-- Only the device's own times move: TH_TSENT of what others sent is fabric time already. -/
def Conn.moved (c : Conn) (d : Int) : Conn := { c with unacked := c.unacked.map (·.moved d), rel := Machine.moved d c.rel }

/-- The power manager's and the caps' next times moved. -/
def Pwr.moved (p : Pwr) (d b : Int) : Pwr :=
  { p with budNext := Machine.moved b p.budNext, thrNext := Machine.moved d p.thrNext, sampNext := Machine.moved d p.sampNext
           capNext := ⟨Machine.moved d p.capNext.w, Machine.moved d p.capNext.e⟩, fastEnd := Machine.moved d p.fastEnd }

def LeadHalf.moved (v : LeadHalf) (b : Int) : LeadHalf :=
  { v with readBeat := Machine.moved b v.readBeat, expiry := Machine.moved b v.expiry }

/-- Values held in unlocked ns and beats outside the fabric move by the step: quarantine ends, signal times, waits,
journal times, governors of repetition, the lease. -/
def moveHeld (s : State) (d b : Int) : State :=
  let s1 := s.setQue { s.que with tab := s.que.tab.map fun e =>
    (e.1, if e.2.st = .quarantine then { e.2 with qend := moved d e.2.qend } else e.2) }
  let s2 := s1.setSyn { s1.syn with tab := s1.syn.tab.map fun e =>
    (e.1, { e.2 with qend := if e.2.st = .quarantine then moved d e.2.qend else e.2.qend
                     tSig := if e.2.sig1 = 0 then e.2.tSig else moved d e.2.tSig }) }
  let s3 := s2.setCol { s2.col with groups := s2.col.groups.map fun e =>
    (e.1, if e.2.st = .quarantine then { e.2 with qend := moved d e.2.qend } else e.2) }
  let s4 := s3.setSlot (s3.slot.map fun e =>
    (e.1, { e.2 with wait := e.2.wait.map fun w => { w with since := moved d w.since } }))
  let s5 := s4.setJrn { s4.jrn with entries := s4.jrn.entries.map fun e =>
    ({ e with tOpen := moved d e.tOpen, tCheck := moved d e.tCheck } : JEnt).sealed }
  let s6 := s5.setClu (s5.clu.map fun e => (e.1, { e.2 with errBeat := e.2.errBeat.map (moved b) }))
  let s7 := s6.setFrm { s6.frm with patStart := moved b s6.frm.patStart, ceBeat := s6.frm.ceBeat.map fun e => (e.1, moved b e.2) }
  let s8 := s7.setLead { s7.lead with expiry := moved b s7.lead.expiry, half := ⟨s7.lead.half.w.moved b, s7.lead.half.e.moved b⟩ }
  let s9 := (s8.setLink (s8.link.map fun x => { x with since := moved d x.since })).setDma
    { s8.dma with xfers := s8.dma.xfers.map fun x => { x with since := moved d x.since } }
  s9.setPwr (s9.pwr.moved d b)

/-- Values of the fabric and of the sessions move by the step. -/
def moveFab (s : State) (d b : Int) : State :=
  let s1 := s.setFab { s.fab with
    conns := s.fab.conns.map (·.moved d), waits := s.fab.waits.map fun w => { w with since := moved b w.since }
    latPend := s.fab.latPend.map fun x => (x.1, moved b x.2)
    ports := s.fab.ports.map fun e => (e.1, { e.2 with
      ackAt := moved d e.2.ackAt, sendAt := moved (10 * d) e.2.sendAt, recvAt := moved (10 * d) e.2.recvAt }) }
  s1.setSec { s1.sec with
    atts := s1.sec.atts.map (fun a => { a with retry := a.retry.map (moved b) })
    sess := s1.sec.sess.map fun x => { x with used := moved d x.used } }

/-- Waits that began before the lock take their beat from the first beat after it (R235), with the D in force when they
began (R233, R240). -/
def armWaits (s : State) : State :=
  let dl (w : Waiter) : Nat := beat s + 1 + w.dur + 1
  let s1 := s.setSyn { s.syn with tab := s.syn.tab.map fun e =>
    (e.1, { e.2 with waiters := e.2.waiters.map fun w => { w with deadline := some (w.deadline.getD (dl w)) } }) }
  s1.syn.tab.foldl (fun st e => e.2.waiters.foldl (fun u w => match w.src with
    | .queue q => setQ u q { getQ u q with waitDl := w.deadline }
    | .slot _ _ => u) st) s1

/-- Fabric time locks at `ft`: the one step, the values that move with it, and what begins with locked time: the
ledger from the next whole beat (R207), the epoch in force (R329), and the messages that waited for it (R25). -/
def lockAt (s : State) (ft : Nat) : State :=
  let d : Int := (ft : Int) - (ns s : Int)
  let b : Int := ((ft / beatNs : Nat) : Int) - ((beat s : Nat) : Int)
  let s1 := moveFab (moveHeld s d b) d b
  let s2 := s1.setTime { s1.time with ft := ft % 2 ^ 64, locked := true, est := [], exch := 0, slew := 0, slewDiv := 0, rate := 0 }
  let s3 := s2.setLed { s2.led with
    counting := true, first := beat s2 + 1, priNext := (beat s2 + 1) * beatNs, frmNext := beat s2 + 1, looked := beat s2 + 1 }
  let s4 := s3.setFab { s3.fab with encLog2 := s3.fab.encNext, encAll := s3.fab.encAllNext, epoch := ft / 2 ^ s3.fab.encNext }
  let s5 := if s4.err.ka then s4 else armWaits s4
  refreshRdy (flushWaits s5)

/-- The frame that goes out and the one that comes in of an exchange take their place on the line (R304) and count to the
device record (R206, R309). -/
def countExchange (s : State) (p : Nat) : State :=
  let x := getPort s p
  let y := onLine s x { kind := 5, dev := true, ack := x.rx }
  countRx (countTx (setPort s p { y with recvAt := max x.recvAt (10 * ns s - 9) + x.slotTime }) devKey p 256) devKey p 256

/-- TIME_STAT.UNC is Thyme's own estimate; no rule gives its value, so a free value stands for it in half ns (log
entry 10). -/
def freshUnc (s : State) : State :=
  (drawn s).setTime { s.time with unc2 := (freeVal s).toNat % 2 ^ 17 }

/-! ### Rows -/

/-- Twice the offset of R322. -/
def offset2 (t1 t2 t3 t4 : Nat) (asym : Int) : Int :=
  (((t2 : Int) - (t1 : Int)) - ((t4 : Int) - (t3 : Int))) - asym

/-- TIME_EXCHANGE: the far end's hops; from the upstream port an offset, taken as an estimate before the lock and
slewed out after it (R322, R323).  A root answers its neighbours and takes no time from them. -/
def execTimeExchange (p hops t1 t2 t3 t4 : Nat) (s : State) : Out :=
  onPort p s fun x =>
    if !live s ∨ !(inBand s || isRoot s) ∨ !usable s p ∨ x.mode = 2 then s
    else if isRoot s then countExchange s p
    else
      let s1 := countExchange (setPort s p { x with hops := min hops 0xFF }) p
      if upstream s1 ≠ some p then s1
      else
        let o := offset2 t1 t2 t3 t4 (pasym s p)
        let s2 := s1.setTime { s1.time with upPort := p, hops := min (hops + 1) 0xFF, exch := s1.time.exch + 1 }
        if s2.time.locked then freshUnc (s2.setTime { s2.time with slew := -(o / 2) })
        else s2.setTime { s2.time with est := (o :: s2.time.est).take 16 }

/-- Do the last 16 estimates lie within a spread of 20 ns? -/
def steady (l : List Int) : Bool :=
  decide (l.length = 16) && l.all fun a => l.all fun b => decide (a - b ≤ 40)

/-- FIRST_LOCK at a device that is not a root. -/
def execFirstLock (s : State) : Out :=
  if s.time.locked ∨ !live s ∨ !inBand s ∨ !steady s.time.est then .next s
  else match s.time.est with
  | o :: _ => .next (freshUnc (lockAt s (((ns s : Nat) : Int) - o / 2).toNat))
  | [] => .next s

/-- The distance of a time from the nearest whole second. -/
def secError (t : Nat) : Int :=
  let r := t % 1000000000
  if r < 500000000 then (r : Int) else (r : Int) - 1000000000

/-- PPS_EDGE: at a root, TIME_SET is loaded at the first edge; later each edge is a whole second, and ends a holdover
when the 10 MHz reference is locked (R321, R462). -/
def execPpsEdge (s : State) : Out :=
  if !live s ∨ !isRoot s then .next s
  else if !s.time.locked then
    if s.time.ref10 && s.time.setW then
      .next (freshUnc (lockAt (s.setTime { s.time with hops := 0 }) (rd64 s 0x17028).toNat))
    else .next s
  else if !s.time.ref10 then .next s
  else .next (s.setTime { s.time with slew := -(secError (ns s)), ppsMiss := 0, holdover := false, drift := false })

/-- A Note of Thyme. -/
def timeRec (s : State) (code : Nat) : State := logSpine s { code := code, sev := 0, scope := 0 }

/-- Thyme enters holdover: TIME_HOLD. -/
def enterHoldover (s : State) : State := timeRec (s.setTime { s.time with holdover := true }) 0x0707

/-- HOLDOVER_ENTRY: no upstream port is usable (R324). -/
def execHoldoverEntry (s : State) : Out :=
  if !live s ∨ !s.time.locked ∨ s.time.holdover ∨ !inBand s ∨ (upstream s).isSome then .next s else .next (enterHoldover s)

/-- HOLDOVER_EXIT: a usable upstream is back.  At a root, locked or not, the event says that 10 MHz is locked again; the
next edge then ends a holdover (log entry 45). -/
def execHoldoverExit (s : State) : Out :=
  if !live s then .next s
  else if isRoot s then .next (s.setTime { s.time with ref10 := true })
  else if !s.time.holdover then .next s
  else if (upstream s).isNone then .next s
  else .next (s.setTime { s.time with holdover := false, drift := false })

/-- TIME_DRIFT: the estimate passes 1 µs; raised once (R324). -/
def execTimeDrift (s : State) : Out :=
  if !live s ∨ !s.time.holdover ∨ s.time.drift ∨ s.time.unc2 ≤ 2000 then .next s
  else .next (timeRec (s.setTime { s.time with drift := true }) 0x0708)

/-- REF10M_LOCK_LOSS: a root loses its 10 MHz reference (R462). -/
def execRef10mLockLoss (s : State) : Out :=
  if !live s ∨ !isRoot s then .next s
  else
    let s1 := s.setTime { s.time with ref10 := false }
    .next (if s.time.locked ∧ !s.time.holdover then enterHoldover s1 else s1)

/-- PPS_EDGES_MISSED: a root misses three edges in a row. -/
def execPpsEdgesMissed (s : State) : Out :=
  if !live s ∨ !isRoot s ∨ !s.time.locked then .next s
  else
    let s1 := s.setTime { s.time with ppsMiss := 3 }
    .next (if s.time.holdover then s1 else enterHoldover s1)

end Sys2Proof.Machine
end

