-- ==== Sys2Proof/Machine/LovOps.lean ====
section
/-!
DEFINITION. Lovage's operations: pairing (R348, R349), blocks of a copy sent and written (R353), verdicts and
agreement (R34, R352, R358), the start of the divergence procedure (R356).
-/

namespace Sys2Proof.Machine

/-! ### Whose message it is (R353) -/

/-- The kind of context of the job's pair whose partner sent a message. -/
def pairFrom (s : State) (job : B32) (src : Peer) : Option Bool :=
  [false, true].find? fun fil =>
    (pairOf s fil).st != .off && decide ((pairOf s fil).job = job) && decide (localPeer s (pairOf s fil).partner = src)

/-- The pair of a job whose partner SUBSTITUTE has replaced by the sender. -/
def subFrom (s : State) (job : B32) (src : Peer) : Option Bool :=
  [false, true].find? fun fil =>
    (pairOf s fil).st != .off && decide ((pairOf s fil).job = job) &&
      s.mir.subs.any fun x => x.1 = job && x.2.1 == (pairOf s fil).partner && decide (localPeer s x.2.2 = src)

/-- A Lovage message of a device that is not the partner: dropped and counted in COLL_FOREIGN. -/
def lovForeign (s : State) : State := s.setCol { s.col with foreign := sat32 (s.col.foreign + 1) }

/-- The pair that a pairing message is about: the job's; else one that is being tested with the sender, when the job that
the message names is none of this device's (reason 0x2 of Table 11-1). -/
def pairingFrom (s : State) (m : PairMsg) : Option Bool :=
  match pairFrom s m.job m.src with
  | some fil => some fil
  | none =>
    if (jobKind s m.job).isSome then none
    else [false, true].find? fun fil =>
      (pairOf s fil).st = .pairing && decide (localPeer s (pairOf s fil).partner = m.src)

/-- A message from the pair partner is acted on; any other is foreign. -/
def fromPartner (s : State) (job : B32) (src : Peer) (k : Bool → State) : Out :=
  if !live s ∨ !transportOn s then .next s
  else match pairFrom s job src with
  | none => .next (lovForeign s)
  | some fil => .next (if s.err.ka then s else k fil)

/-- A pairing message from the partner is acted on; any other is foreign. -/
def fromPair (s : State) (m : PairMsg) (k : Bool → State) : Out :=
  if !live s ∨ !transportOn s then .next s
  else match pairingFrom s m with
  | none => .next (lovForeign s)
  | some fil => .next (if s.err.ka then s else k fil)

/-! ### Pairing (R348, Table 11-1) -/

/-- COMP_REV and NUM_REV of the capability table. -/
def compRev : Nat := 1
def numRev : Nat := 3

/-- Shard index, fingerprint and digests of copies; a copy that cannot be read has no digests. -/
def pairShards (s : State) (l : List Shard) : List (Nat × B64 × List B64) :=
  l.map fun sh => (sh.idx, fingerprint s sh, if (checkErr s sh false).isSome then [] else digestList s sh false)

/-- Lovage reads every shard of a job (R159). -/
def meetJob (s : State) (job : B32) : State := (shardsOf s job).foldl meetShard s

def watched (s : State) (p : Peer) : Bool := s.fab.watch.any fun w => decide (w.peer = p)

/-- What this device says of itself to a partner. -/
def ownPairMsg (s : State) (p : Pair) (partner : Peer) : PairMsg :=
  { src := ownPeer s, job := p.job, tenant := (getCtx s p.ctx).tenant, numRev := numRev, compRev := compRev
    own := pairShards s (ownShards s p.job), copies := pairShards s (mirShards s p.job), watched := watched s partner }

/-- Every own shard has exactly one copy on the other side. -/
def oneCopy (own copies : List (Nat × B64 × List B64)) : Bool :=
  own.all fun x => (copies.filter fun y => y.1 == x.1).length == 1

/-- What `f` takes of an own shard and of its copy is equal. -/
def agreeOn {α : Type} [DecidableEq α] (f : Nat × B64 × List B64 → α) (own copies : List (Nat × B64 × List B64)) : Bool :=
  own.all fun x => match copies.find? fun y => y.1 == x.1 with
    | some y => decide (f x = f y)
    | none => false

/-- Condition 0x5: every own shard has been read, and its digests are those of its copy. -/
def sameDigests (own copies : List (Nat × B64 × List B64)) : Bool :=
  own.all (fun x => !x.2.2.isEmpty) && agreeOn (fun x => x.2.2) own copies

/-- The reason code of the first condition of Table 11-1 that fails; 0 when all hold. -/
def pairReason (a b : PairMsg) : Nat :=
  if a.numRev ≠ b.numRev ∨ a.compRev ≠ b.compRev then 1
  else if a.job ≠ b.job ∨ a.tenant ≠ b.tenant then 2
  else if !oneCopy a.own b.copies || !oneCopy b.own a.copies then 3
  else if !agreeOn (fun x => x.2.1) a.own b.copies || !agreeOn (fun x => x.2.1) b.own a.copies then 4
  else if !sameDigests a.own b.copies || !sameDigests b.own a.copies then 5
  else if !a.watched || !b.watched || a.src.site != b.src.site then 6 else 0

/-- A pairing message goes to the partner. -/
def sendPair (s : State) (fil ack : Bool) : State :=
  let p := pairOf s fil
  let d := localPeer s p.partner
  let s1 := meetJob s p.job
  sendLovage s1 d p.ctx p.job (lovEng (if ack then 2 else 1) 0 0 0) 0 [] (.pair ack (ownPairMsg s1 p d))

/-- The step that the copies of a job hold. -/
def heldStep (s : State) (job : B32) : Nat :=
  match ownShards s job ++ mirShards s job with
  | sh :: _ => (hdrOf s sh).wStep
  | [] => 0

/-- The step of the last outer merge that the copies of a job hold. -/
def heldMerge (s : State) (job : B32) : Nat :=
  match ownShards s job ++ mirShards s job with
  | sh :: _ => (hdrOf s sh).outJ * s.sx.h
  | [] => 0

/-- Does the outer round of the held step lie behind the copies, or is there none (R168)? -/
def heldWhole (s : State) (job : B32) (step : Nat) : Bool :=
  !isRoundStep s job step || (ownShards s job).all fun x => (hdrOf s x).outJ * s.sx.h == step

/-- PROMOTE is complete: the entry of the next step opens as if Phase B had just completed (R366). -/
def promoDone (s : State) (job : B32) (step : Nat) : State :=
  match s.mir.promo with
  | none => s
  | some _ =>
    let s1 := s.setMir { s.mir with promo := none }
    if heldWhole s1 job step then openNext s1 job step else s1

/-- The pair is UP: the comparison stands in for the agreement of the held step (R34, R366), and the command
that asked for it is done. -/
def serviceUp (s : State) (fil : Bool) : State :=
  let p := pairOf s fil
  let n := heldStep s p.job
  let s1 := setPair s fil { p with st := .up, step := n, sent := false, merged := heldMerge s p.job }
  let s2 := s1.setMir { s1.mir with
    chks := s1.mir.chks.filter (fun c => c.job ≠ p.job), dvg := s1.mir.dvg.filter fun c => c.job ≠ p.job }
  let s3 := registerResume (promoDone (entAgree s2 fil n) p.job n)
  if p.st = .pairing then finish .resilience 0 s3 else s3

/-- Pairing refused: PAIR_REFUSED with its reason, result 0x04, the service OFF. -/
def pairRefuse (s : State) (fil : Bool) (reason : Nat) : State :=
  let p := pairOf s fil
  let s1 := logSpine s (pairRec s p 0x0801 0 reason 0)
  let s2 := (setPair s1 fil Pair.reset)
  let s3 := s2.setMir { s2.mir with promo := none }
  if p.st = .pairing then finish .resilience 4 s3 else s3

/-- The tests of Table 11-1 on what both sides have said. -/
def pairTest (s : State) (fil : Bool) (m : PairMsg) : State :=
  let s1 := meetJob s (pairOf s fil).job
  let r := pairReason (ownPairMsg s1 (pairOf s1 fil) m.src) m
  if r = 0 then serviceUp s1 fil else pairRefuse s1 fil r

/-! ### Blocks of a copy (R353) -/

/-- The segments of a copy of one KIND of Table 5-10, in order; differences of an outer round in whole blocks. -/
def kindSegs (s : State) (sh : Shard) (kind : Nat) : List (Nat × Nat) :=
  let h := hdrOf s sh
  if kind = 0 then [((wSeg h).va, (wSeg h).bytes)]
  else if kind = 1 then (stateSegs h).map fun g => (g.va, g.bytes)
  else if kind = 2 then [((gSeg h).va, (gSeg h).bytes)]
  else if kind = 3 ∨ kind = 4 then ((outerSegs h).filter fun g => g.kind == kind).map fun g => (g.va, g.bytes)
  else if kind = 6 then (mergeSites s sh (mergeDesc s sh)).flatMap fun e =>
    [(dataAt e sh, 32 * shardBlocks h), (scaleAt e sh, shardBlocks h)]
  else []

/-- The place and length of block `i` among a list of segments counted in whole blocks. -/
def blockPlace : List (Nat × Nat) → Nat → Option (Nat × Nat)
  | [], _ => none
  | (va, n) :: t, i =>
    if i < blocks4k n then some (va + 4096 * i, min 4096 (n - 4096 * i)) else blockPlace t (i - blocks4k n)

/-- Received blocks of a KIND written into a copy from block `first` on; of a segment's last block no more than the
segment holds. -/
def writeBlocks (s : State) (sh : Shard) (kind first : Nat) (data : List Byte) : State :=
  let segs := kindSegs s sh kind
  (List.range (data.length / 4096)).foldl (fun st i => match blockPlace segs (first + i) with
    | some (va, n) => storeVa st sh.ctx va ((slice data (4096 * i) 4096).take n)
    | none => st) s


/-- The messages that carry blocks from `first` on: at most 255 whole blocks each, beside the 16 bytes that a Lovage
payload begins with (R313, R353); each goes by a port of its own choice (R354). -/
def blockMsgs (x : Blocks) : List Blocks :=
  let n := (x.data.length / 4096 + 254) / 255
  if n ≤ 1 then [x]
  else (List.range n).map fun i =>
    { x with first := x.first + 255 * i, data := slice x.data (255 * 4096 * i) (255 * 4096)
             hdr := if i + 1 = n then x.hdr else [], last := x.last && decide (i + 1 = n) }

/-- Blocks of a segment kind go to a device. -/
def sendBlocks (s : State) (dst : Peer) (sh : Shard) (undo : Bool) (step kind first : Nat) (data hdr : List Byte)
    (last : Bool) : State :=
  (blockMsgs { src := ownPeer s, job := sh.job, shard := sh.idx, kind := kind, first := first, data := data
               hdr := hdr, last := last }).foldl (fun st x =>
    sendLovage st dst sh.ctx sh.job (lovEng (if undo then 6 else 8) sh.idx kind x.first) step x.data (.blocks undo step x)) s

/-- No record, or no copy: a last message without contents, of the header's kind. -/
def sendNone (s : State) (dst : Peer) (sh : Shard) (undo : Bool) (step : Nat) : State :=
  sendBlocks s dst sh undo step 5 0 [] [] true

/-- A digest list goes to the partner, at most 131,070 blocks in a message (R352, R353); the list is taken with the
last. -/
def sendDigests (s : State) (p : Pair) (d : DigList) : State :=
  let n := (d.digs.length + 131069) / 131070
  (List.range (max 1 n)).foldl (fun st i =>
    sendLovage st (localPeer st p.partner) p.ctx d.job (lovEng 3 d.shard 0 (131070 * i)) d.step
      ((slice d.digs (131070 * i) 131070).flatMap fun x => leBytes 8 x.toNat) (if n ≤ i + 1 then .digests d else .none)) s

/-- Header fields 0x08 to 0x27 that an undo record holds of a shard. -/
def undoHdr (s : State) (e : JEnt) (sh : Shard) : List Byte :=
  match e.segs.find? fun g => g.shard == sh.idx && g.kind == 5 with
  | some g => slice (segBytes s g) (sh.hva % 4096 + 8) 32
  | none => []

/-- Can the copies that an entry holds of a shard be restored (R171, R174)? -/
def entGood (s : State) (e : JEnt) (sh : Shard) : Bool :=
  let gs := e.segs.filter fun g => g.shard == sh.idx
  e.st != .damaged && !gs.isEmpty && gs.all (segOk s)

/-- The undo record of a shard goes to its partner: that of an outer merge with the recorded differences, that of an inner
step with the gradient record when `all` (R172, R356, R364). -/
def sendUndo (s : State) (dst : Peer) (sh : Shard) (e : JEnt) (all : Bool) : State :=
  let kinds := [0, 1, 3, 4] ++ if e.outer then [6] else if all then [2] else []
  let data (k : Nat) : List Byte :=
    (e.segs.filter fun g => g.shard == sh.idx && g.kind == k).flatMap (segBytes s)
  let s1 := kinds.foldl (fun st k =>
    if (data k).isEmpty then st else sendBlocks st dst sh true e.step k 0 (data k) [] false) s
  sendBlocks s1 dst sh true e.step 5 0 [] (undoHdr s e sh) true

/-! ### Agreement (R34, R352) -/

/-- Checks of the same shard copy, step and update. -/
def putChk (s : State) (c : Chk) : State :=
  s.setMir { s.mir with chks := s.mir.chks.map fun d => if sameChk c d then c else d }

/-- The check of a shard copy that is not decided yet. -/
def findChk (s : State) (job : B32) (step shard : Nat) (mirror : Bool) : Option Chk :=
  s.mir.chks.find? fun c => c.job = job && c.step == step && c.shard == shard && c.mirror == mirror && !c.done

/-- Is the gradient record that agreement waits for complete (R352)? -/
def gradReady (s : State) (fil : Bool) (step : Nat) : Bool :=
  match findEnt s fil false step with
  | some e => e.grad
  | none => true

/-- Agreement for the device: every shard that it holds for the job has agreed.  The entry is CHECKED, journals are
released, a REGISTER goes on, and a changed own shard withholds presence from the next vote (R38, R168, R358).  A service that
is DOWN reports none (R350). -/
def agreeDevice (s : State) (fil : Bool) (job : B32) (step : Nat) (outer : Bool) : State :=
  if !pairServes (pairOf s fil) || !(shardsOf s job).all (fun sh => agreedOn s sh step outer) then s
  else
    let p := pairOf s fil
    let s1 := setPair s fil { p with step := step, merged := if outer then step else p.merged }
    let s2 := if outer then entAgreeOuter s1 fil step else entAgree s1 fil step
    let s3 := registerResume (s2.setMir { s2.mir with
      chks := s2.mir.chks.filter fun c => !(c.job = job && decide (c.step < step))
      changed := s2.mir.changed.filter fun x => !(x.job = job && x.step == step + 1) })
    if hasMark s.mir.changed job (step + 1) then notPresent s3 job (step + 1) else s3

/-- Agreement on one shard copy. -/
def agreeShard (s : State) (fil : Bool) (c : Chk) : State :=
  if !c.outer && !gradReady s fil c.step then s
  else agreeDevice (putChk s { c with done := true }) fil c.job c.step c.outer

/-! ### Divergence (R356) -/

/-- First differing block and number of differing blocks of two lists. -/
def diffBlocks (a b : List B64) : Nat × Nat :=
  let n := max a.length b.length
  let d := (List.range n).filter fun i => decide (a[i]? ≠ b[i]?)
  (d.headD 0, d.length)

/-- MIRROR_FATAL: no copy can be trusted, and the pair is LOST (R357). -/
def mirrorFatal (s : State) (fil : Bool) (sh : Nat) : State :=
  let p := pairOf s fil
  let s1 := raiseSpineAll (s.setMir { s.mir with dvg := s.mir.dvg.filter fun d => d.job ≠ p.job })
    { pairRec s p 0x0804 3 0 0 with data0 := bv 64 sh }
  pairLost s1 p.job

/-- Lovage's own update command of step `s` on a copy, before every other of the shard. -/
def lovCmd (s : State) (sh : Shard) (step : Nat) (outer : Bool) : State :=
  let c : UCmd := { n := s.upd.next, cl := 0, fil := sh.fil, ctx := sh.ctx, queue := none
                    kind := if outer then .out else .ab, hva := sh.hva, arg := if outer then step / s.sx.h else 0
                    step := step, ph := if outer then .merge else .wait, lov := true, restore := false, asked := false
                    pc := 0 }
  s.setUpd { s.upd with cmds := c :: s.upd.cmds, next := s.upd.next + 1 }

/-- The header of a copy as it stood before the update of `step`: its steps, or its round, and the loss scale. -/
def lovHdr (s : State) (sh : Shard) (step ls : Nat) (outer : Bool) : State :=
  let h := hdrOf s sh
  if outer then setHdr s sh 0x20 8 (h.outJ - 1)
  else setHdr (setHdr (setHdr s sh 8 8 (step - 1)) sh 0x10 8 (step - 1)) sh 0x18 4 ls

/-- The segment kinds that the procedure restores: Table 5-8's last rows. -/
def lovKinds (outer : Bool) : List Nat := if outer then [0, 3, 4, 6] else [0, 1]

/-- The owner's part: it restores, sends its records, and recomputes. -/
def lovOwner (s : State) (fil : Bool) (sh : Shard) (step : Nat) (outer : Bool) : State :=
  let s := checkEnt s fil outer step
  let ls := (journalLs s sh step).getD 0
  match restoreSegs s sh outer step (lovKinds outer).contains, findEnt s fil outer step with
  | some s1, some e =>
    lovCmd (lovHdr (sendUndo s1 (localPeer s1 (pairOf s1 fil).partner) sh e true) sh step ls outer) sh step outer
  | _, _ => mirrorFatal (sendNone s (localPeer s (pairOf s fil).partner) sh true step) fil sh.idx

/-- A DIFFER verdict: the pair is CHECKING and the procedure begins on the shard. -/
def startDvg (s : State) (fil : Bool) (c : Chk) (mine theirs : List B64) : State :=
  match shardBy s c.job c.shard c.mirror with
  | none => s
  | some sh =>
    let d : Dvg := { job := c.job, step := c.step, shard := c.shard, mirror := c.mirror
                     dOwn := if c.mirror then theirs else mine, dMir := if c.mirror then mine else theirs
                     restored := !c.mirror }
    let s1 := putChk s { c with mine := none, theirs := none, given := none, got := none, again := some mine }
    let s2 := setPair (s1.setMir { s1.mir with div := sat32 (s1.mir.div + 1), dvg := s1.mir.dvg ++ [d] }) fil
      { pairOf s1 fil with st := .checking }
    if c.mirror then s2 else lovOwner s2 fil sh c.step c.outer

/-- A verdict goes to the partner. -/
def sendVerdict (s : State) (fil : Bool) (c : Chk) (v : Bool × Nat × Nat) : State :=
  let p := pairOf s fil
  sendLovage s (localPeer s p.partner) p.ctx p.job (lovEng 4 c.shard 0 v.2.1) c.step []
    (.other 4 [c.job.toNat, c.step, c.shard, b2n c.mirror, b2n v.1, v.2.1, v.2.2] [])

/-- What the verdicts of a first check lead to. -/
def settleChk (s : State) (fil : Bool) (c : Chk) : State :=
  if c.again.isSome then s
  else match c.mine, c.theirs, c.given, c.got with
  | some a, some b, some g, got =>
    let bad := !g.1 || (match got with | some v => !v.1 | none => false)
    if bad then startDvg s fil c a b else if got.isSome then agreeShard s fil c else s
  | _, _, _, _ => s

/-- With both lists there the verdict is given. -/
def giveVerdict (s : State) (fil : Bool) (c : Chk) : State :=
  match c.mine, c.theirs, c.given with
  | some a, some b, none =>
    let (f, n) := diffBlocks a b
    let v : Bool × Nat × Nat := (decide (a = b), f, n)
    let c1 : Chk := { c with given := some v }
    settleChk (sendVerdict (putChk s c1) fil c1 v) fil c1
  | _, _, _ => putChk s c

end Sys2Proof.Machine
end

