-- ==== Sys2Proof/Machine/Lead.lean ====
section
/-!
DEFINITION. The end of a record's handling (R375, R377), the rings' tails (R376), the crown lease (R380 to R386) and
what a change of leader does to commands (R444).
-/

namespace Sys2Proof.Machine

/-! ### Handling (R375) -/

/-- The record in handling is HANDLED; a pre-empted one resumes, else the next that waits is taken. -/
def Ring.handled (r : Ring) : Ring :=
  match r.hand with
  | [] => r
  | c :: t =>
    let slots := Tab.upd (fun _ => {}) r.slots c.slot fun y => if y.seq = c.seq then { y with handled := true } else y
    match t, r.wait with
    | [], w :: ws => { r with slots := slots, hand := [w], wait := ws }
    | _, _ => { r with slots := slots, hand := t }

/-- RECORD_HANDLING_END: a Fatal record of scope device puts the device into keep-alive mode (R377). -/
def execRecordHandlingEnd (h : Half) (s : State) : Out :=
  match (s.err.ring.get h).hand with
  | [] => .next s
  | c :: _ =>
    if s.err.ka ∨ !s.boot.sage.get h then .next s
    else
      let s1 := s.setErr { s.err with ring := s.err.ring.upd h Ring.handled }
      .next (if c.sev = 3 ∧ c.scope = 0 then goKeepAlive s1 c.code else s1)

/-- ERR_TAIL: the host consumes records; a value beyond the head or below the tail is ignored. -/
def execErrTail (h : Half) (v : B32) (s : State) : Out :=
  let r := s.err.ring.get h
  if !regsOn s ∨ (r.head - r.tail).toNat < (v - r.tail).toNat then .next s
  else .next (s.setErr { s.err with ring := s.err.ring.set h { r with tail := v } })

/-! ### The lease -/

/-- Does the latch hold a valid lease (R380)? -/
def leaseValid (s : State) : Bool := (leader s).isSome

/-- Does the half's control processor run and reach the latch? -/
def latchPath (s : State) (h : Half) : Bool :=
  s.pwr.on && s.boot.sage.get h && (s.lead.half.get h).reach

/-- What a command in progress found where it writes is written back. -/
def putBack (l : List (Nat × Nat × List Byte)) (s : State) : State :=
  l.foldl (fun st e => storeVa st e.1 e.2.1 e.2.2) s

/-- A ROLLBACK in progress ends without effect: the shards stand as it found them (R444). -/
def undoRollback (s : State) : State :=
  let s1 := if s.upd.roll.isSome then putBack s.upd.was s else s
  s1.setUpd { s1.upd with roll := none, was := [] }

/-- A PAIR or PROMOTE in progress ends without effect: the pair stands as before it, what a PROMOTE wrote is as it was, and
the shards that it registered are not (R444). -/
def undoPairing (s : State) : State :=
  let s1 := match s.mir.promo with
    | none => s
    | some p =>
      let t := putBack s.mir.was s
      let new := t.upd.shards.filter fun (x : Shard) => x.job = p.job && !s.mir.wasShards.contains x
      if new.isEmpty then t
      else dropJob (t.setUpd { t.upd with shards := t.upd.shards.filter fun x => !new.contains x }) (getCtx t p.ctx).fil p.job
  let back (p old : Pair) : Pair := if p.st = .pairing then old else p
  s1.setMir { s1.mir with
    p := back s1.mir.p s1.mir.wasPairs.1, f := back s1.mir.f s1.mir.wasPairs.2, promo := none, was := [], wasShards := [] }

/-- Commands in progress when the leader changes: they have no effect (R444).  A host slot whose erasure waits for requests
is erased all the same: its command has completed. -/
def abortCmds (s : State) : State :=
  let s1 := s.setMmu { s.mmu with inval := none }
  let s2 := s1.setSlot (s1.slot.map fun e => (e.1, match e.2.prep with
    | .ready => e.2
    | .unbind => { e.2 with prep := .ready }
    | _ => { e.2 with ctx := none, prep := .ready }))
  undoPairing (undoRollback (s2.setUpd { s2.upd with regWait := none }))

/-- Blocks whose command may be in progress. -/
def allBlks : List Blk :=
  [.memory, .context, .queue, .sync, .update, .collective, .fabric, .resilience, .hkey]

/-- The block whose command a register command is, if it reports a RESULT. -/
def heldBlk : Instr → Option Blk
  | .assign _ | .release _ | .retire _ | .invalCtx _ | .invalRange _ | .invalAll _ => some .memory
  | .ctxCreate _ | .ctxDestroy _ | .bind _ _ | .unbind _ | .ctxStop _ | .ctxResume _ | .ctxRead _ => some .context
  | .qCreate _ | .qDestroy _ | .qCmdHalt _ | .qResume _ | .qRead _ => some .queue
  | .syncCreate _ | .syncDestroy _ | .syncReset _ | .syncRead _ | .readWaiters _ | .clearOvr _ => some .sync
  | .register _ | .deregister _ | .rollback _ | .updRead _ => some .update
  | .groupCreate _ | .groupDestroy _ | .groupRead _ | .voteRead _ => some .collective
  | .loadRoutes _ | .loadSites _ | .loadWatch _ | .loadEnc _ | .readRoute _ => some .fabric
  | .pair _ | .unpair _ | .substitute _ | .promote _ => some .resilience
  | .hkeyLoad _ | .hkeyErase _ => some .hkey
  | .plainRegisterWrite o _ _ => (cmdReg o).map (·.1)
  | _ => none

/-- Does a command that waits for a leader hold the block, or the Chive unit? -/
def blkHeld (s : State) (b : Blk) : Bool := s.held.any fun c => heldBlk c == some b
def chvHeld (s : State) (u : Nat) : Bool := s.held.any fun c => match c with | .run v _ => v == u | _ => false

/-- Chive runs in progress end without effect. -/
def dropRuns (s : State) : State :=
  (s.chv.map (·.1)).foldl (fun st u =>
    let x := getChv st u
    if x.busy && !chvHeld s u then setChv st u { x with busy := false, res := 0xFE } else st) s

/-- Every command that the old leader had not completed reports 0xFE; those written while no half led wait for the new
leader. -/
def dropBusy (s : State) : State :=
  let s1 := dropRuns (abortCmds (s.setLink []))
  allBlks.foldl (fun st b => if (getBlk st b).busy && !blkHeld s b then finish b 0xFE st else st) s1

/-- EPOCH changes: what was begun under the old one is refused and has no effect (R383, R444).  With HOLDER changed also
LEAD_CHANGE and vector 7. -/
def leadChange (s : State) (old : Option Half) : State :=
  let s1 := if s.lead.holder = old then s else irq (logSpine s { code := 0x0901, scope := 0 }) 7
  if old.isSome then dropBusy s1 else s1

/-- The leading half raises LEAD_LOST once for the other half that cannot reach the spine, in the beat E of the latest
EXPIRY which that half read: by then it has stopped (R385). -/
def leadLost (s : State) (h : Half) : State :=
  let v := s.lead.half.get (otherHalf h)
  if s.boot.sage.get (otherHalf h) ∧ !v.reach ∧ v.expiry ≤ beat s ∧ !v.told then
    let s1 := s.setLead { s.lead with half := s.lead.half.upd (otherHalf h) fun v => { v with told := true } }
    raiseAll s1 h { code := 0x0902, sev := 3, scope := 0 }
  else s

/-- LEASE_CLAIM: a half without a valid lease reads the latch, and claims when no lease is valid (R381). -/
def execLeaseClaim (h : Half) (s : State) : Out :=
  if !latchPath s h ∨ (leaseValid s ∧ s.lead.holder = some h) then .next s
  else if leaseValid s then
    .next (s.setLead { s.lead with half := s.lead.half.upd h fun v =>
      { v with readBeat := beat s, mine := false, expiry := s.lead.expiry } })
  else
    let s1 := s.setLead { s.lead with
      holder := some h, epoch := s.lead.epoch + 1, expiry := beat s + 16
      half := s.lead.half.upd h fun v => { v with readBeat := beat s, mine := true, expiry := beat s + 16 } }
    .next (refreshRdy (leadLost (leadChange s1 s.lead.holder) h))

/-- LEASE_RENEW: in every fourth beat the holder renews; a rejected renewal ends its leadership (R382).  In every beat the
leader looks for a half that it has lost (R385). -/
def execLeaseRenew (h : Half) (s0 : State) : Out :=
  let s := if leader s0 = some h then leadLost s0 h else s0
  if !latchPath s h ∨ !(s.lead.half.get h).mine ∨ beat s % 4 ≠ 0 ∨ s.lead.forced then .next s
  else if leader s = some h then
    .next (s.setLead { s.lead with
      expiry := beat s + 16
      half := s.lead.half.upd h fun v => { v with readBeat := beat s, mine := true, expiry := beat s + 16 } })
  else
    .next (s.setLead { s.lead with half := s.lead.half.upd h fun v =>
      { v with readBeat := beat s, mine := false, expiry := s.lead.expiry } })

/-- LEASE_EXPIRY: the beat reaches EXPIRY, and the half no longer leads (R380). -/
def execLeaseExpiry (s : State) : Out :=
  match s.lead.holder with
  | none => .next s
  | some h =>
    if leaseValid s then .next s
    else .next (refreshRdy (s.setLead { s.lead with half := s.lead.half.upd h fun v => { v with mine := false } }))

/-- Both halves have lost the spine: SPINE_LOST in each ring, and keep-alive mode (R386). -/
def spineLost (s : State) : State :=
  let r : Rec := { code := 0x0903, sev := 3, scope := 0 }
  let s1 := logRec (logRec s .west r) .east r
  goKeepAlive (s1.setLead { s1.lead with
    half := ⟨{ s1.lead.half.w with lost := true }, { s1.lead.half.e with lost := true }⟩ }) 0x0903

/-- The half's own copy of fabric time runs on from Thyme's last value when its path is lost (R384). -/
def ownTime (s : State) (h : Half) : Nat := if (s.lead.half.get h).reach then s.time.ft else (s.lead.half.get h).ft

/-- SPINE_UNREACHABLE_STOP: the latch path of a half gives no answer; from beat E − 1 on, by its own copy of fabric time, the
half has stopped (R384). -/
def execSpineUnreachableStop (h : Half) (s : State) : Out :=
  if !s.pwr.on ∨ !s.boot.sage.get h then .next s
  else
    let stop (v : LeadHalf) : LeadHalf :=
      { v with reach := false, ft := ownTime s h, stopped := v.stopped || decide (v.expiry ≤ halfBeat s h + 1) }
    let s1 := refreshRdy (s.setLead { s.lead with half := s.lead.half.upd h stop })
    let both := s1.lead.half.w.stopped && s1.lead.half.e.stopped
    .next (if both ∧ !s1.lead.half.w.lost then spineLost s1 else s1)

/-- LEAD_FORCE on its word: only in keep-alive mode, with the key, naming one half (R386). -/
def leadForce (v : B32) (s : State) : Option State :=
  let n := bits v 1 0
  if !s.err.ka ∨ bits v 31 16 ≠ 0x4C46 ∨ (n ≠ 1 ∧ n ≠ 2) then none
  else
    let h := halfOf (n - 1)
    let s1 := s.setLead { s.lead with holder := some h, epoch := s.lead.epoch + 1, forced := true }
    some (refreshRdy (leadChange s1 s.lead.holder))

/-- LEAD_FORCE. -/
def execLeadForce (v : B32) (s : State) : Out :=
  if !regsOn s then .next s else .next ((leadForce v s).getD s)

end Sys2Proof.Machine
end

