-- ==== Sys2Proof/Machine/Marjoram.lean ====
section
/-!
DEFINITION. Marjoram, the tenant ledger (R206 to R211, Tables 6-10 to 6-13).
-/

namespace Sys2Proof.Machine

/-- Bounds of R206: counting runs from the first whole beat after time has locked. -/
def counts (s : State) : Bool := s.led.counting && decide (s.led.first ≤ beat s)

/-! ### Counts -/

/-- May samples of the beat be taken: counting runs, and the close that this beat may bring has been looked at (R207)? -/
def mayCount (s : State) : Bool := s.led.counting && s.led.looked == beat s + 1

/-- PRI_UNITS_TICK: at the start of each 1,024 ns, 1 for each cluster whose primary slot is bound; once for each (R210). -/
def execPriUnitsTick (s : State) : Out :=
  if !mayCount s ∨ ns s < s.led.priNext then .next s
  else .next ((slotsWhere s fun x => x.ctx.isSome).foldl (fun st c =>
    if c.2 then st
    else count st (getCtx st (slotCtx st c.1 false)).tenant.toNat fun n => { n with pri := n.pri + 1 })
    (s.setLed { s.led with priNext := s.led.priNext + 1024 }))

/-- FIL_UNITS_TICK: the filler slot of a cluster has used 1,792 more cycles, which have passed since the last ones were
counted or the slot was bound. -/
def execFilUnitsTick (cl : Nat) (s : State) : Out :=
  if 512 ≤ cl then .fault (.noSuchUnit "cluster" cl)
  else
    let x := getSlot s cl true
    match x.ctx with
    | none => .next s
    | some id =>
      if !mayCount s ∨ s.time.cycle < x.filFrom + 1792 then .next s
      else .next (count (setSlot s cl true { x with filFrom := x.filFrom + 1792 }) (getCtx s id).tenant.toNat
        fun n => { n with fil := n.fil + 1 })

/-- Tenants that own frames or journal entries. -/
def holders (s : State) : List (BitVec 12) :=
  ((s.frm.tab.filter fun e => frmKind s e.1 = .tenant || frmKind s e.1 = .ptable).map (fun e => frmTenant s e.1) ++
    s.jrn.entries.map (·.tenant)).dedup

/-- JE_FRAMES of the open and retained entries of a tenant's jobs. -/
def entryCharge (s : State) (t : BitVec 12) : Nat :=
  (s.jrn.entries.filter fun e => e.tenant = t).foldl (fun a e => a + e.frames.w + e.frames.e) 0

/-- FRAME_BEAT_TICK: at the start of each beat, the frames that each tenant owns; once for each beat (R210). -/
def execFrameBeatTick (s : State) : Out :=
  if !mayCount s ∨ beat s < s.led.frmNext then .next s
  else .next ((holders s).foldl (fun st t => count st t.toNat fun n =>
    { n with hbm := n.hbm + countFrames s false t, rs := n.rs + countFrames s true t + entryCharge s t })
    (s.setLed { s.led with frmNext := s.led.frmNext + 1 }))

/-! ### Intervals -/

/-- Has the ring no slot for one more snapshot (R208), or is a snapshot write being retried (R425)? -/
def ringFull (s : State) : Bool :=
  s.dev.hostRetry || s.led.base == 0 || decide (s.led.slots ≤ (s.led.head - s.led.tail).toNat + s.led.snaps.length)

/-- The samples of every beat that has ended are taken. -/
def sampled (s : State) : Bool := decide (beat s * beatNs ≤ s.led.priNext) && decide (beat s ≤ s.led.frmNext)

/-- Cycles that no sample has counted at the close of an interval were not used, but for a remainder below one unit, which
carries: no slot counts more in an interval than the interval holds (R206, R210). -/
def dropIdleFil (s : State) : State :=
  s.setSlot (s.slot.map fun e =>
    (e.1, if e.2.ctx.isSome then { e.2 with filFrom := max e.2.filFrom (s.time.cycle - 1791) } else e.2))

/-- INTERVAL_CLOSE: at the end of a beat b with (b + 1) mod LED_INT = 0 the interval closes, or stays open
while the ring is full (R207, R208).  It is looked at once, in the beat after b and before that beat's samples. -/
def execIntervalClose (s : State) : Out :=
  if !counts s ∨ s.led.looked = beat s + 1 ∨ !sampled s then .next s
  else
    let l := { s.led with looked := beat s + 1 }
    if l.first = beat s ∨ beat s % l.int ≠ 0 then .next (s.setLed l)
    else if ringFull s then .next (s.setLed { l with extending := true, ext := true })
    else .next ((dropIdleFil s).setLed { l with
      snaps := l.snaps ++ [⟨l.nextSeq, l.first, beat s - 1, l.ext, l.ka || s.err.ka, l.cnt, ns s⟩]
      nextSeq := l.nextSeq + 1, cnt := [], first := beat s, int := l.intNext, ext := false, extending := false
      ka := s.err.ka })

/-! ### Snapshots (R209) -/

/-- A record, Table 6-12; the device record carries traffic only. -/
def recBytes (k : Nat) (c : Cnt) : List Byte :=
  let dev := decide (k = devKey)
  leBytes 4 (if dev then 2 ^ 31 else k) ++ leBytes 4 0 ++ leBytes 8 (if dev then 0 else c.pri) ++
  leBytes 8 (if dev then 0 else c.fil) ++ leBytes 8 (if dev then 0 else c.hbm) ++ leBytes 8 (if dev then 0 else c.rs) ++
  c.tx.flatMap (leBytes 8) ++ c.rx.flatMap (leBytes 8)

/-- The records: tenants with a counter that is not zero in ascending order, then the device. -/
def snapRecs (x : Snap) : List (Nat × Cnt) :=
  (x.cnt.filter fun e => e.1 != devKey) ++ [(devKey, ((x.cnt.find? fun e => e.1 == devKey).map (·.2)).getD {})]

/-- The body: header and records. -/
def snapBody (s : State) (x : Snap) : List Byte :=
  let rs := snapRecs x
  leBytes 4 (2 ^ 16) ++ leBytes 4 (128 + 168 * rs.length) ++ leBytes 8 x.seq ++ leBytes 8 s.led.boot.toNat ++
  leBytes 8 x.first ++ leBytes 8 x.last ++ leBytes 4 (bits s.fab.id 22 0) ++
  leBytes 4 (rs.length * 2 ^ 16 + b2n x.ext * 2 ^ 12 + b2n x.ka * 2 ^ 11 + s.fuse.grade) ++
  leBytes 8 s.fuse.serial.toNat ++ leBytes 8 0 ++ leBytes 64 ((s.led.prev.getD 0).toNat) ++
  rs.flatMap fun r => recBytes r.1 r.2

/-- The whole snapshot with the dual signature of domain 0x02 by the ledger key (R209, R391). -/
def snapBytes (s : State) (x : Snap) : List Byte :=
  snapBody s x ++ dualSign (ledgerKey s) 2 (rand256 s) (snapBody s x)

/-- Is the write of the oldest closed interval's snapshot issued: the ledger runs, LEDGER_SIGN's keys stand in a vault that
works (Table 1-3, R390), and there is a ring (R443)? -/
def snapIssued (s : State) : Bool :=
  ledgerOn s && hasImage s 5 && vaultOk s && s.led.slots != 0 && s.led.base != 0

/-- SNAPSHOT_WRITTEN: the oldest closed interval's snapshot is visible in its slot; LED_HEAD moves on (R208,
R211).  Without the link to the host it waits.  A reset of the function that waited for it goes on (R443). -/
def execSnapshotWritten (s : State) : Out :=
  match s.led.snaps with
  | [] => .next s
  | x :: rest =>
    if !snapIssued s ∨ !s.dev.linkUp then .next s
    else
      let bs := snapBytes s x
      let s1 := writeMem (hedged s) (hostBase + s.led.base + s.led.head.toNat % s.led.slots * 2 ^ 20) bs
      .next (flrSettle (irq ((s1.setDev { s1.dev with hostRetry := false }).setLed { s1.led with
        snaps := rest, prev := some (Config.sha512 bs), head := s1.led.head + 1, seq := x.seq }) 4))

/-! ### Registers -/

/-- Is the ring empty, so that LED_BASE and LED_SLOTS can be written (R208)?  Where LED_BASE is 0 there is none. -/
def ledEmpty (s : State) : Bool := s.led.base == 0 || (s.led.head = s.led.tail && s.led.snaps.isEmpty)

/-- LED_BASE: the 1 MiB-aligned address of the ring. -/
def execLedBase (v : B64) (s : State) : Out :=
  if !regsOn s ∨ !ledEmpty s ∨ v.toNat % 2 ^ 20 ≠ 0 then .next s
  else .next (s.setLed { s.led with base := v.toNat, head := 0, tail := 0 })

/-- LED_SLOTS: 2 to 4,096. -/
def execLedSlots (v : B32) (s : State) : Out :=
  if !regsOn s ∨ !ledEmpty s ∨ v.toNat < 2 ∨ 4096 < v.toNat then .next s
  else .next (s.setLed { s.led with slots := v.toNat, head := 0, tail := 0 })

/-- LED_TAIL. -/
def execLedTail (v : B32) (s : State) : Out :=
  if !regsOn s then .next s else .next (s.setLed { s.led with tail := v })

/-- LED_CTRL: LED_INT, 1 to 2^20 beats, in force after the next close (R207). -/
def execLedCtrl (v : B32) (s : State) : Out :=
  let n := bits v 20 0
  if !regsOn s ∨ n = 0 ∨ 2 ^ 20 < n then .next s
  else .next (s.setLed { s.led with intNext := n })

end Sys2Proof.Machine
end

