-- ==== Sys2Proof/Machine/Resets.lean ====
section
/-!
DEFINITION. What each kind of reset keeps and loses (R11, R441 to R443, Table 13-9), and power going (R450).
-/

namespace Sys2Proof.Machine

/-- The power manager and input stage at a device start: what the baseboard shows stands; the sensors' registers read
0 until the next sample (Table 14-9). -/
def Pwr.restart (p : Pwr) : Pwr :=
  { Pwr.reset with
    vin := p.vin, on := p.on, rails := p.rails, pwrgd := p.pwrgd, holdOver := p.holdOver, relPend := p.relPend
    perst := p.perst, thermTrip := p.thermTrip, ovStop := p.ovStop, hsOpen := p.hsOpen, vinLow := p.vinLow }

/-- Host memory is the host's: it outlives every reset. -/
def hostMem (m : Mem) : Mem :=
  { phys := m.phys.filter fun e => inHost e.1, poison := m.poison.filter fun e => inHost (64 * e.1), scr := [], scrPoison := []
    lineErr := m.lineErr.filter fun e => inHost (64 * e.1), scrErr := [], hostLines := [] }

/-- The state of a device start (R441): everything but fuses, input stage, host memory and what is kept since
power-on is as after reset. -/
def clearState (s : State) : State :=
  { State.reset with
    pending := s.pending, free := s.free, fuse := s.fuse, fuseE := s.fuseE, pwr := s.pwr.restart, mem := hostMem s.mem
    dev := { Dev.reset with msi := s.dev.msi, rstCount := s.dev.rstCount } }

/-- The power stage stops: PWRGD falls, every rail goes, in the reverse order of Table 14-2, and all state is lost (R450,
R11). -/
def powerOff (s : State) : State :=
  let t := clearState s
  (t.setDev { t.dev with rstCount := 0 }).setPwr { t.pwr with
    iin := 0, on := false, pwrgd := false, holdOver := false, relPend := false, vinLow := false }

/-- A fundamental reset: the reset input is asserted while powered. -/
def fundamental (s : State) : State :=
  let t := clearState s
  (t.setDev { t.dev with rstStat := rstWord 1 0 s }).setPwr { t.pwr with perst := true, relPend := false }

/-- A device reset from a source: the trained memory is kept, the link trains anew (Table 14-6), RST_STAT says what was, and
RST_PREV holds the last Fatal record before any of the resets since power-on. -/
def deviceReset (s : State) (src : Nat) : State :=
  let t := clearState s
  bringUp ((t.setDev { t.dev with
    rstStat := rstWord 2 src s, rstCount := sat32 (s.dev.rstCount + 1), rstPrev := s.err.lastFatal.or s.dev.rstPrev }).setBoot { t.boot with kept := s.boot.trained })

/-- Has the device started: powered, out of reset, boot ROMs running? -/
def started (s : State) : Bool := s.pwr.on && !s.pwr.perst && s.boot.opened

/-- A reset of the function is asked for: the DMA transfers that write host memory and the snapshot whose write is issued
complete or time out first (R443). -/
def flrStart (s : State) (kind : Nat) : State :=
  let dma := (s.dma.xfers.filter fun v => let d := parseDma v.desc
    d.dstMem && dmaHost s v { d with srcMem := false }).map (·.n)
  let snap := if snapIssued s then s.led.snaps.head?.map (·.seq) else none
  flrSettle (s.setDev { s.dev with flrWait := some { kind := kind, dma := dma, snap := snap } })

end Sys2Proof.Machine
end

