-- ==== Sys2Proof/Machine/Power.lean ====
section
/-!
DEFINITION. The input stage, the power manager, throttling and the thermal limits (R447 to R466).
Powers are W in operands of the beat and mW in those of the microsecond (log entry 14).
-/

namespace Sys2Proof.Machine

def setPwrOn (s : State) (f : Pwr → Pwr) : State := s.setPwr (f s.pwr)

/-! ### The input (R447 to R450) -/

/-- The input voltage with which the power stage starts, in 10 mV: a free value above 48 V, up to 62 V (log entry 14). -/
def startVin (s : State) : Nat := 4801 + (freeVal s).toNat % 1400

/-- The rails follow the power stage one at a time, in the order of Table 14-2 at start and in the reverse order when it
has stopped (R449, R450); how long each takes is not held (log entry 106). -/
def railTick (s : State) : State :=
  if s.pwr.on then (if s.pwr.rails < 5 then setPwrOn s fun p => { p with rails := p.rails + 1 } else s)
  else if s.pwr.rails = 0 then s else setPwrOn s fun p => { p with rails := p.rails - 1 }

/-- POWER_STAGE_START: the input has stayed above 48 V for 10 ms, and the rails start (R448, R449). -/
def execPowerStageStart (s : State) : Out :=
  if s.pwr.on ∨ s.pwr.thermTrip ∨ s.pwr.ovStop then .next s
  else .next (setPwrOn (drawn s) fun p => { p with
    on := true, vin := startVin s, hsOpen := false, vinLow := decide (startVin s < 5000) })

/-- PWRGD_ASSERT, once every rail is in regulation; the 10 ms of the hold begin. -/
def execPwrgdAssert (s : State) : Out :=
  if !s.pwr.on ∨ s.pwr.pwrgd ∨ s.pwr.rails < 5 then .next s
  else .next (setPwrOn s fun p => { p with pwrgd := true, holdOver := false })

/-- OVERVOLTAGE: above 62 V the power stage stops. -/
def execOvervoltage (vin : Nat) (s : State) : Out :=
  if vin ≤ 6200 then .next s
  else .next (setPwrOn (if s.pwr.on then powerOff s else s) fun p => { p with vin := vin, ovStop := true })

/-- OVERVOLTAGE_RESTART: below 61 V it starts again. -/
def execOvervoltageRestart (vin : Nat) (s : State) : Out :=
  if !s.pwr.ovStop ∨ 6100 ≤ vin ∨ vin < 4500 then .next s
  else .next (setPwrOn s fun p => { p with
    vin := vin, ovStop := false, on := !p.thermTrip && !p.hsOpen, vinLow := decide (vin < 5000) })

/-- UNDERVOLTAGE: below 45 V for 100 µs the power stage stops; with the input gone THERMTRIP_N ends (R459).  It stops too
when a rail that is up leaves regulation (R450). -/
def execUndervoltage (f : Fall) (s : State) : Out :=
  match f with
  | .input vin =>
    if 4500 ≤ vin then .next s
    else .next (setPwrOn (if s.pwr.on then powerOff s else s) fun p => { p with vin := vin, ovStop := false, thermTrip := false })
  | .rail n =>
    if !s.pwr.on ∨ n = 0 ∨ s.pwr.rails < n then .next s
    else .next (setPwrOn (powerOff s) fun p => { p with rails := n - 1 })

/-- OVERCURRENT: above 130 A for 100 µs the hot-swap controller opens and the power stage stops; no current flows then. -/
def execOvercurrent (iin : Nat) (s : State) : Out :=
  if iin ≤ 13000 ∨ !s.pwr.on then .next s
  else .next (setPwrOn (powerOff s) fun p => { p with hsOpen := true })

/-- INPUT_LOW_ENTRY: the input enters 45 V to 50 V: VIN_LOW once per entry; a measurement from 50 V on ends it. -/
def execInputLowEntry (vin : Nat) (s : State) : Out :=
  if !s.pwr.on ∨ vin < 4500 ∨ 6200 < vin then .next s
  else
    let s1 := setPwrOn s fun p => { p with vin := vin, vinLow := decide (vin < 5000) }
    .next (if vin < 5000 ∧ !s.pwr.vinLow then logSpine s1 { code := 0x0A03, data0 := bv 64 vin } else s1)

/-! ### The reset input (R437, R450) -/

/-- RESET_INPUT_RELEASE: bring-up starts; within 10 ms of PWRGD, or before it, the release waits. -/
def execResetInputRelease (s : State) : Out :=
  if !s.pwr.perst then .next s
  else if s.pwr.on ∧ s.pwr.pwrgd ∧ s.pwr.holdOver then .next (bringUp (setPwrOn s fun p => { p with perst := false }))
  else .next (setPwrOn s fun p => { p with perst := false, relPend := true })

/-- RESET_RELEASE_HOLD_END: 10 ms after PWRGD an input that is not asserted is released. -/
def execResetReleaseHoldEnd (s : State) : Out :=
  if !s.pwr.on ∨ !s.pwr.pwrgd ∨ s.pwr.holdOver then .next s
  else
    let s1 := setPwrOn s fun p => { p with holdOver := true, relPend := false }
    .next (if s.pwr.perst then s1 else bringUp s1)

/-- RESET_INPUT_ASSERT: a fundamental reset while PWRGD is asserted; none without 56 V. -/
def execResetInputAssert (s : State) : Out :=
  if !s.pwr.on ∨ s.pwr.perst then .next s
  else if !s.pwr.pwrgd then .next (setPwrOn s fun p => { p with perst := true, relPend := false })
  else .next (fundamental s)

/-! ### The budget (R452 to R454) -/

/-- L: the value written to PWR_LIMIT. -/
def pwrL (s : State) : Nat := bits (rd32 s 0x1D000) 12 0

/-- PWR_LIMIT. -/
def execPwrLimit (v : B32) (s : State) : Out :=
  if !regsOn s ∨ bits v 12 0 < 2000 ∨ 5200 < bits v 12 0 then .next s else .next (wr32 s 0x1D000 (v &&& 0x1FFF))

/-- T_b of R453 from the averages of beats b − 1 to b − 15, newest first. -/
def budgetT (l vin : Nat) (avgs : List Nat) : Nat :=
  let t := min 5600 (16 * l - (avgs.take 15).sum)
  let t1 := if l < avgs.headD 0 then min t l else t
  if vin < 5000 then min t1 (vin * 104 / 100) else t1

/-- A half's share of the target in mW, by its enabled clusters. -/
def shareOf (s : State) (t other : Nat) (h : Half) : Nat :=
  let n := halfClusters s .west + halfClusters s .east
  if n = 0 then 0 else (t - other) * 1000 * halfClusters s h / n

/-- The target of a beat: R453, or L while no beat exists; at most 1,500 W after a critical temperature (R458). -/
def budgetFor (s : State) (avgs : List Nat) : Nat :=
  let t := if s.time.locked then budgetT (pwrL s) s.pwr.vin avgs else pwrL s
  if s.err.ka ∧ s.err.kaCode = 0x0A06 then min t 1500 else t

/-- BUDGET_PERIOD: once in each beat, at position 7: `avg` the last beat's average input power, `other` what the last
beat took outside the clusters.  Lent allowance follows the new shares. -/
def execBudgetPeriod (avg other : Nat) (s : State) : Out :=
  if !s.pwr.on ∨ !s.time.run ∨ beat s < s.pwr.budNext then .next s
  else
    let p := s.pwr
    let l := pwrL s
    let avgs := (avg :: p.avgs).take 15
    let t := budgetFor s avgs
    let slow := decide (p.lowK < 16)
    let s1 := s.setPwr { p with
      budNext := beat s + 1, lim := l, tb := t, avgs := avgs, started := true, iin := if p.vin = 0 then p.iin else avg * 10000 / p.vin
      share := ⟨shareOf s t other .west, shareOf s t other .east⟩
      overBeats := if p.lim < avg then sat32 (p.overBeats + 1) else p.overBeats
      thrBeats := if slow then sat32 (p.thrBeats + 1) else p.thrBeats
      lowK := min p.k.w p.k.e, thrRun := p.thrRun && slow
      energy := p.energy + avg * beatNs }
    .next (s1.setPwr { s1.pwr with lent := ⟨lentOf s1 .west, lentOf s1 .east⟩ })

/-! ### Throttling (R455, R456) -/

/-- Clusters of a half whose primary slot works: it is bound and does not wait (R454). -/
def workers (s : State) (h : Half) : Nat :=
  (slotsWhere s fun x => !idleSlot x).countP fun c => !c.2 && clHalf s c.1 = h

/-- The pool of a half's working clusters in mW (R454). -/
def pool (s : State) (h : Half) : Nat :=
  let p := workers s h * allowance s h + s.pwr.lent.get h
  if s.pwr.started then min (s.pwr.share.get h) p else p

/-- The largest rate from 16 down to 1 at which a projection fits a pool. -/
def fitRate (proj room : Nat) : Nat :=
  ((List.range 16).find? fun i => proj * (16 - i) ≤ 16 * room).elim 1 (16 - ·)

/-- The cap on k: the thermal one, and 8 after a sensor fault (R458, R465). -/
def rateCap (s : State) (h : Half) : Nat := min (s.pwr.cap.get h) (if s.pwr.sensFault = 0 then 16 else 8)

/-- Rates set for a half; the first beat of a run with a rate below 16 is PWR_THROTTLE. -/
def setRate (s : State) (h : Half) (k : Nat) : State :=
  let s1 := setPwrOn s fun p => { p with k := p.k.set h k, lowK := min p.lowK k }
  if k < 16 ∧ !s.pwr.thrRun then
    logSpine (setPwrOn s1 fun p => { p with thrRun := true }) { code := 0x0A01, data0 := bv 64 k }
  else s1

/-- One half in a microsecond: `proj` its projected primary cluster power at the full rate, `fill` its filler's. -/
def throttle (s : State) (h : Half) (proj fill : Nat) : State :=
  let want := min (fitRate proj (pool s h)) (rateCap s h)
  let now := s.pwr.k.get h
  let k := if now < want then now + 1 else want
  let hold := decide (k < 16) || decide (pool s h < proj + fill)
  setRate (setPwrOn s fun p => { p with held := p.held.set h hold }) h k

/-- THROTTLE_TICK, once in each microsecond: filler grant first, then the rates, lowered at once and restored by one
step. -/
def execThrottleTick (projW projE fillW fillE : Nat) (s : State) : Out :=
  if !live s ∨ s.pwr.fast ∨ ns s < s.pwr.thrNext then .next s
  else
    let s1 := setPwrOn s fun p => { p with thrNext := (ns s / 1000 + 1) * 1000 }
    .next (throttle (throttle s1 .west projW fillW) .east projE fillE)

/-- FAST_LOOP_TRIP: over 5,800 W the rates are 8, lent allowances are withdrawn. -/
def execFastLoopTrip (avg : Nat) (s : State) : Out :=
  if !live s ∨ s.pwr.fast ∨ avg ≤ 5800 then .next s
  else
    let s1 := setPwrOn s fun p => { p with
      fast := true, fastCnt := sat32 (p.fastCnt + 1), held := ⟨true, true⟩, fastEnd := ns s + 100000 }
    let s2 := settleLent (settleLent s1 .west fun _ => false) .east fun _ => false
    .next (setRate (setRate (logSpine s2 { code := 0x0A02 }) .west 8) .east 8)

/-- FAST_LOOP_RELEASE: after 100 µs below 5,600 W. -/
def execFastLoopRelease (s : State) : Out :=
  if !s.pwr.fast ∨ ns s < s.pwr.fastEnd then .next s else .next (setPwrOn s fun p => { p with fast := false })

/-! ### Temperatures (R458, R459, R465) -/

/-- The hottest tile, the hottest stack and the hotter bank of a sample, as the sensors of Table 14-7 report them. -/
def tileTemp (t : Temps) : Nat := max t.tileW t.tileE
def hbmTemp (t : Temps) : Nat := max t.hbmW t.hbmE
def rsTemp (t : Temps) : Nat := max t.rsW t.rsE

/-- Sensors 1 to 4 of a sample with their critical temperatures. -/
def critSensors (t : Temps) : List (Nat × Nat × Nat) :=   [(1, tileTemp t, 105), (2, hbmTemp t, 105), (3, rsTemp t, 95), (4, t.stage, 110)]

/-- Trip temperatures of sensors 1 to 4 (Table 14-4); no other sensor has one. -/
def tripTemp : Nat → Option Nat
  | 1 => some 115 | 2 => some 115 | 3 => some 105 | 4 => some 120
  | _ => none

/-- Does a sensor's temperature reach its trip? -/
def trips (x : Trip) : Bool := match tripTemp x.sensor with
  | some t => decide (t ≤ x.temp)
  | none => false

/-- Does a sample reach a trip temperature? -/
def tripped (t : Temps) : Bool := (critSensors t).any fun x => trips ⟨x.1, x.2.1⟩

/-- THERMTRIP_N: the power stage stops, and does not start again until the input is removed (R459). -/
def tripOff (s : State) : State := setPwrOn (powerOff s) fun p => { p with thermTrip := true }

/-- Sensors 1 to 4 of a half above their warning thresholds: THERM_CTRL.TILE_WARN, and those of Table 14-4.  The power
stage warns in both halves (log entry 107). -/
def hotSensors (s : State) (h : Half) (t : Temps) : List Nat :=
  let of (w e : Nat) : Nat := match h with | .west => w | .east => e
  ([(1, of t.tileW t.tileE, bits (rd32 s 0x1D028) 7 0), (2, of t.hbmW t.hbmE, 95), (3, of t.rsW t.rsE, 85),
    (4, t.stage, 100)].filter fun x => x.2.2 < x.2.1).map (·.1)

/-- A half's samples of the millisecond, one more: is it above a threshold? -/
def noteWarm (s : State) (t : Temps) (h : Half) (p : Pwr) : Pwr :=
  if (hotSensors s h t).isEmpty then { p with cool := p.cool.set h true } else { p with warm := p.warm.set h true }

/-- Sensors that reach their critical temperature with this sample. -/
def newCrit (old new : Temps) : List Nat :=
  ((critSensors new).zip (critSensors old)).filterMap fun x =>
    if x.1.2.2 ≤ x.1.2.1 ∧ x.2.2.1 < x.2.2.2 then some x.1.1 else none

/-- THERMAL_SAMPLE: every 100 µs.  A trip temperature stops the power stage without firmware (R459). -/
def execThermalSample (t : Temps) (s : State) : Out :=
  if s.pwr.on ∧ tripped t then .next (tripOff s)
  else if !live s ∨ ns s < s.pwr.sampNext then .next s
  else
    let hot := decide (40 < t.inlet)
    let s1 := setPwrOn s fun p => noteWarm s t .west (noteWarm s t .east { p with
      temps := t, inletHot := hot, sampNext := (ns s / 100000 + 1) * 100000 })
    let s2 := if hot && !s.pwr.inletHot then logSpine s1 { code := 0x0A05 } else s1
    .next ((newCrit s.pwr.temps t).foldl (fun st n =>
      raiseSpineAll st { code := 0x0A06, sev := 3, scope := 0, data0 := bv 64 n }) s2)

/-- Was the millisecond above a warning threshold?  As all its samples say; where they differ, of which no rule speaks, as
`above` says (log entry 107); without a sample, as the temperatures held say. -/
def msAbove (s : State) (h : Half) (above : Bool) : Bool :=
  match s.pwr.warm.get h, s.pwr.cool.get h with
  | true, true => above
  | true, false => true
  | false, true => false
  | false, false => !(hotSensors s h s.pwr.temps).isEmpty

/-- The sensor that THERM_HIGH names: one that is above its threshold, `sensor` where several are. -/
def highSensor (s : State) (h : Half) (sensor : Nat) : Nat :=
  let l := hotSensors s h s.pwr.temps
  if l.contains sensor then sensor else l.headD sensor

/-- THERMAL_CAP_STEP: a millisecond above the warning lowers the half's cap by one, one below it raises it. -/
def execThermalCapStep (h : Half) (above : Bool) (sensor : Nat) (s : State) : Out :=
  if !live s ∨ ns s < s.pwr.capNext.get h then .next s
  else
    let hot := msAbove s h above
    let c := s.pwr.cap.get h
    let c1 := if hot then max 1 (c - 1) else min 16 (c + 1)
    let s1 := setPwrOn s fun p => { p with
      cap := p.cap.set h c1, thermRun := p.thermRun.set h hot, capNext := p.capNext.set h (ns s + 1000000)
      warm := p.warm.set h false, cool := p.cool.set h false }
    let s2 := if hot && !s.pwr.thermRun.get h then
        logSpine s1 { code := 0x0A04, data0 := bv 64 (highSensor s h sensor) } else s1
    .next (if c1 < s2.pwr.k.get h ∧ !s2.pwr.fast then
      setRate (setPwrOn s2 fun p => { p with held := p.held.set h true }) h c1 else s2)

/-- THERMAL_TRIP: a sensor at its trip temperature stops the power stage, and THERMTRIP_N stands until the input is
removed. -/
def execThermalTrip (x : Trip) (s : State) : Out :=
  if !s.pwr.on ∨ !trips x then .next s else .next (tripOff s)

/-- SENSOR_FAULT: a sensor of Table 14-7 fails its self-check; k is at most 8 until the next device start. -/
def execSensorFault (sensor : Nat) (s : State) : Out :=
  if !live s ∨ sensor = 0 ∨ 9 < sensor ∨ bit s.pwr.sensFault sensor then .next s
  else
    let s1 := setPwrOn s fun p => { p with sensFault := p.sensFault ||| bv 10 (2 ^ sensor), held := ⟨true, true⟩ }
    let s2 := logSpine s1 { code := 0x0A07, sev := 2, scope := 0, data0 := bv 64 sensor }
    .next (setRate (setRate s2 .west (min 8 s2.pwr.k.w)) .east (min 8 s2.pwr.k.e))

end Sys2Proof.Machine
end

