-- ==== Sys2Proof/Machine/Scalar.lean ====
section
/-!
DEFINITION. The scalar class (R125, Table 4-6): 64-bit integer arithmetic, loads and stores of the
slot's scratch, CSRs and the capability table.
-/

namespace Sys2Proof.Machine

/-- Sd takes a value of Sa and b. -/
def scalarOp (sl : Slot) (f : Fld) (s : State) (op : B64 → B64 → B64) : Out :=
  issue sl 0 f s fun t =>
    let x := getSlot t sl.cl sl.fil
    guard [(badFld (useB { rd := 64, ra := 64 } 64 f) f, cMAL, 0)]
      (.done (setSlot t sl.cl sl.fil (sset x f.rd (op (sget x f.ra) (sOperand x f)))))

/-- High 64 bits of the signed product. -/
def mulHigh (a b : B64) : B64 := ((a.signExtend 128 * b.signExtend 128) : B128).extractLsb' 64 64

def boolWord (b : Bool) : B64 := if b then 1 else 0

def execAdd (sl : Slot) (f : Fld) (s : State) : Out := scalarOp sl f s fun a b => a + b
def execSub (sl : Slot) (f : Fld) (s : State) : Out := scalarOp sl f s fun a b => a - b
def execMul (sl : Slot) (f : Fld) (s : State) : Out := scalarOp sl f s fun a b => a * b
def execMulh (sl : Slot) (f : Fld) (s : State) : Out := scalarOp sl f s mulHigh
def execAnd (sl : Slot) (f : Fld) (s : State) : Out := scalarOp sl f s fun a b => a &&& b
def execOr (sl : Slot) (f : Fld) (s : State) : Out := scalarOp sl f s fun a b => a ||| b
def execXor (sl : Slot) (f : Fld) (s : State) : Out := scalarOp sl f s fun a b => a ^^^ b
def execShl (sl : Slot) (f : Fld) (s : State) : Out := scalarOp sl f s fun a b => a <<< (b.toNat % 64)
def execShr (sl : Slot) (f : Fld) (s : State) : Out := scalarOp sl f s fun a b => a >>> (b.toNat % 64)
def execSar (sl : Slot) (f : Fld) (s : State) : Out := scalarOp sl f s fun a b => a.sshiftRight (b.toNat % 64)
def execSlt (sl : Slot) (f : Fld) (s : State) : Out := scalarOp sl f s fun a b => boolWord (a.slt b)
def execSltu (sl : Slot) (f : Fld) (s : State) : Out := scalarOp sl f s fun a b => boolWord (a.ult b)

/-- LI and LIH: Sd takes a value of itself and IMM32. -/
def loadImm (sl : Slot) (f : Fld) (s : State) (op : B64 → B32 → B64) : Out :=
  issue sl 0 f s fun t =>
    let x := getSlot t sl.cl sl.fil
    guard [(badFld { f64 := false, f128 := true, rd := 64, imm32 := true } f, cMAL, 0)]
      (.done (setSlot t sl.cl sl.fil (sset x f.rd (op (sget x f.rd) f.imm32))))

def execLi (sl : Slot) (f : Fld) (s : State) : Out := loadImm sl f s fun _ i => i.signExtend 64
def execLih (sl : Slot) (f : Fld) (s : State) : Out := loadImm sl f s fun d i => i ++ d.extractLsb' 0 32

/-- A load of `n` bytes, zero-extended. -/
def scalarLoad (n : Nat) (sl : Slot) (f : Fld) (u : Upset) (s : State) : Out :=
  issue sl 0 f s fun t0 =>
    let t := inject t0 sl.cl sl.fil u
    let x := getSlot t sl.cl sl.fil
    let a := scrAddr x f
    guard [(badFld { rd := 64, ra := 64, imm := true } f, cMAL, 0), (a % n != 0, cALIGN, a),
           (!inPart t sl.cl sl.fil a n, cTRANS, a)]
      (readStep sl a n t fun t1 bs =>
        .done (updSlot t1 sl.cl sl.fil fun y => sset y f.rd (bv 64 (leNat bs))))

/-- A store of the low `n` bytes of Sb. -/
def scalarStore (n : Nat) (sl : Slot) (f : Fld) (s : State) : Out :=
  issue sl 0 f s fun t =>
    let x := getSlot t sl.cl sl.fil
    let a := scrAddr x f
    guard [(badFld { ra := 64, rb := 64, imm := true } f, cMAL, 0), (a % n != 0, cALIGN, a),
           (!inPart t sl.cl sl.fil a n, cTRANS, a)]
      (writeStep sl a (leBytes n (sget x f.rb).toNat) t)

def execLd (sl : Slot) (f : Fld) (u : Upset) (s : State) : Out := scalarLoad 8 sl f u s
def execSt (sl : Slot) (f : Fld) (s : State) : Out := scalarStore 8 sl f s
def execLdw (sl : Slot) (f : Fld) (s : State) : Out := scalarLoad 4 sl f .none s
def execStw (sl : Slot) (f : Fld) (s : State) : Out := scalarStore 4 sl f s

/-- CSRR: Sd takes the CSR at offset IMM18; an offset not listed is a CSR fault (R119). -/
def execCsrr (sl : Slot) (f : Fld) (s : State) : Out :=
  issue sl 0 f s fun t =>
    let v := csrRead t sl.cl sl.fil f.imm18.toNat
    guard [(badFld { rd := 64, imm := true } f, cMAL, 0), (v.isNone, cCSR, 0)]
      (.done (updSlot t sl.cl sl.fil fun y => sset y f.rd (v.getD 0)))

/-- CSRW: the CSR at offset IMM18 takes Sa; read-only and unlisted ones fault (R119). -/
def execCsrw (sl : Slot) (f : Fld) (s : State) : Out :=
  issue sl 0 f s fun t =>
    let r := csrWrite t sl.cl sl.fil f.imm18.toNat (sget (getSlot t sl.cl sl.fil) f.ra)
    guard [(badFld { ra := 64, imm := true } f, cMAL, 0), (r.isNone, cCSR, 0)] (.done (r.getD t))

/-- A read of `n` bytes of the capability table: any offset, 0 outside it (R139). -/
def capRead (n : Nat) (sl : Slot) (f : Fld) (s : State) : Out :=
  issue sl 0 f s fun t =>
    let x := getSlot t sl.cl sl.fil
    let a := scrAddr x f
    let v := if a + n ≤ 4096 then capWord t a + (if n = 8 then capWord t (a + 4) * 2 ^ 32 else 0) else 0
    guard [(badFld { rd := 64, ra := 64, imm := true } f, cMAL, 0), (a % n != 0, cALIGN, a)]
      (.done (setSlot t sl.cl sl.fil (sset x f.rd (bv 64 v))))

def execCapr (sl : Slot) (f : Fld) (s : State) : Out := capRead 4 sl f s
def execCaprd (sl : Slot) (f : Fld) (s : State) : Out := capRead 8 sl f s

end Sys2Proof.Machine
end

