-- ==== Sys2Proof/Machine/Spdm.lean ====
section
/-!
DEFINITION. The SPDM responder (R403 to R406).  An answer is the SPDM response code followed by the contents that
the spec names; codes and the errors' codes are DSP0274's (log entry 18).
-/

namespace Sys2Proof.Machine

/-- An answer: on the DOE mailbox, or at the MCTP endpoint where the request came in an MCTP frame (R404, R434). -/
def doe (s : State) (bs : List Byte) : State :=
  if s.sec.spdm.mctp then
    (s.setSec { s.sec with spdm := { s.sec.spdm with mctp := false } }).setDev { s.dev with mctpAns := bs }
  else s.setDev { s.dev with doeAns := bs }
/-- The SPDM error with its code: 0x01 invalid, 0x03 busy, 0x04 unexpected, 0x05 unspecified, 0x06 decrypt error. -/
def spdmErr (s : State) (e : Byte) : State := doe s [0x7F, e]

/-- Does the responder answer at all: powered, and the boot ROMs have started? -/
def responds (s : State) : Bool := s.pwr.on && s.boot.opened

/-- Every request but GET_VERSION: Busy until IDCERT is accepted (R406), unexpected out of order. -/
def spdmReq (s : State) (ok : Spdm → Bool) (body : State) : Out :=
  if !responds s then .next s
  else if !hasImage s 6 then .next (spdmErr s 3)
  else if !ok s.sec.spdm then .next (spdmErr s 4)
  else .next body

/-- A request that needs the key vault: none of its functions works after a health failure (R390). -/
def spdmKeyed (s : State) (ok : Spdm → Bool) (body : State) : Out := spdmReq s ok (if vaultOk s then body else spdmErr s 5)

def setSpdm (s : State) (x : Spdm) : State := s.setSec { s.sec with spdm := x }

/-- A signature with the alias key under domain 0x03 over a transcript. -/
def spdmSign (s : State) (body : List Byte) : List Byte := dualSign (aliasKey s) 3 (rand256 s) body

/-- The digest of the chain of slot 0. -/
def chainDigest (s : State) : List Byte := leBytes 64 (Config.sha512 (certChain s)).toNat

/-! ### Measurements (R405) -/

/-- SEC_FUSE. -/
def secFuse (s : State) : B32 :=
  bv 32 (s.fuse.keyRev.toNat * 2 ^ 28 + s.fuse.keyPresent.toNat * 2 ^ 24 + b2n s.fuse.caPresent * 2 + b2n s.fuse.debugLocked)
/-- SVN_MIN. -/
def svnMinReg (s : State) : B64 := bv 64 (leNat (s.fuse.svn.map (bv 8 ·)))

/-- The 4 KiB capability table. -/
def capTable (s : State) : List Byte := (List.range 1024).flatMap fun i => leBytes 4 (capWord s (4 * i))

/-- The ledger public keys (R399, R400). -/
def ledgerKeys (s : State) : List Byte := (ledgerKey s).publics

/-- Contents of a measurement index, Table 12-8. -/
def measure (s : State) (i : Nat) : List Byte :=
  if i = 1 then leBytes 64 Config.romDigest.toNat
  else if 2 ≤ i ∧ i ≤ 7 then leBytes 64 (Tab.get (fun _ => (0 : B512)) s.boot.mr (i - 1)).toNat
  else if i = 8 then leBytes 4 (secFuse s).toNat ++ leBytes 8 (svnMinReg s).toNat ++ leBytes 4 s.fuse.grade
  else if i = 9 then leBytes 64 (Config.sha512 (capTable s)).toNat
  else if i = 10 then ledgerKeys s
  else leBytes 64 s.boot.mrFw.toNat

/-- DMTFSpecMeasurementValueType: 0 ROM, 1 firmware, 2 hardware and 3 firmware configuration; bit [7] raw (log entry 18). -/
def measureType (i : Nat) : Byte := if i = 1 then 0 else if i = 8 then 0x82 else if i = 9 then 2 else if i = 10 then 0x83 else 1

/-- A measurement block in the DMTF format: index, specification 1 (DMTF), size, type, size of the value, value. -/
def measureBlock (s : State) (i : Nat) : List Byte :=
  let v := measure s i
  leBytes 1 i ++ [1] ++ leBytes 2 (v.length + 3) ++ [measureType i] ++ leBytes 2 v.length ++ v

/-- The measurement blocks that a request selects: one index, or all with 0xFF. -/
def measures (s : State) (index : Nat) : List Byte :=
  (if index = 0xFF then (List.range 11).map (· + 1) else [index]).flatMap (measureBlock s)

/-! ### Requests: each enters the transcript that a later signature covers, with its answer (log entry 18) -/

/-- GET_VERSION: versions 1.2 and 1.3; the exchange and its transcripts begin anew. -/
def execGetVersion (s : State) : Out :=
  let r : List Byte := [0x04, 2, 0x12, 0x13]
  if !responds s then .next s
  else .next (doe (setSpdm s { s.sec.spdm with
    ver := true, caps := false, alg := false, kex := false, vca := 0x84 :: r, certs := [], meas := [] }) r)

/-- GET_CAPABILITIES in version 1.2 or 1.3. -/
def execGetCapabilities (version : Byte) (s : State) : Out :=
  let x := s.sec.spdm
  spdmReq s (·.ver) (
    if version = 0x12 ∨ version = 0x13 then
      doe (setSpdm s { x with caps := true, vca := x.vca ++ [0xE1, version, 0x61, version] }) [0x61, version]
    else spdmErr s 0x41)

/-- NEGOTIATE_ALGORITHMS: only the hybrid as an extended algorithm, and SHA-512; for sessions DHE secp384r1 and AES-256-GCM
(Table 12-7). -/
def execNegotiateAlgorithms (algs : Algs) (hash512 : Bool) (s : State) : Out :=
  let x := s.sec.spdm
  let ok := algs.asymExt && hash512
  let sel : List Byte := [bv 8 (b2n algs.dhe384), bv 8 (b2n algs.aead256)]
  spdmReq s (·.caps) (
    if ok then
      doe (setSpdm s { x with alg := true, kex := algs.dhe384 && algs.aead256, vca := x.vca ++ 0xE3 :: sel ++ 0x63 :: sel })
        (0x63 :: sel)
    else spdmErr s 1)

/-- GET_DIGESTS: the digest of the chain of slot 0. -/
def execGetDigests (s : State) : Out :=
  let x := s.sec.spdm
  let r : List Byte := [0x01, 1] ++ chainDigest s
  spdmKeyed s (·.alg) (doe (setSpdm s { x with certs := x.certs ++ 0x81 :: r }) r)

/-- GET_CERTIFICATE: a portion of the chain of slot 0. -/
def execGetCertificate (sel : Byte) (off len : Nat) (s : State) : Out :=
  let x := s.sec.spdm
  let r : List Byte := [0x02, 0] ++ slice (certChain s) off len
  spdmKeyed s (·.alg) (
    if sel = 0 then doe (setSpdm s { x with certs := x.certs ++ [0x82, sel] ++ leBytes 4 off ++ leBytes 4 len ++ r }) r
    else spdmErr s 1)

/-- CHALLENGE on slot 0: the alias key signs the transcript of versions, algorithms, certificates and the challenge. -/
def execChallenge (sel : Byte) (nonce : BitVec 256) (s : State) : Out :=
  let x := s.sec.spdm
  let r : List Byte := [0x03, 0] ++ chainDigest s ++ leBytes 32 (rand256 s).toNat
  spdmKeyed s (·.alg) (
    let t := hedged s
    if sel = 0 then
      doe (setSpdm (hedged t) { x with certs := [] }) (r ++ spdmSign t (x.vca ++ x.certs ++ [0x83, sel] ++ leBytes 32 nonce.toNat ++ r))
    else spdmErr s 1)

/-- GET_MEASUREMENTS: how many there are, an index of Table 12-8, or all; signed, the attestation report, over every
measurement request and answer since the last signature and the requester's nonce. -/
def execGetMeasurements (index : Byte) (signed : Bool) (nonce : BitVec 256) (s : State) : Out :=
  let x := s.sec.spdm
  let i := index.toNat
  let q : List Byte := [0xE0, bv 8 (b2n signed), index] ++ if signed then leBytes 32 nonce.toNat else []
  let m : List Byte := if i = 0 then [0x60, 11] else [0x60, 0] ++ measures s i
  spdmKeyed s (·.alg) (
    if 11 < i ∧ i ≠ 0xFF then spdmErr s 1
    else if signed then
      let t := hedged s
      let r := m ++ leBytes 32 (rand256 s).toNat
      doe (setSpdm (hedged t) { x with meas := [] }) (r ++ spdmSign t (x.vca ++ x.meas ++ q ++ r))
    else doe (setSpdm s { x with meas := x.meas ++ q ++ m }) m)

/-- A private key on secp384r1 from two requests to the DRBG. -/
def rand384 (s : State) : BitVec 384 := rand256 s ++ (rand256 (hedged s)).extractLsb' 0 128

/-- KEY_EXCHANGE on secp384r1: the device's share, its random bytes, the signature over the transcript so far and the
responder's HMAC; the handshake secret is formed and a session begins. -/
def execKeyExchange (dhe : Kex) (s : State) : Out :=
  let x := s.sec.spdm
  spdmKeyed s (fun x => x.alg && x.kex) (
    match Config.p384Shared (rand384 s) dhe.share with
    | none => spdmErr s 1
    | some ss =>
      let t := hedged (hedged s)
      let r : List Byte := [0x64] ++ leBytes 96 (Config.p384Public (rand384 s)).toNat ++ leBytes 32 (rand256 t).toNat
      let th := x.vca ++ chainDigest s ++ 0xE4 :: leBytes 96 dhe.share.toNat ++ leBytes 32 dhe.random.toNat ++ r
      let sig := spdmSign (hedged t) th
      let k := Config.spdmSecret ss (th ++ sig)
      doe (setSpdm (hedged (hedged t)) { x with sess := true, secured := false, keyGen := 0, th := th ++ sig, secret := k, keys := 0 })
        (r ++ sig ++ leBytes 64 (Config.spdmMac k (th ++ sig)).toNat))

/-- A session's secrets erased. -/
def Spdm.closed (x : Spdm) : Spdm := { x with sess := false, secured := false, th := [], secret := 0, keys := 0 }

/-- The HMAC that FINISH must carry. -/
def finishMac (x : Spdm) : B512 := Config.spdmMac x.secret (x.th ++ [0xE5])

/-- FINISH: the session is secured when its HMAC verifies, and its data keys are formed. -/
def execFinish (hmac : B512) (s : State) : Out :=
  let x := s.sec.spdm
  spdmKeyed s (fun x => x.sess && !x.secured) (
    if hmac = finishMac x then
      doe (setSpdm s { x with secured := true, keys := Config.spdmKeys x.secret (x.th ++ [0xE5] ++ leBytes 64 hmac.toNat) }) [0x65]
    else spdmErr (setSpdm s x.closed) 6)

/-- END_SESSION: the keys are erased. -/
def execEndSession (s : State) : Out := spdmReq s (·.secured) (doe (setSpdm s s.sec.spdm.closed) [0x6C])

/-- HEARTBEAT of a session. -/
def execSpdmHeartbeat (s : State) : Out := spdmReq s (·.secured) (doe s [0x68])

/-- KEY_UPDATE: the session's keys move on. -/
def execKeyUpdate (s : State) : Out :=
  let x := s.sec.spdm
  spdmKeyed s (·.secured) (doe (setSpdm s { x with keyGen := x.keyGen + 1, keys := Config.spdmUpdate x.keys }) [0x69])

/-- IDE_KEY_PROGRAM: a message of a secured session programs the IDE keys; IDE is active in containment mode. -/
def execIdeKeyProgram (s : State) : Out :=
  spdmReq s (·.secured) (if s.dev.linkUp then s.setDev { s.dev with ide := true } else s)

end Sys2Proof.Machine
end

