-- ==== Sys2Proof/Machine/View.lean ====
section
/-!
DEFINITION. What reads of BAR0 return (R429 to R431 and the register tables of every block): the words that the
device computes from its state; every other register reads the word it holds.
-/

namespace Sys2Proof.Machine

/-- Low and high word of a 64-bit value. -/
def lo32 (n : Nat) : Nat := n % 2 ^ 32
def hi32 (n : Nat) : Nat := n / 2 ^ 32 % 2 ^ 32

/-- A status register: BUSY in [31], RESULT in [7:0]. -/
def statWord (s : State) (b : Blk) : Nat := b2n (getBlk s b).busy * 2 ^ 31 + (getBlk s b).result

/-! ### The device block (Table 13-4) -/

/-- MODE. -/
def modeNo (s : State) : Nat := if s.err.ka then 2 else if s.boot.done then 1 else 0

def devState (s : State) : Nat :=
  modeNo s * 2 ^ 28 + if s.dev.linkUp then s.dev.rate.toNat * 2 ^ 26 + s.dev.width.toNat * 2 ^ 24 else 0

/-- A record as its 64 bytes (Table 11-8). -/
def recImage (x : Rec) : List Byte :=
  let c := x.sev * 2 ^ 30 + x.scope * 2 ^ 27 + b2n x.handled * 2 ^ 26 + b2n x.preempted * 2 ^ 25 + b2n x.unhandled * 2 ^ 24 +
    halfNo x.half * 2 ^ 23 + x.code
  leBytes 4 x.seq ++ leBytes 4 c ++ leBytes 8 x.time ++ leBytes 8 x.step.toNat ++ leBytes 8 x.who.toNat ++
  leBytes 4 x.job.toNat ++ leBytes 4 x.dev.toNat ++ leBytes 8 x.addr.toNat ++ leBytes 8 x.data0.toNat ++ leBytes 8 x.data1.toNat

def word (bs : List Byte) (o : Nat) : Nat := leNat (slice bs o 4)

def devWord (s : State) (o : Nat) : Nat :=
  if 0x40 ≤ o ∧ o < 0x80 then match s.dev.rstPrev with
    | some x => word (recImage x) (o - 0x40)
    | none => 0
  else match o with
  | 0x00 => 0x00010000
  | 0x04 => devState s
  | 0x08 => lo32 s.dev.rdy.toNat
  | 0x0C => hi32 s.dev.rdy.toNat
  | 0x10 => s.dev.rdyChg
  | 0x14 => s.dev.stale
  | 0x18 => s.dev.bar2Sel
  | 0x20 => s.dev.rstStat.toNat
  | 0x24 => s.dev.rstCount
  | 0x28 => s.dev.irqStat.toNat
  | 0x2C => s.dev.irqEn.toNat
  | 0x30 => lo32 s.fuse.serial.toNat
  | 0x34 => hi32 s.fuse.serial.toNat
  | 0x38 => lo32 hdmSize
  | 0x3C => hi32 hdmSize
  | 0x84 => s.dev.hostToCnt
  | _ => (rd32 s o).toNat

/-! ### Memory, context, queue, ledger -/

/-- Frames of a half in SCRUB: those the scrub after a reset has not reached, listed ones, and those of a released
journal region that are still to be scrubbed (R163, R164). -/
def scrubPend (s : State) (h : Half) : Nat :=
  (halfFrames - s.frm.scrub.get h) +
    (s.frm.tab.filter fun e => frameHalf e.1 = h && decide (e.1 % halfFrames < s.frm.scrub.get h) &&
      frmKind s e.1 = .scrub).length +
    spanSize ((rsListed s h).foldl spanDel (s.frm.jscr.get h))

/-- Oldest retained and newest open step of the primary job. -/
def jrnOldest (s : State) : Nat :=
  (sortOn id ((s.jrn.entries.filter fun e => !e.fil && e.st = .checked).map (·.step))).headD 0
def jrnNewest (s : State) : Nat :=
  ((s.jrn.entries.filter fun e => !e.fil && (e.st = .open_ || e.st = .undo || e.st = .voted)).map (·.step)).foldl max 0

def memWord (s : State) (o : Nat) : Nat :=
  match o with
  | 0x18 => statWord s .memory
  | 0x1C => 0x43B74000
  | 0x20 => scrubPend s .west
  | 0x24 => scrubPend s .east
  | 0x2C => s.frm.pass
  | 0x30 => s.frm.eccCe
  | 0x34 => s.frm.eccUe
  | 0x38 => b2n s.jrn.en
  | 0x3C => s.jrn.maxDepth
  | 0x40 => b2n s.upd.jobF.isSome * 2 ^ 9 + b2n s.upd.jobP.isSome * 2 ^ 8 + s.jrn.depthF * 2 ^ 4 + s.jrn.depthP
  | 0x48 => (jobE s false).w
  | 0x4C => (jobE s false).e
  | 0x50 => regionFrames s .west
  | 0x54 => regionFrames s .east
  | 0x58 => lo32 (jrnOldest s)
  | 0x5C => hi32 (jrnOldest s)
  | 0x60 => lo32 (jrnNewest s)
  | 0x64 => hi32 (jrnNewest s)
  | _ => (rd32 s (0x10000 + o)).toNat

def ctxWord (s : State) (o : Nat) : Nat :=
  match o with
  | 0x48 => statWord s .context
  | 0x50 => lo32 s.que.fillSusp
  | 0x54 => hi32 s.que.fillSusp
  | _ => (rd32 s (0x11000 + o)).toNat

def queWord (s : State) (o : Nat) : Nat :=
  match o with
  | 0x28 => statWord s .queue
  | 0x2C => s.que.dbBad
  | 0x30 => (s.que.tab.filter fun e => e.2.st = .halted).length
  | _ => (rd32 s (0x12000 + o)).toNat

def ledWord (s : State) (o : Nat) : Nat :=
  match o with
  | 0x00 => s.led.intNext
  | 0x04 => s.led.slots
  | 0x08 => lo32 s.led.base
  | 0x0C => hi32 s.led.base
  | 0x10 => s.led.head.toNat
  | 0x14 => s.led.tail.toNat
  | 0x18 => b2n s.led.extending * 2 ^ 31
  | 0x20 => lo32 s.led.seq
  | 0x24 => hi32 s.led.seq
  | 0x28 => lo32 s.led.boot.toNat
  | 0x2C => hi32 s.led.boot.toNat
  | _ => 0

/-! ### Sync, update, collective -/

def syncWord (s : State) (o : Nat) : Nat :=
  match o with
  | 0x18 => statWord s .sync + (getBlk s .sync).count * 2 ^ 8
  | 0x1C => (getBlk s .sync).handle.toNat
  | 0x68 => s.syn.foreign
  | 0x6C => s.syn.wdCnt
  | 0x70 => (s.clu.filter fun e => e.2.lending).length
  | _ => (rd32 s (0x14000 + o)).toNat

/-- VALID, HALTED and the job of UPD_JOBP and UPD_JOBF. -/
def jobHigh (j : Option JobReg) : Nat := j.elim 0 fun x => 2 ^ 31 + b2n x.halted * 2 ^ 30
def jobLow (j : Option JobReg) : Nat := j.elim 0 fun x => x.job.toNat

def updWord (s : State) (o : Nat) : Nat :=
  let n (h : Half) : Nat := (s.upd.shards.filter fun x => x.half = h).length
  match o with
  | 0x10 => statWord s .update
  | 0x14 => n .east * 2 ^ 16 + n .west
  | 0x18 => jobLow s.upd.jobP
  | 0x1C => jobHigh s.upd.jobP
  | 0x20 => jobLow s.upd.jobF
  | 0x24 => jobHigh s.upd.jobF
  | 0x28 => s.upd.ovf
  | _ => (rd32 s (0x15000 + o)).toNat

def collWord (s : State) (o : Nat) : Nat :=
  let n (t : CSt) : Nat := (s.col.colls.filter fun x => x.st = t).length
  match o with
  | 0x48 => statWord s .collective
  | 0x4C => (getBlk s .collective).handle.toNat
  | 0x54 => n .queued * 2 ^ 10 + n .running
  | 0x58 => s.col.cancel
  | 0x5C => s.col.foreign
  | 0x60 => s.col.digMis
  | 0x64 => s.col.reruns
  | _ => (rd32 s (0x16000 + o)).toNat

/-! ### Fabric -/

def timeStat (s : State) : Nat :=
  b2n s.time.locked * 2 ^ 31 + b2n s.time.holdover * 2 ^ 30 + s.time.upPort * 2 ^ 24 + s.time.hops * 2 ^ 16 +
    min 0xFFFF ((s.time.unc2 + 1) / 2)

def portWord (s : State) (p o : Nat) : Nat :=
  let x := getPort s p
  match o with
  | 0x00 => x.ctrl.toNat
  | 0x04 => x.st * 2 ^ 28 + ((List.range 8).filter fun i => bit x.light i).length * 2 ^ 16
  | 0x08 => x.rtt
  | 0x10 => x.crcErr
  | 0x14 => x.fecUnc
  | 0x18 => x.replay
  | 0x1C => x.retrains
  | _ => (rd32 s (0x17100 + 0x20 * p + o)).toNat

def sxCtrl (s : State) : Nat := b2n s.sx.en * 2 ^ 31 + s.sx.dataWait * 2 ^ 16 + s.sx.decWait

def fabWord (s : State) (o : Nat) : Nat :=
  if 0x100 ≤ o ∧ o < 0x200 then portWord s ((o - 0x100) / 0x20) (o % 0x20)
  else match o with
  | 0x00 => s.fab.id.toNat
  | 0x04 => s.fab.latPend.elim s.fab.lat (·.1)
  | 0x18 => statWord s .fabric + (getBlk s .fabric).count * 2 ^ 8
  | 0x1C => b2n s.fab.encAllNext * 2 ^ 8 + s.fab.encNext
  | 0x24 => timeStat s
  | 0x30 => lo32 (ns s)
  | 0x34 => hi32 (ns s)
  | 0x38 => (s.fab.watch.filter fun w => w.absent).length
  | 0x3C => sxCtrl s
  | 0x44 => b2n s.sx.part * 2 ^ 31 + b2n s.sx.rejoin * 2 ^ 30 + s.sx.proposer * 2 ^ 24
  | 0x48 => lo32 s.sx.round
  | 0x4C => hi32 s.sx.round
  | 0x50 => lo32 s.sx.lineage.toNat
  | 0x54 => hi32 s.sx.lineage.toNat
  | 0x58 => lo32 s.sx.caLin.toNat
  | 0x5C => hi32 s.sx.caLin.toNat
  | 0x68 => s.fab.noRoute
  | 0x6C => s.fab.expired
  | 0x70 => s.fab.msgBad
  | 0x74 => s.fab.gcmFail
  | 0x78 => s.fab.epochDrop
  | 0x7C => s.fab.skew
  | 0x80 => s.sx.h
  | _ => (rd32 s (0x17000 + o)).toNat

/-! ### Resilience -/

def PairSt.code : PairSt → Nat
  | .off => 0 | .pairing => 1 | .up => 2 | .checking => 3 | .down => 4 | .lost => 5

/-- High word of MIR_PAIRP and MIR_PAIRF. -/
def pairHigh (p : Pair) : Nat := p.st.code * 2 ^ 28 + p.partner

/-- KA_STAT. -/
def kaStat (s : State) : Nat := b2n s.err.ka * 2 ^ 31 + b2n s.err.frozen * 2 ^ 30 + s.err.kaCode

/-- High word of LEAD_STAT: HOLDER, FORCED and the halves' reach. -/
def leadHigh (s : State) : Nat :=
  s.lead.holder.elim 0 (fun h => halfNo h + 1) * 2 ^ 30 + b2n s.lead.forced * 2 ^ 29 +
    b2n (s.boot.sage.w && s.lead.half.w.reach) * 2 ^ 28 + b2n (s.boot.sage.e && s.lead.half.e.reach) * 2 ^ 27

/-- ERR_W_HAND and ERR_E_HAND. -/
def handWord (r : Ring) : Nat :=
  match r.hand with
  | c :: _ => 2 ^ 31 + c.sev * 2 ^ 29 + r.wait.length + (r.hand.length - 1)
  | [] => 0

/-- A slot of a half's ring. -/
def ringImage (s : State) (h : Half) (i : Nat) : List Byte :=
  recImage (Tab.get (fun _ => {}) (s.err.ring.get h).slots i)

def resWord (s : State) (o : Nat) : Nat :=
  let w := s.err.ring.w
  let e := s.err.ring.e
  if 0x400 ≤ o ∧ o < 0x1400 then word (ringImage s .west ((o - 0x400) / 64)) (o % 64)
  else if 0x1400 ≤ o ∧ o < 0x2400 then word (ringImage s .east ((o - 0x1400) / 64)) (o % 64)
  else match o with
  | 0x18 => statWord s .resilience
  | 0x1C => s.mir.div
  | 0x20 => s.mir.p.step % 2 ^ 32
  | 0x24 => pairHigh s.mir.p
  | 0x28 => s.mir.f.step % 2 ^ 32
  | 0x2C => pairHigh s.mir.f
  | 0x30 => b2n s.mir.promo.isSome * 2 ^ 31 + s.mir.promoBlocks % 2 ^ 31
  | 0x38 => kaStat s
  | 0x40 => w.head.toNat
  | 0x44 => w.tail.toNat
  | 0x48 => w.ovf
  | 0x4C => handWord w
  | 0x50 => e.head.toNat
  | 0x54 => e.tail.toNat
  | 0x58 => e.ovf
  | 0x5C => handWord e
  | 0x60 => s.lead.epoch.toNat
  | 0x64 => leadHigh s
  | 0x68 => lo32 s.lead.expiry
  | 0x6C => hi32 s.lead.expiry
  | _ => (rd32 s (0x18000 + o)).toNat

/-! ### Security, power, MSI-X -/

def bootStat (s : State) : Nat :=
  b2n s.boot.busy * 2 ^ 31 + b2n s.boot.split * 2 ^ 30 + b2n s.boot.fuseSplit * 2 ^ 29 + b2n s.boot.done * 2 ^ 28 +
    s.boot.next * 2 ^ 16 + s.boot.result

def chvStat (x : ChvU) : Nat :=
  b2n x.busy * 2 ^ 31 + b2n x.done * 2 ^ 30 + b2n x.mismatch * 2 ^ 29 + b2n x.rept * 2 ^ 28 + b2n x.skip * 2 ^ 27 +
    b2n x.first * 2 ^ 26 + x.gap.toNat * 2 ^ 16 + x.last.toNat * 2 ^ 8 + x.res.toNat

def chvWord (s : State) (u o : Nat) : Nat :=
  let x := getChv s u
  match o with
  | 0x28 => lo32 x.result.toNat
  | 0x2C => hi32 x.result.toNat
  | 0x34 => chvStat x
  | _ => (rd32 s (0x1C400 + 0x40 * u + o)).toNat

def secWord (s : State) (o : Nat) : Nat :=
  if 0x400 ≤ o ∧ o < 0xC00 then chvWord s ((o - 0x400) / 0x40) (o % 0x40)
  else if 0x20 ≤ o ∧ o < 0x60 then word (leBytes 64 s.boot.mrFw.toNat) (o - 0x20)
  else if 0x80 ≤ o ∧ o < 0xA0 then 0
  else match o with
  | 0x04 => bootStat s
  | 0x14 => (secFuse s).toNat
  | 0x18 => lo32 (svnMinReg s).toNat
  | 0x1C => hi32 (svnMinReg s).toNat
  | 0x60 => b2n s.sec.rngOk.w * 2 ^ 31 + b2n s.sec.rngOk.e * 2 ^ 30
  | 0x68 => s.sec.sess.length % 2 ^ 12
  | 0x6C => s.sec.fails
  | 0x74 => statWord s .hkey
  | 0xAC => s.sec.cqWr.toNat
  | 0xB0 => s.sec.cqRd.toNat
  | 0xB4 => s.sec.untrusted
  | _ => (rd32 s (0x1C000 + o)).toNat

/-- PWR_STAT: 0 until the power manager has set a target. -/
def pwrStat (s : State) : Nat :=
  let p := s.pwr
  if !p.started then 0
  else b2n p.fast * 2 ^ 31 + b2n (p.held.w || p.held.e) * 2 ^ 30 + b2n (p.cap.w < 16 || p.cap.e < 16) * 2 ^ 29 +
    b2n p.vinLow * 2 ^ 28 + (p.k.w - 1) * 2 ^ 24 + (p.k.e - 1) * 2 ^ 20 + p.tb

def pwrWord (s : State) (o : Nat) : Nat :=
  let p := s.pwr
  match o with
  | 0x04 => pwrStat s
  | 0x08 => p.avgs.headD 0
  | 0x0C => p.vin
  | 0x10 => p.iin
  | 0x14 => p.thrBeats
  | 0x18 => p.fastCnt
  | 0x1C => p.overBeats
  | 0x20 => tileTemp p.temps * 2 ^ 24 + hbmTemp p.temps * 2 ^ 16 + rsTemp p.temps * 2 ^ 8 + p.temps.stage
  | 0x24 => p.temps.outlet * 2 ^ 8 + p.temps.inlet
  | 0x2C => p.sensFault.toNat
  | 0x30 => lo32 (p.energy / 1000000000)
  | 0x34 => hi32 (p.energy / 1000000000)
  | _ => (rd32 s (0x1D000 + o)).toNat

/-- The word that a 32-bit read of BAR0 returns once the blocks decode (Table 13-3). -/
def bar0Word (s : State) (o : Nat) : B32 := bv 32 (
  if o < 0x1000 then devWord s o
  else if o < 0x2000 then capWord s (o - 0x1000)
  else if 0x10000 ≤ o ∧ o < 0x11000 then memWord s (o - 0x10000)
  else if 0x11000 ≤ o ∧ o < 0x12000 then ctxWord s (o - 0x11000)
  else if 0x12000 ≤ o ∧ o < 0x13000 then queWord s (o - 0x12000)
  else if 0x13000 ≤ o ∧ o < 0x14000 then ledWord s (o - 0x13000)
  else if 0x14000 ≤ o ∧ o < 0x15000 then syncWord s (o - 0x14000)
  else if 0x15000 ≤ o ∧ o < 0x16000 then updWord s (o - 0x15000)
  else if 0x16000 ≤ o ∧ o < 0x17000 then collWord s (o - 0x16000)
  else if 0x17000 ≤ o ∧ o < 0x18000 then fabWord s (o - 0x17000)
  else if 0x18000 ≤ o ∧ o < 0x1C000 then resWord s (o - 0x18000)
  else if 0x1C000 ≤ o ∧ o < 0x1D000 then secWord s (o - 0x1C000)
  else if 0x1D000 ≤ o ∧ o < 0x1E000 then pwrWord s (o - 0x1D000)
  else if 0x30000 ≤ o ∧ o < 0x30100 then (rd32 s o).toNat
  else if o = 0x31000 then
    ((List.range 16).filter fun n => bit s.dev.irqStat n && bit s.dev.irqEn n && vecMasked s n).foldl (fun a n => a + 2 ^ n) 0
  else 0)

/-- A read of BAR0 (R430): aligned, of 4 or 8 bytes; another size returns all ones. -/
def bar0Read (s : State) (o size : Nat) : Nat :=
  if (size ≠ 4 ∧ size ≠ 8) ∨ o % size ≠ 0 then 2 ^ (8 * size) - 1
  else if !regsOn s ∧ !(s.boot.opened ∧ 0x1C000 ≤ o ∧ o + size ≤ 0x1C014) then 0
  else (bar0Word s o).toNat + if size = 8 then (bar0Word s (o + 4)).toNat * 2 ^ 32 else 0

/-- A range of HDM offsets as physical ranges: West before East (R426). -/
def hdmPieces (off n : Nat) : List (Nat × Nat) :=
  let k := 0xBA00000000 - off
  if off < 0xBA00000000 ∧ k < n then [(off, k), (eastHbm, n - k)] else [(hdmPa off, n)]

/-- What a host read of HBM at an HDM offset returns; no data of a poisoned line (R160, R426). -/
def hdmRead (s : State) (off n : Nat) : Option (List Byte) :=
  let ps := hdmPieces off n
  if ps.any fun p => (linesOf p.1 p.2).any (lineBad s) then none else some (ps.flatMap fun p => readMem s p.1 p.2)

/-- What a read of BAR4 returns (R191). -/
def bar4Read (_off _len : Nat) : Nat := 0

/-! ### Configuration space and pins -/

/-- The capabilities of the function (R422). -/
inductive Cap where
  | cxlDevice | flexBusPort | registerLocator | doe
deriving DecidableEq, Repr

/-- A BAR of Table 13-2: number, bytes, prefetchable; each is 64-bit.  Where they lie is the host's. -/
structure Bar where
  bar : Nat
  bytes : Nat
  prefetch : Bool
deriving DecidableEq, Repr

/-- The protocols of the DOE mailbox (Table 13-1). -/
inductive DoeProto where
  | discovery | spdm
deriving DecidableEq, Repr

/-- What configuration space reports (R422, R427). -/
structure CfgSpace where
  vendor : B16
  device : B16
  classCode : BitVec 24
  subsystem : B16
  caps : List Cap
  bars : List Bar
  doe : List DoeProto
deriving DecidableEq, Repr

/-- The function's configuration space; the vendor ID, which the spec does not state, is a constant of Config (log entry
104). -/
def configSpace (s : State) : CfgSpace :=
  { vendor := Config.vendorId, device := 0x9512, classCode := 0x120000
    subsystem := if s.fuse.grade = 512 then 0x9512 else if s.fuse.grade = 480 then 0x9480 else 0x9448
    caps := [.cxlDevice, .flexBusPort, .registerLocator, .doe]
    bars := [⟨0, 2 ^ 18, false⟩, ⟨2, 2 ^ 36, true⟩, ⟨4, 2 ^ 24, false⟩], doe := [.discovery, .spdm] }

/-- SMB_ALERT_N asserted: an enabled, unserved source of vector 0, 1 or 6 (Table 14-5). -/
def smbAlert (s : State) : Bool := [0, 1, 6].any fun n => bit s.dev.irqStat n && bit s.dev.irqEn n

end Sys2Proof.Machine
end

