-- ==== Sys2Proof/Machine/HostIf.lean ====
section
/-!
DEFINITION. The host interface: resets that the host asks for (R441, R443), the CXL link (R424, R425, R433), host
accesses of memory (R426, R428), interrupts (R432), the management sideband (R434, R435, R464) and writes of registers
that have no row of their own (R429 to R431).
-/

namespace Sys2Proof.Machine

def setDevOn (s : State) (f : Dev → Dev) : State := s.setDev (f s.dev)

/-! ### Resets (R441, R443) -/

/-- RST_CMD: KEY 0x5253 and KIND 1. -/
def execRstCmd (v : B32) (s : State) : Out :=
  if !regsOn s ∨ bits v 31 16 ≠ 0x5253 ∨ bits v 3 0 ≠ 1 then .next s else .next (deviceReset s 1)

/-- CXL_RESET. -/
def execCxlReset (s : State) : Out :=
  if !started s ∨ !s.dev.linkUp then .next s else .next (deviceReset s 2)

/-- FLR. -/
def execFlr (s : State) : Out := if !started s ∨ !s.dev.linkUp then .next s else .next (flrStart s 3)

/-- HOT_RESET: as an FLR. -/
def execHotReset (s : State) : Out := if !started s ∨ !s.dev.linkUp then .next s else .next (flrStart s 4)

/-! ### The CXL link -/

/-- The rates and widths at which the link comes up: 64 or 128 GT/s, x8 or x16. -/
def linkFits (rate width : BitVec 2) : Bool := (rate == 1 || rate == 2) && (width == 1 || width == 2)

/-- The link is up: below x16 at 128 GT/s it is CXL_DEGRADED, raised once the rings run (R420, R424). -/
def linkUpAt (s : State) (rate width : BitVec 2) : State :=
  let s1 := setDevOn s fun d => { d with linkUp := true, rate := rate, width := width }
  if rate = 2 ∧ width = 2 then s1
  else if !s.boot.sage.w && !s.boot.sage.e then setDevOn s1 fun d => { d with degraded := true }
  else logSpine s1 { code := 0x0C01, data0 := bv 64 (rate.toNat * 4 + width.toNat) }

/-- CXL_LINK_TRAIN: the first training after the reset input is released. -/
def execCxlLinkTrain (rate width : BitVec 2) (s : State) : Out :=
  if !s.pwr.on ∨ s.pwr.perst ∨ s.dev.linkUp ∨ s.dev.rate ≠ 0 ∨ !linkFits rate width then .next s
  else .next (linkUpAt s rate width)

/-- CXL_LINK_LOSS: the device runs on; IDE ends. -/
def execCxlLinkLoss (s : State) : Out :=
  if !s.dev.linkUp then .next s
  else
    let s1 := setDevOn s fun d => { d with linkUp := false, ide := false, rstStat := rstWord 5 0 s }
    .next (logSpine s1 { code := 0x0C02 })

/-- CXL_LINK_RETURN: configuration space, MSI-X, IRQ_EN and BAR2_SEL as after a hot reset. -/
def execCxlLinkReturn (rate width : BitVec 2) (s : State) : Out :=
  if !s.pwr.on ∨ s.pwr.perst ∨ s.dev.linkUp ∨ s.dev.rate = 0 ∨ !linkFits rate width then .next s
  else
    let s1 := resetConfig s
    .next (linkUpAt (setDevOn s1 fun d => { d with ide := false }) rate width)

/-- A block by its number (Table 13-5's order, then the host keys'). -/
def blkOf : Nat → Option Blk
  | 0 => some .memory | 1 => some .context | 2 => some .queue | 3 => some .sync | 4 => some .update
  | 5 => some .collective | 6 => some .fabric | 7 => some .resilience | _ => none

/-- Does a waiting command belong to block `b`, as one that reads or writes host memory? -/
def hostHeld (b : Blk) : Instr → Bool
  | .readWaiters _ => b == .sync
  | .loadRoutes _ | .loadSites _ | .loadWatch _ | .loadEnc _ => b == .fabric
  | .promote _ => b == .resilience
  | _ => false

/-- HOST_TIMEOUT with the address, and its count. -/
def hostTimeout (s : State) (pa : Nat) : State :=
  logSpine (setDevOn s fun d => { d with hostToCnt := sat32 (d.hostToCnt + 1) })
    { code := 0x0C03, sev := 2, scope := 0, addr := bv 64 pa }

/-- Has a request that was sent at `t` passed HOST_TO (in ms)? -/
def pastHostTo (s : State) (t : Nat) : Bool := decide (t + bits (rd32 s 0x80) 15 0 * 1000000 ≤ ns s)

/-- An export `n` whose write of host memory timed out faults with ENGINE. -/
def expTimedOut (pa n : Nat) (s : State) : State :=
  match findUCmd s n with
  | none => s
  | some c =>
    if c.kind ≠ .exp ∨ !(c.since.any (pastHostTo s)) ∨ !hostVa s c.ctx c.arg 4096 .write then s
    else updEngine (dropUCmd (hostTimeout s pa) n) c c.arg

/-- What a request for address `pa` that timed out leaves: a register block's command reports 0x03, a transfer faults
with ENGINE, a snapshot's write is tried again while the open interval extends. -/
def timedOut (pa : Nat) (blk dmaN : Option Nat) (s : State) : State :=
  if blk = some 4 ∧ dmaN.isSome then expTimedOut pa (dmaN.getD 0) s else
  match blk.bind blkOf, dmaN.bind fun n => s.dma.xfers.find? fun v => v.n == n with
  | some b, _ =>
    if s.link.any fun x => hostHeld b x.c && pastHostTo s x.since then
      finish b 3 ((hostTimeout s pa).setLink (s.link.filter fun x => !hostHeld b x.c))
    else s
  | none, some v =>
    let d := parseDma v.desc
    let t := hostTimeout s pa
    if !pastHostTo s v.since then s
    else flrSettle (engineFault (t.setDma { t.dma with xfers := t.dma.xfers.filter fun y => y.n != v.n }) v.cl v.fil v.ctx 5
      (if d.dstMem then d.dst else d.src) v.pc)
  | none, none => match s.led.snaps with
    | [] => s
    | x :: rest =>
      let t := hostTimeout s pa
      if !pastHostTo s x.since then s
      else flrSettle (flrSnapGone ((setDevOn t fun d => { d with hostRetry := true }).setLed { t.led with
        extending := true, ext := true, snaps := { x with since := ns s } :: rest }))

/-- CXL_CACHE_TIMEOUT: a CXL.cache request for address `pa` passes HOST_TO: `blk` names the block whose command sent
it, `dmaN` the transfer; the update block with a number, the export of that number; neither, a snapshot's write (R425). -/
def execCxlCacheTimeout (pa : Nat) (blk dmaN : Option Nat) (s : State) : Out :=
  if !live s then .next s else .next (timedOut pa blk dmaN s)

/-- IDE_FAIL: the link is insecure until IDE is keyed again. -/
def execIdeFail (s : State) : Out :=
  if !s.dev.ide then .next s
  else .next (logSpine (setDevOn s fun d => { d with ide := false }) { code := 0x0C04, sev := 2, scope := 0 })

/-! ### Host accesses of HBM (R426, R428) -/

/-- A host write at an HDM offset. -/
def hostWrite (s : State) (off : Nat) (bs : List Byte) : State :=
  ((hdmPieces off bs.length).foldl (fun (x : State × List Byte) p =>
    (writeMem x.1 p.1 (x.2.take p.2), x.2.drop p.2)) (s, bs)).1

/-- A host read at an HDM offset: what its lines hold is met (R159); it returns `hdmRead` of what is there then. -/
def hostRead (s : State) (off n : Nat) : State := (hdmPieces off n).foldl (fun st p => meetRange st p.1 p.2) s

/-- A host access of HBM while memory serves it. -/
def hostAccess (s : State) (off : Nat) (a : HostAcc) : State :=
  if !framesOn s then s else if a.wr then hostWrite s off a.data else hostRead s off a.len

/-- The host may hold every line of `[off, off + n)` from then on, until a unit of the device writes it (R426). -/
def hostHolds (s : State) (off n : Nat) : State :=
  let new := ((hdmPieces off n).flatMap fun p => linesOf p.1 p.2).filter fun l => !s.mem.hostLines.contains l
  if !framesOn s then s else s.setMem { s.mem with hostLines := s.mem.hostLines ++ new }

/-- HDM_ACCESS: a CXL.mem access; its lines are the host's to hold, as HDM-DB allows (Table 13-1). -/
def execHdmAccess (a : HostAcc) (s : State) : Out :=
  if hdmSize < a.off + a.len ∨ hdmSize < a.off + a.data.length then .fault (.outsideWindow a.off)
  else .next (hostHolds (hostAccess s a.off a) a.off (if a.wr then a.data.length else a.len))

/-- The HDM offset that a BAR2 offset shows. -/
def bar2Off (s : State) (off : Nat) : Nat := s.dev.bar2Sel * 2 ^ 30 + off

/-- BAR2_ACCESS: the same through the 64 GiB window. -/
def execBar2Access (a : HostAcc) (s : State) : Out :=
  if 2 ^ 36 < a.off + a.len ∨ 2 ^ 36 < a.off + a.data.length then .fault (.outsideWindow a.off)
  else .next (hostAccess s (bar2Off s a.off) a)

/-- BAR2_SEL: 0 to 1,424. -/
def execBar2Sel (v : B32) (s : State) : Out :=
  if !regsOn s ∨ 1424 < bits v 10 0 then .next s else .next (setDevOn s fun d => { d with bar2Sel := bits v 10 0 })

/-! ### Interrupts (R432) -/

/-- IRQ_STAT: write 1 to clear. -/
def execIrqStat (v : B32) (s : State) : Out :=
  if !regsOn s then .next s
  else .next (setDevOn s fun d => { d with irqStat := d.irqStat &&& ~~~(v.extractLsb' 0 16) })

/-- The vectors of a list that are pending are signalled. -/
def signalPending (s : State) (ns : List Nat) : State :=
  ns.foldl (fun st n => if bit st.dev.irqStat n && bit st.dev.irqEn n && !vecMasked st n then msiSignal st n else st) s

/-- IRQ_EN: a vector enabled while its source is pending is signalled at once. -/
def execIrqEn (v : B32) (s : State) : Out :=
  if !regsOn s then .next s
  else
    let new := (List.range 16).filter fun n => bit v n && !bit s.dev.irqEn n
    .next (signalPending (setDevOn s fun d => { d with irqEn := v.extractLsb' 0 16 }) new)

/-! ### MCTP (R434, R435, R464) -/

/-- An answer of the MCTP endpoint. -/
def mctp (s : State) (bs : List Byte) : State := setDevOn s fun d => { d with mctpAns := bs }

/-- A request on MCTP: it is answered from BOOTMB on while the module is powered. -/
def mctpReq (s : State) (body : State) : Out := if responds s then .next body else .next s

/-- GET_STATUS. -/
def execGetStatus (s : State) : Out :=
  mctpReq s (mctp s ([0] ++ leBytes 4 (devState s) ++ leBytes 8 s.dev.rdy.toNat ++ leBytes 4 s.dev.rstStat.toNat ++
    leBytes 4 (kaStat s) ++ leBytes 8 (leadHigh s * 2 ^ 32 + s.lead.epoch.toNat) ++ leBytes 8 s.lead.expiry))

/-- GET_IDENT. -/
def execGetIdent (s : State) : Out :=
  mctpReq s (mctp s ([0] ++ leBytes 8 s.fuse.serial.toNat ++ leBytes 4 (capWord s 8) ++ leBytes 4 s.fuse.grade ++
    leBytes 4 (capWord s 0xC) ++ leBytes 4 (bootStat s)))

/-- GET_RECORD: once the SAGE image is accepted; a ring slot with head, tail and overflow count. -/
def execGetRecord (h : Half) (slot : Nat) (s : State) : Out :=
  let r := s.err.ring.get h
  mctpReq s (mctp s (if !hasImage s 1 ∨ 64 ≤ slot then [5]
    else [0] ++ ringImage s h slot ++ leBytes 4 r.head.toNat ++ leBytes 4 r.tail.toNat ++ leBytes 4 r.ovf))

/-- RESET_REQ: a device reset, source MCTP. -/
def execResetReq (key : B16) (s : State) : Out :=
  mctpReq s (if key = 0x5253 then mctp (deviceReset s 3) [0] else mctp s [5])

/-- MCTP_LEAD_FORCE: as the register. -/
def execMctpLeadForce (v : B32) (s : State) : Out :=
  mctpReq s (match leadForce v s with
    | some t => mctp t [0]
    | none => mctp s [5])

/-- MCTP_CONTROL: the answer of a control command is DSP0236's, which the spec does not restate: a free value (log
entry 10); SMBus address resolution assigns the address; the frame of an SPDM request sends its answer to this endpoint. -/
def execMctpControl (m : MctpIn) (s : State) : Out :=
  mctpReq s (match m with
    | .control cmd => mctp (drawn s) ([cmd] ++ leBytes 8 (freeVal s).toNat)
    | .address a => setDevOn s fun d => { d with mctpAddr := a }
    | .spdm => s.setSec { s.sec with spdm := { s.sec.spdm with mctp := true } })

/-- A sensor of Table 14-7: reading, warning and critical thresholds, each below and above, 0 where none. -/
def sensor (s : State) : Nat → Option (List Nat)
  | 1 => some [tileTemp s.pwr.temps, 0, bits (rd32 s 0x1D028) 7 0, 0, 105]
  | 2 => some [hbmTemp s.pwr.temps, 0, 95, 0, 105]
  | 3 => some [rsTemp s.pwr.temps, 0, 85, 0, 95]
  | 4 => some [s.pwr.temps.stage, 0, 100, 0, 110]
  | 5 => some [s.pwr.temps.inlet, 0, 40, 0, 0]
  | 6 => some [s.pwr.temps.outlet, 0, 58, 0, 0]
  | 7 => some [s.pwr.vin, 5000, 6000, 4500, 6200]
  | 8 => some [s.pwr.iin, 0, 10400, 0, 13000]
  | 9 => some [s.pwr.avgs.headD 0, 0, pwrL s, 0, 5600]
  | _ => none

/-- PLDM_REQUEST: the reading and thresholds of a sensor; volts and amperes in units of 0.01 as the registers. -/
def execPldmRequest (n : Nat) (s : State) : Out :=
  mctpReq s (mctp s (match sensor s n with
    | some l => [0] ++ l.flatMap (leBytes 2)
    | none => [0x80]))

/-! ### Registers without a row of their own (R429, R430) -/

/-- Chive registers that the host writes: offset within a unit, the low words of 64-bit ones. -/
def chvLow (o : Nat) : Bool :=
  decide (0x1C400 ≤ o) && decide (o < 0x1CC00) && [0x08, 0x10, 0x18, 0x20].contains (o % 0x40)

/-- Low words of the 64-bit argument registers. -/
def wideLow (o : Nat) : Bool :=
  [0x10008, 0x10010, 0x12008, 0x12010, 0x12018, 0x12020, 0x14008, 0x14010, 0x15008, 0x17010, 0x17028, 0x17060,
   0x18008, 0x18010, 0x1C008, 0x1C0A0].contains o || chvLow o

/-- The value that a 32-bit register takes from a written word; none where the write is ignored or no register
stands there. -/
def plain32 (o : Nat) (v : B32) : Option B32 :=
  let img (a n : Nat) : Bool := decide (a ≤ o) && decide (o < a + n)
  if o = 0x80 then if bits v 15 0 = 0 then none else some (v &&& 0xFFFF)
  else if o = 0x1104C then if 8 < bits v 3 0 then none else some (v &&& 0xF)
  else if o = 0x14060 then if bits v 23 0 = 0 then none else some (v &&& 0xFFFFFF)
  else if o = 0x14064 then if bits v 7 0 = 0 then none else some (v &&& 0x1FF)
  else if o = 0x16050 then if bits v 23 0 = 0 then none else some (v &&& 0xFFFFFF)
  else if o = 0x17020 then some (v &&& 7)
  else if o = 0x18034 then some (v &&& 3)
  else if o = 0x1C064 then if bits v 7 0 = 0 then none else some (v &&& 0xFF)
  else if o = 0x1C0A8 then some (v &&& 0x1F)
  else if o = 0x1D028 then if bits v 7 0 < 70 ∨ 95 < bits v 7 0 then none else some (v &&& 0xFF)
  else if o = 0x1C010 then some (v &&& 0x0FFFFFFF)
  else if img 0x1C400 0x800 ∧ o % 0x40 = 0 then some (v &&& 0xF800003F)
  else if img 0x1C400 0x800 ∧ o % 0x40 = 4 then some (v &&& 0x00FFFFFF)
  else if img 0x30000 0x100 ∧ o % 16 = 12 then some (v &&& 1)
  else if o = 0x17040 ∨ (img 0x17100 0x100 ∧ o % 0x20 = 0x0C) ∨ img 0x11008 64 ∨ img 0x16008 64 ∨ img 0x1C080 32 ∨
      img 0x30000 0x100 then some v
  else none

/-- The bits of the 64-bit register at `o` that hold: [63:52] of the registers that hold an address in [51:0] and
[63:49] of MIR_ARG0 are reserved. -/
def wideMask (o : Nat) : B64 :=
  if [0x10008, 0x14010, 0x17010, 0x17060, 0x18010, 0x1C008, 0x1C0A0].contains o ∨
      (0x1C400 ≤ o ∧ o < 0x1CC00 ∧ o % 0x40 = 0x20) then 0xFFFFFFFFFFFFF
  else if o = 0x18008 then 0x1FFFFFFFFFFFF else 0xFFFFFFFFFFFFFFFF

/-- Where the low half of a 64-bit register waits for its high half: its value, and that one waits (R430). -/
def lowKey (o : Nat) : Nat := 0x80000 + o

/-- May TIME_SET be written: at a time root, before its first lock (Table 10-10)? -/
def timeSettable (s : State) : Bool := isRoot s && !s.time.locked

/-- Clusters whose conditions a write of LEND_CTRL ends stop lending (R238). -/
def lendersNow (s : State) : State :=
  s.setClu (s.clu.filterMap fun e =>
    let c := if e.2.lending && !mayLendNow s e.1 then { e.2 with lending := false } else e.2
    if c = {} then none else some (e.1, c))

/-- What the completed write of a register does beyond holding its value; `old` is the state before it.  A vector that is
unmasked while pending is signalled then (R432). -/
def wrote (old s : State) (o : Nat) : State :=
  if o = 0x17028 then s.setTime { s.time with setW := true }
  else if o = 0x14064 then lendersNow s
  else if 0x30000 ≤ o ∧ o < 0x30100 ∧ o % 16 = 12 then
    let n := (o - 0x30000) / 16
    if vecMasked old n then signalPending s [n] else s
  else s

/-- The low half of a 64-bit register waits for its high half. -/
def putLow (s : State) (o : Nat) (v : B32) : State := wr32 (wr32 s (lowKey o) v) (lowKey o + 4) 1

/-- The low half that goes with a written high half: the one that waits, else the register's own. -/
def lowFor (s : State) (l : Nat) : B32 :=
  if rd32 s (lowKey l + 4) = 1 then rd32 s (lowKey l)
  else if l = 0x10038 then bv 32 (b2n s.jrn.en)
  else if l = 0x13008 then bv 32 s.led.base
  else rd32 s l

/-- No low half waits any more. -/
def dropLow (s : State) (l : Nat) : State := wr64 s (lowKey l) 0

/-- One 32-bit word written at an aligned offset; a 64-bit register takes effect with its high half. -/
def plainWord (s : State) (o : Nat) (v : B32) : State :=
  if wideLow o then putLow s o v
  else if wideLow (o - 4) then
    let l := o - 4
    if l = 0x17028 ∧ !timeSettable s then dropLow s l
    else wrote s (wr64 (dropLow s l) l ((v ++ lowFor s l) &&& wideMask l)) l
  else match plain32 o v with
    | some x => wrote s (wr32 s o x) o
    | none => s

/-- May the word at an offset be written now: the boot mailbox while it is open, else once the blocks decode? -/
def writable (s : State) (o : Nat) : Bool :=
  regsOn s || (s.pwr.on && s.boot.opened && decide (0x1C008 ≤ o) && decide (o < 0x1C014))

end Sys2Proof.Machine
end

