-- ==== Sys2Proof/Machine/Sorrel.lean ====
section
/-!
DEFINITION. Sorrel's rows: JRN_CTRL (R164, R166), the undo copy (R167, R169, R171), the second reading of batch
references (R170) and restores (R172, R173).
-/

namespace Sys2Proof.Machine

/-- A write of JRN_CTRL: EN takes or gives up the journal region, MAX_DEPTH bounds the depth. -/
def execJrnCtrl (v : B64) (s : State) : Out :=
  if !regsOn s ∨ s.err.ka then .next s
  else
    let m := bits v 33 32
    let s1 := s.setJrn { s.jrn with en := bit v 0, maxDepth := if m = 3 then s.jrn.maxDepth else m }
    .next (leaveRegion (rechoose (if bit v 0 then takeRegion s1 else s1)))

/-- Does a Sorrel bank admit the work of a job's contexts (R200, R201)? -/
def banksOk (s : State) (fil : Bool) : Bool :=
  !fil || (bits (rd32 s 0x1104C) 3 0 != 0 && s.que.bankDebt.w == 0 && s.que.bankDebt.e == 0)

/-- Does Sorrel work for the job of a kind: in the halves in which the job's own shards lie commands are issued (R384)? -/
def sorrelRuns (s : State) (fil : Bool) : Bool :=
  live s && !s.err.ka && banksOk s fil &&
  s.upd.shards.all fun x => x.fil != fil || x.mirror || halfRuns s x.half

/-- Has the decision of an outer round been applied, so that its differences are there (R169)? -/
def roundApplied (s : State) (step : Nat) : Bool :=
  match s.sx.cur with
  | some r => r.applied.isSome && r.j * s.sx.h == step && !r.ownOut
  | none => false

/-- A line of an entry's first copy turns uncorrectable; the next read of the entry finds it. -/
def spoilEnt (s : State) (fil outer : Bool) (step : Nat) : State :=
  match (findEnt s fil outer step).bind fun e => e.segs.head? with
  | some g => injectLine s (.bad g.pa (20 + halfNo g.half))
  | none => s

/-- Sorrel's banks charge for a primary request that waited `w` ns behind filler work (R201): the banks of the halves in
which the job's own shards lie. -/
def chargeBanks (s : State) (fil : Bool) (job : B32) (w : Nat) : State :=
  if fil then s
  else ((ownShards s job).map (·.half)).dedup.foldl (fun st h => charge st (.bank h) w) s

/-- The differences of a decided round copied into its outer entry (R169). -/
def copyDiffs (fil : Bool) (step : Nat) : List Shard → State → CopyEnd
  | [], s => .made s
  | sh :: t, s =>
    match copySegs fil true step sh (diffSegs s sh) s with
    | .made s1 => copyDiffs fil step t s1
    | x => x

/-- A DAMAGED entry that has not been reported complete copies everything again. -/
def reviveEnt (s : State) (fil outer : Bool) (step : Nat) (own : List Shard) : State :=
  match findEnt s fil outer step with
  | some e => if e.st = .damaged ∧ !e.reported then
      mapEnt s fil outer step fun x => { x with st := x.back, segs := [], todo := own.map (·.idx) }
    else s
  | none => s

/-- The undo copies of an entry are made: an inner record is then complete; an outer one when the differences of the
decided round are copied too (R167, R169).  A live line that cannot be read is repaired first (R355), and a copy without
room waits: the entry stays as it is. -/
def undoCopy (s : State) (fil outer : Bool) (job : B32) (step : Nat) : State :=
  let own := ownShards s job
  let s0 := reviveEnt s fil outer step own
  let todo := match findEnt s0 fil outer step with | some e => e.todo | none => []
  match copyShards fil outer step (own.filter fun x => todo.contains x.idx) s0 with
  | .full s1 => s1
  | .unread s1 ctx e => poisonRepair (logPt s1 ctx e) e
  | .made s1 =>
    if !outer then reportUndo s1 fil outer job step
    else if !roundApplied s1 step then s1
    else match copyDiffs fil step own s1 with
      | .made s2 => reportUndo s2 fil outer job step
      | .full s2 => s2
      | .unread s2 ctx e => poisonRepair (logPt s2 ctx e) e

/-- UNDO_COPY_COMPLETE: the copies of an entry whose undo record is not complete are made; `bad`: a line of the first copy
is uncorrectable. -/
def execUndoCopyComplete (fil outer : Bool) (x : Late Nat) (bad : Bool) (s : State) : Out :=
  let step := x.op
  match findEnt s fil outer step, jobReg s fil with
  | some e, some j =>
    if !sorrelRuns s fil ∨ e.reported then .next s
    else
      let s1 := undoCopy (chargeBanks s fil j.job x.wait) fil outer j.job step
      .next (if bad then checkEnt (spoilEnt s1 fil outer step) fil outer step else s1)
  | _, _ => .next s

/-- BATCH_RECHECK: every referenced range is read again before a re-run of the step; a digest that differs is
JRN_INPUT, and the job halts (R170). -/
def execBatchRecheck (fil : Bool) (step : Nat) (s : State) : Out :=
  match findEnt s fil false step with
  | none => .next s
  | some e =>
    if !sorrelRuns s fil ∨ !e.recheck then .next s
    else
      let s := e.refs.foldl (fun st r => meetVa st none r.ctx r.va (64 * r.len)) s
      let same (r : BRef) : Bool := match readVa s none r.ctx r.va (64 * r.len) with
        | (bs, none) => crc64 bs == r.crc
        | (_, some _) => false
      match e.refs.find? fun r => !same r with
      | none => .next (mapEnt s fil false step fun e => { e with recheck := false })
      | some r =>
        let job := (getCtx s e.ctx).job
        let s1 := logSpine s { code := 0x020A, sev := 2, scope := 5, who := mkWho none 0 0 e.tenant e.ctx,
                               step := bv 64 step, job := job, addr := bv 64 r.va }
        .next ((ctxsOfJob s1 job).foldl stopCtx s1)

/-! ### Restores -/

/-- The restore of a command's shard from its journal entry, which has been read; none when no record supplies it. -/
def restoreCmd (s : State) (sh : Shard) (c : UCmd) : Option State :=
  let ks := restoreKinds c (hdrOf s sh)
  if ks.isEmpty then some s else restoreSegs s sh (c.kind = .out) c.step ks.contains

/-- The restore that no record supplies: the shard is fetched from its partner (R173), or the job falls back to its
checkpoint (R253). -/
def restoreElse (s : State) (sh : Shard) (c : UCmd) : State :=
  if pairServes (pairOf s sh.fil) && !partnerLost s sh then
    putUCmd (sendFetch s (localPeer s (hdrOf s sh).partner) sh []) { c with asked := true }
  else noRecord s sh c

/-- RESTORE_COMPLETE: Sorrel restores what a command needs before Rosemary resumes it; a mirror copy is
restored from its owner's record, and without a record the shard is fetched from its partner or the pair is
LOST (R172, R173, R253, R361, R364). -/
def execRestoreComplete (x : Late Nat) (bad : Bool) (s : State) : Out :=
  match findUCmd s x.op with
  | none => .next s
  | some c =>
    match cmdShard s c with
    | none => .next s
    | some sh =>
      if !owes s sh c ∨ c.asked ∨ !sorrelRuns s sh.fil ∨ !isFirst s sh c then .next s
      else if sh.mirror then
        .next (if partnerLost s sh then noRecord s sh c
               else if depthNow s sh.fil = 0 then restoreElse s sh c
               else putUCmd (sendUndoReq s sh c.step (c.kind = .out)) { c with asked := true })
      else
        let outer : Bool := c.kind = .out
        let s0 := if sh.fil then s else charge s (.bank sh.half) x.wait
        let s1 := checkEnt (if bad then spoilEnt s0 sh.fil outer c.step else s0) sh.fil outer c.step
        match restoreCmd s1 sh c with
        | some s2 => .next (putUCmd s2 { c with restore := false })
        | none => .next (restoreElse s1 sh c)

end Sys2Proof.Machine
end

