-- ==== Sys2Proof/Machine/Lovage.lean ====
section
/-!
DEFINITION. Lovage: the commands of the resilience block (R348, R350, R365, R366, R387) and its messages (R348,
R352 to R359, R364, R366).
-/

namespace Sys2Proof.Machine

/-! ### Commands (R387) -/

/-- MIR_ARG0 and MIR_ARG1. -/
def mirArg0 (s : State) : B64 := rd64 s 0x18008
def mirArg1 (s : State) : B64 := rd64 s 0x18010
/-- The job that a command names, and its device address. -/
def mirJob (s : State) : B32 := (mirArg0 s).extractLsb' 0 32

/-- A resilience command on well-formed operands. -/
def mirCmd (ka : Bool) (c : Instr) (w : BitVec 56) (s : State) (body : State → State) : Out :=
  blockCmd .resilience ka c s fun t =>
    if bits w 43 17 ≠ 0 ∨ bits (mirArg0 t) 63 49 ≠ 0 ∨ bits (mirArg1 t) 63 52 ≠ 0 then finish .resilience 3 t else body t

/-- PAIR: the tests with a watched partner begin. -/
def execPair (w : BitVec 56) (s : State) : Out :=
  mirCmd false (.pair w) w s fun t =>
    let id := bits w 55 44
    let c := getCtx t id
    let p := pairOf t c.fil
    if c.st = .free ∨ c.job ≠ mirJob t then finish .resilience 3 t
    else if p.st ≠ .off ∧ p.st ≠ .down then finish .resilience 1 t
    else if !watched t (localPeer t (bits w 16 0)) || husilPeer t (localPeer t (bits w 16 0)) then finish .resilience 2 t
    else
      let t0 := t.setMir { t.mir with wasPairs := (t.mir.p, t.mir.f) }
      let t1 := setPair t0 c.fil { st := .pairing, partner := bits w 16 0, step := 0, job := c.job, ctx := id, sent := true }
      sendPair (busy .resilience t1) c.fil false

/-- UNPAIR: the job's mirror service goes DOWN. -/
def execUnpair (w : BitVec 56) (s : State) : Out :=
  mirCmd true (.unpair w) w s fun t =>
    match [false, true].find? fun fil => (pairOf t fil).job = mirJob t && (pairOf t fil).partner == bits w 16 0 &&
        pairServes (pairOf t fil) with
    | none => finish .resilience 1 t
    | some fil => finish .resilience 0 (downPair t fil)

/-- A member's entry of a membership list. -/
def listBytes (p : Peer) : List Byte := leBytes 4 (p.site % 64 * 2 ^ 17 + p.addr % 2 ^ 17)

/-- The spare takes the rank of the lost device in a group. -/
def substGrp (g : Grp) (lost spare : Peer) : Grp :=
  if !g.list.contains lost then g
  else
    let l := g.list.map fun p => if p = lost then spare else p
    { g with list := l, fprint := crc64 (l.flatMap listBytes) }

/-- SH_PARTNER and SH_HCRC of a shard. -/
def substShard (s : State) (sh : Shard) (lost spare : Nat) : State :=
  if (hdrOf s sh).partner ≠ lost then s
  else
    let s1 := setHdr s sh 0x50 4 spare
    setHdr s1 sh 0xF8 8 (hcrcOf s1 sh).toNat

/-- SUBSTITUTE (R365). -/
def substitute (s : State) (job : B32) (lost spare : Nat) : State :=
  let a := localPeer s lost
  let b := localPeer s spare
  let gs := (s.col.groups.filter fun e => e.2.st = .active && decide ((getCtx s e.2.ctx).job = job)).map (·.1)
  let s1 := gs.foldl (fun st i => setGrp st i (substGrp (getGrp st i) a b)) s
  let s2 := (shardsOf s1 job).foldl (fun st sh => substShard st sh lost spare) s1
  let new (x : Watch) : Watch :=
    if x.peer = a then { pos := x.pos, peer := b, got := [], miss := 0, absent := false, ka := false, numRev := 0 } else x
  let s3 := s2.setFab { s2.fab with watch := s2.fab.watch.map new }
  s3.setMir { s3.mir with subs := s3.mir.subs.filter (fun x => !(x.1 = job && x.2.1 == lost)) ++ [(job, lost, spare)] }

/-- SUBSTITUTE: refused while a collective of the job is queued or running. -/
def execSubstitute (w : BitVec 56) (s : State) : Out :=
  mirCmd true (.substitute w) w s fun t =>
    if t.col.colls.any fun c => c.job = mirJob t && (c.st = .queued || c.st = .running) then finish .resilience 6 t
    else finish .resilience 0 (substitute t (mirJob t) (bits w 16 0) (bits (mirArg0 t) 48 32))

/-! ### PROMOTE (R366) -/

/-- The entries of a PROMOTE list up to the entry of 0; `k` bounds their number. -/
def promoList (s : State) : Nat → Nat → List (BitVec 64)
  | 0, _ => []
  | k + 1, pa =>
    let e := bv 64 (readNat s pa 8)
    if e = 0 then [] else e :: promoList s k (pa + 8)

/-- The shard of a spare's header, as REGISTER would take it. -/
def promoShard (s : State) (ctx : Nat) (e : Nat × Bool) : Option Shard :=
  match checkReg s ctx e.1 with
  | .ok (sh, h) => if h.mirror = e.2 then some sh else none
  | .error _ => none

/-- FETCH_REQ for the first header of the list that is left; with none left the spare pairs with the source. -/
def promoNext (s : State) : State :=
  match s.mir.promo with
  | none => s
  | some p =>
    match p.todo with
    | [] =>
      let fil := (getCtx s p.ctx).fil
      let s1 := s.setMir { s.mir with promo := some { p with pairing := true } }
      sendPair (setPair s1 fil { st := .pairing, partner := p.src, step := 0, job := p.job, ctx := p.ctx, sent := true }) fil false
    | e :: _ => match promoShard s p.ctx e with
      | some sh => sendFetch s (localPeer s p.src) sh []
      | none => promoFail (regFail s p.ctx e.1)

/-- PROMOTE. -/
def execPromote (w : BitVec 56) (s : State) : Out :=
  mirCmd false (.promote w) w s fun t =>
    let id := bits w 55 44
    let c := getCtx t id
    let src := bits w 16 0
    if c.st = .free ∨ c.job ≠ mirJob t ∨ (mirArg1 t).toNat % 64 ≠ 0 ∨ 2 ^ 48 < hostBase + (mirArg1 t).toNat + 8 then
      finish .resilience 3 t
    else if (pairOf t c.fil).st ≠ .off then finish .resilience 1 t
    else if !watched t (localPeer t src) then finish .resilience 2 t
    else hostCmd .resilience (.promote w) t (
      let es := promoList t 8192 (hostBase + (mirArg1 t).toNat)
      let todo := es.map fun e => (bits e 51 0, bit e 63)
      if es.any fun e => bits e 62 52 != 0 then finish .resilience 3 t
      else match todo.find? fun e => (promoShard t id e).isNone with
      | some e => finish .resilience 3 (regFail t id e.1)
      | none =>
        let t1 := busy .resilience (t.setMir { t.mir with
          promo := some { job := c.job, src := src, ctx := id, todo := todo, blocks := 0, pairing := false }
          promoBlocks := 0, wasPairs := (t.mir.p, t.mir.f), wasShards := t.upd.shards
          was := imagesOf t (todo.filterMap (promoShard t id)) })
        if isAbsent t1 (localPeer t1 src) then promoFail t1 else promoNext t1)

/-! ### Pairing messages (R348) -/

/-- A substitute takes the lost partner's place in a pair that is DOWN. -/
def takeSub (s : State) (m : PairMsg) : State :=
  match subFrom s m.job m.src with
  | some fil => if (pairOf s fil).st = .down then setPair s fil { pairOf s fil with partner := m.src.addr } else s
  | none => s

/-- PAIR_REQ: the partner's conditions come; the tests are made when this device pairs with the sender too, or the
sender is the spare of a lost partner, and the answer goes back.  Mirror service starts only where a half leads (R22). -/
def execPairReq (m : PairMsg) (s : State) : Out :=
  if s.err.ka then fromPair s m fun _ => s
  else
    let spare := (subFrom s m.job m.src).isSome
    let t := if mayLead s then takeSub s m else s
    if !mayLead t then fromPair t m fun _ => t
    else fromPair t m fun fil =>
      let p := pairOf t fil
      if p.st = .pairing ∨ (p.st = .down ∧ spare) then pairTest (sendPair t fil true) fil m else t

/-- PAIR_ACK: the partner's answer ends pairing, where a half leads. -/
def execPairAck (m : PairMsg) (s : State) : Out :=
  fromPair s m fun fil => if (pairOf s fil).st = .pairing ∧ mayLead s then pairTest s fil m else s

/-! ### The mirror check (R351, R352) -/

/-- Is the copy at the end of the update that a check is about?  Under the divergence procedure it has been restored and
computed again (R356). -/
def chkDue (s : State) (sh : Shard) (c : Chk) : Bool :=
  let h := hdrOf s sh
  let again := c.again.isNone || s.mir.dvg.any fun d =>
    d.job = c.job && d.shard == c.shard && d.mirror == c.mirror && d.step == c.step && d.restored
  c.mine.isNone && !shardBusy s sh && h.wStep == c.step && again && (shardCmds s sh).all fun d => !d.lov

/-- DIGEST_LIST_COMPUTED: Lovage has read the copy; the list goes to the partner and meets the partner's.  A line that
cannot be read gives no list: it is repaired, and the device is not present for the step in progress (R160). -/
def execDigestListComputed (job : B32) (shard : Nat) (mirror : Bool) (s : State) : Out :=
  match shardBy s job shard mirror, s.mir.chks.find? fun c => c.job = job && c.shard == shard && c.mirror == mirror &&
      !c.done && c.mine.isNone with
  | some sh, some c =>
    let p := pairOf s sh.fil
    if !live s ∨ s.err.ka ∨ !pairServes p ∨ !chkDue s sh c then .next s
    else
      let s0 := meetShard s sh
      match checkErr s0 sh c.outer with
      | some e => .next (poisonVote (logPt s0 sh.ctx e) job e)
      | none =>
        let l := digestList s0 sh c.outer
        let s1 := sendDigests s0 p { src := ownPeer s, job := job, step := c.step, shard := shard, ofMirror := mirror, digs := l }
        .next (giveVerdict s1 sh.fil { c with mine := some l })
  | _, _ => .next s

/-- DIGEST: the partner's list of its copy is compared with the own one. -/
def execDigest (d : DigList) (s : State) : Out :=
  fromPartner s d.job d.src fun fil =>
    match findChk s d.job d.step d.shard (!d.ofMirror) with
    | none => s
    | some c => if pairServes (pairOf s fil) ∧ c.theirs.isNone then giveVerdict s fil { c with theirs := some d.digs } else s

/-- VERDICT: with both verdicts AGREE Lovage reports agreement; DIFFER starts the divergence procedure (R352, R356). -/
def execVerdict (src : Peer) (job : B32) (step shard : Nat) (ofMirror agree : Bool) (first count : Nat) (s : State) : Out :=
  fromPartner s job src fun fil =>
    match findChk s job step shard (!ofMirror) with
    | none => s
    | some c =>
      if pairServes (pairOf s fil) ∧ c.got.isNone then
        let c1 : Chk := { c with got := some (agree, first, count) }
        settleChk (putChk s c1) fil c1
      else s

/-! ### The end of the divergence procedure (R357 to R359) -/

/-- MIRROR_DIVERGE: it names the device whose copy is overwritten.  The second within 1,024 beats that names this
device is Fatal, with scope device (R359). -/
def mirrorDiverge (s : State) (fil : Bool) (addr : Nat) (d : Dvg) : State :=
  let (f, n) := diffBlocks d.dOwn d.dMir
  let again := addr == (ownPeer s).addr && s.mir.diverge.any fun x => x.1 == addr && decide (beat s ≤ x.2 + 1024)
  let p := pairOf s fil
  let r : Rec := { code := 0x0803, sev := if again then 3 else 2, scope := if again then 0 else 6
                   who := mkWho none 0 0 (getCtx s p.ctx).tenant p.ctx, job := d.job, step := bv 64 d.step
                   dev := mkDev (localPeer s addr), data0 := bv 64 f, data1 := bv 64 n }
  raiseSpineAll (s.setMir { s.mir with
    diverge := (addr, beat s) :: s.mir.diverge.filter fun x => decide (beat s ≤ x.2 + 1024) }) r

/-- The procedure has ended with one copy kept: the pair is UP again when no other shard is under it, the next
step's entry copies the own shard again, and agreement is reported. -/
def dvgKept (s : State) (fil : Bool) (sh : Shard) (d : Dvg) (c : Chk) (ownKept : Bool) : State :=
  let addr := if d.mirror = ownKept then (ownPeer s).addr else (pairOf s fil).partner
  let s1 := mirrorDiverge s fil addr d
  let s2 := s1.setMir { s1.mir with
    dvg := s1.mir.dvg.filter fun x => !(decide (x = d))
    changed := if !d.mirror ∧ !ownKept then addMark s1.mir.changed d.job (d.step + 1) else s1.mir.changed }
  let s3 := if (s2.mir.dvg.any fun x => x.job = d.job) || (pairOf s2 fil).st != .checking then s2
    else setPair s2 fil { pairOf s2 fil with st := .up }
  let s4 := if d.mirror then s3
    else if (findEnt s3 fil false (d.step + 1)).isSome then entReopen s3 fil (d.step + 1) sh.idx
    else if standAt s3 d.job d.step ∧ heldWhole s3 d.job d.step then openNext s3 d.job d.step else s3
  agreeShard s4 fil c

/-- DIVERGENCE_END: the recomputed lists decide by Table 11-4. -/
def execDivergenceEnd (job : B32) (shard : Nat) (s : State) : Out :=
  match s.mir.dvg.find? fun d => d.job = job && d.shard == shard &&
      s.mir.chks.any fun c => c.job = job && c.shard == shard && c.mirror == d.mirror && c.step == d.step &&
        c.again.isSome && c.mine.isSome && c.theirs.isSome && c.given.isSome && c.got.isSome with
  | none => .next s
  | some d =>
    match findChk s job d.step shard d.mirror, shardBy s job shard d.mirror with
    | some c, some sh =>
      let a := c.mine.getD []
      let b := c.theirs.getD []
      let rOwn := if d.mirror then b else a
      let rMir := if d.mirror then a else b
      if !live s ∨ s.err.ka then .next s
      else if rOwn ≠ rMir then .next (mirrorFatal s sh.fil shard)
      else if rOwn = d.dOwn then .next (dvgKept s sh.fil sh d c true)
      else if rOwn = d.dMir then .next (dvgKept s sh.fil sh d c false)
      else .next (mirrorFatal s sh.fil shard)
    | _, _ => .next s

/-! ### Undo records between partners (R356, R361, R364) -/

/-- No undo record of a shard can be sent; where the job is HALTED a ROLLBACK asked for it, and the pair is LOST on this
side too (R364, R369). -/
def undoNone (s : State) (src : Peer) (sh : Shard) (step : Nat) : State :=
  let t := sendNone s src sh true step
  if jobHalted t sh.job then pairLost t sh.job else t

/-- UNDO_REQ: the owner's Sorrel sends the undo record of a step, or of an outer merge, of one of its shards. -/
def execUndoReq (src : Peer) (job : B32) (step : Nat) (x : ShardRef) (s : State) : Out :=
  fromPartner s job src fun fil =>
    match shardBy s job x.idx false with
    | none => s
    | some sh =>
      let s1 := checkEnt s fil x.outer step
      match findEnt s1 fil x.outer step with
      | some e => if entGood s1 e sh then sendUndo s1 src sh e false else undoNone s1 src sh step
      | none => undoNone s1 src sh step

/-- UNDO_RECORD_REPORT: an owner's undo record of a step, or of an outer merge, is complete (R251, R169). -/
def execUndoRecordReport (src : Peer) (job : B32) (step : Nat) (outer : Bool) (s : State) : Out :=
  fromPartner s job src fun _ =>
    let r : OwnRep := { job := job, step := step, outer := outer, src := src }
    if s.upd.owner.contains r then s else s.setUpd { s.upd with owner := s.upd.owner ++ [r] }

/-- What the end of an undo record means to a copy under the divergence procedure. -/
def undoDvg (s : State) (fil : Bool) (sh : Shard) (d : Dvg) (hdr : List Byte) : State :=
  let outer := s.mir.chks.any fun c => c.job = d.job && c.shard == d.shard && c.mirror && c.step == d.step && c.outer && c.again.isSome
  if hdr.isEmpty then mirrorFatal s fil sh.idx
  else
    let s1 := s.setMir { s.mir with dvg := s.mir.dvg.map fun x => if x = d then { x with restored := true } else x }
    lovCmd (lovHdr s1 sh d.step (leNat (slice hdr 0x10 4)) outer) sh d.step outer

/-- The command of a mirror copy that waits for its owner's undo record. -/
def askedCmd (s : State) (sh : Shard) : Option UCmd := (shardCmds s sh).find? fun c => c.restore && c.asked

/-- Blocks of an owner's undo record that the repair of a segment kind waits for (R355). -/
def fixData (s : State) (sh : Shard) (b : Blocks) (step : Nat) : State :=
  let here (x : Fix) : Bool := x.job = sh.job && x.shard == sh.idx && x.step == step
  let s1 := if s.mir.fixes.any fun x => here x && x.kind == b.kind then writeBlocks s sh b.kind b.first b.data else s
  if !b.last ∨ !s.mir.fixes.any here then s1
  else
    let s2 := s1.setMir { s1.mir with fixes := s1.mir.fixes.filter fun x => !here x }
    if b.hdr.isEmpty then fallBack s2 sh else s2

/-- UNDO_DATA: blocks of an owner's undo record are written into the mirror copy; with the last the divergence
procedure, a ROLLBACK or an interrupted update goes on. -/
def execUndoData (b : Blocks) (step : Nat) (s : State) : Out :=
  fromPartner s b.job b.src fun fil =>
    match shardBy s b.job b.shard true with
    | none => s
    | some sh =>
      match s.mir.dvg.find? fun d => d.job = b.job && d.shard == b.shard && d.mirror && d.step == step && !d.restored with
      | some d =>
        let s1 := writeBlocks s sh b.kind b.first b.data
        if b.last then undoDvg s1 fil sh d b.hdr else s1
      | none =>
        if s.upd.roll = some b.job ∧ (hdrOf s sh).has stHalt then
          let s1 := if b.kind = 0 ∨ b.kind = 1 then writeBlocks s sh b.kind b.first b.data else s
          if !b.last then s1
          else if b.hdr.isEmpty then rollFail s1
          else rollCheck (rollHdr s1 sh step (leNat (slice b.hdr 0x10 4))) b.job
        else match askedCmd s sh with
        | none => fixData s sh b step
        | some c =>
          let s1 := if (restoreKinds c (hdrOf s sh)).contains b.kind then writeBlocks s sh b.kind b.first b.data else s
          if !b.last then s1
          else if b.hdr.isEmpty then restoreElse s1 sh c
          else putUCmd s1 { c with restore := false, asked := false }

/-! ### Copies between partners (R355, R366, R173) -/

/-- Does a source in keep-alive mode serve a copy: a mirror copy whose last update, by a step or by an outer merge, reached
agreement (R366)? -/
def kaServes (s : State) (sh : Shard) : Bool :=
  let h := hdrOf s sh
  let m := h.outJ * s.sx.h
  sh.mirror && !h.has stA && !h.has stB && !h.has stOut && h.sStep == h.wStep &&
    (decide (h.wStep ≤ (pairOf s sh.fil).step) || agreedOn s sh h.wStep false) &&
    (decide (m ≤ (pairOf s sh.fil).merged) || agreedOn s sh m true)

/-- The kinds of a whole copy. -/
def copyKinds : List Nat := [0, 1, 3, 4]

/-- A copy that cannot be read: none goes out.  To a spare, the lost device's shard has no copy left that may be served, and
the pair is LOST (R369); else the line is repaired, and the device is not present for the step in progress (R160). -/
def copyFails (s : State) (dst : Peer) (sh : Shard) (e : VErr) : State :=
  let t := sendNone (logPt s sh.ctx e) dst sh false (hdrOf s sh).wStep
  if (subFrom s sh.job dst).isSome ∧ (pairFrom s sh.job dst).isNone then pairLost t sh.job else poisonVote t sh.job e

/-- A whole copy goes to a device: its segments, and its header fields 0x08 to 0x27 with the last message. -/
def sendCopy (s : State) (dst : Peer) (sh : Shard) : State :=
  let n := (hdrOf s sh).wStep
  let s0 := meetShard s sh
  let rd (k : Nat) : List (List Byte × Option VErr) :=
    (kindSegs s0 sh k).map fun g => readVa s0 none sh.ctx g.1 (4096 * blocks4k g.2)
  match (copyKinds.flatMap rd).findSome? (·.2) with
  | some e => copyFails s0 dst sh e
  | none =>
    let s1 := copyKinds.foldl (fun st k =>
      let d := (rd k).flatMap (·.1)
      if d.isEmpty then st else sendBlocks st dst sh false n k 0 d [] false) s0
    sendBlocks s1 dst sh false n 5 0 [] (slice (hdrBytes s0 sh) 8 32) true

/-- A block of a G segment from the gradient record, or none (R355, log entry 111). -/
def sendGrad (s : State) (dst : Peer) (sh : Shard) (b : BlkRef) : State :=
  let t := checkGrad s sh
  let bs := match gradCopyOf t sh with
    | some x => slice (segBytes t x) (4096 * b.blk) 4096
    | none => []
  sendBlocks t dst sh false (hdrOf t sh).wStep 2 b.blk bs [] true

/-- One block of a copy, or none of a copy that is not settled, that stands at another step than the one asked about, or that
cannot be read (R355). -/
def sendBlock (s : State) (dst : Peer) (sh : Shard) (b : BlkRef) : State :=
  let before := ((stateSegs (hdrOf s sh)).filter fun g => decide (b.kind = 1) && decide (g.idx < b.idx)).foldl
    (fun a g => a + blocks4k g.bytes) 0
  let i := before + b.blk
  let answer (t : State) (bs : List Byte) : State := sendBlocks t dst sh false (hdrOf t sh).wStep b.kind i bs [] true
  match copySettled s sh && (hdrOf s sh).wStep == b.step, blockPlace (kindSegs s sh b.kind) i with
  | true, some (va, _) => match loadVa s sh.ctx va 4096 with
    | (t, bs, none) => answer t bs
    | (t, _, some e) => poisonVote (answer (logPt t sh.ctx e) []) sh.job e
  | _, _ => answer s []

/-- FETCH_REQ: the partner, or the spare that SUBSTITUTE has named in its place, asks for a copy or one block. -/
def execFetchReq (src : Peer) (job : B32) (shard : Nat) (ofMirror : Bool) (blk : Option BlkRef) (s : State) : Out :=
  if !live s ∨ !transportOn s then .next s
  else if (pairFrom s job src).isNone ∧ (subFrom s job src).isNone then .next (lovForeign s)
  else match shardBy s job shard ofMirror with
  | none => .next s
  | some sh =>
    if (pairFrom s job src).isNone && !mayLead s then .next s
    else if s.err.ka && !kaServes s sh then .next (sendNone s src sh false (hdrOf s sh).wStep)
    else match blk with
    | none => .next (sendCopy s src sh)
    | some b => .next (if b.kind = 2 then sendGrad s src sh b else sendBlock s src sh b)

/-- A PROMOTE takes blocks of the shard in hand; with the last the header fields are written, the shard is
registered, and the next one is asked for (R366). -/
def promoData (s : State) (p : Promo) (sh : Shard) (b : Blocks) : State :=
  let s1 := writeBlocks s sh b.kind b.first b.data
  let p1 : Promo := { p with blocks := p.blocks + b.data.length / 4096 }
  let s2 := s1.setMir { s1.mir with promo := some p1, promoBlocks := p1.blocks }
  if !b.last then s2
  else if b.hdr.isEmpty then promoFail s2
  else
    let s3 := storeVa s2 sh.ctx (sh.hva + 8) b.hdr
    promoNext (addShard (s3.setMir { s3.mir with promo := some { p1 with todo := p1.todo.drop 1 } }) sh)

/-- Does the partner's copy stand at the end of the phase that a command interrupted, or, with none, where the own
copy stands (R173)? -/
def fetchFits (c : Option UCmd) (own partner : Hdr) : Bool :=
  match c with
  | none => own.sStep == partner.sStep && own.wStep == partner.wStep && own.outJ == partner.outJ
  | some c =>
    if c.kind = .out then partner.outJ == c.arg
    else if own.has stB then partner.wStep == c.step
    else partner.sStep == c.step

/-- The header that came with a copy. -/
def fetchedHdr (s : State) (sh : Shard) (hdr : List Byte) : Hdr :=
  parseHdr (slice (hdrBytes s sh) 0 8 ++ hdr ++ (hdrBytes s sh).drop 40)

/-- The end of a whole copy for an own shard: it replaces the damaged one, or the job falls back. -/
def fetchEnd (s : State) (sh : Shard) (hdr : List Byte) : State :=
  let c := askedCmd s sh
  if hdr.isEmpty ∨ !fetchFits c (hdrOf s sh) (fetchedHdr s sh hdr) then
    match c with
    | some c => noRecord s sh c
    | none => pairLost s sh.job
  else
    let s1 := storeVa s sh.ctx (sh.hva + 8) hdr
    let s2 := [stA, stB, stOut].foldl (fun st b => setStatus st sh b false) s1
    match c with
    | some c => settleCmds (putUCmd s2 { c with restore := false, asked := false }) sh
    | none => s2

/-- The shard copy for which blocks arrive: one whose command waits for them first, else the own shard of the index, else the
mirror copy. -/
def awaited (s : State) (b : Blocks) : Option Shard :=
  let l := (if b.kind = 2 then [true] else [false, true]).filterMap fun m => shardBy s b.job b.shard m
  (l.find? fun sh => (askedCmd s sh).isSome).or l.head?

/-- The PROMOTE whose source sends blocks. -/
def promoFrom (s : State) (b : Blocks) : Option Promo :=
  match s.mir.promo with
  | some p => if localPeer s p.src = b.src ∧ p.job = b.job then some p else none
  | none => none

/-- FETCH_DATA: blocks of a copy arrive, for a PROMOTE, for the repair of one block, or for a shard that no record
can restore. -/
def execFetchData (b : Blocks) (s : State) : Out :=
  if !live s ∨ !transportOn s then .next s
  else match promoFrom s b with
  | some p => match p.todo with
    | [] => .next s
    | e :: _ => match promoShard s p.ctx e with
      | some sh => if sh.idx = b.shard ∧ !s.err.ka ∧ mayLead s then .next (promoData s p sh b) else .next s
      | none => .next (promoFail s)
  | none => fromPartner s b.job b.src fun fil =>
    match awaited s b with
    | none => s
    | some sh =>
      if b.kind = 2 then (if b.data.isEmpty then s else writeBlocks s sh 2 b.first b.data)
      else if b.last && b.hdr.isEmpty && b.kind != 5 then
        if b.data.isEmpty then repairElse s sh b.kind
        else if (pairOf s fil).st = .up ∧ copySettled s sh then writeBlocks s sh b.kind b.first b.data else s
      else
        let s1 := writeBlocks s sh b.kind b.first b.data
        if b.last then fetchEnd s1 sh b.hdr else s1

end Sys2Proof.Machine
end

