-- ==== Sys2Proof/Machine/VecOps.lean ====
section
/-!
DEFINITION. Operand forms and lane operations of the vector classes (R116, R117, R123, R127 to
R129), and the Convert layout of Table 4-4.
-/

namespace Sys2Proof.Machine

/-- The format of a vector type: F32, F16, BF16 (R127). -/
def tyFmt (ty : Nat) : Fmt := if ty = 0 then f32 else if ty = 1 then f16 else bf16

/-- The IEEE direction that RND names (R121). -/
def rndOf (r : BitVec 2) : Rnd :=
  if r = 0 then .rne else if r = 1 then .rtz else if r = 2 then .rup else .rdn

/-- Is lane `i` active (R117)? -/
def active (x : SlotSt) (f : Fld) (i : Nat) : Bool := !f.pen || bit (pget x f.pred.toNat) i

/-- The low or high element of a packed lane (R116). -/
def loEl (w : B32) : Nat := w.toNat % 65536
def hiEl (w : B32) : Nat := w.toNat / 65536
def packEl (lo hi : Nat) : B32 := bv 32 (lo % 65536 + hi % 65536 * 65536)

/-- A 32-bit operand as every lane of a type sees it: its high half twice for a packed type (R123). -/
def spread (ty : Nat) (w : B32) : Lanes :=
  List.replicate 128 (if ty = 1 ∨ ty = 2 then packEl (hiEl w) (hiEl w) else w)

/-- The second operand of a vector arithmetic instruction (R123). -/
def vOperand (x : SlotSt) (f : Fld) : Lanes :=
  let ty := f.ty.toNat
  if f.bsrc = 0 then vget x f.rb.toNat
  else if f.bsrc = 1 then spread ty ((sget x f.rb).extractLsb' 0 32)
  else if f.form then spread ty f.imm32
  else if ty = 3 then spread ty (f.imm18.signExtend 32)
  else spread ty (bv 32 (f.imm18.toNat * 2 ^ 14))

/-- New lanes where active, old ones elsewhere. -/
def mergeLanes (x : SlotSt) (f : Fld) (old new : Lanes) : Lanes :=
  (old.zip new).zipIdx.map fun p => if active x f p.2 then p.1.2 else p.1.1

/-- A predicate register from a bit per lane. -/
def predOf (g : Nat → Bool) : B128 :=
  bv 128 ((List.range 128).foldl (fun a i => a + b2n (g i) * 2 ^ i) 0)

/-- An operation of R52 on the elements of one lane: result and flags. -/
def floatLane (ty : Nat) (op : Fmt → Nat → Nat → Nat → Nat × Nat) (a b c : B32) : B32 × Nat :=
  if ty = 0 then
    let r := op f32 a.toNat b.toNat c.toNat
    (bv 32 r.1, r.2)
  else
    let l := op (tyFmt ty) (loEl a) (loEl b) (loEl c)
    let h := op (tyFmt ty) (hiEl a) (hiEl b) (hiEl c)
    (packEl l.1 h.1, l.2 ||| h.2)

/-- Lanes a, b, c with their operation applied: results and flags. -/
def mapLanes (op : B32 → B32 → B32 → B32 × Nat) (a b c : Lanes) : List (B32 × Nat) :=
  (a.zip (b.zip c)).map fun p => op p.1 p.2.1 p.2.2

/-- Flags of the active lanes. -/
def laneFlags (x : SlotSt) (f : Fld) (rs : List (B32 × Nat)) : Nat :=
  rs.zipIdx.foldl (fun a p => if active x f p.2 then a ||| p.1.2 else a) 0

/-- Vd takes the results in its active lanes, FSTAT the flags. -/
def putLanes (x : SlotSt) (f : Fld) (rs : List (B32 × Nat)) : SlotSt :=
  let d := f.rd.toNat
  setFlags (vset x d (mergeLanes x f (vget x d) (rs.map (·.1)))) f.nf (laneFlags x f rs)

/-- A vector arithmetic instruction: legal types, its fields, and what it does to the slot. -/
def vecOp (sl : Slot) (f : Fld) (s : State) (types : List Nat) (u : Use) (bodyOk : Bool)
    (k : SlotSt → SlotSt) : Out :=
  issue sl 2 f s fun t =>
    guard [(badFld { u with pred := true, nf := true } f || !types.contains f.ty.toNat || !bodyOk, cMAL, 0)]
      (.done (updSlot t sl.cl sl.fil k))

/-- Fields of an instruction with Va and b, writing Vd. -/
def useVab (f : Fld) (rnd : Bool) : Use :=
  useB { f128 := true, rd := 32, ra := 32, rnd := rnd && f.ty != 3 } 32 f
/-- The same with Vc. -/
def useVabc (f : Fld) : Use := { useVab f true with rc := 32 }
/-- Fields of an instruction with Va alone. -/
def useVa (rnd : Bool) (f : Fld) : Use := { rd := 32, ra := 32, rnd := rnd && f.ty != 3 }

/-- A float operation of two or three operands, or its I32 form. -/
def arith (x : SlotSt) (f : Fld) (fop : Fmt → Nat → Nat → Nat → Nat × Nat) (iop : B32 → B32 → B32) : SlotSt :=
  let a := vget x f.ra.toNat
  let b := vOperand x f
  let c := vget x f.rc.toNat
  if f.ty = 3 then putLanes x f (mapLanes (fun p q _ => (iop p q, 0)) a b c)
  else putLanes x f (mapLanes (floatLane f.ty.toNat fop) a b c)

/-! ### Compares -/

/-- A compare writes 0 into inactive lanes and for NaN operands; NV on a signalling NaN (R128). -/
def compare (x : SlotSt) (f : Fld) (fop : Option Ordering → Bool) (iop : B32 → B32 → Bool) : SlotSt :=
  let ab := (vget x f.ra.toNat).zip (vOperand x f)
  let res := ab.map fun p =>
    if f.ty = 3 then (iop p.1 p.2, 0)
    else (fop (fcmp f32 p.1.toNat p.2.toNat),
      if isSNan f32 p.1.toNat || isSNan f32 p.2.toNat then fNV else 0)
  let fl := res.zipIdx.foldl (fun a p => if active x f p.2 then a ||| p.1.2 else a) 0
  let bits := res.zipIdx.foldl (fun a p => a + b2n (p.1.1 && active x f p.2) * 2 ^ p.2) 0
  setFlags (Sys2Proof.Machine.pset x f.rd.toNat (bv 128 bits)) f.nf fl

/-! ### Tail trees (R129) -/

/-- One level, with flags. -/
def pairFl (op : Nat → Nat → Nat × Nat) : List Nat → List Nat × Nat
  | a :: b :: t =>
    let r := op a b
    let q := pairFl op t
    (r.1 :: q.1, r.2 ||| q.2)
  | xs => (xs, 0)

def treeFl (op : Nat → Nat → Nat × Nat) : Nat → List Nat → Nat → Nat × Nat
  | 0, xs, fl => (xs.headD 0, fl)
  | k + 1, xs, fl =>
    let r := pairFl op xs
    treeFl op k r.1 (fl ||| r.2)

/-- The operands of a reduction: one per lane, or two widened ones of a packed type; the value of
inactive lanes replaced. -/
def treeIn (x : SlotSt) (f : Fld) (fill : Nat) : List Nat :=
  (vget x f.ra.toNat).zipIdx.flatMap fun p =>
    if f.ty = 0 ∨ f.ty = 3 then [if active x f p.2 then p.1.toNat else fill]
    else if active x f p.2 then [widen (tyFmt f.ty.toNat) (loEl p.1), widen (tyFmt f.ty.toNat) (hiEl p.1)]
    else [fill, fill]

/-- A reduction into every lane of Vd. -/
def reduce (x : SlotSt) (f : Fld) (fop : Nat → Nat → Nat × Nat) (iop : Nat → Nat → Nat) (ffill ifill : Nat) :
    SlotSt :=
  let r := if f.ty = 3 then treeFl (fun a b => (iop a b, 0)) 7 (treeIn x f ifill) 0
    else treeFl fop (if f.ty = 0 then 7 else 8) (treeIn x f ffill) 0
  let d := f.rd.toNat
  setFlags (vset x d (mergeLanes x f (vget x d) (List.replicate 128 (bv 32 r.1)))) f.nf r.2

/-- I32 minimum and maximum on 32-bit words as numbers. -/
def imin (a b : Nat) : Nat := if signedOf 32 a ≤ signedOf 32 b then a else b
def imax (a b : Nat) : Nat := if signedOf 32 b ≤ signedOf 32 a then a else b

/-! ### The Convert layout (Table 4-4) -/

def extStream (f : Fld) : Nat := bits f.ext 31 16
def extFmt (f : Fld) : Nat := bits f.ext 15 12
def extEsc (f : Fld) : Nat := bits f.ext 11 8
def extSr (f : Fld) : Bool := bit f.ext 7
def extRe (f : Fld) : BitVec 6 := bv 6 (bits f.ext 6 1)
def extAbsent (f : Fld) : Bool := bit f.ext 0

/-- The rounding of element `e` of a vector conversion with lane base `base` (R132). -/
def vecRnd (c : Ctx) (step : Nat) (f : Fld) (base e : Nat) : Rnd :=
  if extSr f then .sr 16 (dillBits 16 c.seed.toNat step (extStream f) (base + e) f.imm32.toNat 2) else .rne

/-- The checks of a statistics record named by RE: aligned, and writable through the context; a walk's
own record comes with the fault (R132, R105, R154). -/
def withStat (s : State) (sl : Slot) (va : Nat) (e : Eff) : Eff :=
  if va % 64 ≠ 0 then .fault cALIGN va
  else
    let id := slotCtx s sl.cl sl.fil
    match xlate s (some (sl.cl, sl.fil)) id va .write with
    | .miss l p b => .trap (logPt s id (.trans va l p b)) va
    | .ok _ => e

end Sys2Proof.Machine
end

