-- ==== Sys2Proof/Machine/TileOps.lean ====
section
/-!
DEFINITION. Tile descriptors (R110, Table 3-11) and the elements of a tile in scratch: reading and
decoding them (R65 to R72), encoding and storing rows (R66 to R70, R108).
-/

namespace Sys2Proof.Machine

/-- A tile descriptor's fields. -/
structure TileD where
  use : Nat
  stream : Nat
  tcols : Nat
  ocol : Nat
  orow : Nat
  sstride : Nat
  rstride : Nat
  cols : Nat
  rows : Nat
  trans : Bool
  absent : Bool
  fmt : Nat
  soff : Nat
  doff : Nat
  /-- a reserved bit is set -/
  resv : Bool
deriving DecidableEq, Repr

def parseTile (d : BitVec 256) : TileD :=
  { use := bits d 247 216, stream := bits d 215 200, tcols := bits d 199 176, ocol := bits d 175 152
    orow := bits d 151 128, sstride := bits d 127 112, rstride := bits d 111 96
    cols := bits d 89 80 + 1, rows := bits d 73 64 + 1, trans := bit d 51, absent := bit d 50
    fmt := bits d 49 46, soff := bits d 45 23, doff := bits d 22 0
    resv := bits d 255 248 != 0 || bits d 95 90 != 0 || bits d 79 74 != 0 || bits d 63 52 != 0 }

namespace TileD

/-- Does the tile have a scale region? -/
def scaledT (t : TileD) : Bool := scaled t.fmt t.absent
def blocks (t : TileD) : Nat := (t.cols + 31) / 32
/-- Bytes of one element of a plain format. -/
def elBytes (t : TileD) : Nat :=
  if t.fmt = 0 ∨ t.fmt = 10 then 4 else if t.fmt = 1 ∨ t.fmt = 2 then 2 else 1
/-- Data bytes of one stored row. -/
def rowBytes (t : TileD) : Nat := if t.scaledT then t.blocks * blkBytes t.fmt else t.cols * t.elBytes

/-- Does the descriptor break R110 in a slot's part of `size` bytes? -/
def bad (t : TileD) (size : Nat) : Bool :=
  t.resv || decide (10 < t.fmt) || (t.absent && !(t.fmt == 3 || t.fmt == 4)) ||
  t.doff % 64 != 0 || t.soff % 8 != 0 || t.rstride % 64 != 0 || t.sstride % 8 != 0 ||
  decide (size < t.doff + (t.rows - 1) * t.rstride + t.rowBytes) ||
  (t.scaledT && decide (size < t.soff + (t.rows - 1) * t.sstride + t.blocks)) ||
  (t.trans && t.scaledT)

/-- Logical rows and columns: TRANS exchanges the stored ones (R87). -/
def lrows (t : TileD) : Nat := if t.trans then t.cols else t.rows
def lcols (t : TileD) : Nat := if t.trans then t.rows else t.cols

/-- Scratch bytes of stored row `r`, data then scales, as offset and length in the slot's part. -/
def rowData (t : TileD) (r : Nat) : Nat × Nat := (t.doff + r * t.rstride, t.rowBytes)
def rowScale (t : TileD) (r : Nat) : Nat × Nat := (t.soff + r * t.sstride, if t.scaledT then t.blocks else 0)

end TileD

/-- The ranges of stored rows `[r, r + n)`, data and scales. -/
def TileD.rowsAt (t : TileD) (r n : Nat) : List (Nat × Nat) :=
  (List.range n).flatMap fun i => [t.rowData (r + i), t.rowScale (r + i)]

/-- The values of the first `n` elements of a stored block, and the FMT_ERR it adds: the missing positions of a partial
block are ignored (R66). -/
def decodeLive (code : Nat) (bs : List Byte) (scale n : Nat) : List FVal × Nat :=
  let cs := (unpackBlock code bs).take n
  if code = 8 then
    let (vs, bad) := decodeX cs (slice bs 16 16) scale
    (vs, b2n bad)
  else (cs.map (elemVal code scale), 0)

/-- The values of stored row `r`, as many as its columns, and malformed blocks met (R72). -/
def rowVals (s : State) (cl : Nat) (fil : Bool) (t : TileD) (r : Nat) : List FVal × Nat :=
  let (d, dn) := t.rowData r
  let bs := scrRead s cl (scrOff s cl fil d) dn
  if t.scaledT then
    let sc := scrRead s cl (scrOff s cl fil (t.rowScale r).1) t.blocks
    let bl := (List.range t.blocks).map fun b =>
      decodeLive t.fmt (slice bs (b * blkBytes t.fmt) (blkBytes t.fmt)) (sc.getD b 0).toNat (t.cols - 32 * b)
    (bl.flatMap (·.1), bl.foldl (fun a x => a + x.2) 0)
  else
    let n := t.elBytes
    ((List.range t.cols).map fun i => match fmtOf t.fmt with
      | some m => decode m (leNat (slice bs (i * n) n))
      | none => .fin Dy.zero, 0)

/-- The raw element codes of a stored row of a plain format. -/
def rowCodes (s : State) (cl : Nat) (fil : Bool) (t : TileD) (r : Nat) : List Nat :=
  let (d, dn) := t.rowData r
  let bs := scrRead s cl (scrOff s cl fil d) dn
  (List.range t.cols).map fun i => leNat (slice bs (i * t.elBytes) t.elBytes)

/-- One element of a tile by logical row and column. -/
def tileVal (s : State) (cl : Nat) (fil : Bool) (t : TileD) (i j : Nat) : FVal :=
  ((rowVals s cl fil t (if t.trans then j else i)).1).getD (if t.trans then i else j) (.fin Dy.zero)
def tileCode (s : State) (cl : Nat) (fil : Bool) (t : TileD) (i j : Nat) : Nat :=
  (rowCodes s cl fil t (if t.trans then j else i)).getD (if t.trans then i else j) 0

/-- A value to be stored: its exact value, its rounding, and whether it counts (R117). -/
structure OutEl where
  v : FVal
  rm : Rnd
  live : Bool
  /-- the bits of an accumulator value that passes with every stage off (R96) -/
  raw : Option Nat := none
deriving DecidableEq, Repr

def OutEl.zero : OutEl := { v := .fin Dy.zero, rm := .rne, live := false }

/-- A plain element converted: code and counts.  For a binary32 target, of which R100 names OVF alone, UNF is counted too
(DESIGN CHOICE, log entry 102). -/
def plainCode (fmt : Nat) (svc : Bool) (e : OutEl) : Nat × Ctr :=
  if fmt = 0 then
    match e.v with
    | .nan => (e.raw.getD f32.nanCode, { nan := 1 })
    | .inf n => (f32.infCode n, { ovf := 1 })
    | .fin d =>
      let c := (roundDy f32 .rne d).1
      (c, { ovf := b2n (fabs f32 c == f32.infCode false), unf := b2n (d.m != 0 && fabs f32 c == 0) })
  else if fmt = 10 then match e.raw with
    | some c => (c, {})
    | none => cvtI32 e.rm e.v
  else match fmtOf fmt with
    | some m => cvtPlain m svc e.rm e.v
    | none => (0, {})

/-! ### Rows stored -/

/-- A write to the slot's part: offset and bytes. -/
abbrev Wr := Nat × List Byte

/-- A write put behind others; one that continues the last joins it. -/
def joinWr (ws : List Wr) (w : Wr) : List Wr :=
  match ws.getLast? with
  | some l => if l.1 + l.2.length = w.1 then ws.dropLast ++ [(l.1, l.2 ++ w.2)] else ws ++ [w]
  | none => [w]

/-- Elements of a plain format from offset `off` on, the live ones only. -/
def plainWrs (t : TileD) (svc : Bool) (off : Nat) (es : List OutEl) : List Wr × Ctr :=
  es.zipIdx.foldl (fun a e =>
    if e.1.live then
      let (c, k) := plainCode t.fmt svc e.1
      (joinWr a.1 (off + e.2 * t.elBytes, leBytes t.elBytes c), a.2.add k)
    else a) ([], {})

/-- Blocks of a stored row from block `b` on, each written whole (R66): data and scales.  Where the elements end inside a
block of a longer row, the rest of the block takes +0 codes (DESIGN CHOICE, log entry 101). -/
def blockWrs (t : TileD) (svc : Bool) (esc i b : Nat) (es : List OutEl) : List Wr × Ctr :=
  let os := (groupsOf 32 es).map fun g =>
    encodeBlock t.fmt svc esc (g.map fun e => if e.live then (e.v, e.rm) else (.fin Dy.zero, .rne))
  ([(t.doff + i * t.rstride + b * blkBytes t.fmt, os.flatMap fun o => packBlock t.fmt o.codes o.side),
    (t.soff + i * t.sstride + b, os.map fun o => bv 8 o.scale)],
   os.foldl (fun a o => a.add o.ctr) {})

/-- The writes of a stored row `i` from stored column `j` on (a multiple of 32 in a tile with scales). -/
def storedWrs (t : TileD) (svc : Bool) (esc i j : Nat) (es : List OutEl) : List Wr × Ctr :=
  if t.scaledT then blockWrs t svc esc i (j / 32) es
  else plainWrs t svc (t.doff + i * t.rstride + j * t.elBytes) es

/-- Writes and counts of several rows. -/
def sumWrs (l : List (List Wr × Ctr)) : List Wr × Ctr :=
  (l.flatMap (·.1), l.foldl (fun a x => a.add x.2) {})

/-- Rows and columns of a grid exchanged; `n` columns. -/
def flip {α : Type} (n : Nat) (g : List (List α)) : List (List α) :=
  (List.range n).map fun j => g.filterMap fun r => r[j]?

/-- The writes of a grid of elements at logical row `i`, column `j` (R87, R108). -/
def gridWrs (t : TileD) (svc : Bool) (esc i j : Nat) (g : List (List OutEl)) : List Wr × Ctr :=
  if t.trans then
    sumWrs ((flip (g.headD []).length g).zipIdx.map fun r => storedWrs t svc esc (j + r.2) i r.1)
  else sumWrs (g.zipIdx.map fun r => storedWrs t svc esc (i + r.2) j r.1)

/-- Why work on scratch stopped: the code of a program fault and its address, or code 0 where a Contained error of R111
has stopped the slot (R112). -/
abbrev Stop := Nat × Nat

/-- Writes made in order up to one that needs a word that cannot be read (R111). -/
def putWrs (cl : Nat) (fil : Bool) : List Wr → State → State × Option Stop
  | [], s => (s, none)
  | (a, bs) :: ws, s =>
    let rs := partRanges a bs.length
    if (rangeBad s cl fil rs).isSome then (s, some (cPOISON, a))
    else
      let (s1, stop) := meetWords s cl fil (rangeWords s cl fil rs)
      if stop then (s1, some (0, 0)) else putWrs cl fil ws (scrWrite s1 cl (scrOff s cl fil a) bs)

/-- The words that writes cover in part, as ranges. -/
def wrsPart (ws : List Wr) : List (Nat × Nat) := ws.flatMap fun w => partRanges w.1 w.2.length

end Sys2Proof.Machine
end

