-- ==== Sys2Proof/Machine/MatOps.lean ====
section
/-!
DEFINITION. The matrix array (R87 to R96) and the output stage (R99 to R107): operand rows, group
sums, the output control block, the pipeline from an accumulator row to stored elements, and the
additions to the statistics record.
-/

namespace Sys2Proof.Machine

/-! ### Extents and operands -/

def pow2In (n : Nat) : Bool := [16, 32, 64, 128, 256, 512, 1024].contains n

/-- Are two operand formats a pair of Table 3-3? -/
def pairOk (a b : Nat) : Bool :=
  let is16 (x : Nat) := x == 1 || x == 2
  let is8 (x : Nat) := x == 3 || x == 4
  let is64 (x : Nat) := decide (5 ≤ x) && decide (x ≤ 7)
  let short (x : Nat) := is8 x || is64 x || x == 9
  (a == 0 && b == 0) || (is16 a && (is16 b || short b)) || (is16 b && short a) ||
  (is8 a && (is8 b || is64 b)) || (is8 b && is64 a) || (a == 9 && b == 9) || (is64 a && is64 b)

/-- M, N and K of a product, and is it malformed (R87, R88, R91, R108, R110)?  Integer mode does not
check the scale regions (R95). -/
def mmaExtents (a b : TileD) (int : Bool) (size : Nat) : Nat × Nat × Nat × Bool :=
  let bad (t : TileD) : Bool :=
    if int && t.fmt == 9 then
      ({ t with soff := 0, sstride := 0 } : TileD).bad size
    else t.bad size
  (a.lrows, b.lrows, a.lcols,
   bad a || bad b || !pairOk a.fmt b.fmt || (int && !(a.fmt == 9 && b.fmt == 9)) || decide (b.lcols < a.lcols) ||
   !(pow2In a.lrows && pow2In b.lrows && pow2In a.lcols))

/-- A signed INT8 or INT32 code. -/
def intCode (fmt c : Nat) : Int := if fmt = 10 then signedOf 32 c else signedOf 8 c

/-- The value of a plain code, INT32 included. -/
def codeVal (fmt c : Nat) : FVal :=
  match fmtOf fmt with
  | some m => decode m c
  | none => .fin ⟨decide (intCode fmt c < 0), (intCode fmt c).natAbs, 0⟩

/-- The code of stored element (r, c) of a plain tile. -/
def codeAt (s : State) (cl : Nat) (fil : Bool) (t : TileD) (r c : Nat) : Nat :=
  leNat (scrRead s cl (scrOff s cl fil (t.doff + r * t.rstride + c * t.elBytes)) t.elBytes)

/-- The first `k` values of logical row `i` of an operand (R108). -/
def opRow (s : State) (cl : Nat) (fil : Bool) (t : TileD) (k i : Nat) : List FVal :=
  if t.scaledT then (rowVals s cl fil t i).1.take k
  else (List.range k).map fun j =>
    codeVal t.fmt (if t.trans then codeAt s cl fil t j i else codeAt s cl fil t i j)

/-- The first `k` integers of row `i` of an INT8 operand, scales not read (R95). -/
def opRowInt (s : State) (cl : Nat) (fil : Bool) (t : TileD) (k i : Nat) : List Int :=
  (scrRead s cl (scrOff s cl fil (t.doff + i * t.rstride)) k).map fun b => signedOf 8 b.toNat

/-- The scratch that a pass reads of an operand for logical rows `[i, i + n)` and its first `k` columns, data and scales;
integer mode reads no scales (R95, R108). -/
def opRanges (t : TileD) (int : Bool) (k i n : Nat) : List (Nat × Nat) :=
  if t.trans then (List.range k).map fun r => (t.doff + r * t.rstride + i * t.elBytes, n * t.elBytes)
  else (List.range n).flatMap fun r =>
    if t.scaledT then (t.doff + (i + r) * t.rstride, k * blkBytes t.fmt / 32) ::
      (if int then [] else [(t.soff + (i + r) * t.sstride, (k + 31) / 32)])
    else [(t.doff + (i + r) * t.rstride, k * t.elBytes)]

/-- The scratch of a sub-block of a tile, `h` rows and `w` columns from logical position (i, j) on. -/
def blockRanges (t : TileD) (i j h w : Nat) : List (Nat × Nat) :=
  if t.trans then (List.range w).map fun c => (t.doff + (j + c) * t.rstride + i * t.elBytes, h * t.elBytes)
  else (List.range h).flatMap fun r =>
    if t.scaledT then
      [(t.doff + (i + r) * t.rstride + j / 32 * blkBytes t.fmt, (w + 31) / 32 * blkBytes t.fmt),
       (t.soff + (i + r) * t.sstride + j / 32, (w + 31) / 32)]
    else [(t.doff + (i + r) * t.rstride + j * t.elBytes, w * t.elBytes)]

/-- Do two lists of ranges share a byte? -/
def overlap (a b : List (Nat × Nat)) : Bool :=
  a.any fun x => b.any fun y => x.2 != 0 && y.2 != 0 && decide (x.1 < y.1 + y.2) && decide (y.1 < x.1 + x.2)

/-! ### Group sums -/

/-- The exact product of two operand values. -/
def fMul : FVal → FVal → FVal
  | .nan, _ => .nan
  | _, .nan => .nan
  | .inf s, .inf t => .inf (s != t)
  | .inf s, .fin y => if y.m = 0 then .nan else .inf (s != y.neg)
  | .fin x, .inf t => if x.m = 0 then .nan else .inf (x.neg != t)
  | .fin x, .fin y => .fin (x.mul y)

/-- The exact sum. -/
def fAdd : FVal → FVal → FVal
  | .nan, _ => .nan
  | _, .nan => .nan
  | .inf s, .inf t => if s = t then .inf s else .nan
  | .inf s, _ => .inf s
  | _, .inf t => .inf t
  | .fin x, .fin y => .fin (x.add y false)

/-- The largest exponent among non-zero products. -/
def topOf : List FVal → Option Int
  | [] => none
  | .fin d :: ps =>
    if d.m = 0 then topOf ps
    else some (match topOf ps with | some e => max e (topExp d.m d.e) | none => topExp d.m d.e)
  | _ :: ps => topOf ps

/-- A product in whole quanta of 2^q, truncated in magnitude. -/
def quanta (q : Int) : FVal → Int
  | .fin d =>
    let k : Int := (roundMag .rtz d.neg d.m d.e q).1
    if d.neg then -k else k
  | _ => 0

/-- s_g of R89 and R90; non-zero products that cancel to exactly 0 give +0 (DESIGN CHOICE, log entry 116). -/
def groupSum (ps : List FVal) : FVal :=
  let pos := ps.any fun p => p = .inf false
  let neg := ps.any fun p => p = .inf true
  if ps.any (fun p => p = .nan) || (pos && neg) then .nan
  else if pos then .inf false
  else if neg then .inf true
  else match topOf ps with
    | none => .fin Dy.zero
    | some e =>
      let t := (ps.map (quanta (e - 26))).foldl (· + ·) 0
      .fin ⟨decide (t < 0), t.natAbs, e - 26⟩

/-- acc + s_g, one rounding; a NaN becomes the default NaN (R90). -/
def accAdd (acc : B32) (g : FVal) : B32 := bv 32 (toF32 (fAdd (decode f32 acc.toNat) g))

/-- One element of a floating product (R89). -/
def dotF (acc : B32) (a b : List FVal) : B32 :=
  (groupsOf 32 (a.zip b)).foldl (fun x g => accAdd x (groupSum (g.map fun p => fMul p.1 p.2))) acc

/-- A saturating INT32 addition, and did it saturate? -/
def satAdd (acc : B32) (k : Int) : B32 × Bool :=
  let t := acc.toInt + k
  if t < -(2 ^ 31) then (0x80000000, true) else if 2 ^ 31 ≤ t then (0x7FFFFFFF, true)
  else (BitVec.ofInt 32 t, false)

/-- One element of an integer product (R95). -/
def dotI (acc : B32) (a b : List Int) : B32 × Bool :=
  (groupsOf 32 (a.zip b)).foldl (fun x g =>
    let r := satAdd x.1 ((g.map fun p => p.1 * p.2).foldl (· + ·) 0)
    (r.1, x.2 || r.2)) (acc, false)

/-! ### The output control block (Table 3-8) -/

structure Ocb where
  dualT : Nat
  multVec : Bool
  dual : Bool
  stats : Bool
  clip : Bool
  bias : Bool
  src : Nat
  int : Bool
  amax : Nat
  esc : Nat
  sr : Bool
  fmt : Nat
  scale : Nat
  scaleOff : Nat
  biasOff : Nat
  lo : Nat
  hi : Nat
  mult : Nat
  tgt : Int
  shift : Nat
  multOff : Nat
  statVa : Nat
  amaxVa : Nat
  /-- a reserved field is not 0 -/
  resv : Bool
deriving DecidableEq, Repr

def parseOcb (b : List Byte) : Ocb :=
  let w (o : Nat) : Nat := leNat (slice b o 4)
  let q (o : Nat) : Nat := leNat (slice b o 8)
  let c := w 0
  { dualT := c / 2 ^ 19 % 16, multVec := c.testBit 18, dual := c.testBit 17, stats := c.testBit 16
    clip := c.testBit 15, bias := c.testBit 14, src := c / 2 ^ 12 % 4, int := c.testBit 11
    amax := c / 2 ^ 9 % 4, esc := c / 2 ^ 5 % 16, sr := c.testBit 4, fmt := c % 16
    scale := w 4, scaleOff := w 8, biasOff := w 0xC, lo := w 0x10, hi := w 0x14, mult := w 0x18
    tgt := signedOf 8 (w 0x1C / 256 % 256), shift := w 0x1C % 64, multOff := w 0x20
    statVa := q 0x28, amaxVa := q 0x30
    resv := decide (2 ^ 23 ≤ c) || decide (2 ^ 23 ≤ w 8) || decide (2 ^ 23 ≤ w 0xC) || decide (2 ^ 23 ≤ w 0x20) ||
      decide (2 ^ 16 ≤ w 0x1C) || decide (w 0x1C / 64 % 4 ≠ 0) || decide (w 0x24 ≠ 0) || decide (q 0x38 ≠ 0) ||
      decide (2 ^ 52 ≤ q 0x28) || decide (2 ^ 52 ≤ q 0x30) }

namespace Ocb

/-- Is the statistics record reached at all? -/
def usesRec (o : Ocb) : Bool := o.stats || o.amax != 0 || o.src == 3

/-- Does the block break R101 (a STATS_VA or AMAX_VA that is not aligned does: DESIGN CHOICE, log entry 98), for the output descriptor `t` and the dual descriptor `d`? -/
def bad (o : Ocb) (t d : TileD) : Bool :=
  o.resv || o.amax == 3 || o.shift == 63 || decide (10 < o.fmt) || o.fmt != t.fmt ||
  (o.dual && o.fmt != d.fmt) || (o.int && o.src != 0) ||
  (o.clip && (isNan f32 o.lo || isNan f32 o.hi || fcmp f32 o.lo o.hi == some .gt)) ||
  (o.usesRec && o.statVa % 64 != 0) || (o.src == 3 && o.amaxVa % 64 != 0)

/-- The per-column vectors in use: scratch offset of each. -/
def vecs (o : Ocb) : List Nat :=
  (if o.src = 2 then [o.scaleOff] else []) ++ (if o.bias then [o.biasOff] else []) ++
  (if o.int && o.multVec then [o.multOff] else [])

end Ocb

/-! ### Stages 1 to 6 -/

/-- What the stages of a pass take. -/
structure OutP where
  o : Ocb
  ot : TileD
  /-- dual descriptor -/
  du : TileD
  sexp : Int
  svc : Bool
  seed : Nat
  step : Nat
  mode : Nat
  /-- column vectors of the whole tile -/
  sv : List Nat
  bvec : List Nat
  mv : List Nat
deriving DecidableEq, Repr

/-- The value before the clip: stages 1 to 4, the tile's bits read in the mode of the control block (log entry 117). -/
def preClip (p : OutP) (col : Nat) (acc : B32) : FVal :=
  let x : FVal :=
    if p.o.int then
      let m := signedOf 32 (if p.o.multVec then nth0 p.mv col else p.o.mult)
      let t := acc.toInt * m
      .fin ⟨decide (t < 0), t.natAbs, -(p.o.shift : Int)⟩
    else
      let v := decode f32 acc.toNat
      if p.o.src = 0 then v
      else if p.o.src = 1 then fMul v (decode f32 p.o.scale)
      else if p.o.src = 2 then fMul v (decode f32 (nth0 p.sv col))
      else fMul v (.fin ⟨false, 1, p.sexp⟩)
  if p.o.bias then fAdd x (decode f32 (nth0 p.bvec col)) else x

/-- Is a value below another? -/
def fLt : FVal → FVal → Bool
  | .nan, _ => false
  | _, .nan => false
  | .inf s, .inf t => s && !t
  | .inf s, .fin _ => s
  | .fin _, .inf t => !t
  | .fin x, .fin y => x.lt y

def fNeg : FVal → FVal
  | .fin d => .fin { d with neg := !d.neg }
  | .inf s => .inf (!s)
  | .nan => .nan

/-- Stage 5: the value, and for a clipped element its excess d in binary32 (R103). -/
def clipped (o : Ocb) (x : FVal) : FVal × Option W32 :=
  if !o.clip then (x, none)
  else
    let lo := decode f32 o.lo
    let hi := decode f32 o.hi
    let y := if fLt x lo then some lo else if fLt hi x then some hi else none
    match y with
    | none => (x, none)
    | some y => (y, some (match x with
        | .inf s => f32.infCode s
        | _ => toF32 (fAdd x (fNeg y))))

/-- The magnitude that stage 6 takes of a value, in binary32; 0 when it is not finite (R104). -/
def amaxOf : FVal → W32
  | .fin d => (roundDy f32 .rne d.abs).1
  | _ => 0

def maxMagW (xs : List W32) : W32 := xs.foldl max 0

/-! ### The statistics record -/

/-- What a pass adds to its record. -/
structure Adds where
  ctr : Ctr := {}
  elem : Nat := 0
  ds : List W32 := []
  amax : W32 := 0
deriving DecidableEq, Repr

/-- SSE and SSE_SAT after one clipped element (R103). -/
def sseAdd (ex : Int) (a : Nat × Bool) (d : W32) : Nat × Bool :=
  match decode f32 d with
  | .fin x =>
    let t := a.1 + (roundMag .rtz false (x.m * x.m) (2 * x.e) ex).1
    if 2 ^ 64 ≤ t then (2 ^ 64 - 1, true) else (t, a.2)
  | _ => (2 ^ 64 - 1, true)

/-- SSE, AMAX and TSCALE_EXP of a record brought up to date. -/
def recTail (bs : List Byte) (o : Ocb) (sexp : Int) (a : Adds) : List Byte :=
  let ctl := leNat (slice bs 0x2C 4)
  let ex := signedOf 8 (ctl / 2 ^ 24)
  let (sse, ss) := if o.stats && o.amax != 2 then a.ds.foldl (sseAdd ex) (leNat (slice bs 0x20 8), ctl.testBit 1)
    else (leNat (slice bs 0x20 8), ctl.testBit 1)
  let old := leNat (slice bs 0x28 4)
  let am := if o.amax ≠ 0 ∧ fcmp f32 old a.amax = some .lt then a.amax else old
  let ts := if o.src = 3 then unsignedOf 8 sexp else ctl / 2 ^ 16 % 256
  slice bs 0 0x20 ++ leBytes 8 sse ++ leBytes 4 am ++
  leBytes 4 (ctl / 2 ^ 24 * 2 ^ 24 + ts * 2 ^ 16 + ctl / 4 % 2 ^ 14 * 4 + b2n ss * 2 + ctl % 2) ++ slice bs 0x30 16

/-- A pass's additions to the record at STATS_VA; where it cannot be reached, a fault: TRANSLATION (R105), or POISON
for a poisoned line (DESIGN CHOICE, log entry 99). -/
def recAdd (s : State) (id : Nat) (p : OutP) (a : Adds) : State × Option Stop :=
  if !p.o.usesRec then (s, none)
  else
    let va := p.o.statVa
    match loadVa s id va 64 with
    | (s0, _, some e) => (logPt s0 id e, some (match e with | .poison _ _ => cPOISON | _ => cTRANS, va))
    | (s0, bs, none) =>
      let b1 := if p.o.stats && p.o.amax != 2 then statBytes bs a.ctr a.ds.length a.elem p.o.fmt p.mode else bs
      match writeVa s0 none id va (recTail b1 p.o p.sexp a) with
      | (s1, none) => (s1, none)
      | (_, some e) => (logPt s0 id e, some (cTRANS, va))

/-! ### Stages 7 to 11 -/

/-- The rounding of element (i, j) of a copy (R100, R78).  INT32 in integer mode ties to even whatever RND is, as the
text of R102 has it (DESIGN CHOICE, log entry 96). -/
def outRnd (p : OutP) (t : TileD) (i j : Nat) : Rnd :=
  if p.o.fmt = 0 ∨ (p.o.fmt = 10 ∧ p.o.int) ∨ !p.o.sr then .rne
  else .sr 8 (dillBits 8 p.seed p.step t.stream ((t.orow + i) * t.tcols + t.ocol + j) t.use 1)

/-- A copy's elements from position (i, j) on. -/
def copyEls (p : OutP) (t : TileD) (i j : Nat) (g : List (List (FVal × Option Nat))) : List (List OutEl) :=
  g.zipIdx.map fun r => r.1.zipIdx.map fun e =>
    { v := e.1.1, rm := outRnd p t (i + r.2) (j + e.2), live := true, raw := e.1.2 }

/-- Are the stages before the clip off, for an output of the accumulator tile's own format (`tint`: a tile in integer
mode)?  Then accumulator values pass unchanged (R96); a NaN passes the clip too (R99). -/
def passThrough (o : Ocb) (tint : Bool) : Bool :=
  !o.int && (o.fmt == 0 || (o.fmt == 10 && tint)) && o.src == 0 && !o.bias

/-- The bits of an accumulator value that leave as they are. -/
def rawBits (o : Ocb) (tint : Bool) (acc : B32) : Option Nat :=
  if passThrough o tint ∧ (!o.clip ∨ (o.fmt = 0 ∧ isNan f32 acc.toNat)) then some acc.toNat else none

/-- Accumulator rows of the sub-block at (i0, j0) through the output stage: state, and why it stopped. -/
def outPass (s : State) (cl : Nat) (fil : Bool) (id : Nat) (p : OutP) (i0 j0 : Nat) (sat tint : Bool)
    (acc : List (List B32)) : State × Option Stop :=
  let cells := acc.map fun r => r.zipIdx.map fun a => clipped p.o (preClip p (j0 + a.2) a.1)
  let vals := cells.map fun r => r.map (·.1)
  let els := (vals.zip acc).map fun r => (r.1.zip r.2).map fun e =>
    (e.1, rawBits p.o tint e.2)
  let n := (cells.map List.length).foldl (· + ·) 0
  let ds := cells.flatMap fun r => r.filterMap (·.2)
  let am := maxMagW (vals.flatMap fun r => r.map amaxOf)
  let one := gridWrs p.ot p.svc p.o.esc i0 j0 (copyEls p p.ot i0 j0 els)
  let two := if p.o.dual then
      gridWrs p.du p.svc p.o.esc j0 i0 (copyEls p p.du j0 i0 (flip (els.headD []).length els))
    else ([], {})
  let ctr := (one.2.add two.2).add { ovf := if sat then n else 0 }
  let (s1, e) := if p.o.amax = 2 then (s, none) else putWrs cl fil (one.1 ++ two.1) s
  match e with
  | some a => (s1, some a)
  | none => recAdd s1 id p { ctr := ctr, elem := n, ds := ds, amax := am }

/-- The sub-block of pass π: rows and columns per pass, first row, first column (R96). -/
def subBlock (m n pi : Nat) : Nat × Nat × Nat × Nat :=
  let h := min m 64
  let w := min n 128
  let m' := m / h
  (h, w, pi % m' * h, pi / m' * w)

/-- Passes of a tile. -/
def passCount (m n : Nat) : Nat := (m / min m 64) * (n / min n 128)

/-- A number of 4 bytes per column read from scratch. -/
def colVec (s : State) (cl : Nat) (fil : Bool) (off n : Nat) : List Nat :=
  let bs := scrRead s cl (scrOff s cl fil off) (4 * n)
  (List.range n).map fun i => leNat (slice bs (4 * i) 4)

/-- The parameters of an output through block `o` and descriptors, columns of the whole tile `n`. -/
def outParOf (s : State) (cl : Nat) (fil : Bool) (id step : Nat) (o : Ocb) (ot du : TileD) (sexp : Int) (n : Nat) :
    OutP :=
  let c := getCtx s id
  { o := o, ot := ot, du := du, sexp := sexp, svc := service c step, seed := c.seed.toNat, step := step
    mode := modeFor c step
    sv := if o.src = 2 then colVec s cl fil o.scaleOff n else []
    bvec := if o.bias then colVec s cl fil o.biasOff n else []
    mv := if o.int && o.multVec then colVec s cl fil o.multOff n else [] }

/-- The exponent of the scale that an AMAX gives (R104). -/
def scaleOf (tgt : Int) (amax : Nat) : Int :=
  match decode f32 amax with
  | .fin d => if d.m = 0 then 0 else max (-127) (min 127 (tgt - topExp d.m d.e))
  | _ => 0

/-- The column vectors' words that columns `[j, j + w)` take. -/
def vecRanges (o : Ocb) (j w : Nat) : List (Nat × Nat) := o.vecs.map fun v => (v + 4 * j, 4 * w)

/-- The scratch that the output of a sub-block writes: both copies. -/
def outRanges (o : Ocb) (ot du : TileD) (i j h w : Nat) : List (Nat × Nat) :=
  if o.amax = 2 then [] else blockRanges ot i j h w ++ if o.dual then blockRanges du j i w h else []

/-- What an instruction that starts output has read at issue: block, descriptors, derived scale; or the
fault it meets (R144). -/
def ocbAt (s : State) (cl : Nat) (fil : Bool) (id : Nat) (bad : Bool) (off : Nat) (ot : TileD) (n m : Nat) :
    Except Eff (List Byte × TileD × Int) :=
  let x := getSlot s cl fil
  let size := (slotPart s cl fil).2
  let inp := decide (off + 64 ≤ size)
  let so := scrOff s cl fil off
  let bs := if inp then scrRead s cl so 64 else []
  let o := parseOcb bs
  let du := parseTile (tget x o.dualT)
  let clean := inp && decide (off % 64 = 0) && !scrBad s cl so 64
  let bad2 := clean && (o.bad ot du || (o.dual && (du.bad size || decide (du.lrows < n) || decide (du.lcols < m))))
  if bad || bad2 then .error (.fault cMAL 0)
  else if off % 64 ≠ 0 then .error (.fault cALIGN off)
  else if !inp then .error (.fault cTRANS off)
  else match (if clean then o.vecs.find? fun v => decide (size < v + 4 * n) else none) with
  | some v => .error (.fault cTRANS v)
  | none =>
    if !clean then .error (.fault cPOISON off)
    else if o.src = 3 then
      match readVa s (some (cl, fil)) id o.amaxVa 64 with
      | (_, some (.trans va l p b)) => .error (.trap (logPt s id (.trans va l p b)) o.amaxVa)
      | (_, some _) => .error (.fault cPOISON o.amaxVa)
      | (rb, none) => .ok (bs, du, scaleOf o.tgt (leNat (slice rb 0x28 4)))
    else .ok (bs, du, 0)

end Sys2Proof.Machine
end

