-- ==== Sys2Proof/Machine/Matrix.lean ====
section
/-!
DEFINITION. The matrix class (R134, Table 4-11): issue, the completion of passes, the tile registers.
-/

namespace Sys2Proof.Machine

/-- Mode of an accumulator tile: 0 floating, 1 integer (R95). -/
def tileMode (x : SlotSt) (a : Nat) : Nat := Tab.get (fun _ => 0) x.accMode a

/-- Tiles `[a, a + n)` initialised in a mode. -/
def setModes (x : SlotSt) (a n mode : Nat) : SlotSt :=
  { x with accMode := Tab.putMany (fun _ => 0) x.accMode a (List.replicate n mode) }

/-- The sticky ACC_SAT bit of a tile. -/
def setSat (x : SlotSt) (a : Nat) (v : Bool) : SlotSt :=
  { x with accSat := bv 8 (withBit x.accSat.toNat a v) }

/-- Passes put behind the slot's others. -/
def addPasses (x : SlotSt) (ps : List Pass) : SlotSt :=
  { x with passes := x.passes ++ ps, nextPass := x.nextPass + ps.length }

/-! ### What a pass reads and writes (R86, R98) -/

/-- The sub-block of a pass: rows, columns, first row, first column. -/
def Pass.sub (p : Pass) : Nat × Nat × Nat × Nat :=
  subBlock (parseTile (p.desc.getD 0 0)).lrows (parseTile (p.desc.getD 1 0)).lrows p.pi

/-- Integer mode? -/
def Pass.int (p : Pass) : Bool := if p.stream then (parseOcb p.ocb).int else bit p.f.imm18 1

/-- The C tile of a streaming pass. -/
def Pass.cTile (p : Pass) : Option TileD :=
  if !p.stream || bit p.f.ext 0 then none else some (parseTile (p.desc.getD 3 0))

/-- The scratch that a pass reads, in the slot's part. -/
def Pass.reads (p : Pass) : List (Nat × Nat) :=
  let (h, w, i, j) := p.sub
  let a := parseTile (p.desc.getD 0 0)
  opRanges a p.int a.lcols i h ++ opRanges (parseTile (p.desc.getD 1 0)) p.int a.lcols j w ++
  (match p.cTile with | some c => blockRanges c i j h w | none => []) ++
  if p.stream then vecRanges (parseOcb p.ocb) j w else []

/-- The scratch that a pass writes. -/
def Pass.writes (p : Pass) : List (Nat × Nat) :=
  let (h, w, i, j) := p.sub
  if p.stream then
    outRanges (parseOcb p.ocb) (parseTile (p.desc.getD 2 0)) (parseTile (p.desc.getD 4 0)) i j h w
  else []

/-- Must work that reads and writes ranges of scratch, and accumulator tiles `[a, a + n)`, wait for an earlier pass
that is in flight (R86)? -/
def waitsFor (rd wr : List (Nat × Nat)) (a n : Nat) (p : Pass) : Bool :=
  overlap rd p.writes || overlap wr p.reads || overlap wr p.writes ||
  (!p.stream && decide (a ≤ p.tile) && decide (p.tile < a + n))

/-- Must it wait for one of the slot's passes? -/
def mustWait (x : SlotSt) (rd wr : List (Nat × Nat)) (a n : Nat) : Bool := x.passes.any (waitsFor rd wr a n)

/-- Must a pass wait for one of the earlier passes: one of its own instruction (R96), or one whose work it meets (R86)? -/
def Pass.behind (p : Pass) (es : List Pass) : Bool :=
  es.any fun e => e.ins == p.ins || waitsFor p.reads p.writes p.tile (if p.stream then 0 else 1) e

/-- Where a pass accumulates: its tile, or one of the two streaming buffers, numbered 8 and 9 (R116). -/
def Pass.buf (p : Pass) : Nat := if p.stream then 8 + p.pi % 2 else p.tile

/-- The accumulator words that a pass works on, and those that it writes anew before it reads any. -/
def Pass.block (p : Pass) : Nat → Bool := accBlock p.buf p.sub.1 p.sub.2.1
def Pass.fresh (p : Pass) : Nat → Bool :=
  if p.stream then accBlock p.buf 64 128 else if bit p.f.imm18 0 then accBlock p.buf 64 128 else fun _ => false

/-- MMA.R: the passes of a resident product are issued (R96); an IMM18 above 3 is MALFORMED (log entry 103). -/
def execMmaR (sl : Slot) (f : Fld) (w : Nat) (s : State) : Out :=
  issue sl 4 f s fun t =>
    let x := getSlot t sl.cl sl.fil
    let da := tget x f.ra.toNat
    let db := tget x f.rb.toNat
    let int := bit f.imm18 1
    let init := bit f.imm18 0
    let (m, n, _, bad) := mmaExtents (parseTile da) (parseTile db) int (slotPart t sl.cl sl.fil).2
    let np := passCount m n
    let a := f.rd.toNat
    let clash := !init && (List.range np).any fun i => tileMode x (a + i) != b2n int
    guard [(badFld { rd := 8, ra := 16, rb := 16, imm := true } f || decide (4 ≤ f.imm18.toNat) || bad ||
            decide (8 < a + np) || clash, cMAL, 0)]
      (let ps : List Pass := (List.range np).map fun i =>
          { k := x.nextPass + i, ins := x.nextPass, stream := false, f := f, pi := i, desc := [da, db],
            ocb := [], sexp := 0, tile := a + i, step := x.stepNo.toNat, pc := x.pc }
       let y := addPasses (if init then setModes x a np (b2n int) else x) ps
       .done (waited sl w (setSlot t sl.cl sl.fil y)))

/-- The output control block when it can be read: in the slot's part, aligned, not poisoned. -/
def peekOcb (s : State) (sl : Slot) (off : Nat) : Option Ocb :=
  let so := scrOff s sl.cl sl.fil off
  if off + 64 ≤ (slotPart s sl.cl sl.fil).2 ∧ off % 64 = 0 ∧ !scrBad s sl.cl so 64 then
    some (parseOcb (scrRead s sl.cl so 64))
  else none

/-- The block, and the record at AMAX_VA where it is used, are read: errors of their words and lines are met; the flag
tells that the instruction does not go on (R111, R159). -/
def ocbMeet (s : State) (sl : Slot) (off : Nat) : State × Bool :=
  match peekOcb s sl off with
  | none => (s, false)
  | some o =>
    let (t, stop) := meetWords s sl.cl sl.fil (rangeWords s sl.cl sl.fil [(off, 64)])
    (if o.src = 3 then meetVa t (some (sl.cl, sl.fil)) (slotCtx t sl.cl sl.fil) o.amaxVa 64 else t, stop)

/-- The scratch offset of the output control block of MMA.S. -/
def ocbOff (x : SlotSt) (f : Fld) : Nat := (sget x (bv 6 (bits f.ext 6 1))).toNat

/-- MMA.S: the passes of a streaming product are issued, with descriptors and output control block as
they are now. -/
def execMmaS (sl : Slot) (f : Late Fld) (s : State) : Out :=
  let w := f.wait
  let f := f.op
  issue sl 4 f s fun t0 =>
    let off := ocbOff (getSlot t0 sl.cl sl.fil) f
    let (t, stop) := ocbMeet t0 sl off
    if stop then .hold t
    else if mustWait (getSlot t sl.cl sl.fil) [(off, 64)] [] 0 0 then .hold t0 else
    let x := getSlot t sl.cl sl.fil
    let size := (slotPart t sl.cl sl.fil).2
    let czero := bit f.ext 0
    let int := match peekOcb t sl off with | some o => o.int | none => false
    let da := tget x f.ra.toNat
    let db := tget x f.rb.toNat
    let dO := tget x f.rd.toNat
    let dc := tget x f.rc.toNat
    let (m, n, _, bad) := mmaExtents (parseTile da) (parseTile db) int size
    let o := parseTile dO
    let c := parseTile dc
    let badC := !czero && (c.bad size || (c.trans && int) || c.fmt != (if int then 10 else 0) || decide (c.lrows < m) || decide (c.lcols < n))
    let badO := o.bad size || decide (o.lrows < m) || decide (o.lcols < n)
    let u : Use := { f64 := false, f128 := true, rd := 16, ra := 16, rb := 16, rc := if czero then 0 else 16, ext := true }
    match ocbAt t sl.cl sl.fil (slotCtx t sl.cl sl.fil) (badFld u f || bits f.ext 31 7 != 0 || bad || badC || badO)
        off o n m with
    | .error e => e
    | .ok (bs, _, sexp) =>
      let du := tget x (parseOcb bs).dualT
      let ps : List Pass := (List.range (passCount m n)).map fun i =>
        { k := x.nextPass + i, ins := x.nextPass, stream := true, f := f, pi := i, desc := [da, db, dO, dc, du],
          ocb := bs, sexp := sexp, tile := 8, step := x.stepNo.toNat, pc := x.pc }
      .done (waited sl w (setSlot t sl.cl sl.fil (addPasses x ps)))

/-! ### A pass -/

/-- The rest of a pass's instruction is not made: its passes are dropped. -/
def dropIns (s : State) (sl : Slot) (ins : Nat) : State :=
  updSlot s sl.cl sl.fil fun x => { x with passes := x.passes.filter fun p => p.ins != ins }

/-- A fault found while a pass runs: imprecise (R143); code 0 where an error of R111 has stopped the slot. -/
def passFault (s : State) (sl : Slot) (p : Pass) (code addr : Nat) : State :=
  if code = 0 then dropIns s sl p.ins
  else progFault (dropIns s sl p.ins) sl.cl sl.fil (slotCtx s sl.cl sl.fil) code 4 addr p.pc

/-- The cells of a sub-block: from the initial rows, the results of R89 or R95 with their ACC_SAT. -/
def passCells (s : State) (sl : Slot) (a b : TileD) (int : Bool) (k i0 j0 : Nat) (w : Nat) (acc : List Lanes) :
    List Lanes × Bool :=
  if int then
    let bc := (List.range w).map fun j => opRowInt s sl.cl sl.fil b k (j0 + j)
    let rs := acc.zipIdx.map fun r =>
      let ar := opRowInt s sl.cl sl.fil a k (i0 + r.2)
      (r.1.zip bc).map fun e => dotI e.1 ar e.2
    (rs.map fun r => r.map (·.1), rs.any fun r => r.any (·.2))
  else
    let bc := (List.range w).map fun j => opRow s sl.cl sl.fil b k (j0 + j)
    (acc.zipIdx.map fun r =>
      let ar := opRow s sl.cl sl.fil a k (i0 + r.2)
      (r.1.zip bc).map fun e => dotF e.1 ar e.2, false)

/-- Rows of an accumulator tile, `h` rows of `w` columns. -/
def tileRows (x : SlotSt) (a h w : Nat) : List Lanes := (List.range h).map fun r => (accRow x a r).take w

/-- Rows written to an accumulator tile, their parity anew; the columns beyond them keep their values. -/
def putTileRows (x : SlotSt) (a : Nat) (rows : List Lanes) : SlotSt :=
  let y := rows.zipIdx.foldl (fun y r => { y with acc := Tab.putMany (fun _ => 0) y.acc (a * 8192 + r.2 * 128) r.1 }) x
  clearAcc y (accBlock a rows.length (rows.headD []).length)

/-- A pass of MMA.R. -/
def passR (s : State) (sl : Slot) (p : Pass) : State :=
  let a := parseTile (p.desc.getD 0 0)
  let b := parseTile (p.desc.getD 1 0)
  let (h, w, i0, j0) := p.sub
  let x := getSlot s sl.cl sl.fil
  let x0 := if bit p.f.imm18 0 then setSat { x with acc := Tab.clear x.acc (p.tile * 8192) 8192 } p.tile false else x
  let (rows, sat) := passCells s sl a b p.int a.lcols i0 j0 w (tileRows x0 p.tile h w)
  let x1 := putTileRows x0 p.tile rows
  setSlot s sl.cl sl.fil (if sat then setSat x1 p.tile true else x1)

/-- The initial rows of a streaming pass: from the C tile, or zero. -/
def initRows (s : State) (sl : Slot) (c : Option TileD) (h w i0 j0 : Nat) : List Lanes :=
  match c with
  | none => List.replicate h (List.replicate w 0)
  | some t => (List.range h).map fun r => (List.range w).map fun j =>
    bv 32 (if t.trans then codeAt s sl.cl sl.fil t (j0 + j) (i0 + r) else codeAt s sl.cl sl.fil t (i0 + r) (j0 + j))

/-- A pass of MMA.S: product, then the output stage. -/
def passS (s : State) (sl : Slot) (p : Pass) : State :=
  let d (i : Nat) : TileD := parseTile (p.desc.getD i 0)
  let o := parseOcb p.ocb
  let (h, w, i0, j0) := p.sub
  let id := slotCtx s sl.cl sl.fil
  let (rows, sat) := passCells s sl (d 0) (d 1) o.int (d 0).lcols i0 j0 w (initRows s sl p.cTile h w i0 j0)
  match outPass s sl.cl sl.fil id (outParOf s sl.cl sl.fil id p.step o (d 2) (d 4) p.sexp (d 1).lrows) i0 j0 sat o.int
      rows with
  | (s1, none) => s1
  | (s1, some (code, addr)) => passFault s1 sl p code addr

/-- A pass that has left the slot's list runs: its reads meet what scratch and accumulators hold (R111).  Where the slot's
part has become smaller since it was issued, an access beyond it is refused (R84). -/
def runPass (s : State) (sl : Slot) (p : Pass) : State :=
  match (p.reads ++ p.writes).find? fun r => !inPart s sl.cl sl.fil r.1 r.2 with
  | some r => passFault s sl p cTRANS r.1
  | none =>
  match rangeBad s sl.cl sl.fil p.reads with
  | some e => passFault s sl p cPOISON e
  | none =>
    let (s1, stop) := meetWords s sl.cl sl.fil (rangeWords s sl.cl sl.fil p.reads)
    if stop then dropIns s1 sl p.ins
    else match readAcc sl p.block s1 .done with
      | .done s2 => if p.stream then passS s2 sl p else passR s2 sl p
      | .hold s2 => dropIns s2 sl p.ins
      | _ => s1

/-- MATRIX_PASS_COMPLETE: the slot's pass numbered `k` completes, behind the earlier ones that it waits for (R86, R98).
`u`: an error that shows in the cluster's storage or in the array. -/
def execMatrixPassComplete (sl : Slot) (k : Nat) (u : Upset) (s : State) : Out :=
  if 512 ≤ sl.cl then .fault (.noSuchUnit "cluster" sl.cl)
  else
    let ps := (getSlot s sl.cl sl.fil).passes
    match ps.find? fun p => p.k == k with
    | none => .next s
    | some p =>
      if p.behind (ps.takeWhile fun q => q.k != k) ∨ !slotRuns s sl.cl sl.fil then .next s
      else
        let s1 := inject (updSlot s sl.cl sl.fil fun x =>
          clearAcc { x with passes := x.passes.filter fun q => q.k != k } p.fresh) sl.cl sl.fil u
        if u = .arrayRes then .next (dropIns (cellErr s1 sl.cl sl.fil 0x0104) sl p.ins)
        else .next (runPass s1 sl p)

/-! ### MOUT, MLDA, MAMAX -/

/-- Sub-blocks from accumulator tiles through the output stage, in order of passes. -/
def moutGo (sl : Slot) (id : Nat) (p : OutP) (a m n : Nat) : List Nat → State → State × Option (Nat × Nat)
  | [], s => (s, none)
  | pi :: ps, s =>
    let x := getSlot s sl.cl sl.fil
    let (h, w, i0, j0) := subBlock m n pi
    match outPass s sl.cl sl.fil id p i0 j0 (p.o.int && bit x.accSat (a + pi)) (tileMode x (a + pi) == 1)
        (tileRows x (a + pi) h w) with
    | (s1, none) => moutGo sl id p a m n ps s1
    | (s1, some e) => (s1, some e)

/-- The words of `np` accumulator tiles from `a` on that hold the sub-blocks of an m by n tile. -/
def tileWords (m n a np : Nat) (w : Nat) : Bool :=
  (List.range np).any fun pi => accBlock (a + pi) (min m 64) (min n 128) w

/-- What MOUT reads and writes in scratch. -/
def moutReads (o : Ocb) (off n : Nat) : List (Nat × Nat) := (off, 64) :: vecRanges o 0 n

/-- MOUT: accumulator tiles through the output stage; it waits for the passes that R86 names. -/
def execMout (sl : Slot) (f : Late Fld) (s : State) : Out :=
  let w := f.wait
  let f := f.op
  issue sl 4 f s fun t0 =>
    let off := (sget (getSlot t0 sl.cl sl.fil) f.rb).toNat
    let (t, stop) := ocbMeet t0 sl off
    if stop then .hold t else
    let x := getSlot t sl.cl sl.fil
    let id := slotCtx t sl.cl sl.fil
    let o := parseTile (tget x f.rd.toNat)
    let m := o.lrows
    let n := o.lcols
    let np := passCount m n
    let bad := badFld { rd := 16, ra := 8, rb := 64 } f || o.bad (slotPart t sl.cl sl.fil).2 ||
      !(pow2In m && pow2In n) || decide (8 < f.ra.toNat + np)
    match ocbAt t sl.cl sl.fil id bad off o n m with
    | .error e => e
    | .ok (bs, du, sexp) =>
      let c := parseOcb bs
      if mustWait x (moutReads c off n) (outRanges c o du 0 0 m n) f.ra.toNat np then .hold t0
      else readRanges sl (vecRanges c 0 n) t fun t1 => readAcc sl (tileWords m n f.ra.toNat np) t1 fun t2 =>
        match moutGo sl id (outParOf t2 sl.cl sl.fil id x.stepNo.toNat c o du sexp n) f.ra.toNat m n
            (List.range np) t2 with
        | (t3, none) => .done (waited sl w t3)
        | (t3, some (code, addr)) =>
          .hold (if code = 0 then t3 else progFault t3 sl.cl sl.fil id code 4 addr x.pc)

/-- A loaded value: a NaN of a binary32 tile becomes the default NaN (R90). -/
def loadWord (fmt : Nat) (w : B32) : B32 := if fmt = 0 ∧ isNan f32 w.toNat then bv 32 f32.nanCode else w

/-- MLDA: a binary32 or INT32 tile into accumulator tiles, which take its mode. -/
def execMlda (sl : Slot) (f : Late Fld) (s : State) : Out :=
  let w := f.wait
  let f := f.op
  issue sl 4 f s fun t =>
    let x := getSlot t sl.cl sl.fil
    let d := parseTile (tget x f.ra.toNat)
    let m := d.lrows
    let n := d.lcols
    let np := passCount m n
    let a := f.rd.toNat
    guard [(badFld { rd := 8, ra := 16 } f || d.bad (slotPart t sl.cl sl.fil).2 || !(d.fmt == 0 || d.fmt == 10) ||
            (d.fmt == 10 && d.trans) || !(pow2In m && pow2In n) || decide (8 < a + np), cMAL, 0)]
      (if mustWait x (d.rowsAt 0 d.rows) [] a np then .hold t
       else readRanges sl (d.rowsAt 0 d.rows) t fun t1 =>
         .done (waited sl w (updSlot t1 sl.cl sl.fil fun z => (List.range np).foldl (fun y pi =>
           let (h, w, i0, j0) := subBlock m n pi
           setSat (putTileRows y (a + pi)
             ((initRows t1 sl (some d) h w i0 j0).map fun r => r.map (loadWord d.fmt))) (a + pi) false)
           (setModes z a np (b2n (d.fmt == 10))))))

/-- The largest finite magnitude of a tile, in binary32. -/
def tileAmax (s : State) (sl : Slot) (d : TileD) : W32 :=
  maxMagW ((List.range d.rows).flatMap fun r =>
    (if d.scaledT then (rowVals s sl.cl sl.fil d r).1
     else (rowCodes s sl.cl sl.fil d r).map (codeVal d.fmt)).map amaxOf)

/-- A record's AMAX combined with a value by maximum (R104). -/
def amaxPut (bs : List Byte) (v : W32) : List Byte :=
  let old := leNat (slice bs 0x28 4)
  slice bs 0 0x28 ++ leBytes 4 (if fcmp f32 old v = some .lt then v else old) ++ slice bs 0x2C 20

/-- MAMAX: the absolute maximum of a tile in scratch into a record.  The matrix unit reads neither E2M1X nor INT32
(Table 2-2); a tile of either is malformed (DESIGN CHOICE, log entry 100), so no format it takes has malformed blocks. -/
def execMamax (sl : Slot) (f : Late Fld) (s : State) : Out :=
  let w := f.wait
  let f := f.op
  issue sl 4 f s fun t =>
    let x := getSlot t sl.cl sl.fil
    let id := slotCtx t sl.cl sl.fil
    let d := parseTile (tget x f.ra.toNat)
    let va := (sget x f.rb).toNat
    guard [(badFld { ra := 16, rb := 64 } f || d.bad (slotPart t sl.cl sl.fil).2 || d.fmt == 8 || d.fmt == 10, cMAL, 0)]
      (if mustWait x (d.rowsAt 0 d.rows) [] 0 0 then .hold t
       else withStat t sl va (readRanges sl (d.rowsAt 0 d.rows) t fun t1 =>
         match loadVa t1 id va 64 with
         | (_, _, some e) => .fault cPOISON e.va
         | (t2, bs, none) => .done (waited sl w (writeVa t2 none id va (amaxPut bs (tileAmax t2 sl d))).1)))

/-! ### Tile registers -/

/-- TLD: 32 bytes of scratch into Td. -/
def execTld (sl : Slot) (f : Fld) (s : State) : Out :=
  issue sl 4 f s fun t =>
    let a := scrAddr (getSlot t sl.cl sl.fil) f
    guard [(badFld { rd := 16, ra := 64, imm := true } f, cMAL, 0), (a % 32 != 0, cALIGN, a),
           (!inPart t sl.cl sl.fil a 32, cTRANS, a)]
      (if mustWait (getSlot t sl.cl sl.fil) [(a, 32)] [] 0 0 then .hold t
       else readStep sl a 32 t fun t1 bs =>
        .done (updSlot t1 sl.cl sl.fil fun y => tset y f.rd.toNat (bv 256 (leNat bs))))

/-- TST: Tb into 32 bytes of scratch. -/
def execTst (sl : Slot) (f : Fld) (s : State) : Out :=
  issue sl 4 f s fun t =>
    let x := getSlot t sl.cl sl.fil
    let a := scrAddr x f
    guard [(badFld { ra := 64, rb := 16, imm := true } f, cMAL, 0), (a % 32 != 0, cALIGN, a),
           (!inPart t sl.cl sl.fil a 32, cTRANS, a)]
      (if mustWait x [] [(a, 32)] 0 0 then .hold t
       else writeStep sl a (leBytes 32 (tget x f.rb.toNat).toNat) t)

/-- Two fields of a tile register from two S registers; bits above a field's width are malformed. -/
def tilePatch (sl : Slot) (f : Fld) (s : State) (w lo1 lo2 : Nat) : Out :=
  issue sl 4 f s fun t =>
    let x := getSlot t sl.cl sl.fil
    let a := (sget x f.ra).toNat
    let b := (sget x f.rb).toNat
    let put (v lo n : Nat) : Nat := v / 2 ^ (lo + w) * 2 ^ (lo + w) + n * 2 ^ lo + v % 2 ^ lo
    let v := (tget x f.rd.toNat).toNat
    guard [(badFld { rd := 16, ra := 64, rb := 64 } f || decide (2 ^ w ≤ a) || decide (2 ^ w ≤ b), cMAL, 0)]
      (.done (setSlot t sl.cl sl.fil (tset x f.rd.toNat (bv 256 (put (put v lo1 a) lo2 b)))))

/-- TORG: ORG_ROW and ORG_COL. -/
def execTorg (sl : Slot) (f : Fld) (s : State) : Out := tilePatch sl f s 24 128 152
/-- TOFF: DATA_OFF and SCALE_OFF. -/
def execToff (sl : Slot) (f : Fld) (s : State) : Out := tilePatch sl f s 23 0 23

end Sys2Proof.Machine
end

