-- ==== Sys2Proof/Machine/QueOps.lean ====
section
/-!
DEFINITION. Queues: the ring entry at QD_RD, when a command starts, completion signals (R189, R192 to R195,
Tables 6-5 and 6-6) and doorbells (R191).
-/

namespace Sys2Proof.Machine

/-- A command read from its 64 bytes. -/
def parseQ (b : List Byte) : QCmd :=
  let n (o k : Nat) : Nat := leNat (slice b o k)
  let hdr := n 0 4
  { typ := hdr / 2 ^ 24, barrier := hdr.testBit 1, sigEn := hdr.testBit 0, sync := bv 32 (n 4 4), sigVal := bv 32 (n 8 4)
    first := n 0xC 4 % 2 ^ 10, count := n 0xC 4 / 2 ^ 16 % 2 ^ 10 + 1, step := bv 64 (n 0x10 8)
    a0 := bv 64 (n 0x18 8), a1 := bv 64 (n 0x20 8), a2 := bv 64 (n 0x28 8)
    bad := decide (hdr / 4 % 2 ^ 22 ≠ 0) || decide (n 0xC 4 / 2 ^ 26 ≠ 0) || decide (n 0xC 4 / 2 ^ 10 % 2 ^ 6 ≠ 0) ||
      decide (n 0x30 16 ≠ 0) }

/-- Does the queue start commands: ENABLED, its context READY (R187), and a half there that issues queue commands (R384,
log entry 113)? -/
def queueRuns (s : State) (x : Q) : Bool :=
  live s && !s.err.ka && someHalf s && x.st = .enabled && (getCtx s x.ctx).st = .ready && x.rd != x.wr

/-- Started commands of a queue that have not completed. -/
def running (s : State) (q : Nat) : Bool := s.que.run.any fun r => r.q == q

/-- QD_RD moves past the head command. -/
def advance (s : State) (q : Nat) : State :=
  let x := getQ s q
  setQ s q { x with rd := x.rd + 1, head := none, waitDl := none }

/-- The queue halts because of the command at QD_RD. -/
def headHalt (s : State) (q cause addr : Nat) : State := haltQueue s q cause true addr

/-- The head command of type `typ`, when its queue and BARRIER let it start (R193, R194); a malformed one
(`bad`) halts the queue. -/
def onHead (s : State) (q typ : Nat) (bad : QCmd → Bool) (k : Q → QCmd → State) : Out :=
  let x := getQ s q
  match x.head with
  | none => .next s
  | some c =>
    if c.typ ≠ typ ∨ !queueRuns s x ∨ ((c.barrier ∨ typ = 4) ∧ running s q) then .next s
    else if c.bad || bad c then .next (headHalt s q 3 0)
    else .next (k x c)

/-- The completion signal of a command (R194); an object of another tenant or job halts the queue (R215). -/
def cmdSignal (s : State) (q ctx : Nat) (c : QCmd) : State :=
  if !c.sigEn then s
  else match objFor s c.sync with
  | some o =>
    if sameJob s ctx o.ctx then
      emit s { n := 0, obj := c.sync, amount := bv 64 c.sigVal.toNat, who := mkSig s 2 0 false q ctx, arrive := false,
               ctx := none, queue := some q, byCmd := false, remote := none }
    else haltQueue s q 3 false 0
  | none => staleDrop s

/-- A doorbell's tests 2 to 5 (R191): generation and write index. -/
def ringDoorbell (s : State) (q : Nat) (gen : BitVec 14) (wr : B32) : State :=
  let x := getQ s q
  if (x.st ≠ .enabled ∧ x.st ≠ .halted) ∨ x.gen ≠ gen then staleDrop s
  else if 2 ^ 31 ≤ (wr - x.wr).toNat then s.setQue { s.que with dbBad := sat32 (s.que.dbBad + 1) }
  else if 2 ^ x.log2 < (wr - x.rd).toNat then
    haltQueue (setQ s q { x with st := .enabled }) q 1 false 0
  else setQ s q { x with wr := wr }

/-! ### KERNEL -/

/-- A KERNEL's named slots. -/
def kernelSlots (s : State) (x : Q) (c : QCmd) : List (Nat × Bool) :=
  (List.range c.count).map fun i => (c.first + i, (getCtx s x.ctx).fil)

def kernelBad (s : State) (c : QCmd) : Bool :=
  decide (2 ^ 52 ≤ c.a0.toNat) || decide (c.a0.toNat % 8 ≠ 0) || decide (2 ^ 52 ≤ c.a1.toNat) || c.a2 != 0 ||
  decide (s.fuse.grade < c.first + c.count)

/-- Is every named slot bound to the queue's context and without a kernel (Table 6-6), and not stopped by an error until
the rewind (R112)? -/
def kernelReady (s : State) (x : Q) (c : QCmd) : Bool :=
  (kernelSlots s x c).all fun p =>
    let y := getSlot s p.1 p.2
    y.ctx = some x.ctx && y.run.isNone && !y.halted && (y.prep = .ready || y.prep = .unbind) &&
      halfRuns s (clHalf s p.1)

/-- Does queue `r` come before queue `q` for a slot that both want (R195)? -/
def comesFirst (s : State) (r q : Nat) : Bool :=
  let a := getQ s r
  let b := getQ s q
  let last := Tab.get (fun _ => 2 ^ 20 - 1) s.que.served b.prio
  let key (n : Nat) : Nat := (n + 2 ^ 20 - (last + 1)) % 2 ^ 20
  decide (a.prio < b.prio) || (a.prio == b.prio && decide (key r < key q))

/-- The queues whose ready KERNEL shares a slot with that of `q` and comes first. -/
def rivals (s : State) (q : Nat) (x : Q) (c : QCmd) : List Nat :=
  let mine := kernelSlots s x c
  (s.que.tab.filter fun e =>
    e.1 != q && queueRuns s e.2 && comesFirst s e.1 q &&
    match e.2.head with
    | some d => d.typ == 1 && !d.bad && !kernelBad s d && !(d.barrier && running s e.1) && kernelReady s e.2 d &&
        (kernelSlots s e.2 d).any mine.contains
    | none => false).map (·.1)

/-- The job is at its first step, no entry of it is open, and its shards stand at step - 1: the first command of the step
opens the entry (R168). -/
def mayOpen (s : State) (job : B32) (fil : Bool) (step : Nat) : Bool :=
  decide (1 ≤ step) && !begun s fil &&
  (s.jrn.entries.all fun e => e.fil != fil || e.st = .checked || e.st = .damaged) &&
  standAt s job (step - 1) && !(ownShards s job).isEmpty

/-- The first command of a job's first step opens its journal entry (R168). -/
def firstCommand (s : State) (job : B32) (step : Nat) : State :=
  match jobKind s job with
  | some fil => if mayOpen s job fil step then openEnt s fil false job step else s
  | none => s

/-- A slot starts a kernel (R196); its fetch takes code as memory now holds it (R120). -/
def startSlot (n : Nat) (c : QCmd) (s : State) (p : Nat × Bool) : State :=
  updSlot s p.1 p.2 fun y =>
    { y with run := some n, pc := c.a0.toNat, karg := c.a1, stepNo := c.step, wait := none, code := s.mem.phys }

/-- Must the batch references of a step be read again first (R170)? -/
def mustRecheck (s : State) (job : B32) (step : Nat) : Bool :=
  match jobKind s job with
  | some fil => (match findEnt s fil false step with | some e => e.recheck | none => false)
  | none => false

/-- A command joins those that run; `crc`: the digest that a BATCH_REF will record. -/
def addRun (s : State) (q : Nat) (x : Q) (c : QCmd) (left : List Nat) (crc : B64) : State :=
  s.setQue { s.que with run := s.que.run ++ [⟨s.que.next, q, c, x.ctx, left, crc⟩], next := s.que.next + 1 }

/-- A KERNEL starts. -/
def startKernel (s : State) (q : Nat) (x : Q) (c : QCmd) : State :=
  let ps := kernelSlots s x c
  let s1 := firstCommand s (getCtx s x.ctx).job c.step.toNat
  let s2 := setCtx s1 x.ctx (runStep (getCtx s1 x.ctx) c.step.toNat)
  let s3 := ps.foldl (startSlot s2.que.next c) s2
  let s4 := addRun s3 q x c (ps.map fun p => slotKey p.1 p.2) 0
  advance (s4.setQue { s4.que with served := Tab.put (fun _ => 2 ^ 20 - 1) s4.que.served x.prio q }) q

/-! ### BATCH_REF -/

/-- Where a BATCH_REF stands (Table 6-6). -/
inductive BSt where
  /-- depth 0, now or when the step's entry would have opened: complete at once -/
  | off
  | late
  | wait
  /-- the entry of the step is OPEN or UNDO, or this command opens it -/
  | go (fil : Bool)
deriving DecidableEq, Repr

def batchState (s : State) (job : B32) (step : Nat) : BSt :=
  match jobKind s job with
  | none => .off
  | some fil =>
    if depthNow s fil = 0 ∨ step < told s fil false then .off
    else match findEnt s fil false step with
    | some e => if e.st = .open_ ∨ e.st = .undo then .go fil else .late
    | none =>
      if mayOpen s job fil step then .go fil
      else match lastDecided s job with
      | some n => if step ≤ n then .late else .wait
      | none => .wait

def refOf (x : Q) (c : QCmd) (crc : B64) : BRef := ⟨c.a0.toNat, c.a1.toNat, x.ctx, crc⟩

/-- The bytes that a BATCH_REF names, read by Sorrel. -/
def refBytes (s : State) (ctx : Nat) (c : QCmd) : State × List Byte × Option VErr :=
  loadVa s ctx c.a0.toNat (64 * c.a1.toNat)

/-- Is a reference to the same range and context recorded already (R197)? -/
def hasRef (e : JEnt) (x : Q) (c : QCmd) : Bool :=
  e.refs.any fun r => r.va == c.a0.toNat && r.len == c.a1.toNat && r.ctx == x.ctx

/-- References of the entry, with those being recorded. -/
def refCount (s : State) (job : B32) (step : Nat) (e : JEnt) : Nat :=
  e.refs.length + (s.que.run.filter fun r =>
    r.cmd.typ == 2 && r.cmd.step.toNat == step && decide ((getCtx s r.ctx).job = job)).length

/-- A BATCH_REF whose entry takes it: Sorrel reads the range at QD_RD, where a range that cannot be read halts the queue
(R170, R199), and records its digest later.  During a re-run a reference that is recorded already completes at once
(R197). -/
def takeRef (s : State) (q : Nat) (x : Q) (c : QCmd) (fil : Bool) : State :=
  let job := (getCtx s x.ctx).job
  let s1 := firstCommand s job c.step.toNat
  match findEnt s1 fil false c.step.toNat with
  | none => s
  | some e =>
    if e.rerun && hasRef e x c then cmdSignal (advance s1 q) q x.ctx c
    else if 4096 ≤ refCount s1 job c.step.toNat e then headHalt s1 q 11 c.a0.toNat
    else match refBytes s1 x.ctx c with
    | (s2, _, some v) => headHalt (logPt s2 x.ctx v) q 2 c.a0.toNat
    | (s2, bs, none) => advance (addRun s2 q x c [] (crc64 bs)) q

end Sys2Proof.Machine
end

