-- ==== Sys2Proof/Machine/Queues.lean ====
section
/-!
DEFINITION. The queue register block (R188 to R190, R199, Table 6-8), doorbells (R191) and the commands of
queues (R192 to R197).
-/

namespace Sys2Proof.Machine

/-- A command of the block, `ka` when keep-alive mode accepts it (Table 13-10); `w` is Q_CMD less OP, whose reserved bits
must be 0. -/
def qCmdKa (ka : Bool) (c : Instr) (w : BitVec 56) (s : State) (body : Nat → Q → State) : Out :=
  blockCmd .queue ka c s fun t =>
    if bits w 54 20 ≠ 0 then finish .queue 3 t else body (bits w 19 0) (getQ t (bits w 19 0))

/-- A command that keep-alive mode refuses. -/
def qCmd (c : Instr) (w : BitVec 56) (s : State) (body : Nat → Q → State) : Out := qCmdKa false c w s body

/-- CREATE (R189). -/
def execQCreate (w : BitVec 56) (s : State) : Out :=
  qCmd (.qCreate w) w s fun q x =>
    let r := rd64 s 0x12008
    let b := rd32 s 0x12010
    let log2 := bits r 4 0
    if x.st = .quarantine then finish .queue 4 s
    else if x.st ≠ .free then finish .queue 1 s
    else if bits r 63 52 ≠ 0 ∨ bits r 11 5 ≠ 0 ∨ log2 < 6 ∨ 20 < log2 ∨ bits b 29 26 ≠ 0 then finish .queue 3 s
    else if (getCtx s (bits b 11 0)).st = .free then finish .queue 2 s
    else finish .queue 0 (setQ s q
      { st := .enabled, gen := x.gen + 1, ring := bits r 51 12 * 4096, log2 := log2, prio := bits b 31 30, ctx := bits b 11 0 })

/-- DESTROY (R190): commands that run already complete apart from the number's next use. -/
def execQDestroy (w : BitVec 56) (s : State) : Out :=
  qCmd (.qDestroy w) w s fun q x =>
    if x.st ≠ .enabled ∧ x.st ≠ .halted then finish .queue 1 s
    else
      let s1 := dropWaits s fun v => v == .queue q
      let s2 := s1.setQue { s1.que with run := s1.que.run.map fun r => if r.q = q then { r with q := q + 2 ^ 20 } else r }
      finish .queue 0 (setQ s2 q { x with st := .quarantine, head := none, waitDl := none, qend := quarEnd s })

/-- Fabric time reaches QD_QEND: the queue becomes FREE. -/
def execQueueQuarantineEnd (q : Nat) (s : State) : Out :=
  let x := getQ s q
  if x.st ≠ .quarantine ∨ ns s < x.qend then .next s else .next (setQ s q { gen := x.gen })

/-- HALT. -/
def execQCmdHalt (w : BitVec 56) (s : State) : Out :=
  qCmd (.qCmdHalt w) w s fun q x =>
    if x.st ≠ .enabled then finish .queue 1 s else finish .queue 0 (haltQueue s q 7 false 0)

/-- RESUME; SKIP moves past the command that caused the halt (R199). -/
def execQResume (w : BitVec 56) (s : State) : Out :=
  qCmd (.qResume w) w s fun q x =>
    if x.st ≠ .halted then finish .queue 1 s
    else
      let skip := bit w 55 && x.byCmd
      finish .queue 0 (setQ s q { x with st := .enabled, byCmd := false, head := none
                                         rd := if skip then x.rd + 1 else x.rd })

/-- A queue descriptor, Table 6-3. -/
def qBytes (x : Q) : List Byte :=
  let st := match x.st with | .free => 0 | .enabled => 1 | .halted => 2 | .quarantine => 3
  leBytes 8 (x.ring + x.log2) ++ leBytes 4 (x.prio * 2 ^ 30 + x.gen.toNat * 2 ^ 12 + x.ctx) ++
  leBytes 4 (st * 2 ^ 28 + x.cause * 2 ^ 20) ++ leBytes 4 x.rd.toNat ++ leBytes 4 x.wr.toNat ++ leBytes 8 x.qend

/-- READ: the descriptor into Q_ARG0 to Q_ARG3. -/
def execQRead (w : BitVec 56) (s : State) : Out :=
  qCmdKa true (.qRead w) w s fun _ x => finish .queue 0 (wrBytes s 0x12008 (qBytes x))

/-! ### Doorbells and fetches -/

/-- DOORBELL: a write of `len` bytes at offset `off` of BAR4 (R191); none is accepted while queues are not
ready (Table 1-3), but keep-alive mode takes them all the same (Table 13-10). -/
def execDoorbell (off len : Nat) (d : B128) (s : State) : Out :=
  if 2 ^ 24 ≤ off then .fault (.outsideWindow off)
  else if !rdyBit s 14 && !s.err.ka then .next s
  else if len ≠ 16 ∨ off % 16 ≠ 0 ∨ bits d 127 46 ≠ 0 then
    .next (s.setQue { s.que with dbBad := sat32 (s.que.dbBad + 1) })
  else .next (ringDoorbell s (off / 16) (bv 14 (bits d 45 32)) (bv 32 (bits d 31 0)))

/-- QUEUE_FETCH: the entry at QD_RD is fetched through the context's translation (R192); a reserved type or
field halts the queue (R193); a ring in the host window waits while the link is down (R433). -/
def execQueueFetch (q : Nat) (s : State) : Out :=
  let x := getQ s q
  let va := x.ring + x.rd.toNat % 2 ^ x.log2 * 64
  if !queueRuns s x ∨ x.head.isSome ∨ (!s.dev.linkUp ∧ hostVa s x.ctx va 64 .read) then .next s
  else match loadVa s x.ctx va 64 with
  | (t, _, some e) => .next (headHalt (logPt t x.ctx e) q 2 e.va)
  | (t, bs, none) =>
    let c := parseQ bs
    if c.bad ∨ c.typ = 0 ∨ 6 < c.typ then .next (headHalt t q 3 0)
    else .next (setQ t q { x with head := some c })

/-! ### Commands -/

/-- KERNEL (R193 to R196): waits for its slots, for the queues that come first, and for the second reading of
the step's batch references (R170). -/
def execKernel (q : Nat) (s : State) : Out :=
  onHead s q 1 (kernelBad s) fun x c =>
    if !kernelReady s x c ∨ mustRecheck s (getCtx s x.ctx).job c.step.toNat ∨ !(rivals s q x c).isEmpty then s
    else startKernel s q x c

/-- A command that runs leaves the list. -/
def dropRun (s : State) (n : Nat) : State :=
  s.setQue { s.que with run := s.que.run.filter fun r => r.n != n }

/-- KERNEL_COMPLETE: every named slot has executed HALT. -/
def execKernelComplete (n : Nat) (s : State) : Out :=
  match s.que.run.find? fun r => r.n == n with
  | none => .next s
  | some r =>
    if r.cmd.typ ≠ 1 ∨ !r.left.isEmpty then .next s else .next (cmdSignal (dropRun s n) r.q r.ctx r.cmd)

/-- BATCH_REF (R170, R197). -/
def execBatchRef (q : Nat) (s : State) : Out :=
  onHead s q 2 (fun c => decide (2 ^ 52 ≤ c.a0.toNat) || decide (c.a0.toNat % 64 ≠ 0) || decide (2 ^ 32 ≤ c.a1.toNat) || c.a2 != 0)
    fun x c => match batchState s (getCtx s x.ctx).job c.step.toNat with
    | .off => cmdSignal (advance s q) q x.ctx c
    | .late => headHalt s q 5 0
    | .wait => s
    | .go fil => takeRef s q x c fil

/-- BATCH_REF_RECORDED: Sorrel stores the digest in the entry. -/
def execBatchRefRecorded (n : Nat) (s : State) : Out :=
  match s.que.run.find? fun r => r.n == n with
  | none => .next s
  | some r =>
    let fil := (getCtx s r.ctx).fil
    if r.cmd.typ ≠ 2 ∨ !live s ∨ s.err.ka then .next s
    else
      let ref : BRef := ⟨r.cmd.a0.toNat, r.cmd.a1.toNat, r.ctx, r.crc⟩
      let s1 := mapEnt (dropRun s n) fil false r.cmd.step.toNat fun e => { e with refs := e.refs ++ [ref] }
      .next (cmdSignal s1 r.q r.ctx r.cmd)

/-- The WAIT command: behind the queue's earlier signals to its object (R217); held there, or past it when the condition
holds (R194, R215, R231, R232). -/
def waitHead (s : State) (q : Nat) (x : Q) (c : QCmd) : State :=
  let cond := c.a0.toNat
  let arg := if cond = 2 then bv 64 (c.a1.toNat % 2 ^ 16) else c.a1
  let who := mkSig s 2 0 false q x.ctx
  if onWay s (srcOf who) c.sync then s
  else match objFor s c.sync with
  | none => headHalt s q 3 0
  | some o =>
    if !condFits o cond ∨ !sameJob s x.ctx o.ctx then headHalt s q 3 0
    else if condMet o cond arg then advance (dropWaits s fun v => v == .queue q) q
    else if o.waiters.any fun v => v.src == .queue q then s
    else
      let v : Waiter := { src := .queue q, who := who, cond := cond, arg := arg, deadline := deadlineOf s o
                          dur := waitDur s o }
      setQ (setObj s (hIdx c.sync) { o with waiters := o.waiters ++ [v] }) q { x with waitDl := v.deadline }

/-- WAIT. -/
def execCmdWait (q : Nat) (s : State) : Out :=
  onHead s q 3 (fun c => decide (2 < c.a0.toNat) || c.a2 != 0) (waitHead s q)

/-- SIGNAL: applied at its object, after earlier signals of the queue to it; one that overruns a barrier
halts the queue at this command (R194, R217, R224, R231). -/
def execSignal (q : Nat) (s : State) : Out :=
  onHead s q 4 (fun c => c.a0 != 0 || c.a1 != 0 || c.a2 != 0) fun x c =>
    let who := mkSig s 2 0 false q x.ctx
    let alien := match objFor s c.sync with | some o => !sameJob s x.ctx o.ctx | none => false
    if onWay s (srcOf who) c.sync then s
    else if alien then headHalt s q 3 0
    else
      let t := applySig s { n := 0, obj := c.sync, amount := bv 64 c.sigVal.toNat, who := who, arrive := false,
                            ctx := none, queue := some q, byCmd := true, remote := none }
      if (getQ t q).st = .enabled then advance t q else t

/-- RING: the doorbell is applied to the target, which must be of the same tenant. -/
def execRing (q : Nat) (s : State) : Out :=
  onHead s q 5 (fun c => decide (2 ^ 34 ≤ c.a0.toNat) || decide (2 ^ 32 ≤ c.a1.toNat) || c.a2 != 0) fun x c =>
    let t := bits c.a0 19 0
    let y := getQ s t
    if (y.st = .enabled ∨ y.st = .halted) ∧ (getCtx s y.ctx).tenant ≠ (getCtx s x.ctx).tenant then headHalt s q 4 0
    else cmdSignal (ringDoorbell (advance s q) t (bv 14 (bits c.a0 33 20)) (c.a1.extractLsb' 0 32)) q x.ctx c

/-- NOP. -/
def execCmdNop (q : Nat) (s : State) : Out :=
  onHead s q 6 (fun c => c.a0 != 0 || c.a1 != 0 || c.a2 != 0) fun x c => cmdSignal (advance s q) q x.ctx c

end Sys2Proof.Machine
end

