-- ==== Sys2Proof/Machine/Sites.lean ====
section
/-!
DEFINITION. The rows of the site exchange (R332 to R343).
-/

namespace Sys2Proof.Machine

/-! ### The round begins -/

/-- Has a step reached Release, or had the outcome Skip (R336)? -/
def released (s : State) (job : B32) (step : Nat) : Bool :=
  match decidedAs s job step with
  | some .skip => true
  | some .commit =>
    let p := pairOf s ((jobKind s job).getD false)
    pairServes p && (decide (step ≤ p.step) || (shardsOf s job).all fun sh => agreedOn s sh step false)
  | _ => false

/-- OM_J of every descriptor takes the round. -/
def fillJ (s : State) (j : Nat) : State :=
  (shardsOf s (sxJob s)).foldl (fun st sh =>
    let va := (hdrOf st sh).merge
    if va = 0 then st else setVaNat st sh.ctx va 8 j) s

/-- In a rejoin round each device sends its outer momentum to its peers (R340). -/
def sendMomentum (s : State) : State :=
  (otherSites s).foldl (fun st k => (ownShards st (sxJob st)).foldl (fun u sh =>
    sendState u sh 3 (hdrOf u sh).omVa (peerAt u k)) st) s

/-- A site whose common anchor is too old asks in each round to join: its coordinator sends JOIN to the coordinator of the
lowest other site (R342, R343). -/
def joinAgain (s : State) : State :=
  match s.sx.stale && isCoord s, otherSites s with
  | true, k :: _ => sendCtrl s (coordOf s k) 0 []
  | _, _ => s

/-- OUTER_ROUND_BEGIN: step j × H is released or skipped; this beat is t0. -/
def execOuterRoundBegin (s : State) : Out :=
  let job := sxJob s
  let n := (lastDecided s job).getD 0
  let j := n / s.sx.h
  let late : Bool := match s.sx.cur with | some r => decide (j ≤ r.j) | none => decide (j ≤ s.sx.round)
  if !sxOn s ∨ s.sx.h = 0 ∨ j = 0 ∨ n % s.sx.h ≠ 0 ∨ late ∨ !released s job n then .next s
  else
    let r : Round := { j := j, t0 := beat s, rejoin := s.sx.rejoin, enc := false, streams := [], whole := [], reports := []
                       receipts := [], sent := false, decided := false, came := [], applied := none, ownOut := false }
    let s1 := fillJ (s.setSx { s.sx with cur := some r, rejoin := false, omom := [] }) j
    .next (joinAgain (if r.rejoin then sendMomentum s1 else s1))

/-! ### Streams -/

/-- The round in progress, when it has number `j` and no decision has been applied. -/
def openRound (s : State) (j : Nat) : Option Round :=
  match s.sx.cur with
  | some r => if r.j = j ∧ r.applied.isNone then some r else none
  | none => none

/-- The shard copy that a device's stream is for: the own shard from a peer at another site, the mirror copy from the
mirror partner (R335). -/
def streamShard (s : State) (src : Peer) (shard : Nat) : Option Shard :=
  if src.site ≠ ownSite s then shardBy s (sxJob s) shard false
  else match shardBy s (sxJob s) shard true with
  | some sh => if localPeer s (hdrOf s sh).partner = src then some sh else none
  | none => none

/-- A device that holds no decided step and no round hears of a round of its job: the job runs already, and the device
asks the coordinator of that site to join (R43, R342; log entry 93). -/
def askJoin (s : State) (src : Peer) : State :=
  if sxOn s && !s.sx.asked && s.sx.cur.isNone && (lastDecided s (sxJob s)).isNone && src.site != ownSite s &&
      (validSites s).contains src.site then
    sendCtrl (s.setSx { s.sx with asked := true }) (coordOf s src.site) 0 []
  else s

/-- A part of a stream from site `k`, by the data deadline (R40, R334). -/
def onStream (s : State) (src : Peer) (j : Nat) (x : Strm) : Out :=
  match openRound s j, streamShard s src x.shard with
  | some r, some sh =>
    if !sxOn s ∨ dataLate s r ∨ x.site = ownSite s ∨ !(validSites s).contains x.site ∨ x.tags.length ≠ x.blocks.length then
      .next s
    else .next (takeStream s r sh x.site src { x with shard := shardKey sh })
  | _, _ => .next (askJoin s src)

/-- SX_DATA: blocks with their tags. -/
def execSxData (src : Peer) (site round shard first : Nat) (tags : List Byte) (blocks : List (List Byte)) (s : State) : Out :=
  onStream s src round ⟨site, shard, true, first, tags, blocks⟩

/-- SX_SCALE: scale bytes with their tags. -/
def execSxScale (src : Peer) (site round shard first : Nat) (tags scales : List Byte) (s : State) : Out :=
  onStream s src round ⟨site, shard, false, first, tags, scales.map fun b => [b]⟩

/-- What the mirror partner holds of a shard by this device's forwarding, sent to it again: the differences that came
whole, and in a rejoin round the momentum. -/
def forwardAgain (s : State) (r : Round) (sh : Shard) (d : Peer) : State :=
  let s1 := ((otherSites s).filter fun k => isWhole r k sh).foldl (fun st k => sendStreams st sh k d r.j) s
  ((otherSites s).filter fun k => s.sx.omom.contains (k, shardKey sh)).foldl (fun st k =>
    sendStateOf st sh k 3 (omomAt (mergeSite st sh (sitePos st k)) sh) d) s1

/-- What a device of another site gets again of a shard: both streams, and in a rejoin round the momentum. -/
def sendAgain (s : State) (r : Round) (sh : Shard) (d : Peer) : State :=
  let s1 := if r.rejoin then sendState s sh 3 (hdrOf s sh).omVa d else s
  if r.enc then sendStreams s1 sh (ownSite s) d r.j else s1

/-- SX_RETRANSMIT_REQ: both streams of the whole shard are sent again, and state that failed its check (R334, R340).  A
joiner names round 0 (log entry 17). -/
def execSxRetransmitReq (src : Peer) (round shard : Nat) (s : State) : Out :=
  match shardBy s (sxJob s) shard false with
  | none => .next s
  | some sh =>
    if !sxOn s then .next s
    else match openRound s round with
    | some r => .next (if src.site = ownSite s then forwardAgain s r sh src else sendAgain s r sh src)
    | none => .next (if round = 0 then sendHistory (sendShard s sh src) src else s)

/-! ### Reports, receipts, deadlines -/

/-- SX_REPORT: a device of the site reports to its coordinator (R335). -/
def execSxReport (src : Peer) (partner round : Nat) (mask : B64) (s : State) : Out :=
  match openRound s round with
  | none => .next s
  | some _ => .next (if sxOn s && isCoord s && src.site == ownSite s then takeReport s ⟨src, partner, mask⟩ else s)

/-- DATA_WAIT_EXPIRY: at t0 + DATA_WAIT the coordinator's receipt goes out. -/
def execDataWaitExpiry (s : State) : Out :=
  match s.sx.cur with
  | none => .next s
  | some r =>
    if !sxOn s ∨ !isCoord s ∨ r.applied.isSome ∨ beat s < r.t0 + s.sx.dataWait then .next s else .next (sendReceipt s r)

/-! ### Applying -/

/-- The round is applied on this device: history, descriptors, the record, and Rosemary's commands (R338 to R341);
with OWN_OUT nothing is merged and the next step's entry opens (R168, R169). -/
def applyRound (s : State) (r : Round) (d : Decision) : State :=
  let me := ownSite s
  let ownOut := !(hasSite d.p me && hasSite d.m me)
  let m := sitesOf d.m
  let shs := shardsOf s (sxJob s)
  let s0 := keepHistory s d ownOut
  let s1 := shs.foldl (fun st sh => fillDesc (moveDown st sh m d.rejoin) sh d ownOut) s0
  let s2 := s1.setSx { s1.sx with
    cur := some { r with applied := some d, ownOut := ownOut, decided := true }, part := ownOut, rejoin := d.rejoinNext
    proposer := d.proposer, round := r.j }
  let s3 := if ownOut then sxRec s2 0x070B 0 (ownPeer s) r.j 0 else s2
  let step := r.j * s.sx.h
  let s4 := if !ownOut then s3
    else match jobKind s3 (sxJob s) with
      | some fil => openNext (leaveRegion (delEntries s3 fun e => e.fil == fil && e.outer && e.step == step)) (sxJob s) step
      | none => s3
  (s4.upd.cmds.filter fun c => c.kind = .out && c.ph = .dec).foldl onDecision s4

/-- The coordinator passes a decision on to the devices of its site. -/
def passDecision (s : State) (r : Round) (d : Decision) : State :=
  ((reporters s r ++ siteDevs s).dedup).foldl (fun st p => sendTo st 1 7 p (sxTenant s) (sxJob s) [] (.decision d)) s

/-- SITE_REJOIN: a rejoin round is decided (R340). -/
def rejoinNote (s : State) (d : Decision) : State := if d.rejoin then sxRec s 0x070C 0 (ownPeer s) d.round 0 else s

/-- The proposer decides: the decision goes to the coordinators of Q and to its own devices, and is applied. -/
def propose (s : State) (r : Round) : State :=
  let d := decideRound s r
  let s1 := ((sitesOf d.q).filter (· != ownSite s)).foldl (fun st k =>
    sendTo st 1 7 (coordOf st k) (sxTenant s) (sxJob s) [] (.decision d)) (rejoinNote s d)
  applyRound (passDecision s1 r d) r d

/-- Is this device the proposer of the round, not yet decided? -/
def mayPropose (s : State) (r : Round) : Bool :=
  sxOn s && isCoord s && !r.decided && r.applied.isNone && r.sent && proposerOf r == some (ownSite s)

/-- Have the receipts of every site come: Q is settled before the deadline (R337)? -/
def allIn (s : State) (r : Round) : Bool := (validSites s).all fun k => r.receipts.any fun x => x.site == k

/-- SX_DECISION: receipts of every site are there (R337). -/
def execSxDecision (s : State) : Out :=
  match s.sx.cur with
  | none => .next s
  | some r =>
    if mayPropose s r && allIn s r then .next (propose s r) else .next s

/-- Is a message from the acting or the reserve coordinator of a site? -/
def fromCoord (s : State) (src : Peer) (k : Nat) : Bool :=
  src.site == k && (src.addr == (siteOf s k).coord || src.addr == (siteOf s k).alt)

/-- A coordinator whose Q is settled applies a decision of the lowest site of its Q, if it has come, and passes it on (R338). -/
def applyCame (s : State) (r : Round) : State :=
  match r.came.find? fun x => proposerOf r == some x.d.proposer with
  | some x => applyRound (passDecision (rejoinNote s x.d) r x.d) r x.d
  | none => s

/-- SX_RECEIPT: a receipt of another site, within the decision deadline. -/
def execSxReceipt (c : Receipt) (s : State) : Out :=
  match openRound s c.round with
  | none => .next s
  | some r =>
    if !sxOn s ∨ !isCoord s ∨ r.decided ∨ r.t0 + s.sx.dataWait + s.sx.decWait < beat s ∨ !(validSites s).contains c.site then .next s
    else
      let r1 := { r with receipts := r.receipts.filter (fun x => x.site != c.site) ++ [c] }
      .next (if allIn s r1 then applyCame (setRound s r1) r1 else setRound s r1)

/-- DEC_WAIT_EXPIRY: at the decision deadline Q is what has come; the proposer decides on it, another coordinator
takes no further receipt. -/
def execDecWaitExpiry (s : State) : Out :=
  match s.sx.cur with
  | none => .next s
  | some r =>
    if !sxOn s ∨ !isCoord s ∨ r.decided ∨ r.applied.isSome ∨ beat s < r.t0 + s.sx.dataWait + s.sx.decWait then .next s
    else if mayPropose s r then .next (propose s r)
    else .next (applyCame (setRound s { r with decided := true }) { r with decided := true })

/-- SX_APPLY: a coordinator takes a decision only from the coordinator of the lowest site of its own Q, once Q is settled, and
passes it on; a device takes its own coordinator's (R338). -/
def execSxApply (d : DecisionIn) (s : State) : Out :=
  match openRound s d.d.round with
  | none => .next s
  | some r =>
    if !sxOn s then .next s
    else if !isCoord s then
      .next (if fromCoord s d.src (ownSite s) then applyRound (rejoinNote s d.d) r d.d else s)
    else if !fromCoord s d.src d.d.proposer then .next s
    else
      let r1 := { r with came := r.came ++ [d] }
      .next (if r.decided || allIn s r then applyCame (setRound s r1) r1 else setRound s r1)

/-- What a site applies that holds no decision of a round: OWN_OUT = 1 and no site merged. -/
def noDecision (s : State) (r : Round) : Decision :=
  { round := r.j, proposer := s.sx.proposer, q := 0, p := 0, m := 0, rejoin := r.rejoin, rejoinNext := false, missed := [] }

/-- SX_DECISION_TIMEOUT: a site that has named another proposer, and holds no decision by t0 + DATA_WAIT + 2 × DEC_WAIT,
applies OWN_OUT = 1: its coordinator does, and its devices by it (R338). -/
def execSxDecisionTimeout (s : State) : Out :=
  match s.sx.cur with
  | none => .next s
  | some r =>
    if !sxOn s ∨ !isCoord s ∨ r.applied.isSome ∨ beat s < r.t0 + s.sx.dataWait + 2 * s.sx.decWait ∨
        proposerOf r = some (ownSite s) then .next s
    else .next (applyRound (passDecision s r (noDecision s r)) r (noDecision s r))

/-! ### State for rejoin rounds and joiners -/

/-- The outer momentum of site `k` for a shard copy goes into its entry's buffer; an own shard's goes on to the mirror
partner, whose copy merges too (R340). -/
def keepMomentum (s : State) (sh : Shard) (k : Nat) (data : List Byte) (crc : B64) : State :=
  let m := mergeSite s sh (sitePos s k)
  let s1 := (writeAll sh.ctx [(omomAt m sh, data)] s).1
  let s2 := s1.setSx { s1.sx with omom := (k, shardKey sh) :: s1.sx.omom }
  if sh.mirror ∨ !pairServes (pairOf s sh.fil) then s2
  else sendTo s2 2 0xC (localPeer s (hdrOf s sh).partner) (getCtx s sh.ctx).tenant sh.job data (.other 1 [k, sh.idx, 3, crc.toNat] [])

/-- A joiner loads a segment, or the lineages and the log (kind 8), before its first inner step (R342). -/
def joinLoad (s : State) (src : Peer) (shard kind : Nat) (data : List Byte) : State :=
  if kind = 8 then
    let n (o : Nat) : B64 := bv 64 (leNat (slice data o 8))
    s.setSx { s.sx with lineage := n 0, caLin := n 8, stale := false, rejoin := false, joinAt := none
                        log := (List.range ((data.length - 16) / 16)).map fun i => (n (16 + 16 * i), (n (24 + 16 * i)).toNat) }
  else match streamShard s src shard with
  | none => s
  | some sh =>
    let h := hdrOf s sh
    let va := if kind = 0 then h.wVa else if kind = 3 then h.omVa else h.oaVa
    (writeAll sh.ctx [(va, data)] s).1

/-- Does this device join: it has run no step, or its common anchor is too old (R342, R343)? -/
def joining (s : State) : Bool := (lastDecided s (sxJob s)).isNone || s.sx.stale

/-- State for a joiner. -/
def takeState (s : State) (src : Peer) (shard kind : Nat) (data : List Byte) : State :=
  if joining s ∧ (kind = 0 ∨ kind = 3 ∨ kind = 4 ∨ kind = 8) then joinLoad s src shard kind data else s

/-- SX_STATE: checked by its CRC-64; on a mismatch it is asked for again. -/
def execSxState (src : Peer) (site shard kind : Nat) (data : List Byte) (crc : B64) (s : State) : Out :=
  let run := s.sx.cur.filter fun r => r.rejoin && r.applied.isNone
  if !sxOn s then .next s
  else if crc64 data ≠ crc then .next (sendCtrl s src 2 [run.elim 0 (·.j), shard])
  else match run, streamShard s src shard with
  | some _, some sh => .next (if kind = 3 then keepMomentum s sh site data crc else takeState s src shard kind data)
  | _, _ => .next (takeState s src shard kind data)

/-- The round at which a joiner that asks now is served: the one in progress, or the next once its decision is applied. -/
def joinRound (s : State) : Nat :=
  match s.sx.cur with
  | some r => if r.applied.isNone then r.j else r.j + 1
  | none => s.sx.round + 1

/-- A message about a joiner to every device of the own site. -/
def tellSite (s : State) (args : List Nat) : State :=
  let devs := match s.sx.cur with | some r => reporters s r | none => []
  (devs ++ siteDevs s).dedup.foldl (fun st p => sendCtrl st p 4 args) s

/-- JOIN: the coordinator answers with the round it will serve, and its devices note the joiner; the joiner's site notes the
answer (R342, log entry 112). -/
def execJoin (m : JoinIn) (s : State) : Out :=
  if !sxOn s then .next s
  else if m.reply then
    let s1 := if s.sx.asked || s.sx.stale then s.setSx { s.sx with joinAt := some m.round } else s
    .next (if isCoord s && m.src.site != ownSite s then tellSite s1 [1, m.src.site, m.src.addr, m.round] else s1)
  else if s.sx.joins.any fun x => x.1 = m.src then .next s
  else
    let j := if m.round = 0 then joinRound s else m.round
    let s1 := s.setSx { s.sx with joins := s.sx.joins ++ [(m.src, j)] }
    .next (if isCoord s then sendCtrl (tellSite s1 [0, m.src.site, m.src.addr, j]) m.src 3 [j] else s1)

end Sys2Proof.Machine
end

