-- ==== Sys2Proof/Machine/VecArith.lean ====
section
/-!
DEFINITION. The vector arithmetic class (R127 to R129, Table 4-8).
-/

namespace Sys2Proof.Machine

def allTypes : List Nat := [0, 1, 2, 3]

def execVadd (sl : Slot) (f : Fld) (s : State) : Out :=
  vecOp sl f s allTypes (useVab f true) true fun x =>
    arith x f (fun m a b _ => fadd m (rndOf f.rnd) a b) fun a b => a + b
def execVsub (sl : Slot) (f : Fld) (s : State) : Out :=
  vecOp sl f s allTypes (useVab f true) true fun x =>
    arith x f (fun m a b _ => fsub m (rndOf f.rnd) a b) fun a b => a - b
def execVmul (sl : Slot) (f : Fld) (s : State) : Out :=
  vecOp sl f s allTypes (useVab f true) true fun x =>
    arith x f (fun m a b _ => fmul m (rndOf f.rnd) a b) fun a b => a * b
def execVfma (sl : Slot) (f : Fld) (s : State) : Out :=
  vecOp sl f s [0, 1, 2] (useVabc f) true fun x =>
    arith x f (fun m a b c => ffma m (rndOf f.rnd) a b c) fun a _ => a

/-- c - a * b, one rounding: a NaN operand keeps its own sign, in operand order (R53). -/
def fnma (m : Fmt) (r : Rnd) (a b c : Nat) : Nat × Nat :=
  match nanOf m [a, b, c] with
  | some x => x
  | none => ffma m r (fneg m a) b c

def execVfnma (sl : Slot) (f : Fld) (s : State) : Out :=
  vecOp sl f s [0, 1, 2] (useVabc f) true fun x =>
    arith x f (fun m a b c => fnma m (rndOf f.rnd) a b c) fun a _ => a
def execVmin (sl : Slot) (f : Fld) (s : State) : Out :=
  vecOp sl f s allTypes (useVab f false) true fun x =>
    arith x f (fun m a b _ => fmin m a b) fun a b => if a.slt b then a else b
def execVmax (sl : Slot) (f : Fld) (s : State) : Out :=
  vecOp sl f s allTypes (useVab f false) true fun x =>
    arith x f (fun m a b _ => fmax m a b) fun a b => if a.slt b then b else a
/-- VABS: of a NaN the sign alone, a signalling one stays so (DESIGN CHOICE, log entry 95). -/
def execVabs (sl : Slot) (f : Fld) (s : State) : Out :=
  vecOp sl f s allTypes (useVa false f) true fun x =>
    arith x { f with bsrc := 0 } (fun m a _ _ => (fabs m a, 0)) fun a _ => if a.slt 0 then -a else a
/-- VNEG: of a NaN the sign alone, a signalling one stays so (DESIGN CHOICE, log entry 95). -/
def execVneg (sl : Slot) (f : Fld) (s : State) : Out :=
  vecOp sl f s allTypes (useVa false f) true fun x =>
    arith x { f with bsrc := 0 } (fun m a _ _ => (fneg m a, 0)) fun a _ => -a

/-- Fields of a compare: Pd in RD. -/
def useCmp (f : Fld) : Use := { useVab f false with rd := 8 }

def execVcmpeq (sl : Slot) (f : Fld) (s : State) : Out :=
  vecOp sl f s [0, 3] (useCmp f) true fun x => compare x f (fun o => o == some .eq) fun a b => a == b
def execVcmplt (sl : Slot) (f : Fld) (s : State) : Out :=
  vecOp sl f s [0, 3] (useCmp f) true fun x => compare x f (fun o => o == some .lt) fun a b => a.slt b
def execVcmple (sl : Slot) (f : Fld) (s : State) : Out :=
  vecOp sl f s [0, 3] (useCmp f) true fun x =>
    compare x f (fun o => o == some .lt || o == some .eq) fun a b => a.sle b
def execVcmpun (sl : Slot) (f : Fld) (s : State) : Out :=
  vecOp sl f s [0] (useCmp f) true fun x => compare x f (fun o => o == none) fun _ _ => false

/-- VSEL: a where Pc is 1, else b. -/
def execVsel (sl : Slot) (f : Fld) (s : State) : Out :=
  vecOp sl f s [3] { useVab f false with rc := 8 } true fun x =>
    let p := pget x f.rc.toNat
    let r := ((vget x f.ra.toNat).zip (vOperand x f)).zipIdx.map fun q =>
      (if bit p q.2 then q.1.1 else q.1.2, 0)
    putLanes x f r

/-- An I32 operation on a and b. -/
def intOp (sl : Slot) (f : Fld) (s : State) (op : B32 → B32 → B32) : Out :=
  vecOp sl f s [3] (useVab f false) true fun x => arith x f (fun _ a _ _ => (a, 0)) op

def execVand (sl : Slot) (f : Fld) (s : State) : Out := intOp sl f s fun a b => a &&& b
def execVor (sl : Slot) (f : Fld) (s : State) : Out := intOp sl f s fun a b => a ||| b
def execVxor (sl : Slot) (f : Fld) (s : State) : Out := intOp sl f s fun a b => a ^^^ b
def execVshl (sl : Slot) (f : Fld) (s : State) : Out := intOp sl f s fun a b => a <<< (b.toNat % 32)
def execVshr (sl : Slot) (f : Fld) (s : State) : Out := intOp sl f s fun a b => a >>> (b.toNat % 32)
def execVsar (sl : Slot) (f : Fld) (s : State) : Out := intOp sl f s fun a b => a.sshiftRight (b.toNat % 32)

def execVrsum (sl : Slot) (f : Fld) (s : State) : Out :=
  vecOp sl f s allTypes (useVa true f) true fun x =>
    reduce x f (fadd f32 (rndOf f.rnd)) (fun a b => (a + b) % 2 ^ 32) 0 0
def execVrmax (sl : Slot) (f : Fld) (s : State) : Out :=
  vecOp sl f s allTypes (useVa false f) true fun x =>
    reduce x f (fmax f32) imax 0xFF800000 0x80000000
def execVrmin (sl : Slot) (f : Fld) (s : State) : Out :=
  vecOp sl f s allTypes (useVa false f) true fun x =>
    reduce x f (fmin f32) imin 0x7F800000 0x7FFFFFFF

def execVmov (sl : Slot) (f : Fld) (s : State) : Out :=
  vecOp sl f s [3] { useVab f false with ra := 0 } true fun x =>
    putLanes x f ((vOperand x f).map fun w => (w, 0))
/-- VBCAST: a lane number of 128 or more is malformed (DESIGN CHOICE, log entry 103). -/
def execVbcast (sl : Slot) (f : Fld) (s : State) : Out :=
  vecOp sl f s [3] { useVa false f with imm := true } (decide (f.imm18.toNat < 128)) fun x =>
    let w := (vget x f.ra.toNat).getD f.imm18.toNat 0
    putLanes x f (List.replicate 128 (w, 0))
def execViota (sl : Slot) (f : Fld) (s : State) : Out :=
  vecOp sl f s [3] { useVab f false with ra := 0 } true fun x =>
    putLanes x f ((vOperand x f).zipIdx.map fun p => (p.1 + bv 32 p.2, 0))

/-- INT32 to binary32 in direction RND (R52). -/
def i2f (r : Rnd) (w : B32) : B32 × Nat :=
  let i := w.toInt
  let q := roundDy f32 r ⟨decide (i < 0), i.natAbs, 0⟩
  (bv 32 q.1, q.2)

def execVcvtI2f (sl : Slot) (f : Fld) (s : State) : Out :=
  vecOp sl f s [3] { rd := 32, ra := 32, rnd := true } true fun x =>
    putLanes x f ((vget x f.ra.toNat).map (i2f (rndOf f.rnd)))

/-- VCVT.F2I: binary32 to INT32, governed (R128, R56); RND is ignored, and FMT and ESC_SHIFT are as log entry 118 says. -/
def execVcvtF2i (sl : Slot) (f : Fld) (s : State) : Out :=
  issue sl 2 f s fun t =>
    let x := getSlot t sl.cl sl.fil
    let id := slotCtx t sl.cl sl.fil
    let c := getCtx t id
    let va := (sget x (extRe f)).toNat
    let base := (sget x f.rc).toNat
    guard [(badFld { f64 := false, f128 := true, rd := 32, ra := 32, rc := 64, imm32 := true, ext := true,
                     pred := true, rnd := true, nf := true } f || f.ty != 0 ||
            extEsc f != 0 || !(extFmt f == 0 || extFmt f == 0xA), cMAL, 0)]
      (withStat t sl va
        (let rs := (vget x f.ra.toNat).zipIdx.map fun p =>
            cvtI32 (vecRnd c x.stepNo.toNat f base p.2) (decode f32 p.1.toNat)
         let ctr := rs.zipIdx.foldl (fun a p => if active x f p.2 then a.add p.1.2 else a) ({} : Ctr)
         let t1 := setSlot t sl.cl sl.fil
           (vset x f.rd.toNat (mergeLanes x f (vget x f.rd.toNat) (rs.map fun r => bv 32 r.1)))
         .done (statAdd t1 id va ctr 0 0 0xA (modeFor c x.stepNo.toNat)).1))

end Sys2Proof.Machine
end

