-- ==== Sys2Proof/Machine/VecData.lean ====
section
/-!
DEFINITION. The vector data class (R131 to R133, Table 4-10): loads and stores, unpack and pack,
program draws, predicates.
-/

namespace Sys2Proof.Machine

/-- The words of 512 bytes of scratch at `a`, two lanes each, in which a lane is active. -/
def laneRanges (x : SlotSt) (f : Fld) (a : Nat) : List (Nat × Nat) :=
  ((List.range 64).filter fun j => active x f (2 * j) || active x f (2 * j + 1)).map fun j => (a + 8 * j, 8)

/-- VLD: 512 bytes of scratch into the active lanes of Vd; the words of inactive lanes are not read. -/
def execVld (sl : Slot) (f : Fld) (u : Upset) (s : State) : Out :=
  issue sl 3 f s fun t0 =>
    let t := inject t0 sl.cl sl.fil u
    let x := getSlot t sl.cl sl.fil
    let a := scrAddr x f
    guard [(badFld { rd := 32, ra := 64, imm := true, pred := true } f, cMAL, 0), (a % 64 != 0, cALIGN, a),
           (!inPart t sl.cl sl.fil a 512, cTRANS, a)]
      (readRanges sl (laneRanges x f a) t fun t1 =>
         let bs := scrRead t1 sl.cl (scrOff t1 sl.cl sl.fil a) 512
         let new := (List.range 128).map fun i => bv 32 (leNat (slice bs (4 * i) 4))
         .done (updSlot t1 sl.cl sl.fil fun y =>
           vset y f.rd.toNat (mergeLanes y f (vget y f.rd.toNat) new)))

/-- Lanes stored two by two: a pair of active lanes is one whole 8-byte word. -/
def storeLanes (x : SlotSt) (f : Fld) (cl off : Nat) (v : Lanes) (s : State) : State :=
  (List.range 64).foldl (fun st j =>
    let lo := leBytes 4 (v.getD (2 * j) 0).toNat
    let hi := leBytes 4 (v.getD (2 * j + 1) 0).toNat
    if active x f (2 * j) then
      if active x f (2 * j + 1) then scrWrite st cl (off + 8 * j) (lo ++ hi)
      else scrWrite st cl (off + 8 * j) lo
    else if active x f (2 * j + 1) then scrWrite st cl (off + 8 * j + 4) hi else st) s

/-- The words of which one active lane of two writes a half: they are read (R111). -/
def halfRanges (x : SlotSt) (f : Fld) (a : Nat) : List (Nat × Nat) :=
  ((List.range 64).filter fun j => active x f (2 * j) != active x f (2 * j + 1)).map fun j => (a + 8 * j, 8)

/-- VST: the active lanes of Vb to 512 bytes of scratch. -/
def execVst (sl : Slot) (f : Fld) (s : State) : Out :=
  issue sl 3 f s fun t =>
    let x := getSlot t sl.cl sl.fil
    let a := scrAddr x f
    guard [(badFld { ra := 64, rb := 32, imm := true, pred := true } f, cMAL, 0), (a % 64 != 0, cALIGN, a),
           (!inPart t sl.cl sl.fil a 512, cTRANS, a)]
      (readRanges sl (halfRanges x f a) t fun t1 =>
        .done (storeLanes x f sl.cl (scrOff t1 sl.cl sl.fil a) (vget x f.rb.toNat) t1))

/-- Does a pass in flight write an accumulator tile (R86)? -/
def tileBusy (x : SlotSt) (a : Nat) : Bool := x.passes.any fun p => p.tile == a

/-- The words of row `r` of tile `a` in an instruction's active lanes. -/
def rowWords (x : SlotSt) (f : Fld) (a r k : Nat) : Bool :=
  k / 8192 == a && k % 8192 / 128 == r && active x f (k % 128)

/-- VLDA: row Sb[5:0] of tile Aa into Vd, unconverted. -/
def execVlda (sl : Slot) (f : Fld) (u : Upset) (s : State) : Out :=
  issue sl 3 f s fun t0 =>
    let t := inject t0 sl.cl sl.fil u
    let x := getSlot t sl.cl sl.fil
    guard [(badFld { rd := 32, ra := 8, rb := 64, pred := true } f, cMAL, 0)]
      (if tileBusy x f.ra.toNat then .hold t
       else readAcc sl (rowWords x f f.ra.toNat ((sget x f.rb).toNat % 64)) t fun t1 =>
         .done (updSlot t1 sl.cl sl.fil fun y =>
           vset y f.rd.toNat (mergeLanes y f (vget y f.rd.toNat)
             (accRow y f.ra.toNat ((sget y f.rb).toNat % 64)))))

/-- VSTA: row Sc[5:0] of tile Aa takes the active lanes of Vb. -/
def execVsta (sl : Slot) (f : Fld) (s : State) : Out :=
  issue sl 3 f s fun t =>
    let x := getSlot t sl.cl sl.fil
    let r := (sget x f.rc).toNat % 64
    guard [(badFld { ra := 8, rb := 32, rc := 64, pred := true } f, cMAL, 0)]
      (if tileBusy x f.ra.toNat then .hold t
       else .done (setSlot t sl.cl sl.fil (clearAcc
         (setAccRow x f.ra.toNat r (mergeLanes x f (accRow x f.ra.toNat r) (vget x f.rb.toNat)))
         (rowWords x f f.ra.toNat r))))

/-- SCALE_ABSENT of the EXT word with a tile that has a scale region (DESIGN CHOICE, log entry 103). -/
def badAbsent (f : Fld) (d : TileD) : Bool := extAbsent f && d.scaledT

/-- The row and first column that a register names, and is it malformed (R131)? -/
def rowCol (v : B64) : Nat × Nat × Bool :=
  (bits v 23 0, bits v 47 24, bits v 63 48 != 0 || bits v 47 24 % 32 != 0)

/-- A value as a binary32 lane: a stored NaN of a 16-bit format keeps its payload, made quiet (R51).  A value of a scaled
block beyond the range of binary32 becomes infinity (DESIGN CHOICE, log entry 94). -/
def unpackLane (fmt code : Nat) (v : FVal) : B32 :=
  if fmt = 1 ∨ fmt = 2 then
    bv 32 (if v = .nan then quiet f32 (widen (tyFmt fmt) code) else toF32 v)
  else bv 32 (toF32 v)

/-- Elements that VUNPK reaches from column `j` on. -/
def unpackCount (d : TileD) (j : Nat) : Nat := min 128 (d.lcols - j)

/-- Is a lane among the 32 of block `b` active? -/
def blockActive (x : SlotSt) (f : Fld) (b : Nat) : Bool := (List.range 32).any fun i => active x f (32 * b + i)

/-- The blocks of a row with scales that VUNPK decodes: those with an active lane. -/
def unpackBlocks (x : SlotSt) (f : Fld) (d : TileD) (j : Nat) : List Nat :=
  (List.range ((unpackCount d j + 31) / 32)).filter (blockActive x f)

/-- The scratch that VUNPK reads: the blocks with an active lane and their scales, or the elements of active lanes. -/
def unpackRanges (x : SlotSt) (f : Fld) (d : TileD) (i j : Nat) : List (Nat × Nat) :=
  if d.scaledT then
    (unpackBlocks x f d j).flatMap fun b =>
      [((d.rowData i).1 + (j / 32 + b) * blkBytes d.fmt, blkBytes d.fmt), ((d.rowScale i).1 + j / 32 + b, 1)]
  else
    ((List.range (unpackCount d j)).filter (active x f)).map fun k =>
      if d.trans then (d.doff + (j + k) * d.rstride + i * d.elBytes, d.elBytes)
      else (d.doff + i * d.rstride + (j + k) * d.elBytes, d.elBytes)

/-- The lanes that VUNPK decodes from row `i`, column `j` on, as far as the row reaches, and the
malformed blocks among those with an active lane (R117). -/
def unpackRow (s : State) (sl : Slot) (x : SlotSt) (f : Fld) (d : TileD) (i j : Nat) : Lanes × Nat :=
  let n := unpackCount d j
  if d.scaledT then
    let one (b : Nat) : List FVal × Nat := rowVals s sl.cl sl.fil { d with
      doff := d.doff + (j / 32 + b) * blkBytes d.fmt, soff := d.soff + j / 32 + b, cols := min 32 (n - 32 * b) } i
    let bl := (List.range ((n + 31) / 32)).map fun b =>
      let (vs, e) := one b
      (vs.map fun v => bv 32 (toF32 v), if blockActive x f b then e else 0)
    (bl.flatMap (·.1), bl.foldl (fun a p => a + p.2) 0)
  else
    ((List.range n).map fun k =>
      unpackLane d.fmt (tileCode s sl.cl sl.fil d i (j + k)) (tileVal s sl.cl sl.fil d i (j + k)), 0)

/-- VUNPK: 128 elements of a row of the tile Ta as binary32 (R131, R72).  Convert fields that it does not use are 0 (log
entry 118); what a statistics record takes of it is log entry 119's. -/
def execVunpk (sl : Slot) (f : Fld) (s : State) : Out :=
  issue sl 3 f s fun t =>
    let x := getSlot t sl.cl sl.fil
    let id := slotCtx t sl.cl sl.fil
    let d := parseTile (tget x f.ra.toNat)
    let (i, j, bad) := rowCol (sget x f.rb)
    let va := (sget x (extRe f)).toNat
    guard [(badFld { f64 := false, f128 := true, rd := 32, ra := 16, rb := 64, ext := true, pred := true } f ||
            bits f.ext 31 7 != 0 || badAbsent f d || d.bad (slotPart t sl.cl sl.fil).2 || d.fmt == 0 || d.fmt == 10 || bad ||
            decide (d.lrows ≤ i) || decide (d.lcols ≤ j), cMAL, 0)]
      (withStat t sl va (readRanges sl (unpackRanges x f d i j) t fun t1 =>
        let (ls, e) := unpackRow t1 sl x f d i j
        let t2 := updSlot t1 sl.cl sl.fil fun y =>
          let old := vget y f.rd.toNat
          vset y f.rd.toNat (mergeLanes y f old (ls ++ old.drop ls.length))
        if e = 0 then .done t2
        else .done (statAdd t2 id va { fmt := e } 0 0 d.fmt
          (modeFor (getCtx t2 id) x.stepNo.toNat)).1))

/-- VPK: Va and Vb packed into 256 elements of a 16-bit format in Vd (R131, R132); ESC_SHIFT is 0 (log entry 118). -/
def execVpk (sl : Slot) (f : Fld) (s : State) : Out :=
  issue sl 3 f s fun t =>
    let x := getSlot t sl.cl sl.fil
    let id := slotCtx t sl.cl sl.fil
    let c := getCtx t id
    let va := (sget x (extRe f)).toNat
    let base := (sget x f.rc).toNat
    let fm := extFmt f
    guard [(badFld { f64 := false, f128 := true, rd := 32, ra := 32, rb := 32, rc := 64, imm32 := true,
                     ext := true, pred := true } f || !(fm == 1 || fm == 2) || extEsc f != 0,
            cMAL, 0)]
      (withStat t sl va
        (let el := (vget x f.ra.toNat ++ vget x f.rb.toNat).zipIdx.map fun p =>
            cvtPlain (tyFmt fm) (service c x.stepNo.toNat) (vecRnd c x.stepNo.toNat f base p.2)
              (decode f32 p.1.toNat)
         let ctr := el.zipIdx.foldl (fun a p => if active x f (p.2 / 2) then a.add p.1.2 else a) ({} : Ctr)
         let new := (List.range 128).map fun i => packEl (el.getD (2 * i) (0, {})).1 (el.getD (2 * i + 1) (0, {})).1
         let t1 := setSlot t sl.cl sl.fil (vset x f.rd.toNat (mergeLanes x f (vget x f.rd.toNat) new))
         .done (statAdd t1 id va ctr 0 0 fm (modeFor c x.stepNo.toNat)).1))

/-- The elements of VPK.ST: one per lane as far as the row reaches.  An E2M1X tile takes the slotted form (DESIGN CHOICE,
log entry 97). -/
def packEls (c : Ctx) (x : SlotSt) (f : Fld) (d : TileD) (j base : Nat) : List OutEl :=
  ((vget x f.rb.toNat).take (d.lcols - j)).zipIdx.map fun p =>
    { v := decode f32 p.1.toNat, rm := vecRnd c x.stepNo.toNat f base p.2, live := active x f p.2 }

/-- VPK.ST: the active lanes of Vb converted into a row of the tile Ta (R131, R132); which FMT and ESC_SHIFT it takes is log
entry 118's. -/
def execVpkSt (sl : Slot) (f : Fld) (s : State) : Out :=
  issue sl 3 f s fun t =>
    let x := getSlot t sl.cl sl.fil
    let id := slotCtx t sl.cl sl.fil
    let c := getCtx t id
    let d := parseTile (tget x f.ra.toNat)
    let (i, j, bad) := rowCol (sget x f.rc)
    let va := (sget x (extRe f)).toNat
    let base := (sget x (extRe f + 1)).toNat
    guard [(badFld { f64 := false, f128 := true, ra := 16, rb := 32, rc := 64, imm32 := true, ext := true,
                     pred := true } f || extRe f == 63 || badAbsent f d ||
            !(extFmt f == 0 || extFmt f == d.fmt) || (extEsc f != 0 && d.fmt != 8) ||
            d.bad (slotPart t sl.cl sl.fil).2 || d.fmt == 0 || d.fmt == 10 || bad || decide (d.lrows ≤ i) ||
            decide (d.lcols ≤ j), cMAL, 0)]
      (withStat t sl va
        (let (ws, k) := gridWrs d (service c x.stepNo.toNat) (extEsc f) i j [packEls c x f d j base]
         readRanges sl (wrsPart ws) t fun t1 =>
           .done (statAdd (putWrs sl.cl sl.fil ws t1).1 id va k 0 0 d.fmt (modeFor c x.stepNo.toNat)).1))

/-- VDRAW: Dill's outputs of domain 0x05 into COUNT registers from Vd on (R133); Convert fields that it does not use are 0
(log entry 118). -/
def execVdraw (sl : Slot) (f : Fld) (s : State) : Out :=
  issue sl 3 f s fun t =>
    let x := getSlot t sl.cl sl.fil
    let c := getCtx t (slotCtx t sl.cl sl.fil)
    let n := extFmt f
    let base := (sget x f.rc).toNat
    guard [(badFld { f64 := false, f128 := true, rd := 32, rc := 64, imm32 := true, ext := true, pred := true } f ||
            n == 0 || decide (4 < n) || decide (32 < f.rd.toNat + n) || bits f.ext 11 0 != 0, cMAL, 0)]
      (let ys := (List.range 128).map fun i =>
          dill c.seed.toNat x.stepNo.toNat (extStream f) (base + i) f.imm32.toNat 5
       .done (setSlot t sl.cl sl.fil ((List.range n).foldl (fun y k =>
          vset y (f.rd.toNat + k) (mergeLanes y f (vget y (f.rd.toNat + k))
            (ys.map fun w => bv 32 (w.getD k 0)))) x)))

/-! ### Predicates and lanes -/

/-- A predicate with the inactive lanes' bits kept (R117). -/
def mergePred (x : SlotSt) (f : Fld) (old new : B128) : B128 :=
  if f.pen then (new &&& pget x f.pred.toNat) ||| (old &&& ~~~pget x f.pred.toNat) else new

/-- An instruction of the class that only changes the slot's registers. -/
def dataOp (sl : Slot) (f : Fld) (s : State) (u : Use) (ok : Bool) (k : SlotSt → SlotSt) : Out :=
  issue sl 3 f s fun t =>
    guard [(badFld { u with pred := true, nf := true } f || !ok, cMAL, 0)] (.done (updSlot t sl.cl sl.fil k))

/-- Pd takes a predicate. -/
def putPred (x : SlotSt) (f : Fld) (v : B128) : SlotSt :=
  pset x f.rd.toNat (mergePred x f (pget x f.rd.toNat) v)

/-- PSET; an IMM18 above 1 is MALFORMED (log entry 103). -/
def execPset (sl : Slot) (f : Fld) (s : State) : Out :=
  dataOp sl f s { rd := 8, imm := true } (decide (f.imm18.toNat < 2)) fun x =>
    putPred x f (if f.imm18 = 1 then BitVec.allOnes 128 else 0)
def execPand (sl : Slot) (f : Fld) (s : State) : Out :=
  dataOp sl f s { rd := 8, ra := 8, rb := 8 } true fun x => putPred x f (pget x f.ra.toNat &&& pget x f.rb.toNat)
def execPor (sl : Slot) (f : Fld) (s : State) : Out :=
  dataOp sl f s { rd := 8, ra := 8, rb := 8 } true fun x => putPred x f (pget x f.ra.toNat ||| pget x f.rb.toNat)
def execPxor (sl : Slot) (f : Fld) (s : State) : Out :=
  dataOp sl f s { rd := 8, ra := 8, rb := 8 } true fun x => putPred x f (pget x f.ra.toNat ^^^ pget x f.rb.toNat)
def execPnot (sl : Slot) (f : Fld) (s : State) : Out :=
  dataOp sl f s { rd := 8, ra := 8 } true fun x => putPred x f (~~~pget x f.ra.toNat)

/-- Number of 1 bits in the active lanes. -/
def predCount (x : SlotSt) (f : Fld) (v : B128) : Nat :=
  ((List.range 128).filter fun i => active x f i && bit v i).length

def execPcnt (sl : Slot) (f : Fld) (s : State) : Out :=
  dataOp sl f s { rd := 64, ra := 8 } true fun x => sset x f.rd (bv 64 (predCount x f (pget x f.ra.toNat)))
def execPmask (sl : Slot) (f : Fld) (s : State) : Out :=
  dataOp sl f s { rd := 8, ra := 64 } true fun x =>
    putPred x f (bv 128 (2 ^ min 128 (sget x f.ra).toNat - 1))
/-- VEXT: a lane number of 128 or more is malformed, as a reserved bit that is set (DESIGN CHOICE, log entry 103). -/
def execVext (sl : Slot) (f : Fld) (s : State) : Out :=
  dataOp sl f s { rd := 64, ra := 32, imm := true } (decide (f.imm18.toNat < 128)) fun x =>
    if active x f f.imm18.toNat then
      sset x f.rd (((vget x f.ra.toNat).getD f.imm18.toNat 0).setWidth 64)
    else x
/-- VINS: a lane number of 128 or more is malformed (DESIGN CHOICE, log entry 103). -/
def execVins (sl : Slot) (f : Fld) (s : State) : Out :=
  dataOp sl f s { rd := 32, ra := 64, imm := true } (decide (f.imm18.toNat < 128)) fun x =>
    let old := vget x f.rd.toNat
    vset x f.rd.toNat (mergeLanes x f old (old.set f.imm18.toNat ((sget x f.ra).extractLsb' 0 32)))
/-- FSETP: FSTAT takes the flags of IMM18 when an active bit of Pa is 1; NF has no effect on it (R140).
An IMM18 above 31 is MALFORMED (log entry 103). -/
def execFsetp (sl : Slot) (f : Fld) (s : State) : Out :=
  dataOp sl f s { ra := 8, imm := true } (decide (f.imm18.toNat < 32)) fun x =>
    if predCount x f (pget x f.ra.toNat) = 0 then x else setFlags x false f.imm18.toNat

end Sys2Proof.Machine
end

