-- ==== Sys2Proof/Machine/Words.lean ====
section
/-!
DEFINITION. Instructions as words: the CLASS and OP codes of Tables 4-5 to 4-15, the fetch of a slot's next instruction
(R120), reserved codes (R142); and a host's write of a register, with or without a row of its own (R429, R430).
-/

namespace Sys2Proof.Machine

/-! ### CLASS and OP -/

/-- The scalar class, Table 4-6. -/
def scalarIns (sl : Slot) (u : Upset) (f : Fld) (op : Nat) : Option (State → Out) :=
  match op with
  | 0x00 => some (execAdd sl f) | 0x01 => some (execSub sl f) | 0x02 => some (execMul sl f) | 0x03 => some (execMulh sl f)
  | 0x04 => some (execAnd sl f) | 0x05 => some (execOr sl f) | 0x06 => some (execXor sl f) | 0x07 => some (execShl sl f)
  | 0x08 => some (execShr sl f) | 0x09 => some (execSar sl f) | 0x0A => some (execSlt sl f) | 0x0B => some (execSltu sl f)
  | 0x0C => some (execLi sl f) | 0x0D => some (execLih sl f) | 0x10 => some (execLd sl f u) | 0x11 => some (execSt sl f)
  | 0x12 => some (execLdw sl f) | 0x13 => some (execStw sl f) | 0x18 => some (execCsrr sl f) | 0x19 => some (execCsrw sl f)
  | 0x1A => some (execCapr sl f) | 0x1B => some (execCaprd sl f)
  | _ => none

/-- The control class, Table 4-7. -/
def controlIns (sl : Slot) (f : Fld) (op : Nat) : Option (State → Out) :=
  match op with
  | 0x00 => some (execJ sl f) | 0x01 => some (execBeq sl f) | 0x02 => some (execBne sl f) | 0x03 => some (execBlt sl f)
  | 0x04 => some (execBge sl f) | 0x05 => some (execBltu sl f) | 0x06 => some (execCall sl f) | 0x07 => some (execJr sl f)
  | 0x08 => some (execHalt sl f) | 0x09 => some (execCfence sl f) | 0x0A => some (execNop sl f)
  | _ => none

/-- Vector arithmetic, Table 4-8, by OP[7:2]. -/
def vectorIns (sl : Slot) (f : Fld) (op : Nat) : Option (State → Out) :=
  match op with
  | 0x00 => some (execVadd sl f) | 0x01 => some (execVsub sl f) | 0x02 => some (execVmul sl f) | 0x03 => some (execVfma sl f)
  | 0x04 => some (execVfnma sl f) | 0x05 => some (execVmin sl f) | 0x06 => some (execVmax sl f) | 0x07 => some (execVabs sl f)
  | 0x08 => some (execVneg sl f) | 0x09 => some (execVcmpeq sl f) | 0x0A => some (execVcmplt sl f) | 0x0B => some (execVcmple sl f)
  | 0x0C => some (execVcmpun sl f) | 0x0D => some (execVsel sl f) | 0x0E => some (execVand sl f) | 0x0F => some (execVor sl f)
  | 0x10 => some (execVxor sl f) | 0x11 => some (execVshl sl f) | 0x12 => some (execVshr sl f) | 0x13 => some (execVsar sl f)
  | 0x14 => some (execVrsum sl f) | 0x15 => some (execVrmax sl f) | 0x16 => some (execVrmin sl f) | 0x17 => some (execVmov sl f)
  | 0x18 => some (execVbcast sl f) | 0x19 => some (execViota sl f) | 0x1A => some (execVcvtF2i sl f)
  | 0x1B => some (execVcvtI2f sl f)
  | _ => none

/-- Vector data, Table 4-10. -/
def dataIns (sl : Slot) (u : Upset) (f : Fld) (op : Nat) : Option (State → Out) :=
  match op with
  | 0x00 => some (execVld sl f u) | 0x01 => some (execVst sl f) | 0x02 => some (execVlda sl f u) | 0x03 => some (execVsta sl f)
  | 0x04 => some (execVunpk sl f) | 0x05 => some (execVpk sl f) | 0x06 => some (execVpkSt sl f) | 0x07 => some (execVdraw sl f)
  | 0x08 => some (execPset sl f) | 0x09 => some (execPand sl f) | 0x0A => some (execPor sl f) | 0x0B => some (execPxor sl f)
  | 0x0C => some (execPnot sl f) | 0x0D => some (execPcnt sl f) | 0x0E => some (execPmask sl f) | 0x0F => some (execVext sl f)
  | 0x10 => some (execVins sl f) | 0x11 => some (execFsetp sl f)
  | _ => none

/-- The matrix class, Table 4-11, and the DMA class, Table 4-12; `w`: ns that the request waited behind filler work. -/
def matrixIns (sl : Slot) (f : Fld) (w op : Nat) : Option (State → Out) :=
  match op with
  | 0x00 => some (execMmaR sl f w) | 0x01 => some (execMmaS sl ⟨f, w⟩) | 0x02 => some (execMout sl ⟨f, w⟩) | 0x03 => some (execMlda sl ⟨f, w⟩)
  | 0x04 => some (execMamax sl ⟨f, w⟩) | 0x05 => some (execTld sl f) | 0x06 => some (execTst sl f) | 0x07 => some (execTorg sl f)
  | 0x08 => some (execToff sl f)
  | _ => none

def dmaIns (sl : Slot) (f : Fld) (w op : Nat) : Option (State → Out) :=
  match op with
  | 0x00 => some (execDmaGo sl f w) | 0x01 => some (execDmaCnt sl f) | 0x02 => some (execDmaDrain sl f)
  | _ => none

/-- The sync class, Table 4-14; collective and update classes, Table 4-15. -/
def syncIns (sl : Slot) (f : Fld) (op : Nat) : Option (State → Out) :=
  match op with
  | 0x00 => some (execSig sl f) | 0x01 => some (execWait sl f) | 0x02 => some (execArrive sl f) | 0x03 => some (execCons sl f)
  | 0x04 => some (execSread sl f) | 0x05 => some (execCreg sl f)
  | _ => none

def collIns (sl : Slot) (f : Fld) (op : Nat) : Option (State → Out) :=
  match op with
  | 0x00 => some (execCollGo sl f) | 0x01 => some (execCollNf sl f) | 0x02 => some (execCollQ sl f)
  | _ => none

def updIns (sl : Slot) (f : Fld) (op : Nat) : Option (State → Out) :=
  match op with
  | 0x00 => some (execUpdA sl f) | 0x01 => some (execUpdB sl f) | 0x02 => some (execUpdAb sl f) | 0x03 => some (execUpdOut sl f)
  | 0x04 => some (execUpdExp sl f)
  | _ => none

/-- The meaning of the instruction that two words spell on a slot (Table 4-5); none where CLASS or OP is reserved.  `u`
and `w` are what meets the instruction: a storage error, and a wait behind filler work. -/
def decodeIns (sl : Slot) (u : Upset) (w : Nat) (w0 w1 : B64) : Option (State → Out) :=
  let f := insFld w0 w1
  let op := (insOp w0).toNat
  match (insClass w0).toNat with
  | 0 => scalarIns sl u f op
  | 1 => controlIns sl f op
  | 2 => vectorIns sl f (op / 4)
  | 3 => dataIns sl u f op
  | 4 => matrixIns sl f w op
  | 5 => dmaIns sl f w op
  | 6 => syncIns sl f op
  | 7 => collIns sl f op
  | 8 => updIns sl f op
  | _ => none

/-- The instruction that two words spell runs on a slot; a reserved CLASS or OP is malformed (R142). -/
def runWords (sl : Slot) (u : Upset) (w : Nat) (w0 w1 : B64) (s : State) : Out :=
  match decodeIns sl u w w0 w1 with
  | some k => k s
  | none => issue sl (insClass w0).toNat (insFld w0 w1) s fun _ => .fault cMAL 0

/-! ### The fetch (R120) -/

/-- One word of code at a device virtual address, as memory stood when the slot's kernel started, or the fault that its
fetch raises and where: TRANSLATION without a translation that permits execution, POISON in a line that cannot be read
(log entry 19). -/
def fetchWord (s : State) (sl : Slot) (va : Nat) : B64 ⊕ (Nat × Nat) :=
  match xlate s (some (sl.cl, sl.fil)) (slotCtx s sl.cl sl.fil) va .fetch with
  | .ok pa => if lineBad s (pa / 64) then .inr (cPOISON, va) else .inl (bv 64 (leNat (Tab.getMany (fun _ => 0) (getSlot s sl.cl sl.fil).code pa 8)))
  | .miss _ _ _ => .inr (cTRANS, va)

/-- The words of the instruction at the slot's PC: FORM tells whether there is a second. -/
def fetchIns (s : State) (sl : Slot) : (B64 × B64) ⊕ (Nat × Nat) :=
  let pc := (getSlot s sl.cl sl.fil).pc
  match fetchWord s sl pc with
  | .inr e => .inr e
  | .inl w0 =>
    if !w0.getLsbD 63 then .inl (w0, 0)
    else match fetchWord s sl (pc + 8) with
    | .inr e => .inr e
    | .inl w1 => .inl (w0, w1)

/-- The slot's next instruction: what stands at its PC runs, or its fetch raises a program fault. -/
def runSlot (sl : Slot) (u : Upset) (w : Nat) (s : State) : Out :=
  match fetchIns s sl with
  | .inl (w0, w1) => runWords sl u w w0 w1 s
  | .inr (code, addr) => issue sl 0 {} s fun _ => .fault code addr

/-! ### A host's write of a register (R429, R430) -/

/-- The meaning of the command that a register spells. -/
def commandRun : Instr → State → Out
  | .bar2Sel v => execBar2Sel v
  | .rstCmd v => execRstCmd v
  | .irqStat v => execIrqStat v
  | .irqEn v => execIrqEn v
  | .assign w => execAssign w
  | .release w => execRelease w
  | .retire w => execRetire w
  | .invalCtx w => execInvalCtx w
  | .invalRange w => execInvalRange w
  | .invalAll w => execInvalAll w
  | .patrolCtrl v => execPatrolCtrl v
  | .jrnCtrl v => execJrnCtrl v
  | .ctxCreate w => execCtxCreate w
  | .ctxDestroy w => execCtxDestroy w
  | .bind w u => execBind w u
  | .unbind w => execUnbind w
  | .ctxStop w => execCtxStop w
  | .ctxResume w => execCtxResume w
  | .ctxRead w => execCtxRead w
  | .qCreate w => execQCreate w
  | .qDestroy w => execQDestroy w
  | .qCmdHalt w => execQCmdHalt w
  | .qResume w => execQResume w
  | .qRead w => execQRead w
  | .ledCtrl v => execLedCtrl v
  | .ledSlots v => execLedSlots v
  | .ledBase v => execLedBase v
  | .ledTail v => execLedTail v
  | .syncCreate w => execSyncCreate w
  | .syncDestroy w => execSyncDestroy w
  | .syncReset w => execSyncReset w
  | .syncRead w => execSyncRead w
  | .readWaiters w => execReadWaiters w
  | .clearOvr w => execClearOvr w
  | .register w => execRegister w
  | .deregister w => execDeregister w
  | .rollback w => execRollback w
  | .updRead w => execUpdRead w
  | .groupCreate w => execGroupCreate w
  | .groupDestroy w => execGroupDestroy w
  | .groupRead w => execGroupRead w
  | .voteRead w => execVoteRead w
  | .fabId v => execFabId v
  | .fabLat v => execFabLat v
  | .loadRoutes w => execLoadRoutes w
  | .loadSites w => execLoadSites w
  | .loadWatch w => execLoadWatch w
  | .loadEnc w => execLoadEnc w
  | .readRoute w => execReadRoute w
  | .encCtrl v => execEncCtrl v
  | .sxCtrl v => execSxCtrl v
  | .sxH v => execSxH v
  | .pair w => execPair w
  | .unpair w => execUnpair w
  | .substitute w => execSubstitute w
  | .promote w => execPromote w
  | .errTail h v => execErrTail h v
  | .leadForce v => execLeadForce v
  | .bootLoad w => execBootLoad w
  | .hkeyLoad w => execHkeyLoad w
  | .hkeyErase w => execHkeyErase w
  | .cqrWr v => execCqrWr v
  | .pwrLimit v => execPwrLimit v
  | .pctrl p v => execPctrl p v
  | .run u w => execRun u w
  | .resetAlive u w => execResetAlive u w
  | _ => .next

/-- A reserved OP is malformed (log entry 109). -/
def reservedOp (o : Nat) (v : B64) (s : State) : Out :=
  match cmdReg o with
  | some (b, ka, n) => blockCmd b ka (.plainRegisterWrite o (if o = 0x1C070 then 4 else 8) v) s fun t => finish b n t
  | none =>
    if o = 0x1C000 then execBootLoad 1 s
    else if 0x1C400 ≤ o ∧ o < 0x1CC00 ∧ o % 0x40 = 0x30 ∧ regsOn s then .next (chvBadOp ((o - 0x1C400) / 0x40) s)
    else .next s

/-- A register with a row of its own is written whole. -/
def commandWrite (o : Nat) (v : B64) (s : State) : Out :=
  match registerCommand o v with
  | some i => commandRun i s
  | none => reservedOp o v s

/-- The 64-bit registers with rows of their own. -/
def wideCmd (o : Nat) : Bool :=
  [0x10000, 0x10038, 0x11000, 0x12000, 0x13008, 0x14000, 0x15000, 0x16000, 0x17008, 0x18000].contains o

/-- One 32-bit word written at an aligned offset: a register without a row of its own, a half of a 64-bit one that has,
or a 32-bit one that has. -/
def wordWrite (o : Nat) (v : B32) (s : State) : Out :=
  if wideLow o || wideLow (o - 4) || (plain32 o v).isSome then .next (if writable s o then plainWord s o v else s)
  else if wideCmd o then .next (if regsOn s then putLow s o v else s)
  else if wideCmd (o - 4) then commandWrite (o - 4) (v ++ lowFor s (o - 4)) (dropLow s (o - 4))
  else commandWrite o (v.setWidth 64) s

/-- The write goes on after its low word. -/
def andThen (r : Out) (k : State → Out) : Out :=
  match r with
  | .next t => k t
  | r => r

/-- PLAIN_REGISTER_WRITE: 4 or 8 bytes, aligned; a write of another size is dropped. -/
def execPlainRegisterWrite (off size : Nat) (v : B64) (s : State) : Out :=
  if (size ≠ 4 ∧ size ≠ 8) ∨ off % size ≠ 0 then .next s
  else
    let low := wordWrite off (v.extractLsb' 0 32) s
    andThen (if size = 8 then andThen low (wordWrite (off + 4) (v.extractLsb' 32 32)) else low) fun t => .next (refreshRdy t)

end Sys2Proof.Machine
end

