-- ==== Sys2Proof/Machine/Dispatch.lean ====
section
/-!
DEFINITION. The meaning of every command: one arm per constructor of `Instr`.
-/

namespace Sys2Proof.Machine

open Sys2Proof

def exec (i : Instr) (s : State) : Host.Outcome State Fault Refusal :=
  match i with
  | .ctxCreate w => Sys2Proof.Machine.execCtxCreate w s
  | .ctxDestroy w => Sys2Proof.Machine.execCtxDestroy w s
  | .bind w u => Sys2Proof.Machine.execBind w u s
  | .bindComplete => Sys2Proof.Machine.execBindComplete s
  | .unbind w => Sys2Proof.Machine.execUnbind w s
  | .unbindComplete => Sys2Proof.Machine.execUnbindComplete s
  | .ctxStop w => Sys2Proof.Machine.execCtxStop w s
  | .ctxResume w => Sys2Proof.Machine.execCtxResume w s
  | .ctxRead w => Sys2Proof.Machine.execCtxRead w s
  | .qCreate w => Sys2Proof.Machine.execQCreate w s
  | .qDestroy w => Sys2Proof.Machine.execQDestroy w s
  | .queueQuarantineEnd q => Sys2Proof.Machine.execQueueQuarantineEnd q s
  | .qCmdHalt w => Sys2Proof.Machine.execQCmdHalt w s
  | .qResume w => Sys2Proof.Machine.execQResume w s
  | .qRead w => Sys2Proof.Machine.execQRead w s
  | .doorbell off len d => Sys2Proof.Machine.execDoorbell off len d s
  | .queueFetch q => Sys2Proof.Machine.execQueueFetch q s
  | .kernel q => Sys2Proof.Machine.execKernel q s
  | .kernelComplete n => Sys2Proof.Machine.execKernelComplete n s
  | .batchRef q => Sys2Proof.Machine.execBatchRef q s
  | .batchRefRecorded n => Sys2Proof.Machine.execBatchRefRecorded n s
  | .cmdWait q => Sys2Proof.Machine.execCmdWait q s
  | .signal q => Sys2Proof.Machine.execSignal q s
  | .ring q => Sys2Proof.Machine.execRing q s
  | .cmdNop q => Sys2Proof.Machine.execCmdNop q s
  | .governorDebtCleared g => Sys2Proof.Machine.execGovernorDebtCleared g s
  | .priUnitsTick => Sys2Proof.Machine.execPriUnitsTick s
  | .filUnitsTick cl => Sys2Proof.Machine.execFilUnitsTick cl s
  | .frameBeatTick => Sys2Proof.Machine.execFrameBeatTick s
  | .intervalClose => Sys2Proof.Machine.execIntervalClose s
  | .snapshotWritten => Sys2Proof.Machine.execSnapshotWritten s
  | .ledBase v => Sys2Proof.Machine.execLedBase v s
  | .ledSlots v => Sys2Proof.Machine.execLedSlots v s
  | .ledTail v => Sys2Proof.Machine.execLedTail v s
  | .ledCtrl v => Sys2Proof.Machine.execLedCtrl v s
  | .syncCreate w => Sys2Proof.Machine.execSyncCreate w s
  | .syncDestroy w => Sys2Proof.Machine.execSyncDestroy w s
  | .syncQuarantineEnd i1 => Sys2Proof.Machine.execSyncQuarantineEnd i1 s
  | .syncReset w => Sys2Proof.Machine.execSyncReset w s
  | .syncRead w => Sys2Proof.Machine.execSyncRead w s
  | .readWaiters w => Sys2Proof.Machine.execReadWaiters w s
  | .clearOvr w => Sys2Proof.Machine.execClearOvr w s
  | .counterSignal n => Sys2Proof.Machine.execCounterSignal n s
  | .flagSignal n => Sys2Proof.Machine.execFlagSignal n s
  | .barrierArrival n => Sys2Proof.Machine.execBarrierArrival n s
  | .remoteSignal m => Sys2Proof.Machine.execRemoteSignal m s
  | .barrierRejection who => Sys2Proof.Machine.execBarrierRejection who s
  | .watchdogExpiry i1 who => Sys2Proof.Machine.execWatchdogExpiry i1 who s
  | .lendStart cl => Sys2Proof.Machine.execLendStart cl s
  | .lendGrant h => Sys2Proof.Machine.execLendGrant h s
  | .lendWake cl => Sys2Proof.Machine.execLendWake cl s
  | .lendRevoke h => Sys2Proof.Machine.execLendRevoke h s
  | .assign w => Sys2Proof.Machine.execAssign w s
  | .release w => Sys2Proof.Machine.execRelease w s
  | .retire w => Sys2Proof.Machine.execRetire w s
  | .frameScrubbed frame => Sys2Proof.Machine.execFrameScrubbed frame s
  | .invalCtx w => Sys2Proof.Machine.execInvalCtx w s
  | .invalRange w => Sys2Proof.Machine.execInvalRange w s
  | .invalAll w => Sys2Proof.Machine.execInvalAll w s
  | .invalidationComplete => Sys2Proof.Machine.execInvalidationComplete s
  | .tableWalk sl va a l => Sys2Proof.Machine.execTableWalk sl va a l s
  | .patrolRead pa l unit last => Sys2Proof.Machine.execPatrolRead pa l unit last s
  | .patrolCtrl v => Sys2Proof.Machine.execPatrolCtrl v s
  | .jrnCtrl v => Sys2Proof.Machine.execJrnCtrl v s
  | .undoCopyComplete fil outer step bad => Sys2Proof.Machine.execUndoCopyComplete fil outer step bad s
  | .batchRecheck fil step => Sys2Proof.Machine.execBatchRecheck fil step s
  | .restoreComplete n bad => Sys2Proof.Machine.execRestoreComplete n bad s
  | .register w => Sys2Proof.Machine.execRegister w s
  | .deregister w => Sys2Proof.Machine.execDeregister w s
  | .rollback w => Sys2Proof.Machine.execRollback w s
  | .updRead w => Sys2Proof.Machine.execUpdRead w s
  | .phaseAStart n => Sys2Proof.Machine.execPhaseAStart n s
  | .phaseAComplete n => Sys2Proof.Machine.execPhaseAComplete n s
  | .phaseBStart n => Sys2Proof.Machine.execPhaseBStart n s
  | .phaseBComplete n => Sys2Proof.Machine.execPhaseBComplete n s
  | .outerEncodeComplete n => Sys2Proof.Machine.execOuterEncodeComplete n s
  | .outerMergeComplete n => Sys2Proof.Machine.execOuterMergeComplete n s
  | .groupCreate w => Sys2Proof.Machine.execGroupCreate w s
  | .groupDestroy w => Sys2Proof.Machine.execGroupDestroy w s
  | .groupQuarantineEnd g => Sys2Proof.Machine.execGroupQuarantineEnd g s
  | .groupRead w => Sys2Proof.Machine.execGroupRead w s
  | .voteRead w => Sys2Proof.Machine.execVoteRead w s
  | .collectiveStart n => Sys2Proof.Machine.execCollectiveStart n s
  | .borageMessage m => Sys2Proof.Machine.execBorageMessage m s
  | .mirrorDelivery m => Sys2Proof.Machine.execMirrorDelivery m s
  | .collectiveComplete n => Sys2Proof.Machine.execCollectiveComplete n s
  | .voteOpen job => Sys2Proof.Machine.execVoteOpen job s
  | .voteWord src w => Sys2Proof.Machine.execVoteWord src w s
  | .voteDeadline job => Sys2Proof.Machine.execVoteDeadline job s
  | .absenceNotice job step src => Sys2Proof.Machine.execAbsenceNotice job step src s
  | .voteOutcome m => Sys2Proof.Machine.execVoteOutcome m s
  | .recoveryRootWait job => Sys2Proof.Machine.execRecoveryRootWait job s
  | .pctrl p v => Sys2Proof.Machine.execPctrl p v s
  | .portTrained p rtt => Sys2Proof.Machine.execPortTrained p rtt s
  | .wavelengthFail p light => Sys2Proof.Machine.execWavelengthFail p light s
  | .linkFrame p fr => Sys2Proof.Machine.execLinkFrame p fr s
  | .nak p lseq => Sys2Proof.Machine.execNak p lseq s
  | .retrain p => Sys2Proof.Machine.execRetrain p s
  | .retrainEnd p ok => Sys2Proof.Machine.execRetrainEnd p ok s
  | .lossOfLight p => Sys2Proof.Machine.execLossOfLight p s
  | .relayFlit p dst seq fr => Sys2Proof.Machine.execRelayFlit p dst seq fr s
  | .transportMessage m => Sys2Proof.Machine.execTransportMessage m s
  | .ackTimer c => Sys2Proof.Machine.execAckTimer c s
  | .ack src cls seq => Sys2Proof.Machine.execAck src cls seq s
  | .retransmitTimer c => Sys2Proof.Machine.execRetransmitTimer c s
  | .messageAgeExpiry c seq => Sys2Proof.Machine.execMessageAgeExpiry c seq s
  | .connectionRelease c => Sys2Proof.Machine.execConnectionRelease c s
  | .resync src cls epoch next => Sys2Proof.Machine.execResync src cls epoch next s
  | .sessionWaitExpiry k => Sys2Proof.Machine.execSessionWaitExpiry k s
  | .heartbeatSend => Sys2Proof.Machine.execHeartbeatSend s
  | .heartbeat src beat status numRev => Sys2Proof.Machine.execHeartbeat src beat status numRev s
  | .absenceCheck k => Sys2Proof.Machine.execAbsenceCheck k s
  | .timeExchange p hops t1 t2 t3 t4 => Sys2Proof.Machine.execTimeExchange p hops t1 t2 t3 t4 s
  | .firstLock => Sys2Proof.Machine.execFirstLock s
  | .ppsEdge => Sys2Proof.Machine.execPpsEdge s
  | .holdoverEntry => Sys2Proof.Machine.execHoldoverEntry s
  | .holdoverExit => Sys2Proof.Machine.execHoldoverExit s
  | .timeDrift => Sys2Proof.Machine.execTimeDrift s
  | .epochChange => Sys2Proof.Machine.execEpochChange s
  | .epochKeyForm => Sys2Proof.Machine.execEpochKeyForm s
  | .epochKeyRetire => Sys2Proof.Machine.execEpochKeyRetire s
  | .sInit m => Sys2Proof.Machine.execSInit m s
  | .sResp src eph ct nonce cert => Sys2Proof.Machine.execSResp src eph ct nonce cert s
  | .sFin src firstEpoch head keyId ed ml => Sys2Proof.Machine.execSFin src firstEpoch head keyId ed ml s
  | .sessionRetry dst => Sys2Proof.Machine.execSessionRetry dst s
  | .sessionReplace dst => Sys2Proof.Machine.execSessionReplace dst s
  | .outerRoundBegin => Sys2Proof.Machine.execOuterRoundBegin s
  | .sxData src site round shard first tags blocks => Sys2Proof.Machine.execSxData src site round shard first tags blocks s
  | .sxScale src site round shard first tags scales => Sys2Proof.Machine.execSxScale src site round shard first tags scales s
  | .sxRetransmitReq src round shard => Sys2Proof.Machine.execSxRetransmitReq src round shard s
  | .sxReport src partner round mask => Sys2Proof.Machine.execSxReport src partner round mask s
  | .sxReceipt r => Sys2Proof.Machine.execSxReceipt r s
  | .dataWaitExpiry => Sys2Proof.Machine.execDataWaitExpiry s
  | .decWaitExpiry => Sys2Proof.Machine.execDecWaitExpiry s
  | .sxDecision => Sys2Proof.Machine.execSxDecision s
  | .sxApply d => Sys2Proof.Machine.execSxApply d s
  | .sxDecisionTimeout => Sys2Proof.Machine.execSxDecisionTimeout s
  | .sxState src site shard kind data crc => Sys2Proof.Machine.execSxState src site shard kind data crc s
  | .join m => Sys2Proof.Machine.execJoin m s
  | .loadRoutes w => Sys2Proof.Machine.execLoadRoutes w s
  | .loadSites w => Sys2Proof.Machine.execLoadSites w s
  | .loadWatch w => Sys2Proof.Machine.execLoadWatch w s
  | .loadEnc w => Sys2Proof.Machine.execLoadEnc w s
  | .readRoute w => Sys2Proof.Machine.execReadRoute w s
  | .fabId v => Sys2Proof.Machine.execFabId v s
  | .fabLat v => Sys2Proof.Machine.execFabLat v s
  | .fabLatLowerEffect => Sys2Proof.Machine.execFabLatLowerEffect s
  | .encCtrl v => Sys2Proof.Machine.execEncCtrl v s
  | .sxCtrl v => Sys2Proof.Machine.execSxCtrl v s
  | .sxH v => Sys2Proof.Machine.execSxH v s
  | .pair w => Sys2Proof.Machine.execPair w s
  | .unpair w => Sys2Proof.Machine.execUnpair w s
  | .substitute w => Sys2Proof.Machine.execSubstitute w s
  | .promote w => Sys2Proof.Machine.execPromote w s
  | .pairReq m => Sys2Proof.Machine.execPairReq m s
  | .pairAck m => Sys2Proof.Machine.execPairAck m s
  | .digest d => Sys2Proof.Machine.execDigest d s
  | .verdict src job step shard ofMirror agree first count => Sys2Proof.Machine.execVerdict src job step shard ofMirror agree first count s
  | .divergenceEnd job shard => Sys2Proof.Machine.execDivergenceEnd job shard s
  | .undoReq src job step shard => Sys2Proof.Machine.execUndoReq src job step shard s
  | .undoData b step => Sys2Proof.Machine.execUndoData b step s
  | .fetchReq src job shard ofMirror blk => Sys2Proof.Machine.execFetchReq src job shard ofMirror blk s
  | .fetchData b => Sys2Proof.Machine.execFetchData b s
  | .recordHandlingEnd h => Sys2Proof.Machine.execRecordHandlingEnd h s
  | .errTail h v => Sys2Proof.Machine.execErrTail h v s
  | .leaseClaim h => Sys2Proof.Machine.execLeaseClaim h s
  | .leaseRenew h => Sys2Proof.Machine.execLeaseRenew h s
  | .leaseExpiry => Sys2Proof.Machine.execLeaseExpiry s
  | .spineUnreachableStop h => Sys2Proof.Machine.execSpineUnreachableStop h s
  | .leadForce v => Sys2Proof.Machine.execLeadForce v s
  | .bootLoad w => Sys2Proof.Machine.execBootLoad w s
  | .imageVerifyComplete rw re => Sys2Proof.Machine.execImageVerifyComplete rw re s
  | .memoryTrainingComplete => Sys2Proof.Machine.execMemoryTrainingComplete s
  | .getVersion => Sys2Proof.Machine.execGetVersion s
  | .getCapabilities version => Sys2Proof.Machine.execGetCapabilities version s
  | .negotiateAlgorithms algs hash512 => Sys2Proof.Machine.execNegotiateAlgorithms algs hash512 s
  | .getDigests => Sys2Proof.Machine.execGetDigests s
  | .getCertificate sel off len => Sys2Proof.Machine.execGetCertificate sel off len s
  | .challenge sel nonce => Sys2Proof.Machine.execChallenge sel nonce s
  | .getMeasurements index signed nonce => Sys2Proof.Machine.execGetMeasurements index signed nonce s
  | .keyExchange dhe => Sys2Proof.Machine.execKeyExchange dhe s
  | .finish hmac => Sys2Proof.Machine.execFinish hmac s
  | .endSession => Sys2Proof.Machine.execEndSession s
  | .spdmHeartbeat => Sys2Proof.Machine.execSpdmHeartbeat s
  | .keyUpdate => Sys2Proof.Machine.execKeyUpdate s
  | .drbgReseed h => Sys2Proof.Machine.execDrbgReseed h s
  | .maskReseed h => Sys2Proof.Machine.execMaskReseed h s
  | .healthTestFail h => Sys2Proof.Machine.execHealthTestFail h s
  | .hkeyLoad w => Sys2Proof.Machine.execHkeyLoad w s
  | .hkeyErase w => Sys2Proof.Machine.execHkeyErase w s
  | .slotErase k => Sys2Proof.Machine.execSlotErase k s
  | .cqrWr v => Sys2Proof.Machine.execCqrWr v s
  | .cipherRequestComplete i1 => Sys2Proof.Machine.execCipherRequestComplete i1 s
  | .run u w => Sys2Proof.Machine.execRun u w s
  | .chiveRunComplete u => Sys2Proof.Machine.execChiveRunComplete u s
  | .resetAlive u w => Sys2Proof.Machine.execResetAlive u w s
  | .rstCmd v => Sys2Proof.Machine.execRstCmd v s
  | .cxlReset => Sys2Proof.Machine.execCxlReset s
  | .flr => Sys2Proof.Machine.execFlr s
  | .hotReset => Sys2Proof.Machine.execHotReset s
  | .resetInputAssert => Sys2Proof.Machine.execResetInputAssert s
  | .resetInputRelease => Sys2Proof.Machine.execResetInputRelease s
  | .cxlLinkTrain rate width => Sys2Proof.Machine.execCxlLinkTrain rate width s
  | .cxlLinkLoss => Sys2Proof.Machine.execCxlLinkLoss s
  | .cxlLinkReturn rate width => Sys2Proof.Machine.execCxlLinkReturn rate width s
  | .cxlCacheTimeout pa blk dmaN => Sys2Proof.Machine.execCxlCacheTimeout pa blk dmaN s
  | .ideFail => Sys2Proof.Machine.execIdeFail s
  | .hdmAccess a => Sys2Proof.Machine.execHdmAccess a s
  | .bar2Sel v => Sys2Proof.Machine.execBar2Sel v s
  | .irqStat v => Sys2Proof.Machine.execIrqStat v s
  | .irqEn v => Sys2Proof.Machine.execIrqEn v s
  | .getStatus => Sys2Proof.Machine.execGetStatus s
  | .getIdent => Sys2Proof.Machine.execGetIdent s
  | .getRecord h slot => Sys2Proof.Machine.execGetRecord h slot s
  | .resetReq key => Sys2Proof.Machine.execResetReq key s
  | .mctpLeadForce v => Sys2Proof.Machine.execMctpLeadForce v s
  | .mctpControl m => Sys2Proof.Machine.execMctpControl m s
  | .pldmRequest sensor => Sys2Proof.Machine.execPldmRequest sensor s
  | .powerStageStart => Sys2Proof.Machine.execPowerStageStart s
  | .pwrgdAssert => Sys2Proof.Machine.execPwrgdAssert s
  | .overvoltage vin => Sys2Proof.Machine.execOvervoltage vin s
  | .undervoltage vin => Sys2Proof.Machine.execUndervoltage vin s
  | .overcurrent iin => Sys2Proof.Machine.execOvercurrent iin s
  | .inputLowEntry vin => Sys2Proof.Machine.execInputLowEntry vin s
  | .budgetPeriod avg other => Sys2Proof.Machine.execBudgetPeriod avg other s
  | .pwrLimit v => Sys2Proof.Machine.execPwrLimit v s
  | .throttleTick projW projE fillW fillE => Sys2Proof.Machine.execThrottleTick projW projE fillW fillE s
  | .fastLoopTrip avg => Sys2Proof.Machine.execFastLoopTrip avg s
  | .fastLoopRelease => Sys2Proof.Machine.execFastLoopRelease s
  | .thermalSample t => Sys2Proof.Machine.execThermalSample t s
  | .thermalCapStep h above sensor => Sys2Proof.Machine.execThermalCapStep h above sensor s
  | .thermalTrip sensor => Sys2Proof.Machine.execThermalTrip sensor s
  | .sensorFault sensor => Sys2Proof.Machine.execSensorFault sensor s
  | .plainRegisterWrite off size v => Sys2Proof.Machine.execPlainRegisterWrite off size v s
  | .lightReturn p => Sys2Proof.Machine.execLightReturn p s
  | .overvoltageRestart vin => Sys2Proof.Machine.execOvervoltageRestart vin s
  | .resetReleaseHoldEnd => Sys2Proof.Machine.execResetReleaseHoldEnd s
  | .ideKeyProgram => Sys2Proof.Machine.execIdeKeyProgram s
  | .bar2Access a => Sys2Proof.Machine.execBar2Access a s
  | .digestListComputed job shard mirror => Sys2Proof.Machine.execDigestListComputed job shard mirror s
  | .undoRecordReport src job step outer => Sys2Proof.Machine.execUndoRecordReport src job step outer s
  | .ref10mLockLoss => Sys2Proof.Machine.execRef10mLockLoss s
  | .ppsEdgesMissed => Sys2Proof.Machine.execPpsEdgesMissed s
  | .add sl f => Sys2Proof.Machine.execAdd sl f s
  | .sub sl f => Sys2Proof.Machine.execSub sl f s
  | .mul sl f => Sys2Proof.Machine.execMul sl f s
  | .mulh sl f => Sys2Proof.Machine.execMulh sl f s
  | .and sl f => Sys2Proof.Machine.execAnd sl f s
  | .or sl f => Sys2Proof.Machine.execOr sl f s
  | .xor sl f => Sys2Proof.Machine.execXor sl f s
  | .shl sl f => Sys2Proof.Machine.execShl sl f s
  | .shr sl f => Sys2Proof.Machine.execShr sl f s
  | .sar sl f => Sys2Proof.Machine.execSar sl f s
  | .slt sl f => Sys2Proof.Machine.execSlt sl f s
  | .sltu sl f => Sys2Proof.Machine.execSltu sl f s
  | .li sl f => Sys2Proof.Machine.execLi sl f s
  | .lih sl f => Sys2Proof.Machine.execLih sl f s
  | .ld sl f u => Sys2Proof.Machine.execLd sl f u s
  | .st sl f => Sys2Proof.Machine.execSt sl f s
  | .ldw sl f => Sys2Proof.Machine.execLdw sl f s
  | .stw sl f => Sys2Proof.Machine.execStw sl f s
  | .csrr sl f => Sys2Proof.Machine.execCsrr sl f s
  | .csrw sl f => Sys2Proof.Machine.execCsrw sl f s
  | .capr sl f => Sys2Proof.Machine.execCapr sl f s
  | .caprd sl f => Sys2Proof.Machine.execCaprd sl f s
  | .j sl f => Sys2Proof.Machine.execJ sl f s
  | .beq sl f => Sys2Proof.Machine.execBeq sl f s
  | .bne sl f => Sys2Proof.Machine.execBne sl f s
  | .blt sl f => Sys2Proof.Machine.execBlt sl f s
  | .bge sl f => Sys2Proof.Machine.execBge sl f s
  | .bltu sl f => Sys2Proof.Machine.execBltu sl f s
  | .call sl f => Sys2Proof.Machine.execCall sl f s
  | .jr sl f => Sys2Proof.Machine.execJr sl f s
  | .halt sl f => Sys2Proof.Machine.execHalt sl f s
  | .cfence sl f => Sys2Proof.Machine.execCfence sl f s
  | .nop sl f => Sys2Proof.Machine.execNop sl f s
  | .vadd sl f => Sys2Proof.Machine.execVadd sl f s
  | .vsub sl f => Sys2Proof.Machine.execVsub sl f s
  | .vmul sl f => Sys2Proof.Machine.execVmul sl f s
  | .vfma sl f => Sys2Proof.Machine.execVfma sl f s
  | .vfnma sl f => Sys2Proof.Machine.execVfnma sl f s
  | .vmin sl f => Sys2Proof.Machine.execVmin sl f s
  | .vmax sl f => Sys2Proof.Machine.execVmax sl f s
  | .vabs sl f => Sys2Proof.Machine.execVabs sl f s
  | .vneg sl f => Sys2Proof.Machine.execVneg sl f s
  | .vcmpeq sl f => Sys2Proof.Machine.execVcmpeq sl f s
  | .vcmplt sl f => Sys2Proof.Machine.execVcmplt sl f s
  | .vcmple sl f => Sys2Proof.Machine.execVcmple sl f s
  | .vcmpun sl f => Sys2Proof.Machine.execVcmpun sl f s
  | .vsel sl f => Sys2Proof.Machine.execVsel sl f s
  | .vand sl f => Sys2Proof.Machine.execVand sl f s
  | .vor sl f => Sys2Proof.Machine.execVor sl f s
  | .vxor sl f => Sys2Proof.Machine.execVxor sl f s
  | .vshl sl f => Sys2Proof.Machine.execVshl sl f s
  | .vshr sl f => Sys2Proof.Machine.execVshr sl f s
  | .vsar sl f => Sys2Proof.Machine.execVsar sl f s
  | .vrsum sl f => Sys2Proof.Machine.execVrsum sl f s
  | .vrmax sl f => Sys2Proof.Machine.execVrmax sl f s
  | .vrmin sl f => Sys2Proof.Machine.execVrmin sl f s
  | .vmov sl f => Sys2Proof.Machine.execVmov sl f s
  | .vbcast sl f => Sys2Proof.Machine.execVbcast sl f s
  | .viota sl f => Sys2Proof.Machine.execViota sl f s
  | .vcvtF2i sl f => Sys2Proof.Machine.execVcvtF2i sl f s
  | .vcvtI2f sl f => Sys2Proof.Machine.execVcvtI2f sl f s
  | .vld sl f u => Sys2Proof.Machine.execVld sl f u s
  | .vst sl f => Sys2Proof.Machine.execVst sl f s
  | .vlda sl f u => Sys2Proof.Machine.execVlda sl f u s
  | .vsta sl f => Sys2Proof.Machine.execVsta sl f s
  | .vunpk sl f => Sys2Proof.Machine.execVunpk sl f s
  | .vpk sl f => Sys2Proof.Machine.execVpk sl f s
  | .vpkSt sl f => Sys2Proof.Machine.execVpkSt sl f s
  | .vdraw sl f => Sys2Proof.Machine.execVdraw sl f s
  | .pset sl f => Sys2Proof.Machine.execPset sl f s
  | .pand sl f => Sys2Proof.Machine.execPand sl f s
  | .por sl f => Sys2Proof.Machine.execPor sl f s
  | .pxor sl f => Sys2Proof.Machine.execPxor sl f s
  | .pnot sl f => Sys2Proof.Machine.execPnot sl f s
  | .pcnt sl f => Sys2Proof.Machine.execPcnt sl f s
  | .pmask sl f => Sys2Proof.Machine.execPmask sl f s
  | .vext sl f => Sys2Proof.Machine.execVext sl f s
  | .vins sl f => Sys2Proof.Machine.execVins sl f s
  | .fsetp sl f => Sys2Proof.Machine.execFsetp sl f s
  | .mmaR sl f w => Sys2Proof.Machine.execMmaR sl f w s
  | .mmaS sl f => Sys2Proof.Machine.execMmaS sl f s
  | .matrixPassComplete sl k u => Sys2Proof.Machine.execMatrixPassComplete sl k u s
  | .mout sl f => Sys2Proof.Machine.execMout sl f s
  | .mlda sl f => Sys2Proof.Machine.execMlda sl f s
  | .mamax sl f => Sys2Proof.Machine.execMamax sl f s
  | .tld sl f => Sys2Proof.Machine.execTld sl f s
  | .tst sl f => Sys2Proof.Machine.execTst sl f s
  | .torg sl f => Sys2Proof.Machine.execTorg sl f s
  | .toff sl f => Sys2Proof.Machine.execToff sl f s
  | .dmaGo sl f w => Sys2Proof.Machine.execDmaGo sl f w s
  | .dmaCnt sl f => Sys2Proof.Machine.execDmaCnt sl f s
  | .dmaDrain sl f => Sys2Proof.Machine.execDmaDrain sl f s
  | .dmaComplete n u l => Sys2Proof.Machine.execDmaComplete n u l s
  | .sig sl f => Sys2Proof.Machine.execSig sl f s
  | .wait sl f => Sys2Proof.Machine.execWait sl f s
  | .arrive sl f => Sys2Proof.Machine.execArrive sl f s
  | .cons sl f => Sys2Proof.Machine.execCons sl f s
  | .sread sl f => Sys2Proof.Machine.execSread sl f s
  | .creg sl f => Sys2Proof.Machine.execCreg sl f s
  | .collGo sl f => Sys2Proof.Machine.execCollGo sl f s
  | .collNf sl f => Sys2Proof.Machine.execCollNf sl f s
  | .collQ sl f => Sys2Proof.Machine.execCollQ sl f s
  | .updA sl f => Sys2Proof.Machine.execUpdA sl f s
  | .updB sl f => Sys2Proof.Machine.execUpdB sl f s
  | .updAb sl f => Sys2Proof.Machine.execUpdAb sl f s
  | .updOut sl f => Sys2Proof.Machine.execUpdOut sl f s
  | .updExp sl f => Sys2Proof.Machine.execUpdExp sl f s
  | .updExpComplete n => Sys2Proof.Machine.execUpdExpComplete n s

end Sys2Proof.Machine
end

