-- ==== Sys2Proof/Machine/Tick.lean ====
section
/-!
DEFINITION. What the device does when no command waits (log entry 4): it starts the register commands that had to wait
for a leader or for the link, and otherwise one nanosecond of its clock passes; the events that fabric time alone makes
due come into the queue in the order of Table 1-4.
-/

namespace Sys2Proof.Machine

/-! ### Commands that waited (R444, R433) -/


/-- The BUSY that a waiting command holds is given up, so that the command can start. -/
def freeFor (s : State) (c : Instr) : State :=
  match heldBlk c with
  | some b => setBlk s b { getBlk s b with busy := false }
  | none => match c with
    | .run u _ => setChv s u { getChv s u with busy := false }
    | _ => s

/-- Waiting commands that can start now. -/
def startable (s : State) : List Instr :=
  (if mayLead s then s.held else []) ++ (if s.dev.linkUp then s.link.map (·.c) else [])

/-- The waiting commands start. -/
def startHeld (s : State) : State :=
  let go := startable s
  let s1 := (s.setHeld (if mayLead s then [] else s.held)).setLink (if s.dev.linkUp then [] else s.link)
  (go.foldl freeFor s1).setPending go

/-! ### One nanosecond -/

/-- The rate of fabric time, in ns gained or lost in 20,000: 50 ppm away from nominal while an offset is slewed out (R323);
in holdover the last one held (R324, log entry 123). -/
def rateNow (t : Time) : Int :=
  if t.holdover then t.rate else if 0 < t.slew then 1 else if t.slew < 0 then -1 else 0

/-- Fabric time, 64 bits, moves by 1 ns, and by 0 or 2 once in 20,000 ns where its rate is not nominal (R24, R323). -/
def moveTime (t : Time) : Time :=
  let r := rateNow t
  let d := min 20000 (t.slewDiv + 1)
  if r = 0 ∨ d < 20000 then { t with ft := (t.ft + 1) % 2 ^ 64, slewDiv := d, rate := r }
  else { t with ft := (t.ft + (1 + r).toNat) % 2 ^ 64, slewDiv := 0, rate := r
                slew := if t.holdover then t.slew else t.slew - r }

/-- The arithmetic clock: 7 cycles in 4 ns (1.75 GHz). -/
def moveCycle (t : Time) : Time := { t with cycle := t.cycle + if t.cycle % 7 = 6 then 1 else 2 }

/-- In holdover the uncertainty grows by half a nanosecond in each millisecond (R324). -/
def moveUnc (old : Nat) (t : Time) : Time :=
  if t.holdover ∧ old / 1000000 ≠ t.ft / 1000000 then { t with unc2 := t.unc2 + 1 } else t

/-- The clock of a device whose time runs. -/
def moveClock (t : Time) : Time := if t.run then moveUnc t.ft (moveCycle (moveTime t)) else t

/-- Every governor's debt falls (R201). -/
def decayAll (s : State) : State :=
  let s1 := s.setClu (s.clu.filterMap fun e =>
    let c := { e.2 with debt := decay s e.2.debt }
    if c = {} then none else some (e.1, c))
  s1.setQue { s1.que with
    borDebt := decay s s.que.borDebt
    sliceDebt := s.que.sliceDebt.filterMap fun e => if decay s e.2 = 0 then none else some (e.1, decay s e.2)
    bankDebt := ⟨decay s s.que.bankDebt.w, decay s s.que.bankDebt.e⟩ }

/-! ### Events that fabric time makes due (R27) -/

/-- Lease events of a half. -/
def leaseEvents (s : State) (h : Half) : List Instr :=
  let v := s.lead.half.get h
  if !s.boot.sage.get h || !v.reach then []
  else if v.mine then [.leaseRenew h] else [.leaseClaim h]

/-- A half that has lost the spine looks at its own copy of fabric time at each beat of it (R384). -/
def stopEvents (s : State) (h : Half) (old : Nat) : List Instr :=
  if s.boot.sage.get h && !(s.lead.half.get h).reach && old != halfBeat s h then [.spineUnreachableStop h] else []

/-- The halves' own copies of fabric time run on at the nominal rate where the spine is lost (R384). -/
def moveHalves (s : State) : State :=
  let up (v : LeadHalf) : LeadHalf := if v.reach then v else { v with ft := v.ft + 1 }
  if s.lead.half.w.reach && s.lead.half.e.reach then s
  else s.setLead { s.lead with half := ⟨up s.lead.half.w, up s.lead.half.e⟩ }

/-- Waits whose deadline beat has come. -/
def watchdogs (s : State) : List Instr :=
  s.syn.tab.flatMap fun e => (e.2.waiters.filter fun w => match w.deadline with
    | some d => decide (d ≤ beat s)
    | none => false).map fun w => Instr.watchdogExpiry e.1 w.who

/-- The events of a beat in the order of Table 1-4, the last one apart: the power budget's is commanded, once a beat,
with its measurements (log entry 4). -/
def beatEvents (s : State) : List Instr :=
  [.heartbeatSend] ++ ((List.range s.fab.watch.length).map Instr.absenceCheck) ++
  [.leaseExpiry] ++ leaseEvents s .west ++ leaseEvents s .east ++ watchdogs s ++
  ((s.col.votes.filter fun v => v.opened && decide (v.deadline ≤ beat s)).map fun v => Instr.voteDeadline v.job) ++
  [.epochKeyForm, .epochChange, .intervalClose]

/-- Quarantines that have ended. -/
def quarantines (s : State) : List Instr :=
  ((s.que.tab.filter fun e => e.2.st = .quarantine && decide (e.2.qend ≤ ns s)).map fun e => Instr.queueQuarantineEnd e.1) ++
  ((s.syn.tab.filter fun e => e.2.st = .quarantine && decide (e.2.qend ≤ ns s)).map fun e => Instr.syncQuarantineEnd e.1) ++
  ((s.col.groups.filter fun e => e.2.st = .quarantine && decide (e.2.qend ≤ ns s)).map fun e => Instr.groupQuarantineEnd e.1)

/-- What becomes due when fabric time has moved on from `old`: a beat's events, then the samples that count in the
beat (R206), behind the close of the interval that ended with the beat before (R207). -/
def dueEvents (s : State) (old : Nat) : List Instr :=
  (if old / beatNs ≠ beat s then beatEvents s ++ [Instr.frameBeatTick] else []) ++
  (if old / 1024 ≠ ns s / 1024 then [Instr.priUnitsTick] else []) ++ quarantines s

/-- One nanosecond of the clock: debts fall, ports send the next frame where the line is free (R308); rails follow the
power stage. -/
def clockTick (s0 : State) : State :=
  let s := railTick s0
  if !s.time.run then s
  else
    let s1 := moveHalves (decayAll (s.setTime (moveClock s.time)))
    if live s1 then
      (servePorts (flrSettle s1)).setPending (stopEvents s1 .west (halfBeat s .west) ++ stopEvents s1 .east (halfBeat s .east) ++
        dueEvents s1 (ns s))
    else s1

/-- What an empty queue lets happen. -/
def tick (s : State) : State := if (startable s).isEmpty then clockTick s else startHeld s

end Sys2Proof.Machine
end

