-- ==== Sys2Proof/Safety.lean ====
section
/-!
DEFINITION. The terms in which statements are made: when a command takes effect, what a slot's instruction leaves, and
the invariants that every step keeps.
-/

namespace Sys2Proof.Machine

/-! ### Instructions of a slot -/

/-- The registers and state of a slot. -/
def slotOf (s : State) (sl : Slot) : SlotSt := getSlot s sl.cl sl.fil

/-- The slot exists and issues its next instruction now. -/
def issues (s : State) (sl : Slot) : Bool := decide (sl.cl < 512) && canIssue s sl.cl sl.fil

/-- State `t` with the PC of the slot behind the instruction `f` that it issued in `s`, and its wait charged. -/
def movedOn (s t : State) (sl : Slot) (f : Fld) : State := goOn t sl ((slotOf s sl).pc + insLen f)

/-- An instruction that changes its slot to `y` and moves on. -/
def slotTo (s : State) (sl : Slot) (f : Fld) (y : SlotSt) : State := movedOn s (setSlot s sl.cl sl.fil y) sl f

/-- Fields of a scalar instruction with Sa and b, writing Sd, are well-formed. -/
def fldAlu (f : Fld) : Bool := !badFld (useB { rd := 64, ra := 64 } 64 f) f

/-- Fields of a vector arithmetic instruction are well-formed and its type is one of `types`. -/
def fldVec (u : Use) (types : List Nat) (f : Fld) : Bool :=
  !badFld { u with pred := true, nf := true } f && types.contains f.ty.toNat

/-- The fields of VCVT.F2I and of VPK. -/
def useF2i : Use :=
  { f64 := false, f128 := true, rd := 32, ra := 32, rc := 64, imm32 := true, ext := true, pred := true, rnd := true, nf := true }
def useVpk : Use :=
  { f64 := false, f128 := true, rd := 32, ra := 32, rb := 32, rc := 64, imm32 := true, ext := true, pred := true }

/-- A signal of a slot to an object here. -/
def slotSig (s : State) (sl : Slot) (h : B32) (amount : B64) (arr : Bool) : SigFly :=
  ⟨0, h, amount, slotWho s sl, arr, none, slotQueue s (slotOf s sl), false, none⟩

/-- An address of `n` bytes that an instruction of the slot may access: aligned, in the slot's part. -/
def scrFits (s : State) (sl : Slot) (a n al : Nat) : Bool := decide (a % al = 0) && inPart s sl.cl sl.fil a n

/-- The slot's offset `a` as an offset of the cluster. -/
def offOf (s : State) (sl : Slot) (a : Nat) : Nat := scrOff s sl.cl sl.fil a

/-- No word of a slot's ranges is poisoned or holds an error that a read would find. -/
def rangesClean (s : State) (sl : Slot) (rs : List (Nat × Nat)) : Bool :=
  (rangeBad s sl.cl sl.fil rs).isNone &&
    (rangeWords s sl.cl sl.fil rs).all fun w => Tab.get (fun _ => 0) s.mem.scrErr (sl.cl * 2 ^ 20 + w) = 0

/-- A read of the slot's scratch meets no error and no poison. -/
def scrClean (s : State) (sl : Slot) (a n : Nat) : Bool := rangesClean s sl [(a, n)]

/-! ### Register commands -/

/-- The block takes a command now: it decodes, is not BUSY, is ready, the device is not in keep-alive mode, and a half
leads (R436, R444, R445). -/
def cmdReady (b : Blk) (s : State) : Bool :=
  regsOn s && !(getBlk s b).busy && !s.err.ka && rdyBit s b.rdy && mayLead s

/-- The block takes a command that reads its registers now, in keep-alive mode too (Table 13-10). -/
def readReady (b : Blk) (s : State) : Bool :=
  regsOn s && !(getBlk s b).busy && (s.err.ka || rdyBit s b.rdy) && mayLead s

/-! ### Commands of queues -/

/-- Queue `q` runs, holds the well-formed command `c` at QD_RD, and no BARRIER keeps it from starting (R192, R193). -/
def headReady (s : State) (q : Nat) (c : QCmd) : Bool :=
  decide ((getQ s q).head = some c) && !c.bad && queueRuns s (getQ s q) && !((c.barrier || c.typ == 4) && running s q)

/-! ### The invariant -/

/-- Every memory is in its canonical form: keys rising, nothing listed that an unlisted key reads as. -/
def Memory.wf (m : Mem) : Bool :=
  Tab.wf (fun _ => 0) m.phys && Tab.wf (fun _ => false) m.poison && Tab.wf (fun _ => 0) m.scr &&
    Tab.wf (fun _ => false) m.scrPoison && Tab.wf (fun _ => {}) m.lineErr && Tab.wf (fun _ => 0) m.scrErr

/-- A rate or a cap in sixteenths: 1 to 16 (R455). -/
def rateOk (k : Nat) : Bool := decide (1 ≤ k) && decide (k ≤ 16)

/-- What every step keeps: the memories' form, and legal rates and caps of both halves (R455, R458). -/
def Inv (s : State) : Bool :=
  Memory.wf s.mem && rateOk s.pwr.k.w && rateOk s.pwr.k.e && rateOk s.pwr.cap.w && rateOk s.pwr.cap.e

/-- Does a word written to RST_CMD reset the device (Table 13-4)? -/
def resetKey (v : B32) : Bool := bits v 31 16 == 0x5253 && bits v 3 0 == 1

/-- Commands that start the device anew or take its power: what ends keep-alive mode (R379, R441, R450). -/
def startsDevice : Instr → Bool
  | .rstCmd v => resetKey v
  | .plainRegisterWrite o n v => (o == 0x1C && resetKey (v.extractLsb' 0 32)) || (o == 0x18 && n == 8 && resetKey (v.extractLsb' 32 32))
  | .cxlReset | .resetReq _ | .resetInputAssert | .overvoltage _ | .undervoltage _ | .overcurrent _
  | .thermalTrip _ => true
  | .thermalSample t => tripped t
  | _ => false

end Sys2Proof.Machine
end

