-- ==== Sys2Proof/Certificates/Slice0/Obligations.lean ====
section
/-!
DEFINITION. The statements for the provers.  Each says for which states and operands a command takes its effect and
what that effect is; an equation `exec c s = .next t` says too that nothing else of the state changes.
-/

open Sys2Proof Sys2Proof.Machine

/-! ### Yupor instructions (R115 to R138) -/

/-- Table 4-6: Sd takes the result of Sa and b, S0 discards it, the PC moves behind the instruction, and nothing else
changes.  Where the fields break R121 the instruction faults MALFORMED, once every earlier instruction of the slot has
completed (R142, R143). -/
def Obligations.ScalarArithmetic : Prop :=
  ∀ (s : State) (sl : Slot) (f : Fld), issues s sl = true →
    let x := slotOf s sl
    let a := sget x f.ra
    let b := sOperand x f
    ∀ p ∈ ([(.add sl f, a + b), (.sub sl f, a - b), (.mul sl f, a * b),
        (.mulh sl f, BitVec.ofInt 64 (a.toInt * b.toInt / 2 ^ 64)),
        (.and sl f, a &&& b), (.or sl f, a ||| b), (.xor sl f, a ^^^ b),
        (.shl sl f, a <<< (b.toNat % 64)), (.shr sl f, a >>> (b.toNat % 64)), (.sar sl f, a.sshiftRight (b.toNat % 64)),
        (.slt sl f, if a.toInt < b.toInt then 1 else 0), (.sltu sl f, if a.toNat < b.toNat then 1 else 0)] :
        List (Instr × B64)),
      (fldAlu f = true → exec p.1 s = .next (slotTo s sl f (sset x f.rd p.2))) ∧
      (fldAlu f = false → x.passes = [] →
        exec p.1 s = .next (progFault s sl.cl sl.fil (slotCtx s sl.cl sl.fil) cMAL 0 0 x.pc)) ∧
      (fldAlu f = false → x.passes ≠ [] → exec p.1 s = .next s)

/-- LI, LIH, the CSRs and the capability table: Sd takes the value; CSRW writes FSTAT (its five flags) or NUM_MODE. -/
def Obligations.ScalarImmediateAndCsr : Prop :=
  ∀ (s : State) (sl : Slot) (f : Fld), issues s sl = true →
    let x := slotOf s sl
    (badFld { f64 := false, f128 := true, rd := 64, imm32 := true } f = false →
      exec (.li sl f) s = .next (slotTo s sl f (sset x f.rd (f.imm32.signExtend 64))) ∧
      exec (.lih sl f) s = .next (slotTo s sl f (sset x f.rd (f.imm32 ++ (sget x f.rd).extractLsb' 0 32)))) ∧
    (∀ v, badFld { rd := 64, imm := true } f = false → csrRead s sl.cl sl.fil f.imm18.toNat = some v →
      exec (.csrr sl f) s = .next (slotTo s sl f (sset x f.rd v))) ∧
    (badFld { ra := 64, imm := true } f = false → f.imm18 = 0 →
      exec (.csrw sl f) s = .next (slotTo s sl f { x with fstat := sget x f.ra &&& 0x1F })) ∧
    (badFld { ra := 64, imm := true } f = false → f.imm18 = 1 →
      let c := getCtx s (slotCtx s sl.cl sl.fil)
      exec (.csrw sl f) s = .next (movedOn s (setCtx s (slotCtx s sl.cl sl.fil)
        { c with writes := (c.force, (sget x f.ra).toNat % 4) :: c.writes }) sl f)) ∧
    (∀ a, badFld { rd := 64, ra := 64, imm := true } f = false → a = scrAddr x f → a % 4 = 0 → a + 4 ≤ 4096 →
      exec (.capr sl f) s = .next (slotTo s sl f (sset x f.rd (bv 64 (capWord s a))))) ∧
    (∀ a, badFld { rd := 64, ra := 64, imm := true } f = false → a = scrAddr x f → a % 8 = 0 → a + 8 ≤ 4096 →
      exec (.caprd sl f) s = .next (slotTo s sl f (sset x f.rd (bv 64 (capWord s a + capWord s (a + 4) * 2 ^ 32)))))

/-- LD, LDW, ST, STW: aligned accesses within the slot's part of the scratch; a store of half a word needs the whole word
readable.  LD names an error that shows in the storage as it reads. -/
def Obligations.ScalarLoadsAndStores : Prop :=
  ∀ (s : State) (sl : Slot) (f : Fld), issues s sl = true →
    let x := slotOf s sl
    let a := scrAddr x f
    let off := offOf s sl a
    (∀ u, let t := inject s sl.cl sl.fil u
      badFld { rd := 64, ra := 64, imm := true } f = false → scrFits s sl a 8 8 = true → scrClean t sl a 8 = true →
      exec (.ld sl f u) s =
        .next (slotTo t sl f (sset (slotOf t sl) f.rd (bv 64 (leNat (scrRead s sl.cl off 8)))))) ∧
    (badFld { rd := 64, ra := 64, imm := true } f = false → scrFits s sl a 4 4 = true → scrClean s sl a 4 = true →
      exec (.ldw sl f) s = .next (slotTo s sl f (sset x f.rd (bv 64 (leNat (scrRead s sl.cl off 4)))))) ∧
    (badFld { ra := 64, rb := 64, imm := true } f = false → scrFits s sl a 8 8 = true →
      exec (.st sl f) s = .next (movedOn s (scrWrite s sl.cl off (leBytes 8 (sget x f.rb).toNat)) sl f)) ∧
    (badFld { ra := 64, rb := 64, imm := true } f = false → scrFits s sl a 4 4 = true →
        rangesClean s sl (partRanges a 4) = true →
      exec (.stw sl f) s = .next (movedOn s (scrWrite s sl.cl off (leBytes 4 (sget x f.rb).toNat)) sl f))

/-- Table 4-7: where the PC goes, the link of CALL, the end of a kernel on its slot, and the waits of HALT and CFENCE
for the slot's matrix passes. -/
def Obligations.ControlFlow : Prop :=
  ∀ (s : State) (sl : Slot) (f : Fld), issues s sl = true →
    let x := slotOf s sl
    let a := sget x f.ra
    let b := sget x f.rb
    let goes (t : State) (p : Nat) : Host.Outcome State Fault Refusal := .next (goOn t sl p)
    (badFld { ra := 64, rb := 64, imm := true } f = false →
      ∀ p ∈ ([(.beq sl f, decide (a = b)), (.bne sl f, decide (a ≠ b)), (.blt sl f, decide (a.toInt < b.toInt)),
          (.bge sl f, decide (b.toInt ≤ a.toInt)), (.bltu sl f, decide (a.toNat < b.toNat))] : List (Instr × Bool)),
        exec p.1 s = goes s (if p.2 then target x.pc f else x.pc + insLen f)) ∧
    (badFld { f128 := true, imm := true, imm32 := true } f = false → exec (.j sl f) s = goes s (target x.pc f)) ∧
    (badFld { f128 := true, rd := 64, imm := true, imm32 := true } f = false →
      exec (.call sl f) s =
        goes (setSlot s sl.cl sl.fil (sset x f.rd (bv 64 ((x.pc + insLen f) % 2 ^ 52)))) (target x.pc f)) ∧
    (badFld { ra := 64 } f = false → a.toNat % 8 = 0 → exec (.jr sl f) s = goes s (a.toNat % 2 ^ 52)) ∧
    (badFld {} f = false → exec (.nop sl f) s = .next (movedOn s s sl f)) ∧
    (badFld {} f = false → x.passes = [] →
      exec (.cfence sl f) s = .next (movedOn s s sl f) ∧
      exec (.halt sl f) s = .next (movedOn s (let t := setSlot s sl.cl sl.fil { x with run := none }
        t.setQue { t.que with run := t.que.run.map (slotEnded x.run (slotKey sl.cl sl.fil)) }) sl f)) ∧
    (badFld {} f = false → x.passes ≠ [] → exec (.cfence sl f) s = .next s ∧ exec (.halt sl f) s = .next s)

/-- Table 4-8: the slot after each vector arithmetic instruction. -/
def Obligations.VectorArithmetic : Prop :=
  ∀ (s : State) (sl : Slot) (f : Fld), issues s sl = true →
    let x := slotOf s sl
    let r := rndOf f.rnd
    let v := vget x f.ra.toNat
    let b := vOperand x f
    let g : Fld := { f with bsrc := 0 }
    ∀ p ∈ ([
      (.vadd sl f, useVab f true, [0, 1, 2, 3], arith x f (fun m a b _ => fadd m r a b) fun a b => a + b),
      (.vsub sl f, useVab f true, [0, 1, 2, 3], arith x f (fun m a b _ => fsub m r a b) fun a b => a - b),
      (.vmul sl f, useVab f true, [0, 1, 2, 3], arith x f (fun m a b _ => fmul m r a b) fun a b => a * b),
      (.vfma sl f, useVabc f, [0, 1, 2], arith x f (fun m a b c => ffma m r a b c) fun a _ => a),
      (.vfnma sl f, useVabc f, [0, 1, 2], arith x f (fun m a b c => fnma m r a b c) fun a _ => a),
      (.vmin sl f, useVab f false, [0, 1, 2, 3], arith x f (fun m a b _ => fmin m a b) fun a b => if a.slt b then a else b),
      (.vmax sl f, useVab f false, [0, 1, 2, 3], arith x f (fun m a b _ => fmax m a b) fun a b => if a.slt b then b else a),
      (.vabs sl f, useVa false f, [0, 1, 2, 3], arith x g (fun m a _ _ => (fabs m a, 0)) fun a _ => if a.slt 0 then -a else a),
      (.vneg sl f, useVa false f, [0, 1, 2, 3], arith x g (fun m a _ _ => (fneg m a, 0)) fun a _ => -a),
      (.vcmpeq sl f, useCmp f, [0, 3], compare x f (fun o => o == some .eq) fun a b => a == b),
      (.vcmplt sl f, useCmp f, [0, 3], compare x f (fun o => o == some .lt) fun a b => a.slt b),
      (.vcmple sl f, useCmp f, [0, 3], compare x f (fun o => o == some .lt || o == some .eq) fun a b => a.sle b),
      (.vcmpun sl f, useCmp f, [0], compare x f (fun o => o == none) fun _ _ => false),
      (.vsel sl f, { useVab f false with rc := 8 }, [3],
        putLanes x f ((v.zip b).zipIdx.map fun q => (if bit (pget x f.rc.toNat) q.2 then q.1.1 else q.1.2, 0))),
      (.vand sl f, useVab f false, [3], arith x f (fun _ a _ _ => (a, 0)) fun a b => a &&& b),
      (.vor sl f, useVab f false, [3], arith x f (fun _ a _ _ => (a, 0)) fun a b => a ||| b),
      (.vxor sl f, useVab f false, [3], arith x f (fun _ a _ _ => (a, 0)) fun a b => a ^^^ b),
      (.vshl sl f, useVab f false, [3], arith x f (fun _ a _ _ => (a, 0)) fun a b => a <<< (b.toNat % 32)),
      (.vshr sl f, useVab f false, [3], arith x f (fun _ a _ _ => (a, 0)) fun a b => a >>> (b.toNat % 32)),
      (.vsar sl f, useVab f false, [3], arith x f (fun _ a _ _ => (a, 0)) fun a b => a.sshiftRight (b.toNat % 32)),
      (.vrsum sl f, useVa true f, [0, 1, 2, 3], reduce x f (fadd f32 r) (fun a b => (a + b) % 2 ^ 32) 0 0),
      (.vrmax sl f, useVa false f, [0, 1, 2, 3], reduce x f (fmax f32) imax 0xFF800000 0x80000000),
      (.vrmin sl f, useVa false f, [0, 1, 2, 3], reduce x f (fmin f32) imin 0x7F800000 0x7FFFFFFF),
      (.vmov sl f, { useVab f false with ra := 0 }, [3], putLanes x f (b.map fun w => (w, 0))),
      (.viota sl f, { useVab f false with ra := 0 }, [3], putLanes x f (b.zipIdx.map fun p => (p.1 + bv 32 p.2, 0))),
      (.vcvtI2f sl f, { rd := 32, ra := 32, rnd := true }, [3], putLanes x f (v.map (i2f r)))] :
      List (Instr × Use × List Nat × SlotSt)),
      fldVec p.2.1 p.2.2.1 f = true → exec p.1 s = .next (slotTo s sl f p.2.2.2)

/-- VBCAST with a lane number below 128, and VCVT.F2I with its statistics record reached: every active lane of Vd takes
the lane named, or the governed conversion of Va's lane. -/
def Obligations.VectorBroadcastAndConvert : Prop :=
  ∀ (s : State) (sl : Slot) (f : Fld), issues s sl = true →
    let x := slotOf s sl
    let id := slotCtx s sl.cl sl.fil
    let c := getCtx s id
    (fldVec { useVa false f with imm := true } [3] f = true → f.imm18.toNat < 128 →
      exec (.vbcast sl f) s =
        .next (slotTo s sl f (putLanes x f (List.replicate 128 ((vget x f.ra.toNat).getD f.imm18.toNat 0, 0))))) ∧
    (∀ va pa, badFld useF2i f = false →
        f.ty = 0 → extEsc f = 0 → (extFmt f = 0 ∨ extFmt f = 0xA) →
        va = (sget x (extRe f)).toNat → va % 64 = 0 → xlate s (some (sl.cl, sl.fil)) id va .write = .ok pa →
      ∃ t, exec (.vcvtF2i sl f) s = .next (movedOn s t sl f) ∧
        slotOf t sl = vset x f.rd.toNat (mergeLanes x f (vget x f.rd.toNat)
          ((vget x f.ra.toNat).zipIdx.map fun p => bv 32
            (cvtI32 (vecRnd c x.stepNo.toNat f (sget x f.rc).toNat p.2) (decode f32 p.1.toNat)).1)))

/-- VLD, VST, VLDA, VSTA: 512 bytes of scratch or a row of an accumulator tile, in the active lanes; VLDA and VSTA wait
for a pass in flight that writes their tile (R86).  VLD and VLDA name an error that shows in the storage as they read. -/
def Obligations.VectorLoadsAndStores : Prop :=
  ∀ (s : State) (sl : Slot) (f : Fld), issues s sl = true →
    let x := slotOf s sl
    let a := scrAddr x f
    let off := offOf s sl a
    let row := (sget x f.rc).toNat % 64
    (∀ u, let t := inject s sl.cl sl.fil u
      let y := slotOf t sl
      (badFld { rd := 32, ra := 64, imm := true, pred := true } f = false → scrFits s sl a 512 64 = true →
          rangesClean t sl (laneRanges x f a) = true →
        exec (.vld sl f u) s = .next (slotTo t sl f (vset y f.rd.toNat (mergeLanes x f (vget x f.rd.toNat)
          ((List.range 128).map fun i => bv 32 (leNat (slice (scrRead s sl.cl off 512) (4 * i) 4))))))) ∧
      (badFld { rd := 32, ra := 8, rb := 64, pred := true } f = false →
        (tileBusy x f.ra.toNat = false →
            accClean y (rowWords x f f.ra.toNat ((sget x f.rb).toNat % 64)) = true →
          exec (.vlda sl f u) s = .next (slotTo t sl f (vset y f.rd.toNat (mergeLanes x f (vget x f.rd.toNat)
            (accRow x f.ra.toNat ((sget x f.rb).toNat % 64)))))) ∧
        (tileBusy x f.ra.toNat = true → exec (.vlda sl f u) s = .next t))) ∧
    (badFld { ra := 64, rb := 32, imm := true, pred := true } f = false → scrFits s sl a 512 64 = true →
        rangesClean s sl (halfRanges x f a) = true →
      exec (.vst sl f) s = .next (movedOn s (storeLanes x f sl.cl off (vget x f.rb.toNat) s) sl f)) ∧
    (badFld { ra := 8, rb := 32, rc := 64, pred := true } f = false →
      (tileBusy x f.ra.toNat = false → exec (.vsta sl f) s = .next (slotTo s sl f (clearAcc
        (setAccRow x f.ra.toNat row (mergeLanes x f (accRow x f.ra.toNat row) (vget x f.rb.toNat)))
        (rowWords x f f.ra.toNat row)))) ∧
      (tileBusy x f.ra.toNat = true → exec (.vsta sl f) s = .next s))

/-- VUNPK, VPK, VPK.ST and VDRAW: elements of a tile row as binary32, lanes converted to a packed format or into a tile
row, and Dill's outputs of domain 0x05; the statistics record that RE names lies in a page the slot may write. -/
def Obligations.VectorUnpackPackAndDraw : Prop :=
  ∀ (s : State) (sl : Slot) (f : Fld) (va pa : Nat), issues s sl = true →
    let x := slotOf s sl
    let id := slotCtx s sl.cl sl.fil
    let c := getCtx s id
    let step := x.stepNo.toNat
    let d := parseTile (tget x f.ra.toNat)
    let size := (slotPart s sl.cl sl.fil).2
    let inRow (v : B64) : Prop := (rowCol v).2.2 = false ∧ (rowCol v).1 < d.lrows ∧ (rowCol v).2.1 < d.lcols
    let recOk : Prop := va = (sget x (extRe f)).toNat ∧ va % 64 = 0 ∧ xlate s (some (sl.cl, sl.fil)) id va .write = .ok pa
    (badFld { f64 := false, f128 := true, rd := 32, ra := 16, rb := 64, ext := true, pred := true } f = false →
        bits f.ext 31 7 = 0 → badAbsent f d = false → d.bad size = false → d.fmt ≠ 0 → d.fmt ≠ 10 → inRow (sget x f.rb) →
        recOk → rangesClean s sl (unpackRanges x f d (rowCol (sget x f.rb)).1 (rowCol (sget x f.rb)).2.1) = true →
      ∃ t, exec (.vunpk sl f) s = .next (movedOn s t sl f) ∧
        let ls := (unpackRow s sl x f d (rowCol (sget x f.rb)).1 (rowCol (sget x f.rb)).2.1).1
        slotOf t sl = vset x f.rd.toNat
          (mergeLanes x f (vget x f.rd.toNat) (ls ++ (vget x f.rd.toNat).drop ls.length))) ∧
    (badFld useVpk f = false →
        (extFmt f = 1 ∨ extFmt f = 2) → extEsc f = 0 → recOk →
      ∃ t, exec (.vpk sl f) s = .next (movedOn s t sl f) ∧
        let el := (vget x f.ra.toNat ++ vget x f.rb.toNat).zipIdx.map fun p =>
          (cvtPlain (tyFmt (extFmt f)) (service c step) (vecRnd c step f (sget x f.rc).toNat p.2) (decode f32 p.1.toNat)).1
        slotOf t sl = vset x f.rd.toNat (mergeLanes x f (vget x f.rd.toNat)
          ((List.range 128).map fun i => packEl (el.getD (2 * i) 0) (el.getD (2 * i + 1) 0)))) ∧
    (badFld { f64 := false, f128 := true, ra := 16, rb := 32, rc := 64, imm32 := true, ext := true, pred := true } f = false →
        extRe f ≠ 63 → badAbsent f d = false → (extFmt f = 0 ∨ extFmt f = d.fmt) → (extEsc f = 0 ∨ d.fmt = 8) →
        d.bad size = false → d.fmt ≠ 0 → d.fmt ≠ 10 → inRow (sget x f.rc) → recOk →
        let w := gridWrs d (service c step) (extEsc f) (rowCol (sget x f.rc)).1 (rowCol (sget x f.rc)).2.1
          [packEls c x f d (rowCol (sget x f.rc)).2.1 (sget x (extRe f + 1)).toNat]
        rangesClean s sl (wrsPart w.1) = true →
      exec (.vpkSt sl f) s = .next (movedOn s
        (statAdd (putWrs sl.cl sl.fil w.1 s).1 id va w.2 0 0 d.fmt (modeFor c step)).1 sl f)) ∧
    (badFld { f64 := false, f128 := true, rd := 32, rc := 64, imm32 := true, ext := true, pred := true } f = false →
        1 ≤ extFmt f → extFmt f ≤ 4 → f.rd.toNat + extFmt f ≤ 32 → bits f.ext 11 0 = 0 →
      exec (.vdraw sl f) s = .next (slotTo s sl f ((List.range (extFmt f)).foldl (fun y k =>
        vset y (f.rd.toNat + k) (mergeLanes y f (vget y (f.rd.toNat + k)) ((List.range 128).map fun i =>
          bv 32 ((dill c.seed.toNat step (extStream f) ((sget x f.rc).toNat + i) f.imm32.toNat 5).getD k 0)))) x)))

/-- The predicate and lane instructions of Table 4-10. -/
def Obligations.PredicateAndLane : Prop :=
  ∀ (s : State) (sl : Slot) (f : Fld), issues s sl = true →
    let x := slotOf s sl
    let p := pget x f.ra.toNat
    let q := pget x f.rb.toNat
    let n := f.imm18.toNat
    let old := vget x f.rd.toNat
    ∀ e ∈ ([
      (.pset sl f, { rd := 8, imm := true }, 2, putPred x f (if n = 1 then BitVec.allOnes 128 else 0)),
      (.pand sl f, { rd := 8, ra := 8, rb := 8 }, 2 ^ 18, putPred x f (p &&& q)),
      (.por sl f, { rd := 8, ra := 8, rb := 8 }, 2 ^ 18, putPred x f (p ||| q)),
      (.pxor sl f, { rd := 8, ra := 8, rb := 8 }, 2 ^ 18, putPred x f (p ^^^ q)),
      (.pnot sl f, { rd := 8, ra := 8 }, 2 ^ 18, putPred x f (~~~p)),
      (.pcnt sl f, { rd := 64, ra := 8 }, 2 ^ 18, sset x f.rd (bv 64 (predCount x f p))),
      (.pmask sl f, { rd := 8, ra := 64 }, 2 ^ 18, putPred x f (bv 128 (2 ^ min 128 (sget x f.ra).toNat - 1))),
      (.vext sl f, { rd := 64, ra := 32, imm := true }, 128,
        if active x f n then sset x f.rd (((vget x f.ra.toNat).getD n 0).setWidth 64) else x),
      (.vins sl f, { rd := 32, ra := 64, imm := true }, 128,
        vset x f.rd.toNat (mergeLanes x f old (old.set n ((sget x f.ra).extractLsb' 0 32)))),
      (.fsetp sl f, { ra := 8, imm := true }, 32,
        if predCount x f p = 0 then x else { x with fstat := x.fstat ||| bv 64 n })] :
      List (Instr × Use × Nat × SlotSt)),
      badFld { e.2.1 with pred := true, nf := true } f = false → n < e.2.2.1 →
        exec e.1 s = .next (slotTo s sl f e.2.2.2)

/-- The tile registers: TLD and TST move 32 bytes, behind the passes that R86 names, TORG writes ORG_ROW and ORG_COL, TOFF
DATA_OFF and SCALE_OFF. -/
def Obligations.TileRegisters : Prop :=
  ∀ (s : State) (sl : Slot) (f : Fld), issues s sl = true →
    let x := slotOf s sl
    let a := scrAddr x f
    let off := offOf s sl a
    let v := (sget x f.ra).toNat
    let w := (sget x f.rb).toNat
    let old := tget x f.rd.toNat
    (badFld { rd := 16, ra := 64, imm := true } f = false → scrFits s sl a 32 32 = true →
      (mustWait x [(a, 32)] [] 0 0 = false → scrClean s sl a 32 = true →
        exec (.tld sl f) s = .next (slotTo s sl f (tset x f.rd.toNat (bv 256 (leNat (scrRead s sl.cl off 32)))))) ∧
      (mustWait x [(a, 32)] [] 0 0 = true → exec (.tld sl f) s = .next s)) ∧
    (badFld { ra := 64, rb := 16, imm := true } f = false → scrFits s sl a 32 32 = true →
      (mustWait x [] [(a, 32)] 0 0 = false →
        exec (.tst sl f) s = .next (movedOn s (scrWrite s sl.cl off (leBytes 32 (tget x f.rb.toNat).toNat)) sl f)) ∧
      (mustWait x [] [(a, 32)] 0 0 = true → exec (.tst sl f) s = .next s)) ∧
    (badFld { rd := 16, ra := 64, rb := 64 } f = false →
      (v < 2 ^ 24 → w < 2 ^ 24 → ∃ y, exec (.torg sl f) s = .next (slotTo s sl f (tset x f.rd.toNat y)) ∧
        y.extractLsb' 128 24 = BitVec.ofNat 24 v ∧ y.extractLsb' 152 24 = BitVec.ofNat 24 w ∧
        y.extractLsb' 0 128 = old.extractLsb' 0 128 ∧ y.extractLsb' 176 80 = old.extractLsb' 176 80) ∧
      (v < 2 ^ 23 → w < 2 ^ 23 → ∃ y, exec (.toff sl f) s = .next (slotTo s sl f (tset x f.rd.toNat y)) ∧
        y.extractLsb' 0 23 = BitVec.ofNat 23 v ∧ y.extractLsb' 23 23 = BitVec.ofNat 23 w ∧
        y.extractLsb' 46 210 = old.extractLsb' 46 210))

/-- The matrix class: MMA.R and MMA.S issue the passes of their product behind the slot's others, and the slot moves on
at once; a pass completes once no earlier one that R86 names is in flight. -/
def Obligations.MatrixIssueAndPasses : Prop :=
  ∀ (s : State) (sl : Slot) (f : Fld), issues s sl = true →
    let x := slotOf s sl
    let id := slotCtx s sl.cl sl.fil
    let size := (slotPart s sl.cl sl.fil).2
    let da := tget x f.ra.toNat
    let db := tget x f.rb.toNat
    let np (int : Bool) : Nat := passCount (mmaExtents (parseTile da) (parseTile db) int size).1
      (mmaExtents (parseTile da) (parseTile db) int size).2.1
    (∀ w, let int := bit f.imm18 1
        let init := bit f.imm18 0
        badFld { rd := 8, ra := 16, rb := 16, imm := true } f = false → f.imm18.toNat < 4 →
        (mmaExtents (parseTile da) (parseTile db) int size).2.2.2 = false → f.rd.toNat + np int ≤ 8 →
        (init = true ∨ ∀ i < np int, tileMode x (f.rd.toNat + i) = b2n int) →
      ∃ t, exec (.mmaR sl f w) s = .next t ∧ (slotOf t sl).pc = (x.pc + insLen f) % 2 ^ 52 ∧
        (slotOf t sl).passes.length = x.passes.length + np int ∧
        (slotOf t sl).nextPass = x.nextPass + np int ∧
        (∀ i < np int, init = true → tileMode (slotOf t sl) (f.rd.toNat + i) = b2n int)) ∧
    (∀ bs du e, let off := (sget x (bv 6 (bits f.ext 6 1))).toNat
        let int := match peekOcb s sl off with | some o => o.int | none => false
        let m := (mmaExtents (parseTile da) (parseTile db) int size).1
        let n := (mmaExtents (parseTile da) (parseTile db) int size).2.1
        let o := parseTile (tget x f.rd.toNat)
        let c := parseTile (tget x f.rc.toNat)
        let czero := bit f.ext 0
        badFld { f64 := false, f128 := true, rd := 16, ra := 16, rb := 16, rc := if czero then 0 else 16, ext := true } f =
          false → bits f.ext 31 7 = 0 → (mmaExtents (parseTile da) (parseTile db) int size).2.2.2 = false →
        (czero = true ∨ (c.bad size = false ∧ c.fmt = (if int then 10 else 0) ∧ (c.trans && int) = false ∧ m ≤ c.lrows ∧
          n ≤ c.lcols)) →
        o.bad size = false → m ≤ o.lrows → n ≤ o.lcols →
        ocbAt s sl.cl sl.fil id false off o n m = .ok (bs, du, e) → ocbMeet s sl off = (s, false) →
        mustWait x [(off, 64)] [] 0 0 = false →
      ∀ w, ∃ t, exec (.mmaS sl ⟨f, w⟩) s = .next t ∧ (slotOf t sl).pc = (x.pc + insLen f) % 2 ^ 52 ∧
        (slotOf t sl).passes.length = x.passes.length + np int ∧ (slotOf t sl).acc = x.acc) ∧
    (∀ k p, (x.passes.find? fun p => p.k == k) = some p →
      let s1 := setSlot s sl.cl sl.fil (clearAcc { x with passes := x.passes.filter fun q => q.k != k } p.fresh)
      let within := (p.reads ++ p.writes).all fun r => inPart s1 sl.cl sl.fil r.1 r.2
      (p.behind (x.passes.takeWhile fun q => q.k != k) = true → exec (.matrixPassComplete sl k .none) s = .next s) ∧
      (p.behind (x.passes.takeWhile fun q => q.k != k) = false → within = true → accClean (slotOf s1 sl) p.block = true →
          rangesClean s1 sl p.reads = true →
        exec (.matrixPassComplete sl k .none) s = .next (if p.stream then passS s1 sl p else passR s1 sl p)) ∧
      (p.behind (x.passes.takeWhile fun q => q.k != k) = false → within = false →
        ∃ r ∈ p.reads ++ p.writes, inPart s1 sl.cl sl.fil r.1 r.2 = false ∧
          exec (.matrixPassComplete sl k .none) s = .next (passFault s1 sl p cTRANS r.1)))

/-- MOUT, MLDA and MAMAX once no pass in flight is one that R86 names: accumulator tiles through the output stage, a tile
into accumulator tiles, the absolute maximum of a tile into its record.  A request that waited `w` behind filler work
charges the cluster's governor. -/
def Obligations.MatrixOutputAndLoads : Prop :=
  ∀ (s : State) (sl : Slot) (f : Fld) (w : Nat), issues s sl = true →
    let x := slotOf s sl
    let id := slotCtx s sl.cl sl.fil
    let size := (slotPart s sl.cl sl.fil).2
    let o := parseTile (tget x f.rd.toNat)
    let d := parseTile (tget x f.ra.toNat)
    let off := (sget x f.rb).toNat
    let np := passCount d.lrows d.lcols
    (∀ bs du e t, badFld { rd := 16, ra := 8, rb := 64 } f = false → o.bad size = false →
        (pow2In o.lrows && pow2In o.lcols) = true → f.ra.toNat + passCount o.lrows o.lcols ≤ 8 →
        ocbMeet s sl off = (s, false) → ocbAt s sl.cl sl.fil id false off o o.lcols o.lrows = .ok (bs, du, e) →
        mustWait x (moutReads (parseOcb bs) off o.lcols) (outRanges (parseOcb bs) o du 0 0 o.lrows o.lcols) f.ra.toNat
          (passCount o.lrows o.lcols) = false →
        rangesClean s sl (vecRanges (parseOcb bs) 0 o.lcols) = true →
        accClean x (tileWords o.lrows o.lcols f.ra.toNat (passCount o.lrows o.lcols)) = true →
        moutGo sl id (outParOf s sl.cl sl.fil id x.stepNo.toNat (parseOcb bs) o du e o.lcols) f.ra.toNat o.lrows o.lcols
          (List.range (passCount o.lrows o.lcols)) s = (t, none) →
      exec (.mout sl ⟨f, w⟩) s = .next (movedOn s (waited sl w t) sl f)) ∧
    (badFld { rd := 8, ra := 16 } f = false → d.bad size = false → (d.fmt = 0 ∨ d.fmt = 10 ∧ d.trans = false) →
        (pow2In d.lrows && pow2In d.lcols) = true → f.rd.toNat + np ≤ 8 →
      (mustWait x (d.rowsAt 0 d.rows) [] f.rd.toNat np = false → rangesClean s sl (d.rowsAt 0 d.rows) = true →
        exec (.mlda sl ⟨f, w⟩) s = .next (movedOn s (waited sl w (setSlot s sl.cl sl.fil
          ((List.range np).foldl (fun y i =>
            let b := subBlock d.lrows d.lcols i
            setSat (putTileRows y (f.rd.toNat + i)
              ((initRows s sl (some d) b.1 b.2.1 b.2.2.1 b.2.2.2).map fun r => r.map (loadWord d.fmt))) (f.rd.toNat + i)
                false)
          (setModes x f.rd.toNat np (b2n (d.fmt == 10)))))) sl f)) ∧
      (mustWait x (d.rowsAt 0 d.rows) [] f.rd.toNat np = true → exec (.mlda sl ⟨f, w⟩) s = .next s)) ∧
    (∀ va pa bs s2, badFld { ra := 16, rb := 64 } f = false → d.bad size = false → d.fmt ≠ 8 → d.fmt ≠ 10 →
        va = (sget x f.rb).toNat → va % 64 = 0 → xlate s (some (sl.cl, sl.fil)) id va .write = .ok pa →
        mustWait x (d.rowsAt 0 d.rows) [] 0 0 = false → rangesClean s sl (d.rowsAt 0 d.rows) = true →
        loadVa s id va 64 = (s2, bs, none) →
      exec (.mamax sl ⟨f, w⟩) s =
        .next (movedOn s (waited sl w (writeVa s2 none id va (amaxPut bs (tileAmax s2 sl d))).1) sl f))

/-- The DMA class: a transfer is issued, counted, drained; when it completes its rows have moved and SYNC is
signalled. -/
def Obligations.DmaTransfers : Prop :=
  (∀ (s : State) (sl : Slot) (f : Fld), issues s sl = true →
    let x := slotOf s sl
    let a := (sget x f.ra).toNat
    let off := offOf s sl a
    let ws := (List.range 8).map fun i => bv 64 (leNat (scrRead s sl.cl (off + 8 * i) 8))
    let n := (s.dma.xfers.filter fun v => v.cl == sl.cl && v.fil == sl.fil).length
    (∀ w, badFld { ra := 64 } f = false → scrFits s sl a 64 64 = true → scrClean s sl a 64 = true →
        (parseDma ws).bad = false → (parseDma ws).beyond (slotPart s sl.cl sl.fil).2 = none →
      ∃ t, exec (.dmaGo sl f w) s = .next (movedOn s t sl f) ∧ t.mem = s.mem ∧ t.slot = s.slot ∧
        t.dma.next = s.dma.next + 1 ∧
        ∃ v, t.dma.xfers = s.dma.xfers ++ [v] ∧ v.n = s.dma.next ∧ v.desc = ws ∧ v.cl = sl.cl ∧ v.fil = sl.fil ∧
          v.ctx = slotCtx s sl.cl sl.fil ∧ v.step = x.stepNo) ∧
    (badFld { rd := 64 } f = false → exec (.dmaCnt sl f) s = .next (slotTo s sl f (sset x f.rd (bv 64 n)))) ∧
    (badFld {} f = false → n = 0 → exec (.dmaDrain sl f) s = .next (movedOn s s sl f)) ∧
    (badFld {} f = false → n ≠ 0 → exec (.dmaDrain sl f) s = .next s)) ∧
  (∀ (s s1 : State) (v : DmaX) (u : Upset) (l : LineRead), s.dma.xfers.find? (fun y => y.n == v.n) = some v →
    slotRuns s v.cl v.fil = true → (s.dev.linkUp = true ∨ dmaHost s v (parseDma v.desc) = false) →
    dmaMove v (parseDma v.desc) (parseDma v.desc).pieces (injectLine (inject
      (s.setDma { s.dma with xfers := s.dma.xfers.filter fun y => y.n != v.n }) v.cl v.fil u) l) = (s1, none) →
    exec (.dmaComplete v.n u l) s = .next
      (if (parseDma v.desc).sigEn then
        flrSettle (engineSig s1 3 (parseDma v.desc).sync (parseDma v.desc).sigVal v.cl v.fil v.ctx v.queue)
      else flrSettle s1))

/-- The sync class on an object here that the slot's context may use: SIG and ARRIVE send a signal on its way, WAIT and
CONS go on when the condition holds and are held at the object when it does not, SREAD and CREG read and register; these
four follow the slot's own signals to the object that are still on their way (R217). -/
def Obligations.SyncInstructions : Prop :=
  ∀ (s : State) (sl : Slot) (f : Fld) (o : SObj), issues s sl = true →
    let x := slotOf s sl
    let a := sget x f.ra
    let h : B32 := a.extractLsb' 0 32
    let who := slotWho s sl
    let go (t : State) : Host.Outcome State Fault Refusal := .next (movedOn s t sl f)
    let sent (amount : B64) (arr : Bool) : State := emit s (slotSig s sl h amount arr)
    let held (cond : Nat) (arg : B64) : State :=
      updSlot (setObj s (hIdx h) { o with waiters := o.waiters ++
        [{ src := .slot sl.cl sl.fil, who := who, cond := cond, arg := arg, deadline := deadlineOf s o, dur := waitDur s o }] })
        sl.cl sl.fil fun y => { y with wait := some ⟨h, y.pc + insLen f, ns s⟩ }
    bits a 63 32 = 0 → objFor s h = some o → mayUse s sl o = true →
    (badFld (useB { ra := 64 } 64 f) f = false → x.passes = [] → exec (.sig sl f) s = go (sent (sOperand x f) false)) ∧
    (badFld { ra := 64, rb := 64 } f = false → x.passes = [] → o.ty = .barrier →
      exec (.arrive sl f) s = go (sent (bv 64 ((sget x f.rb).toNat % 2 ^ 16)) true)) ∧
    (∀ cond arg, cond = f.imm18.toNat → cond ≤ 2 → condFits o cond = true → badFld { ra := 64, rb := 64, imm := true } f = false →
        arg = (if cond = 2 then bv 64 ((sget x f.rb).toNat % 2 ^ 16) else sget x f.rb) → onWay s (srcOf who) h = false →
      exec (.wait sl f) s = if condMet o cond arg then go (setObj s (hIdx h) o) else .next (held cond arg)) ∧
    (badFld { ra := 64 } f = false → o.ty = .flag → onWay s (srcOf who) h = false →
      exec (.cons sl f) s = if o.set then go (setObj s (hIdx h) { o with set := false }) else .next (held 3 0)) ∧
    (badFld { rd := 64, ra := 64 } f = false → onWay s (srcOf who) h = true → exec (.sread sl f) s = .next s) ∧
    (badFld { rd := 64, ra := 64 } f = false → onWay s (srcOf who) h = false →
      exec (.sread sl f) s = .next (slotTo s sl f (sset x f.rd (bv 64 (match o.ty with
        | .flag => soFlags o + o.regStep % 2 ^ 32 * 2 ^ 32
        | _ => soValue o))))) ∧
    (badFld { ra := 64, rb := 64 } f = false → o.ty = .flag → o.reg = false → onWay s (srcOf who) h = false →
        let job := (getCtx s (slotCtx s sl.cl sl.fil)).job
        let step := (sget x f.rb).toNat
        (∀ n, lastDecided s job = some n → n ≤ step) →
      (decidedAs s job step = none →
        exec (.creg sl f) s =
          go (setObj s (hIdx h) { o with reg := true, regStep := step, regJob := (getCtx s o.ctx).job })) ∧
      (∀ out, decidedAs s job step = some out →
        exec (.creg sl f) s = go (applySig (setObj s (hIdx h) { o with regStep := step, notice := noticeCode out })
          ⟨0, h, 1, mkSig s 7 0 false 0 o.ctx, false, none, none, false, none⟩)))

/-- The collective and update classes: COLL.GO queues the collective that its descriptor gives, COLL.NF sets the
non-finite flag of the slot's step, COLL.Q reads a state, UPD.* give the command to Rosemary. -/
def Obligations.CollectiveAndUpdateInstructions : Prop :=
  ∀ (s : State) (sl : Slot) (f : Fld), issues s sl = true →
    let x := slotOf s sl
    let a := (sget x f.ra).toNat
    let job := (getCtx s (slotCtx s sl.cl sl.fil)).job
    let go (t : State) : Host.Outcome State Fault Refusal := .next (movedOn s t sl f)
    (∀ u bs i g c, badFld { ra := 64 } f = false → a % 64 = 0 → activeColls s < 1024 →
        loadVa s (slotCtx s sl.cl sl.fil) a 128 = (u, bs, none) →
        let ws := (groupsOf 8 bs).map fun b => bv 64 (leNat b)
        let c0 := newColl u sl ws i g
        let u1 := meetTables u c0 g
        grpFor u (bv 32 ((ws.getD 0 0).toNat / 2 ^ 32)) = some (i, g) → c0.badForm = false → checkColl u1 c0 g = .ok c →
      exec (.collGo sl f) s = go (u1.setCol { u1.col with
        colls := u1.col.colls.filter (fun d => !c.sameNumber d) ++ [c], next := u1.col.next + 1 })) ∧
    (badFld { ra := 64 } f = false → a % 64 = 0 → 1024 ≤ activeColls s → exec (.collGo sl f) s = .next s) ∧
    (badFld {} f = false → exec (.collNf sl f) s = go (nfMark s job x.stepNo.toNat)) ∧
    (∀ i g c, badFld { rd := 64, ra := 64 } f = false → grpFor s ((sget x f.ra).extractLsb' 0 32) = some (i, g) →
        (s.col.colls.filter fun c => c.grp == i && c.gen = g.gen && c.step == x.stepNo.toNat &&
          c.seq == bits (sget x f.ra) 63 32).getLast? = some c →
      exec (.collQ sl f) s =
        .next (slotTo s sl f (sset x f.rd (bv 64 (c.st.code * 2 ^ 60 + c.attempt % 256 * 2 ^ 52))))) ∧
    (badFld { ra := 64 } f = false → a % 256 = 0 →
      ∀ p ∈ ([(.updA sl f, .a), (.updB sl f, .b), (.updAb sl f, .ab), (.updOut sl f, .out)] : List (Instr × UKind)),
        exec p.1 s = go (updTake s (newUCmd s sl p.2 a 0))) ∧
    (badFld { ra := 64, rb := 64 } f = false → a % 256 = 0 → (sget x f.rb).toNat % 4096 = 0 →
      exec (.updExp sl f) s = go (updTake s (newUCmd s sl .exp a (sget x f.rb).toNat)))

/-- The context block (R183 to R187): what CREATE, DESTROY, READ, STOP and RESUME leave, with RESULT 0; READ in keep-alive
mode too. -/
def Obligations.ContextCommands : Prop :=
  (∀ (s : State) (w : BitVec 56), readReady .context s = true → bits w 55 40 = 0 → bits w 25 22 = 0 →
    exec (.ctxRead w) s = .next (finish .context 0 (wrBytes s 0x11008 (ctxBytes s (bits w 11 0))))) ∧
  ∀ (s : State) (w : BitVec 56), cmdReady .context s = true → bits w 55 40 = 0 → bits w 25 22 = 0 →
    let id := bits w 11 0
    let x := getCtx s id
    let new := imgCtx (ctxImg s)
    (x.st = .free → imgBad (ctxImg s) = false → ownedBy s new.root .ptable new.tenant = true →
        jobConflict s new = false → ledgerOn s = true →
      exec (.ctxCreate w) s = .next (finish .context 0 (setCtx s id new))) ∧
    (x.st ≠ .free → slotsOfCtx s id = [] → queueBound s id = false →
      exec (.ctxDestroy w) s = .next (finish .context 0 (orphan (setCtx s id {}) id))) ∧
    (x.st = .ready → exec (.ctxStop w) s = .next (finish .context 0 (stopCtx s id))) ∧
    (x.st = .stopped →
      let s1 := setCtx s id { x with st := .ready, faultCl := 0, faultCode := 0 }
      exec (.ctxResume w) s = .next (finish .context 0 ((slotsOfCtx s1 id).foldl
        (fun t c => updSlot t c.1 c.2 fun y => { y with fault := 0, faultPc := 0 }) s1)))

/-- BIND and UNBIND (R185, R186) stay BUSY with every named slot marked; their completions make the slots ready to issue
and release them, with RESULT 0. -/
def Obligations.ContextBinding : Prop :=
  (∀ (s : State) (w : BitVec 56), cmdReady .context s = true → bits w 55 40 = 0 → bits w 25 22 = 0 →
    let id := bits w 11 0
    let x := getCtx s id
    x.st ≠ .free → firstCl w + countCl w ≤ s.fuse.grade →
    ((x.fil = true ∨ (4 ≤ bits w 39 36 ∧ bits w 39 36 ≤ 8)) → (namedCl w).all (slotFree s x.fil) = true →
      ∃ t, exec (.bind w .none) s = .next t ∧ (getBlk t .context).busy = true ∧ t.mem = s.mem ∧ t.que = s.que ∧
        ∀ cl ∈ namedCl w, (getSlot t cl x.fil).ctx = some id ∧ (getSlot t cl x.fil).mib = bits w 39 36 ∧
          (getSlot t cl x.fil).prep = (match (getSlot s cl x.fil).prevTenant with
            | some p => if p ≠ x.tenant then .zero else .bind
            | none => .bind)) ∧
    (((namedCl w).all fun cl => (getSlot s cl x.fil).ctx = some id &&
        (x.fil || (getSlot s cl true).ctx.isNone)) = true →
      ∃ t, exec (.unbind w) s = .next t ∧ (getBlk t .context).busy = true ∧ t.mem = s.mem ∧
        ∀ cl ∈ namedCl w, getSlot t cl x.fil = { getSlot s cl x.fil with prep := .unbind })) ∧
  (∀ s : State,
    (slotsWhere s (·.prep = .zero) ++ slotsWhere s (·.prep = .bind) ≠ [] →
      ∃ t, exec .bindComplete s = .next t ∧ (getBlk t .context).busy = false ∧ (getBlk t .context).result = 0 ∧
        ∀ c ∈ slotsWhere s (·.prep = .zero) ++ slotsWhere s (·.prep = .bind), let y := getSlot t c.1 c.2
          y.prep = .ready ∧ y.run = none ∧ y.fstat = 0 ∧
            (c.2 = false → (getClu t c.1).priMib = (getSlot s c.1 c.2).mib)) ∧
    (unbinding s ≠ [] → ((unbinding s).any fun c => (getSlot s c.1 c.2).run.isSome) = false →
      ∃ t, exec .unbindComplete s = .next t ∧ (getBlk t .context).busy = false ∧ (getBlk t .context).result = 0 ∧
        ∀ c ∈ unbinding s, (getSlot t c.1 c.2).ctx = none ∧ (getSlot t c.1 c.2).prep = .ready))

/-- The queue block (R189, R190, R199) and the end of a quarantine. -/
def Obligations.QueueCommands : Prop :=
  (∀ (s : State) (w : BitVec 56), cmdReady .queue s = true → bits w 54 20 = 0 →
    let q := bits w 19 0
    let x := getQ s q
    let r := rd64 s 0x12008
    let b := rd32 s 0x12010
    (x.st = .free → bits r 63 52 = 0 → bits r 11 5 = 0 → 6 ≤ bits r 4 0 → bits r 4 0 ≤ 20 → bits b 29 26 = 0 →
        (getCtx s (bits b 11 0)).st ≠ .free →
      exec (.qCreate w) s = .next (finish .queue 0 (setQ s q
        { st := .enabled, gen := x.gen + 1, ring := bits r 51 12 * 4096, log2 := bits r 4 0, prio := bits b 31 30,
          ctx := bits b 11 0 }))) ∧
    ((x.st = .enabled ∨ x.st = .halted) →
      let s1 := dropWaits s fun v => v == .queue q
      exec (.qDestroy w) s = .next (finish .queue 0 (setQ
        (s1.setQue { s1.que with run := s1.que.run.map fun r => if r.q = q then { r with q := q + 2 ^ 20 } else r })
        q { x with st := .quarantine, head := none, waitDl := none, qend := quarEnd s }))) ∧
    (x.st = .enabled → exec (.qCmdHalt w) s = .next (finish .queue 0 (haltQueue s q 7 false 0))) ∧
    (x.st = .halted →
      exec (.qResume w) s = .next (finish .queue 0 (setQ s q { x with
        st := .enabled, byCmd := false, head := none, rd := if bit w 55 && x.byCmd then x.rd + 1 else x.rd })))) ∧
  (∀ (s : State) (w : BitVec 56), readReady .queue s = true → bits w 54 20 = 0 →
    exec (.qRead w) s = .next (finish .queue 0 (wrBytes s 0x12008 (qBytes (getQ s (bits w 19 0)))))) ∧
  (∀ (s : State) (q : Nat), (getQ s q).st = .quarantine → (getQ s q).qend ≤ ns s →
    exec (.queueQuarantineEnd q) s = .next (setQ s q { gen := (getQ s q).gen }))

/-- Doorbells and fetches (R191, R192) and the commands of queues (R193 to R197, Table 6-6): what each leaves when it
may start. -/
def Obligations.QueueWork : Prop :=
  (∀ (s : State) (off : Nat) (d : B128), off < 2 ^ 24 → off % 16 = 0 → (rdyBit s 14 = true ∨ s.err.ka = true) →
    bits d 127 46 = 0 →
    let x := getQ s (off / 16)
    let wr : B32 := bv 32 (bits d 31 0)
    (x.st = .enabled ∨ x.st = .halted) → x.gen = bv 14 (bits d 45 32) → (wr - x.wr).toNat < 2 ^ 31 →
      (wr - x.rd).toNat ≤ 2 ^ x.log2 →
    exec (.doorbell off 16 d) s = .next (setQ s (off / 16) { x with wr := wr })) ∧
  (∀ (s t : State) (q : Nat) (bs : List Byte), let x := getQ s q
    queueRuns s x = true → x.head = none →
    (s.dev.linkUp = true ∨ hostVa s x.ctx (x.ring + x.rd.toNat % 2 ^ x.log2 * 64) 64 .read = false) →
    loadVa s x.ctx (x.ring + x.rd.toNat % 2 ^ x.log2 * 64) 64 = (t, bs, none) → (parseQ bs).bad = false →
    1 ≤ (parseQ bs).typ → (parseQ bs).typ ≤ 6 →
    exec (.queueFetch q) s = .next (setQ t q { x with head := some (parseQ bs) })) ∧
  (∀ (s : State) (q : Nat) (c : QCmd), let x := getQ s q
    let job := (getCtx s x.ctx).job
    headReady s q c = true →
    (c.typ = 1 → kernelBad s c = false → kernelReady s x c = true → mustRecheck s job c.step.toNat = false →
        rivals s q x c = [] →
      ∃ t, exec (.kernel q) s = .next t ∧ t.mem.phys = s.mem.phys ∧ (getQ t q).rd = x.rd + 1 ∧ (getQ t q).head = none ∧
        t.que.run = s.que.run ++ [⟨s.que.next, q, c, x.ctx, (kernelSlots s x c).map fun p => slotKey p.1 p.2, 0⟩] ∧
        ∀ p ∈ kernelSlots s x c, getSlot t p.1 p.2 = { getSlot s p.1 p.2 with
          run := some s.que.next, pc := c.a0.toNat, karg := c.a1, stepNo := c.step, wait := none, code := s.mem.phys }) ∧
    (c.typ = 2 → c.a0.toNat < 2 ^ 52 → c.a0.toNat % 64 = 0 → c.a1.toNat < 2 ^ 32 → c.a2 = 0 →
      (batchState s job c.step.toNat = .off → exec (.batchRef q) s = .next (cmdSignal (advance s q) q x.ctx c)) ∧
      (∀ fil e, batchState s job c.step.toNat = .go fil →
          let s1 := firstCommand s job c.step.toNat
          findEnt s1 fil false c.step.toNat = some e →
        ((e.rerun && hasRef e x c) = true →
          exec (.batchRef q) s = .next (cmdSignal (advance s1 q) q x.ctx c)) ∧
        (∀ s2 bs, (e.rerun && hasRef e x c) = false → refCount s1 job c.step.toNat e < 4096 →
            refBytes s1 x.ctx c = (s2, bs, none) →
          exec (.batchRef q) s = .next (advance (addRun s2 q x c [] (crc64 bs)) q)))) ∧
    (∀ o arg, c.typ = 3 → c.a0.toNat ≤ 2 → c.a2 = 0 → objFor s c.sync = some o → condFits o c.a0.toNat = true →
        sameJob s x.ctx o.ctx = true → arg = (if c.a0.toNat = 2 then bv 64 (c.a1.toNat % 2 ^ 16) else c.a1) →
        onWay s (srcOf (mkSig s 2 0 false q x.ctx)) c.sync = false →
      (condMet o c.a0.toNat arg = true →
        exec (.cmdWait q) s = .next (advance (dropWaits s fun v => v == .queue q) q)) ∧
      (condMet o c.a0.toNat arg = false → (o.waiters.any fun v => v.src == .queue q) = false →
        exec (.cmdWait q) s = .next (setQ (setObj s (hIdx c.sync) { o with waiters := o.waiters ++
          [⟨.queue q, mkSig s 2 0 false q x.ctx, c.a0.toNat, arg, deadlineOf s o, waitDur s o⟩] }) q
            { x with waitDl := deadlineOf s o }))) ∧
    (∀ o, c.typ = 4 → c.a0 = 0 → c.a1 = 0 → c.a2 = 0 → objFor s c.sync = some o → sameJob s x.ctx o.ctx = true →
        let who := mkSig s 2 0 false q x.ctx
        onWay s (srcOf who) c.sync = false →
        let t := applySig s ⟨0, c.sync, bv 64 c.sigVal.toNat, who, false, none, some q, true, none⟩
        (getQ t q).st = .enabled → exec (.signal q) s = .next (advance t q)) ∧
    (c.typ = 5 → c.a0.toNat < 2 ^ 34 → c.a1.toNat < 2 ^ 32 → c.a2 = 0 →
        let r := bits c.a0 19 0
        (getCtx s (getQ s r).ctx).tenant = (getCtx s x.ctx).tenant →
      exec (.ring q) s = .next (cmdSignal (ringDoorbell (advance s q) r (bv 14 (bits c.a0 33 20))
        (c.a1.extractLsb' 0 32)) q x.ctx c)) ∧
    (c.typ = 6 → c.a0 = 0 → c.a1 = 0 → c.a2 = 0 →
      exec (.cmdNop q) s = .next (cmdSignal (advance s q) q x.ctx c))) ∧
  (∀ (s : State) (n : Nat) (r : RunCmd), (s.que.run.find? fun r => r.n == n) = some r →
    (r.cmd.typ = 1 → r.left = [] → exec (.kernelComplete n) s = .next (cmdSignal (dropRun s n) r.q r.ctx r.cmd)) ∧
    (r.cmd.typ = 2 → live s = true → s.err.ka = false →
      exec (.batchRefRecorded n) s = .next (cmdSignal (mapEnt (dropRun s n) (getCtx s r.ctx).fil false r.cmd.step.toNat
        fun e => { e with refs := e.refs ++ [⟨r.cmd.a0.toNat, r.cmd.a1.toNat, r.ctx, r.crc⟩] }) r.q r.ctx r.cmd)))

/-- Marjoram (R206 to R211) and the governors (R201): units and frames counted per tenant once each is due, the interval
that closes before the samples of the beat that follows it, its snapshot in the ring of host memory, and the LED
registers. -/
def Obligations.LedgerAndGovernors : Prop :=
  (∀ (s : State), mayCount s = true →
    (∀ (cl id : Nat), cl < 512 → (getSlot s cl true).ctx = some id →
        (getSlot s cl true).filFrom + 1792 ≤ s.time.cycle →
      ∃ t, exec (.filUnitsTick cl) s = .next t ∧
        cntOf t (getCtx s id).tenant.toNat = { cntOf s (getCtx s id).tenant.toNat with
          fil := (cntOf s (getCtx s id).tenant.toNat).fil + 1 } ∧
        (getSlot t cl true).filFrom = (getSlot s cl true).filFrom + 1792 ∧
        ∀ k, k ≠ (getCtx s id).tenant.toNat → cntOf t k = cntOf s k) ∧
    (s.led.priNext ≤ ns s → ∃ t, exec .priUnitsTick s = .next t ∧ t.led.priNext = s.led.priNext + 1024 ∧ ∀ k, cntOf t k = { cntOf s k with
      pri := (cntOf s k).pri + (slotsWhere s fun x => x.ctx.isSome).countP fun c =>
        !c.2 && (getCtx s (slotCtx s c.1 false)).tenant.toNat == k }) ∧
    (s.led.frmNext ≤ beat s → ∃ t, exec .frameBeatTick s = .next t ∧ t.led.frmNext = s.led.frmNext + 1 ∧ ∀ m ∈ holders s, cntOf t m.toNat = { cntOf s m.toNat with
      hbm := (cntOf s m.toNat).hbm + countFrames s false m
      rs := (cntOf s m.toNat).rs + countFrames s true m + entryCharge s m })) ∧
  (∀ (s : State), counts s = true → s.led.looked ≠ beat s + 1 → sampled s = true →
    (s.led.first = beat s ∨ beat s % s.led.int ≠ 0 →
      exec .intervalClose s = .next (s.setLed { s.led with looked := beat s + 1 })) ∧
    (s.led.first ≠ beat s → beat s % s.led.int = 0 →
      (ringFull s = false → ∃ t, exec .intervalClose s = .next t ∧ t.led.first = beat s ∧ t.led.cnt = [] ∧
        t.led.int = s.led.intNext ∧ t.led.looked = beat s + 1 ∧ t.led.nextSeq = s.led.nextSeq + 1 ∧ ∃ x, t.led.snaps = s.led.snaps ++ [x] ∧
          x.seq = s.led.nextSeq ∧ x.first = s.led.first ∧ x.last = beat s - 1 ∧ x.cnt = s.led.cnt) ∧
      (ringFull s = true → exec .intervalClose s =
        .next (s.setLed { s.led with looked := beat s + 1, extending := true, ext := true })))) ∧
  (∀ (s : State) (x : Snap) (rest : List Snap), s.led.snaps = x :: rest → ledgerOn s = true → hasImage s 5 = true →
    s.dev.linkUp = true → s.led.slots ≠ 0 → s.led.base ≠ 0 → vaultOk s = true →
    ∃ t, exec .snapshotWritten s = .next t ∧ t.led.snaps = rest ∧ t.led.head = s.led.head + 1 ∧ t.led.seq = x.seq ∧
      t.led.prev = some (Config.sha512 (snapBytes s x)) ∧ bit t.dev.irqStat 4 = true ∧
      t.mem = (writeMem s (hostBase + s.led.base + s.led.head.toNat % s.led.slots * 2 ^ 20) (snapBytes s x)).mem) ∧
  (∀ (s : State) (v : B64) (u : B32), regsOn s = true →
    (ledEmpty s = true → v.toNat % 2 ^ 20 = 0 →
      exec (.ledBase v) s = .next (s.setLed { s.led with base := v.toNat, head := 0, tail := 0 })) ∧
    (ledEmpty s = true → 2 ≤ u.toNat → u.toNat ≤ 4096 →
      exec (.ledSlots u) s = .next (s.setLed { s.led with slots := u.toNat, head := 0, tail := 0 })) ∧
    exec (.ledTail u) s = .next (s.setLed { s.led with tail := u }) ∧
    (1 ≤ bits u 20 0 → bits u 20 0 ≤ 2 ^ 20 → exec (.ledCtrl u) s =
      .next (s.setLed { s.led with intNext := bits u 20 0 }))) ∧
  (∀ (s : State) (g : Gov), live s = true → govDebt s g ≤ bits (rd32 s 0x1104C) 3 0 →
    exec (.governorDebtCleared g) s = .next (setDebt s g 0))

/-- The sync block (R229, R230, R236, R240): what each command leaves of the object that its handle names, with RESULT
0; and the end of an object's quarantine. -/
def Obligations.SyncObjectCommands : Prop :=
  (∀ (s : State) (w : BitVec 56), cmdReady .sync s = true → bits w 53 32 = 0 →
    let i := bits w 31 14
    let o := getObj s i
    let a := syncArg0 s
    let b := syncArg1 s
    (o.st = .free → bits w 55 54 ≠ 3 → bits a 23 12 = 0 → (bits w 55 54 = 2 → bits a 39 24 ≠ 0) →
        (getCtx s (bits a 11 0)).st ≠ .free →
      let s1 := setObj s i {
        st := .active
        ty := if bits w 55 54 = 0 then .counter else if bits w 55 54 = 1 then .flag else .barrier
        gen := o.gen + 1, ctx := bits a 11 0, parts := bits a 39 24, wd := bits a 63 40 }
      exec (.syncCreate w) s =
        .next (finish .sync 0 (setBlk s1 .sync { getBlk s1 .sync with handle := mkHandle i (o.gen + 1) }))) ∧
    (bits w 55 54 = 0 → o.st = .active → o.gen = bv 14 (bits w 13 0) →
      (o.waiters = [] → o.reg = false → exec (.syncDestroy w) s =
        .next (finish .sync 0 (setObj s i { o with st := .quarantine, qend := quarEnd s }))) ∧
      (o.waiters = [] → ∀ o1, (o1, o.ty) ∈ ([({ o with value := a.toNat }, .counter),
          ({ o with set := false, overrun := false, ovrCnt := 0, notice := 0 }, .flag)] : List (SObj × SoTy)) →
        exec (.syncReset w) s = .next (finish .sync 0 (setObj s i o1))) ∧
      (o.waiters = [] → o.ty = .barrier →
        exec (.syncReset w) s = .next (finish .sync 0 (setObj s i { o with round := bits a 15 0, count := 0, next := 0 }))) ∧
      (o.ty = .flag → exec (.clearOvr w) s = .next (finish .sync 0 (setObj s i { o with overrun := false }))) ∧
      (∀ n s1, n = min (bits a 15 0) o.waiters.length → bits b 63 52 = 0 → b.toNat % 32 = 0 →
          hostBase + b.toNat + 32 * n ≤ 2 ^ 48 → s.dev.linkUp = true →
          s1 = writeMem s (hostBase + b.toNat) ((o.waiters.take n).flatMap waiterBytes) →
        exec (.readWaiters w) s =
          .next (finish .sync 0 (setBlk s1 .sync { getBlk s1 .sync with count := n }))))) ∧
  (∀ (s : State) (w : BitVec 56), readReady .sync s = true → bits w 55 32 = 0 → let o := getObj s (bits w 31 14)
    o.st = .active → o.gen = bv 14 (bits w 13 0) →
    exec (.syncRead w) s = .next (finish .sync 0 (wrBytes s 0x14020 (soBytes o)))) ∧
  (∀ (s : State) (i : Nat), (getObj s i).st = .quarantine → (getObj s i).qend ≤ ns s →
    exec (.syncQuarantineEnd i) s = .next (setObj s i { gen := (getObj s i).gen }))

/-- Signals at their home (R217 to R224): a counter without waiters adds and stops at its end, a flag is set, or
overruns, a barrier counts an arrival of its round; a remote signal of the object's tenant and job is applied alike, and
a rejected arrival halts the queue that made it. -/
def Obligations.SignalsAtTheirHome : Prop :=
  (∀ (s : State) (n : Nat) (g : SigFly) (o : SObj), (s.syn.sigs.find? fun g => g.n == n) = some g → live s = true →
    (s.syn.sigs.any fun h => decide (h.n < n) && srcOf h.who = srcOf g.who && h.obj = g.obj) = false →
    objFor s g.obj = some o → g.ctx = none → o.waiters = [] →
    let i := hIdx g.obj
    let s1 := s.setSyn { s.syn with sigs := s.syn.sigs.filter fun h => h.n != n }
    (o.ty = .counter → g.arrive = false → exec (.counterSignal n) s = .next (setObj s1 i { o with
      value := min (o.value + g.amount.toNat) (2 ^ 64 - 1)
      cntSat := o.cntSat || decide (2 ^ 64 ≤ o.value + g.amount.toNat), sig1 := g.who, tSig := ns s })) ∧
    (o.ty = .flag → g.arrive = false → o.set = false → exec (.flagSignal n) s =
      .next (setObj s1 i { o with set := true, sig1 := g.who, tSig := ns s })) ∧
    (o.ty = .flag → g.arrive = false → o.set = true → o.overrun = true → exec (.flagSignal n) s =
      .next (setObj s1 i { o with ovrCnt := min (o.ovrCnt + 1) 0xFFFF, tSig := ns s })) ∧
    (o.ty = .barrier → g.amount.toNat % 65536 = o.round → o.count + 1 < o.parts → exec (.barrierArrival n) s =
      .next (setObj s1 i { o with count := o.count + 1, sig1 := g.who, tSig := ns s })) ∧
    (o.ty = .barrier → g.amount.toNat % 65536 = (o.round + 1) % 65536 → o.round < 65536 → o.next < o.parts →
      exec (.barrierArrival n) s = .next (setObj s1 i { o with next := o.next + 1, sig1 := g.who, tSig := ns s }))) ∧
  (∀ (s : State) (m : SyncMsg) (o : SObj), transportOn s = true → objFor s m.handle = some o →
    ((getCtx s o.ctx).tenant = m.tenant → (getCtx s o.ctx).job = m.job → exec (.remoteSignal m) s =
      .next (applySig s ⟨0, m.handle, m.amount, m.who, m.arrive, none, none, false, some m.src⟩)) ∧
    ((getCtx s o.ctx).tenant ≠ m.tenant ∨ (getCtx s o.ctx).job ≠ m.job → ∃ t, exec (.remoteSignal m) s = .next t ∧
      t.syn = { s.syn with foreign := sat32 (s.syn.foreign + 1) } ∧ t.mem = s.mem)) ∧
  (∀ (s : State) (who : B64), (getQ s (bits who 31 12)).st = .enabled → ∃ t, exec (.barrierRejection who) s = .next t ∧
    (getQ t (bits who 31 12)).st = .halted ∧ (getQ t (bits who 31 12)).cause = 6)

/-- WATCHDOG_EXPIRY (R233, R234): a wait whose deadline beat has come is removed and counted, and the slot that waited
faults, or the queue goes past its WAIT and halts with WD_EXPIRED.  LEND_START, LEND_GRANT, LEND_WAKE, LEND_REVOKE (R238,
R239): a cluster whose slots wait lends, the half's lent allowance is that of its granted clusters, a cluster that wakes
lends no more, and its allowance goes back. -/
def Obligations.WatchdogAndLending : Prop :=
  (∀ (s : State) (i : Nat) (w : Waiter) (d : Nat),
    let o := getObj s i
    let o1 : SObj := { o with waiters := o.waiters.filter (· ≠ w), wdFired := true }
    let s2 := (setObj s i o1).setSyn { (setObj s i o1).syn with wdCnt := sat32 (s.syn.wdCnt + 1) }
    let s3 := logRec s2 (objHalf i) (recObj s2 i o1 0x0404 2 w.who 0 0)
    (o.waiters.filter fun v => v.who = w.who) = [w] → w.deadline = some d → d ≤ beat s →
    (∀ cl fil, w.src = .slot cl fil →
      exec (.watchdogExpiry i w.who) s = .next (slotExpired s3 cl fil (mkHandle i o.gen))) ∧
    (∀ q, w.src = .queue q → exec (.watchdogExpiry i w.who) s = .next (queueExpired s3 q)) ∧
    s3.syn.wdCnt = sat32 (s.syn.wdCnt + 1) ∧ getObj s3 i = o1 ∧ s3.slot = s.slot ∧ s3.que = s.que ∧ s3.mem = s.mem ∧
    (∀ q, (getQ s3 q).st = .enabled → let u := queueExpired s3 q
      (getQ u q).st = .halted ∧ (getQ u q).cause = 8 ∧ (getQ u q).rd = (getQ s3 q).rd + 1 ∧ (getQ u q).waitDl = none)) ∧
  (∀ (s : State) (cl : Nat), cl < 512 → live s = true → s.err.ka = false → mayLendNow s cl = true →
    exec (.lendStart cl) s = .next (setClu s cl { getClu s cl with lending := true })) ∧
  (∀ (s : State) (h : Half), live s = true → s.pwr.fast = false →
    exec (.lendGrant h) s = .next (settleLent s h fun c => c.granted || c.lending)) ∧
  (∀ (s : State) (cl : Nat), cl < 512 → (getClu s cl).lending = true →
    (idleSlot (getSlot s cl false) && idleSlot (getSlot s cl true)) = false →
    exec (.lendWake cl) s = .next (setClu s cl { getClu s cl with lending := false })) ∧
  (∀ (s : State) (h : Half), exec (.lendRevoke h) s = .next (settleLent s h fun c => c.granted && c.lending)) ∧
  (∀ (s : State) (h : Half) (p : Clu → Bool), Tab.wf (fun _ => {}) s.clu = true → let t := settleLent s h p
    t.pwr.lent.get h = (t.clu.filter fun e => e.2.granted && clHalf t e.1 = h).length * allowance s h ∧
    t.mem = s.mem ∧ t.slot = s.slot ∧
    ∀ e ∈ s.clu, (clHalf s e.1 = h → getClu t e.1 = { e.2 with granted := p e.2 }) ∧
      (clHalf s e.1 ≠ h → getClu t e.1 = e.2))

/-- The memory block (R149, R150, R157, R163): frames assigned, released and retired, the scrub engine's zeros,
invalidations and the entries they drop. Table walks, the patrol and its control (R152 to R156, R159, R161): the walk
that ends well fills the slot's and the tile's TLB; the patrol corrects a line, or repairs what it finds beyond repair. -/
def Obligations.FramesWalksAndPatrol : Prop :=
  ((∀ (s : State) (w : BitVec 56) (ks : List Nat), cmdReady .memory s = true → bit w 52 = false → bits w 39 12 = 0 →
     namedFrames s = .ok ks →
     let kind := bits w 55 53
     let all (v : B16) (t : State) : State := ks.foldl (fun t k => setFrm t k v) t
     ((kind = 1 ∨ kind = 2) → (s.jrn.en && ks.any frameIsRs) = false → (∀ k ∈ ks, frmKind s k = .free) →
       exec (.assign w) s = .next (finish .memory 0 (all (mkEntry (FKind.ofCode kind) (bv 12 (bits w 51 40))) s))) ∧
     ((∀ k ∈ ks, frmKind s k = .tenant ∨ frmKind s k = .ptable) → ks.any (journalHolds s) = false →
       exec (.release w) s =
         .next (finish .memory 0 (ks.foldl (fun t k => setFrm (dropTlb t k) k (mkEntry .scrub 0)) s))) ∧
     ((∀ k ∈ ks, frmKind s k = .free) → ks.any (journalHolds s) = false →
       exec (.retire w) s = .next (finish .memory 0 (all (mkEntry .retired 0) s)))) ∧
   (∀ (s : State) (w : BitVec 56), cmdReady .memory s = true → bit w 52 = false → bits w 39 12 = 0 →
     bits (memArg0 s) 63 52 = 0 →
     ∀ p ∈ ([(.invalCtx w, .ctx (bits w 11 0)),
         (.invalRange w, .range (bits w 11 0) (memArg0 s).toNat (memArg1 s).toNat), (.invalAll w, .all)] :
         List (Instr × Inval)),
       exec p.1 s = .next (busy .memory (s.setMmu { s.mmu with inval := some p.2 }))) ∧
   (∀ (s : State) (i : Inval), s.mmu.inval = some i → let t := dropEntries s i.covers
     exec .invalidationComplete s = .next (finish .memory 0 (t.setMmu { t.mmu with inval := none })) ∧
     (∀ x ∈ t.mmu.tlb, i.covers x = false) ∧ ∀ e ∈ t.mmu.l1, ∀ x ∈ e.2, i.covers x = false) ∧
   (∀ (s : State) (k : Nat), k < 2 * halfFrames → framesOn s = true → live s = true →
     (s.lead.half.get (frameHalf k)).stopped = false →
     let i := k % halfFrames
     (s.frm.scrub.get (frameHalf k) = i → exec (.frameScrubbed k) s =
       .next (frameFree (s.setFrm { s.frm with scrub := s.frm.scrub.set (frameHalf k) (i + 1) }) k)) ∧
     (i < s.frm.scrub.get (frameHalf k) → frmKind s k = .scrub →
       ∃ t, exec (.frameScrubbed k) s = .next t ∧ Tab.get (fun _ => 0) t.frm.tab k = 0 ∧
         (∀ a, framePa k ≤ a → a < framePa k + frameBytes → memByte t a = 0) ∧
         ∀ a, a < framePa k ∨ framePa k + frameBytes ≤ a → memByte t a = memByte s a))) ∧
  ((∀ (s : State) (sl : Slot) (va id pa : Nat) (a : Acc) (l : LineRead) (e : TlbE), sl.cl < 512 →
     (slotOf s sl).ctx = some id → live s = true → s.err.ka = false → va < 2 ^ 52 → let s1 := waited sl sl.wait (injectLine s l)
     walk s1 id (getCtx s1 id) va 3 (getCtx s1 id).root = (.ok pa, some e) → e.allows a = true →
     exec (.tableWalk sl va a l) s = .next (fillTlb (meetWalk s1 id va) sl { e with tile := clTile s1 sl.cl })) ∧
   (∀ (s : State) (pa u : Nat) (l : LineRead), u < 22 → live s = true → framesOn s = true →
     bit (rd32 s 0x10028) 8 = true →
     let s1 := injectLine (patRoll s) l
     let n := (lineErr s1 (pa / 64)).syms.length
     let s2 := readLine s1 (pa / 64)
     let s3 := setPat s2 u ((getPat s2 u).meet (pa / 64) n)
     let s4 := if 2 ≤ n then patrolBad s3 pa else s3
     exec (.patrolRead pa l u false) s = .next s4 ∧ exec (.patrolRead pa l u true) s = .next (patEnd s4 u)) ∧
   (∀ (s : State) (v : B32), regsOn s = true →
     exec (.patrolCtrl v) s = .next (refreshRdy (wr32 s 0x10028 (v &&& 0x13F)))))

/-- Sorrel (R164 to R173): JRN_CTRL takes or leaves the region and chooses the depth, an entry whose copies are made is
reported, batch references that read the same release the re-run, a restore puts the segments back, or asks the owner, or
at depth 0 the partner, for them. -/
def Obligations.JournalWork : Prop :=
  (∀ (s : State) (v : B64), regsOn s = true → s.err.ka = false →
    let m := bits v 33 32
    let s1 := s.setJrn { s.jrn with en := bit v 0, maxDepth := if m = 3 then s.jrn.maxDepth else m }
    let s2 := if bit v 0 then takeRegion s1 else s1
    let t := leaveRegion (rechoose s2)
    exec (.jrnCtrl v) s = .next t ∧ t.jrn.en = bit v 0 ∧ t.jrn.maxDepth = s1.jrn.maxDepth ∧
      (t.jrn.depthP, t.jrn.depthF) = newDepths s2 ∧ t.mem = s.mem) ∧
  (∀ (s : State) (fil outer : Bool) (step w : Nat) (e : JEnt) (j : JobReg), findEnt s fil outer step = some e →
    jobReg s fil = some j → sorrelRuns s fil = true → e.reported = false →
    let s0 := chargeBanks s fil j.job w
    exec (.undoCopyComplete fil outer ⟨step, w⟩ false) s = .next (undoCopy s0 fil outer j.job step) ∧
    (outer = false → e.st = .open_ → ∀ s1,
        copyShards fil outer step ((ownShards s0 j.job).filter fun x => e.todo.contains x.idx) s0 = .made s1 →
      ∃ e1, findEnt (undoCopy s0 fil outer j.job step) fil outer step = some e1 ∧ e1.st = .undo ∧ e1.reported = true)) ∧
  (∀ (s : State) (fil : Bool) (step : Nat) (e : JEnt), findEnt s fil false step = some e → sorrelRuns s fil = true →
    e.recheck = true →
    let t := e.refs.foldl (fun st r => meetVa st none r.ctx r.va (64 * r.len)) s
    (∀ r ∈ e.refs, ∃ bs, readVa t none r.ctx r.va (64 * r.len) = (bs, none) ∧ crc64 bs = r.crc) →
    exec (.batchRecheck fil step) s = .next (mapEnt t fil false step fun e => { e with recheck := false })) ∧
  (∀ (s : State) (n w : Nat) (c : UCmd) (sh : Shard), findUCmd s n = some c → cmdShard s c = some sh →
    owes s sh c = true → c.asked = false → sorrelRuns s sh.fil = true → isFirst s sh c = true →
    (sh.mirror = false →
      let s1 := checkEnt (if sh.fil then s else charge s (.bank sh.half) w) sh.fil (c.kind = .out) c.step
      (∀ s2, restoreCmd s1 sh c = some s2 →
        exec (.restoreComplete ⟨n, w⟩ false) s = .next (putUCmd s2 { c with restore := false })) ∧
      (restoreCmd s1 sh c = none → exec (.restoreComplete ⟨n, w⟩ false) s = .next (restoreElse s1 sh c))) ∧
    (sh.mirror = true → partnerLost s sh = false → depthNow s sh.fil ≠ 0 →
      exec (.restoreComplete ⟨n, w⟩ false) s = .next (putUCmd (sendUndoReq s sh c.step (c.kind = .out)) { c with asked := true })) ∧
    (sh.mirror = true → partnerLost s sh = false → depthNow s sh.fil = 0 →
      exec (.restoreComplete ⟨n, w⟩ false) s = .next (restoreElse s sh c)))

/-- The update block (R244, R245, R256, R268): REGISTER of a header that passes its checks, DEREGISTER, READ, and
ROLLBACK of a job without mirror copies. -/
def Obligations.UpdateBlockCommands : Prop :=
  (∀ (s : State) (w : BitVec 56) (sh : Shard), readReady .update s = true → bits w 55 12 = 0 →
    bits (updArg0 s) 63 52 = 0 → namedShard s (bits (updArg0 s) 51 0) = some sh →
    let t := meetVa s none sh.ctx sh.hva 256
    exec (.updRead w) s = .next (finish .update 0 (wrBytes t 0x15040 (hdrBytes t sh)))) ∧
  ∀ (s : State) (w : BitVec 56), cmdReady .update s = true → bits w 55 12 = 0 →
    let a := updArg0 s
    (bits a 63 52 = 0 →
      let hva := bits a 51 0
      let t := meetVa s none (bits w 11 0) hva 256
      (∀ sh h, (s.upd.shards.any fun x => isShard s (bits w 11 0) hva x && shardPending s x) = false →
          checkReg t (bits w 11 0) hva = .ok (sh, h) →
        ((sh.mirror = true ∨ entryVoted t sh.fil = false) →
          exec (.register w) s = .next (finish .update 0 (addShard t sh))) ∧
        (sh.mirror = false → entryVoted t sh.fil = true →
          exec (.register w) s = .next (busy .update (t.setUpd { t.upd with regWait := some w })))) ∧
      (∀ sh, namedShard s hva = some sh → shardPending s sh = false → (hdrOf s sh).has stHalt = false →
        let t := setStatus s sh stReg false
        exec (.deregister w) s = .next (finish .update 0 (dropJob
          (t.setUpd { t.upd with shards := t.upd.shards.filter fun x => x != sh }) sh.fil sh.job)))) ∧
    (bits a 63 32 = 0 → ∀ fil j s1, let job : B32 := a.extractLsb' 0 32
      jobKind s job = some fil → jobReg s fil = some j → j.halted = true → depthNow s fil ≠ 0 →
      rollOwn j.haltStep (ownShards s job) s = (s1, true) → mirShards s1 job = [] →
      exec (.rollback w) s = .next (rollDone (s1.setUpd { s1.upd with
        roll := some job, was := imagesOf s (shardsOf s job) }) fil job j.haltStep))

/-- Rosemary's phases and merges (R35 to R37, R248 to R255, R261 to R265, Table 8-6): each start sets its busy bit, each
completion, with the lines of the shard read, writes its results and the header, in this order. -/
def Obligations.UpdatePhases : Prop :=
  ∀ (s t : State) (n m : Nat) (c : UCmd) (sh : Shard) (k : Ctr), findUCmd s n = some c → cmdShard s c = some sh →
    let h := hdrOf s sh
    ((c.kind = .a ∨ c.kind = .b ∨ c.kind = .ab) → phaseTurn s sh c = true → mayUpdate s sh c = true →
        hdrOk s sh = true → h.wStep + 1 = c.step →
      (∀ i w, c.ph = .wait → h.sStep = h.wStep → h.has stB = false → let s1 := chargeSlice s sh i w
        exec (.phaseAStart ⟨n, i, w⟩) s = .next (putUCmd (setStatus s1 sh stA true) { c with ph := .inA, restore := false })) ∧
      (∀ i w, c.kind ≠ .a → c.ph = .mid → h.sStep = c.step → h.has stA = false → let s1 := chargeSlice s sh i w
        exec (.phaseBStart ⟨n, i, w⟩) s = .next (putUCmd (setStatus s1 sh stB true) { c with ph := .inB, restore := false }))) ∧
    (shardRuns s sh = true → let s1 := meetShard s sh
      (c.ph = .inA → phaseA s1 sh c.step c.lov = (t, none, k, m) →
        exec (.phaseAComplete n) s = .next (endA t sh c k m)) ∧
      (c.ph = .inB → phaseB s1 sh c.step c.lov = (t, none, k, m) →
        exec (.phaseBComplete n) s = .next (endB t sh c k m)) ∧
      (c.kind = .out → isFirst s sh c = true → owes s sh c = false → hdrOk s sh = true → jobHalted s sh.job = false →
        (c.ph = .wait → h.has stA = false → h.has stB = false → h.outJ ≠ c.arg →
            (∀ r, roundOf s1 c = some r → r.rejoin = false) → encodeOut s1 sh c.step = (t, none, k, m) →
          let c1 : UCmd := { c with ph := .dec }
          let t1 := putUCmd (phaseStats t sh c.step k m 8) c1
          exec (.outerEncodeComplete n) s = .next (onDecision (if sh.mirror then t1 else encSignal t1 sh.job c.arg) c1)) ∧
        (c.ph = .merge → undoReady s sh true c.step = true → nonFinite t sh c.step k = false →
            mergeOut (setStatus s1 sh stOut true) sh c.step = (t, none, k, m) →
          exec (.outerMergeComplete n) s = .next (endMerge (phaseStats t sh c.step k m 2) sh c))) ∧
      (∀ ps, let s1 := meetShard (dropUCmd s n) sh
        c.kind = .exp → shardPending s sh = false → (s.dev.linkUp = true ∨ hostVa s sh.ctx c.arg (expLen h) .write = false) →
        expRead s1 sh.ctx c.arg (expPlace 0x1000 (expSegs h)) = (ps, none) →
        writeAll sh.ctx ((expHead h).map (fun p => (c.arg + p.1, p.2)) ++ ps) s1 = (t, none) →
        exec (.updExpComplete n) s = .next
          (engineSig t 5 (bv 32 (vaNat s1 sh.ctx (c.arg + 0x3C) 4)) 1 c.cl c.fil c.ctx c.queue)))

/-- The collective block (R269 to R272, R300): a group made from its image and membership list, destroyed, freed at the
end of its quarantine, read; the last vote word read. -/
def Obligations.GroupCommands : Prop :=
  (∀ (s : State) (w : BitVec 56), cmdReady .collective s = true → bits w 55 26 = 0 →
    let i := bits w 25 14
    let x := getGrp s i
    let g := imgGrp (collImg s)
    (∀ s0 bs, x.st = .free → grpImgBad (collImg s) = false → ctxLive s g.ctx = true →
        loadVa s g.ctx g.listVa (4 * g.size) = (s0, bs, none) → listOk s0 g ((groupsOf 4 bs).map listEntry) = true →
        (g.vote = false ∨ voteGrp s0 (getCtx s0 g.ctx).job = none) →
      let s1 := setGrp s0 i
        { g with gen := x.gen + 1, fprint := crc64 bs, list := ((groupsOf 4 bs).map listEntry).map (·.1) }
      exec (.groupCreate w) s = .next (finish .collective 0
        (setBlk s1 .collective { getBlk s1 .collective with handle := mkHandle i (x.gen + 1) }))) ∧
    (x.gen = bv 14 (bits w 13 0) →
      (x.st = .active → (s.col.votes.any fun v => v.grp == i) = false →
          (s.col.colls.any fun c => c.grp == i && c.gen = x.gen && (c.st = .queued || c.st = .running)) = false →
        exec (.groupDestroy w) s =
          .next (finish .collective 0 (setGrp s i { x with st := .quarantine, qend := quarEnd s }))))) ∧
  (∀ (s : State) (w : BitVec 56), readReady .collective s = true → bits w 55 26 = 0 →
    let x := getGrp s (bits w 25 14)
    x.gen = bv 14 (bits w 13 0) →
    exec (.groupRead w) s = .next (finish .collective 0 (wrBytes s 0x16008 (grpBytes x))) ∧
    (∀ v, s.col.lastWord = some v →
      exec (.voteRead w) s = .next (finish .collective 0 (wrBytes s 0x16008 (wordBytes v))))) ∧
  (∀ (s : State) (i : Nat), (getGrp s i).st = .quarantine → (getGrp s i).qend ≤ ns s →
    exec (.groupQuarantineEnd i) s = .next (setGrp s i { gen := (getGrp s i).gen }))

/-- Borage (R271, R274, R275, R278 to R284): the start of each kind of collective, a partial sum taken and passed on, a
finished unit stored, the mirror delivery and its answer, the completion with its signal. -/
def Obligations.CollectivesAndTheirMessages : Prop :=
  (∀ (s s0 : State) (n w : Nat) (c c1 : Coll), findColl s n = some c → c.st = .queued → borageRuns s c.fil = true →
    let g := collGrp s c
    let s1 := putColl s0 c1
    g.st = .active → g.gen = c.gen → lowerStarted s c = true → runningColls s < 256 →
    startNorm (if c.fil then s else charge s .borage w) { c with st := .running } = (s0, .ok c1) →
    (c.adds = true → exec (.collectiveStart ⟨n, w⟩) s = .next (startSum s1 c1 g)) ∧
    (c.op = 4 → exec (.collectiveStart ⟨n, w⟩) s = .next (startGather s1 c1 g)) ∧
    (c.op = 1 → exec (.collectiveStart ⟨n, w⟩) s = .next (startShift s1 c1 g)) ∧
    (c.op = 1 → c.wrap = false → g.size ≤ g.rank + c.dist →
      exec (.collectiveStart ⟨n, w⟩) s = .next (putColl s1 { c1 with own := true })) ∧
    (c.op = 2 → exec (.collectiveStart ⟨n, w⟩) s = .next (startPermute s1 c1 g))) ∧
  (∀ (s : State) (m : BMsg) (c : Coll), let g := getGrp s m.group
    let x := getCtx s g.ctx
    borageRuns s false = true → transportOn s = true → g.st = .active → g.gen.toNat = m.gen →
    attemptOf s x.job m.step ≤ m.attempt → (m.reply ≠ 0 ∨ m.fprint = g.fprint.extractLsb' 0 32) → m.tenant = x.tenant →
    m.job = x.job → collFor s m = some c →
    (m.reply = 1 → exec (.borageMessage m) s = .next (putColl s { c with mir := true })) ∧
    (∀ s1 xs, m.reply = 0 → m.final = false → c.parts.contains m.unit = false → c.adds = true → m.unit < g.size →
        m.n = c.chunkLen g.size m.unit → m.data.length = 4 * m.n →
        srcEls s c (c.chunkOff g.size m.unit) m.n = (s1, xs, none) →
      let c1 : Coll := { c with parts := m.unit :: c.parts }
      exec (.borageMessage m) s =
        .next (sumOn (putColl s1 c1) c1 m.unit (List.zipWith rnAdd ((groupsOf 4 m.data).map leNat) xs))) ∧
    (∀ key n off origin t, m.reply = 0 → m.final = true → unitPlace c g m = some (key, n, off, origin) →
        c.got.contains key = false → m.n = n → m.data.length = n * fmtBytes c.outF →
        writeVa s none g.ctx (c.dst + off * fmtBytes c.outF) m.data = (t, none) →
      let c1 : Coll := { c with got := key :: c.got }
      let s1 := checkUnit (putColl t c1) c1 m.unit (rankPeer s g origin) m.data m.digest
      exec (.borageMessage m) s =
        .next (if c.op = 4 ∨ c.op = 5 then passUnit s1 c1 m.unit m.n m.data m.digest else s1))) ∧
  (∀ (s t : State) (m : MDel) (sh : Shard), borageRuns s false = true → transportOn s = true →
    attemptOf s m.job m.step ≤ m.attempt → copyFor s m = some sh →
    writeVa s none sh.ctx ((gSeg (hdrOf s sh)).va + m.off) m.data = (t, none) →
    unitDigest m.data m.group m.seq m.unit = m.digest →
    exec (.mirrorDelivery m) s = .next (mirReply (t.setCol { t.col with
      deliv := t.col.deliv ++ [⟨m.job, m.step, m.shard, m.off, m.data.length⟩] }) m 1)) ∧
  (∀ (s : State) (n : Nat) (c : Coll), findColl s n = some c → c.st = .running → live s = true → s.err.ka = false →
    collDone c (collGrp s c) = true →
    let s1 := putColl s { c with st := .complete }
    exec (.collectiveComplete n) s =
      .next (if c.sigEn then engineSig s1 4 c.sync (bv 64 c.sigVal) c.cl c.fil c.ctx c.queue else s1))

/-- The commit vote (R287 to R296): a member whose word is ready opens, a child's word is taken, the root decides at the
deadline or on an absence, an outcome goes down the tree and takes effect, the recovery root is asked. -/
def Obligations.CommitVote : Prop :=
  (∀ (s : State) (job : B32) (i : Nat) (g : Grp), voteGrp s job = some (i, g) → live s = true →
    (let step := stepInProgress s job
      let v := theVote s job i step
      v.opened = false → hasMark s.col.np job step = false → decidedAs s job step = none → s.err.ka = false →
      wordReady s job step = true →
      (jobStopped s job = false → exec (.voteOpen job) s = .next (voteMove s g
        { v with opened := true, own := some (ownWord s job step), deadline := beat s + voteWait s g } false)) ∧
      (jobStopped s job = true → exec (.voteOpen job) s = .next (notPresent s job step))) ∧
    (∀ v, findVote s job = some v → v.opened = true → v.deadline ≤ beat s → v.sent = false →
      (g.rank = 0 → exec (.voteDeadline job) s = .next (rootDecide s g v (combined s v))) ∧
      (g.rank ≠ 0 → exec (.voteDeadline job) s = .next (forwardUp s g v { combined s v with absent := true }))) ∧
    (∀ step src r, g.rank = 0 → rankOf g src = some r → decidedAs s job step = none →
        (∀ n, lastDecided s job = some n → n ≤ step) →
      exec (.absenceNotice job step src) s = .next (voteMove s g { theVote s job i step with notice := true } true)) ∧
    (∀ v b, findVote s job = some v → v.recov = some b → b ≤ beat s → rootAbsent s g = true →
        isRecoveryRoot s g = false → exec (.recoveryRootWait job) s =
      .next (putVote (sendVote (setLastWord s (combined s v)) g job (recoveryRoot s g) (.vword (combined s v)))
        { v with recov := none, sent := true })) ∧
    (∀ v b, let w := combined s v
        findVote s job = some v → v.recov = some b → b ≤ beat s → isRecoveryRoot s g = true →
        exec (.recoveryRootWait job) s = .next (recoveryMove ((presentRanks s g).foldl
          (fun t r => sendVote t g job r (.vword w)) (setLastWord s w)) g { v with recov := none, sent := true }))) ∧
  (∀ (s : State) (src : Peer) (w : VWord) (i : Nat) (g : Grp) (r : Nat), voteGrp s w.job = some (i, g) →
    live s = true → transportOn s = true → rankOf g src = some r →
    (∀ m, heldFor s w = some m → exec (.voteWord src w) s = .next (sendVote s g w.job r (.outc m))) ∧
    (heldFor s w = none → wordTimely s w = true → rootAbsent s g = false →
      let v := theVote s w.job i w.step
      (g.rank ≤ r → exec (.voteWord src w) s =
        .next (voteMove s g { v with kids := v.kids.filter (fun e => e.1 != r) ++ [(r, w)] } (w.notpres || w.absent))) ∧
      (r < g.rank → exec (.voteWord src w) s = .next (sendVote s g w.job r (.vword (combined s v)))))) ∧
  (∀ (s : State) (m : OutMsg) (i : Nat) (g : Grp), voteGrp s m.job = some (i, g) → live s = true →
    decidedAs s m.job m.step = none → m.attempt = attemptOf s m.job m.step → isRecoveryRoot s g = false →
    exec (.voteOutcome m) s = .next (applyOutcome (passDown s g m) m))

/-- Ports (R301 to R303, R307, R320, R438): PCTRL, training to UP or beyond the limit of the mode, lost wavelengths, lost
light and its return, retraining and its end. -/
def Obligations.PortsAndTraining : Prop :=
  ∀ (s : State) (p : Nat), p < 8 →
    let x := getPort s p
    (∀ v, regsOn s = true → modeOf v ≠ 3 →
      (bit v 0 = false → ∃ t, exec (.pctrl p v) s = .next t ∧ (getPort t p).st = 0 ∧ (getPort t p).light = 0 ∧
        (getPort t p).retry = [] ∧ (getPort t p).ctrl = v &&& 0xD ∧ t.mem = s.mem) ∧
      (bit v 0 = true → bit x.ctrl 0 = true → exec (.pctrl p v) s = .next (setPort s p { x with ctrl := v &&& 0xD })) ∧
      (bit v 0 = true → bit x.ctrl 0 = false → hasImage s 4 = true → ∃ t, exec (.pctrl p v) s = .next t ∧
        (getPort t p).st = 1 ∧ (getPort t p).mode = modeOf v ∧ t.mem = s.mem)) ∧
    (∀ rtt, x.st = 1 → hasImage s 4 = true → ∃ t, exec (.portTrained p rtt) s = .next t ∧ (getPort t p).rtt = rtt ∧
      (getPort t p).st = (if rttLimit x.mode < rtt then 0 else lightState x.light) ∧ (getPort t p).retry = [] ∧
      t.mem = s.mem) ∧
    (∀ light, x.st ≠ 0 → x.st ≠ 5 → ∃ t, exec (.wavelengthFail p light) s = .next t ∧
      (getPort t p).light = x.light &&& light ∧ t.mem = s.mem ∧
      (lightState (x.light &&& light) = 0 → (getPort t p).st = 0 ∧ (getPort t p).retry = []) ∧
      (lightState (x.light &&& light) ≠ 0 → (getPort t p).retry = x.retry ∧
        (getPort t p).st = if x.st = 2 ∨ x.st = 3 then lightState (x.light &&& light) else x.st)) ∧
    (x.st ≠ 0 → x.st ≠ 5 → ∃ t, exec (.lossOfLight p) s = .next t ∧ (getPort t p).st = 5 ∧ (getPort t p).light = 0 ∧
      t.mem = s.mem) ∧
    (x.st = 5 → ∃ t, exec (.lightReturn p) s = .next t ∧ (getPort t p).st = 1 ∧ t.mem = s.mem) ∧
    ((x.st = 2 ∨ x.st = 3) → mustRetrain s x = true → ∃ t, exec (.retrain p) s = .next t ∧ (getPort t p).st = 4 ∧
      (getPort t p).retrains = sat32 (x.retrains + 1) ∧ (getPort t p).fails = 0 ∧ (getPort t p).retry = x.retry) ∧
    (x.st = 4 →
      (∃ t, exec (.retrainEnd p true) s = .next t ∧ (getPort t p).st = lightState x.light ∧ (getPort t p).badTrain = 0 ∧
        (getPort t p).again = x.retry ∧ t.mem = s.mem) ∧
      (x.badTrain = 2 → ∃ t, exec (.retrainEnd p false) s = .next t ∧ (getPort t p).st = 0 ∧ (getPort t p).retry = []))

/-- The link layer (R304 to R306, R309, R311, R312, R344): a frame is accepted only when its CRC-32C holds, no codeword it
touches has more bad symbols than the code corrects (15, or 7 with the RS(528,514) of a Husil port, log entry 59) and its
LSEQ is the one expected; a damaged one counts and is answered with a NAK; a NAK has the frames from the one it names on sent again,
in order; a head flit goes on through its route, or its message is discarded and counted, and the flits behind it follow
it. -/
def Obligations.LinkFramesAndRelay : Prop :=
  ∀ (s : State) (p : Nat), p < 8 →
    let x := getPort s p
    (∀ (fr : Frame) (crc : B32) (touch ended : List Nat), (x.st = 2 ∨ x.st = 3) → x.recvAt ≤ 10 * ns s →
      let most := if x.mode = 2 then 7 else 15
      let unc := ended.countP fun n => decide (most < n)
      let next := max x.recvAt (10 * ns s - 9) + x.slotTime
      ((∃ n ∈ touch, most < n) ∨ crc32c (frameBody fr) ≠ crc →
        exec (.linkFrame p ⟨fr, crc, touch, ended⟩) s = .next (setPort s p { x with
        fecUnc := sat32 (x.fecUnc + unc), crcErr := sat32 (x.crcErr + 1), nak := some x.rx, recvAt := next
        fails := if sequenced fr && fr.lseq == x.rx then x.fails + 1 else x.fails })) ∧
      ((∀ n ∈ touch, n ≤ most) → crc32c (frameBody fr) = crc → 1 ≤ fr.kind → fr.kind ≤ 4 →
        (fr.lseq = x.rx → ∃ t, exec (.linkFrame p ⟨fr, crc, touch, ended⟩) s = .next t ∧
          (getPort t p).rx = (x.rx + 1) % 2 ^ 20 ∧ (getPort t p).fails = 0 ∧
          (getPort t p).fecUnc = sat32 (x.fecUnc + unc) ∧ t.mem = s.mem) ∧
        (fr.lseq ≠ x.rx → exec (.linkFrame p ⟨fr, crc, touch, ended⟩) s =
          .next (setPort s p { x with fecUnc := sat32 (x.fecUnc + unc), recvAt := next })))) ∧
    (∀ lseq, (x.st = 2 ∨ x.st = 3) →
      exec (.nak p lseq) s = .next (setPort s p { x with again := framesFrom x.retry lseq })) ∧
    (∀ (dst : Peer) (seq : Nat) (fr : Frame), transportOn s = true → dst ≠ ownPeer s → x.mode ≠ 2 →
      (fr.kind = 4 →
        (∀ q, routePort s 0xFF dst seq = some q →
          exec (.relayFlit p dst seq fr) s = .next (relayOn s q (flitCls fr) fr)) ∧
        (routePort s 0xFF dst seq = none → exec (.relayFlit p dst seq fr) s = .next (noRoute s))) ∧
      (fr.kind = 1 →
        (∀ q, routePort s 0xFF dst seq = some q → exec (.relayFlit p dst seq fr) s =
          .next (setThru (relayOn s q (flitCls fr) fr) p fr.chan (some ⟨fr.chan, some (q, flitCls fr)⟩))) ∧
        (routePort s 0xFF dst seq = none → exec (.relayFlit p dst seq fr) s =
          .next (setThru (noRoute s) p fr.chan (some ⟨fr.chan, none⟩)))) ∧
      ((fr.kind = 2 ∨ fr.kind = 3) → ∀ r, (x.relay.find? fun r => r.chan = fr.chan) = some r →
        let last : Option Thru := if fr.kind = 3 then none else some r
        (∀ q c, r.next = some (q, c) → usable s q = true →
          exec (.relayFlit p dst seq fr) s = .next (setThru (relayOn s q c fr) p fr.chan last)) ∧
        (r.next = none → exec (.relayFlit p dst seq fr) s = .next (setThru s p fr.chan last))))

/-- The transport (R314, R315, R326 to R331): delivery, acknowledgement, retransmission, age, release, resync and the
wait for a session. -/
def Obligations.TransportMessages : Prop :=
  (∀ (s : State) (m : Msg), transportOn s = true → m.dst = ownPeer s → 1 ≤ m.typ → m.typ ≤ 0xC → m.cls ≠ 3 →
    (2 ^ 20 < m.payload.length →
      exec (.transportMessage m) s = .next (s.setFab { s.fab with msgBad := sat32 (s.fab.msgBad + 1) })) ∧
    (m.payload.length ≤ 2 ^ 20 →
      (aged s m = false → m.typ ≠ 1 → connsFull s m = false →
        (m.enc = false →
          exec (.transportMessage m) s = .next (putConn s (takeSeq s (theConn s m.src m.cls false) m))) ∧
        (m.enc = true → m.tagOk = true → epochRes s m.src (nearEpoch s m.epoch) = .ok → exec (.transportMessage m) s =
          .next (putConn (useSess s m.src) (takeSeq s (theConn s m.src m.cls false) m)))) ∧
      (s.time.locked = true → m.tsent + latNs s < ns s →
        exec (.transportMessage m) s = .next (s.setFab { s.fab with expired := sat32 (s.fab.expired + 1) })))) ∧
  (∀ (s : State) (c : Nat) (x : Conn), findConnId s c = some x →
    (x.out = false → x.ackDue = true → x.next ≠ 0 → transportOn s = true → s.time.locked = true →
        mustEnc s { cls := 0, typ := 1, dst := x.peer, src := ownPeer s } = false →
      ∃ t, exec (.ackTimer c) s = .next t ∧ acksTo t x.peer = acksTo s x.peer + 1 ∧ t.mem = s.mem) ∧
    (x.out = true → transportOn s = true →
      let due (o : OutM) : Bool := decide (o.last + resendAfter s o ≤ ns s) && !aged s o.m
      exec (.retransmitTimer c) s = .next ((x.unacked.filter due).foldl (fun t o => transmit t { o with last := ns s })
        (putConn s { x with
          unacked := x.unacked.map fun o => if due o then { o with last := ns s } else o
          rel := if x.unacked.any due then ns s + 2 * latNs s else x.rel }))) ∧
    (∀ o seq, x.out = true → o ∈ x.unacked → o.m.seq = seq → s.time.locked = true → o.m.tsent + latNs s < ns s →
      exec (.messageAgeExpiry c seq) s = .next (loseFrom s x fun v => decide (seq ≤ v.m.seq))) ∧
    (s.time.locked = true → x.rel ≤ ns s → x.unacked = [] → exec (.connectionRelease c) s = .next (dropConn s c))) ∧
  (∀ (s : State) (src : Peer) (cls seq : Nat) (c : Conn), findConn s src cls true = some c → transportOn s = true →
    exec (.ack src cls seq) s = .next (flushWaits (putConn s { c with
      unacked := c.unacked.filter fun o => decide (seq < o.m.seq)
      gap := c.gap && !((c.unacked.filter fun o => decide (o.m.seq ≤ seq)).any fun o => o.m.gap)
      rel := ns s + 2 * latNs s })) ∧
    ∀ epoch, let c1 : Conn := { c with next := max c.next seq }
      exec (.resync src cls epoch seq) s =
        .next (loseFrom (putConn s c1) c1 fun o => o.m.enc && decide (o.m.epoch < epoch))) ∧
  (∀ (s : State) (k : Nat) (w : WaitS), s.fab.waits[k]? = some w → s.time.locked = true → w.since + 64 ≤ beat s →
    mustEnc s w.m = true →
    keyOf s w.m.dst s.fab.epoch true = none → exec (.sessionWaitExpiry k) s =
      .next (lost (s.setFab { s.fab with waits := s.fab.waits.eraseIdx k }) ⟨w.m, w.body, ns s, ns s⟩))

/-- Heartbeats and absence (R318, R319): each watched partner is sent the beat; one whose heartbeats miss four times in a
row is declared absent; a heartbeat brings it back. -/
def Obligations.HeartbeatsAndAbsence : Prop :=
  (∀ s : State, live s = true → transportOn s = true → s.time.locked = true → s.fab.hbSent ≤ beat s →
    exec .heartbeatSend s = .next (s.fab.watch.foldl (fun t w => send t { cls := 0, typ := 2, dst := w.peer }
      (.other 1 [beat s, if s.err.ka then 2 else 1, 3] [])) (s.setFab { s.fab with hbSent := beat s + 1 }))) ∧
  (∀ (s : State) (src : Peer) (b rev : Nat) (w : Watch), (s.fab.watch.find? fun w => w.peer = src) = some w →
    transportOn s = true → ∃ t w1, exec (.heartbeat src b 1 rev) s = .next t ∧
      (t.fab.watch.find? fun w => w.peer = src) = some w1 ∧ w1.absent = false ∧ w1.numRev = rev ∧ w1.ka = false ∧
      b ∈ w1.got ∧ t.mem = s.mem) ∧
  (∀ (s : State) (k : Nat) (w : Watch), s.fab.watch[k]? = some w → live s = true → transportOn s = true →
    s.time.locked = true → w.seen ≤ beat s →
    let upd (miss : Nat) (gone : Bool) : State := s.setFab { s.fab with
      watch := s.fab.watch.set k { w with got := w.got.filter fun b => decide (beat s ≤ b), seen := beat s + 1, miss := miss, absent := w.absent || gone } }
    ((∃ b ∈ w.got, b + 1 = beat s) → exec (.absenceCheck k) s = .next (upd 0 false)) ∧
    ((∀ b ∈ w.got, b + 1 ≠ beat s) →
      ((w.miss < 3 ∨ w.absent = true) → exec (.absenceCheck k) s = .next (upd (w.miss + 1) false)) ∧
      (3 ≤ w.miss → w.absent = false → exec (.absenceCheck k) s = .next (declareAbsent (upd (w.miss + 1) true) w.peer))))

/-- Thyme (R321 to R325, R440, R462): exchanges before and after the lock, the first lock at a member and at a root,
holdover entered and left, drift, the loss of the references. -/
def Obligations.FabricTime : Prop :=
  ∀ s : State, live s = true →
    (∀ p hops t1 t2 t3 t4, p < 8 → inBand s = true → usable s p = true → (getPort s p).mode ≠ 2 →
      let s1 := countExchange (setPort s p { getPort s p with hops := min hops 0xFF }) p
      let o := offset2 t1 t2 t3 t4 (pasym s p)
      upstream s1 = some p → ∃ t, exec (.timeExchange p hops t1 t2 t3 t4) s = .next t ∧ t.time.upPort = p ∧
        t.time.ft = s.time.ft ∧ (s.time.locked = false → t.time.est = (o :: s.time.est).take 16) ∧
        (s.time.locked = true → t.time.slew = -(o / 2))) ∧
    (∀ o es, s.time.locked = false → inBand s = true → s.time.est = o :: es → steady s.time.est = true →
      ∃ t, exec .firstLock s = .next t ∧ t.time.locked = true ∧ t.time.ft = (((ns s : Nat) : Int) - o / 2).toNat % 2 ^ 64 ∧
        t.led.counting = true) ∧
    (isRoot s = true →
      (s.time.locked = false → s.time.ref10 = true → s.time.setW = true → ∃ t, exec .ppsEdge s = .next t ∧
        t.time.locked = true ∧ t.time.ft = (rd64 s 0x17028).toNat ∧ t.time.hops = 0) ∧
      (s.time.locked = true → s.time.ref10 = true → exec .ppsEdge s = .next (s.setTime { s.time with
        slew := -(secError (ns s)), ppsMiss := 0, holdover := false, drift := false })) ∧
      (s.time.holdover = true → exec .holdoverExit s = .next (s.setTime { s.time with ref10 := true })) ∧
      (∃ t, exec .ref10mLockLoss s = .next t ∧ t.time.ref10 = false ∧
        (s.time.locked = true → t.time.holdover = true)) ∧
      (s.time.locked = true → ∃ t, exec .ppsEdgesMissed s = .next t ∧ t.time.ppsMiss = 3 ∧ t.time.holdover = true)) ∧
    (s.time.locked = true → s.time.holdover = false → inBand s = true → upstream s = none →
      ∃ t, exec .holdoverEntry s = .next t ∧ t.time.holdover = true ∧ t.time.ft = s.time.ft) ∧
    (s.time.holdover = true → isRoot s = false → upstream s ≠ none →
      exec .holdoverExit s = .next (s.setTime { s.time with holdover := false, drift := false })) ∧
    (s.time.holdover = true → s.time.drift = false → 2000 < s.time.unc2 →
      ∃ t, exec .timeDrift s = .next t ∧ t.time.drift = true)

/-- Epochs and the latency bound (R316, R329, R330, R402): the lowered bound, the next epoch, its keys formed, old keys
erased and with them the sessions they replaced (R411). The random bit generators (R390, R413): reseeding resets the count of uses; a failed health test stops the half's
cryptography. -/
def Obligations.EpochsAndRandomBits : Prop :=
  ((∀ (s : State) (v b : Nat), s.fab.latPend = some (v, b) → b ≤ beat s →
     exec .fabLatLowerEffect s = .next (s.setFab { s.fab with lat := v, latPend := none })) ∧
   (∀ s : State, live s = true →
     (s.time.locked = true → s.fab.epoch < ns s / 2 ^ s.fab.encLog2 → s.fab.waits = [] →
       ∃ t, exec .epochChange s = .next t ∧ t.fab.epoch = ns s / 2 ^ s.fab.encNext ∧ t.fab.encLog2 = s.fab.encNext ∧
         t.fab.encAll = s.fab.encAllNext ∧ t.sec.sess = s.sec.sess ∧ t.mem = s.mem) ∧
     (s.time.locked = true → vaultOk s = true → epochStart s (s.fab.epoch + 1) ≤ ns s + 2 * beatNs →
       exec .epochKeyForm s = .next ((s.sec.sess.filter (·.serves (nextEpoch s))).foldl
         (fun t x => formKeys t x (nextEpoch s)) s)) ∧
     (let keys := s.sec.keys.filter fun k =>
        !(match k.retire with | some t => decide (t ≤ ns s) | none => false) && decide (s.fab.epoch ≤ k.epoch + 1)
      exec .epochKeyRetire s = .next (s.setSec { s.sec with
        keys := keys
        sess := s.sec.sess.filter fun x => x.stop.all fun f =>
          decide (s.fab.epoch < f) || keys.any fun k => decide (k.peer = x.peer) && decide (k.id = x.id) })))) ∧
  (∀ (s : State) (h : Half), s.sec.rngOk.get h = true →
     (2 ^ 20 ≤ s.sec.drbg.get h → exec (.drbgReseed h) s = .next (s.setSec { s.sec with drbg := s.sec.drbg.set h 0 })) ∧
     (2 ^ 20 ≤ s.sec.mask.get h → ∃ t, exec (.maskReseed h) s = .next t ∧ t.sec.mask.get h = 0 ∧
       t.sec.seed.get h = rand256 s ∧ t.sec.mask.get (otherHalf h) = s.sec.mask.get (otherHalf h) ∧ t.free = s.free + 4 ∧
       t.sec.drbg.get h = (if 2 ^ 20 ≤ s.sec.drbg.get h then 1 else s.sec.drbg.get h + 1) ∧ t.mem = s.mem) ∧
     (s.pwr.on = true → s.boot.sage.get h = false → ∃ t, exec (.healthTestFail h) s = .next t ∧
       t.sec.rngOk.get h = false ∧ t.sec.rngOk.get (otherHalf h) = s.sec.rngOk.get (otherHalf h) ∧ t.mem = s.mem))

/-- Sessions (R407 to R411): each message of an establishment with the checks of R408, a retry, and a replacement. -/
def Obligations.SessionEstablishment : Prop :=
  ∀ (s : State) (p : Peer), sessOn s = true →
    (∀ m t, m.src = p → findAtt s p = none → sessRoom s p = some t → exec (.sInit m) s = .next (answerInit t m)) ∧
    (∀ a, findAtt s p = some a →
      (a.init = true → a.stage = 1 → ∀ eph ct nonce cert,
        let th := thOf a.first (sRespBytes eph ct nonce cert.chain)
        let srk := srkOf (Config.x25519 a.eph eph) (Config.kemDecaps a.kem ct) th
        let first := if hasSess s p then s.fab.epoch + 2 else s.fab.epoch
        exec (.sResp p eph ct nonce cert) s = .next (if respOk s th cert = true then openSess (sendFin s p th cert.sig) p first th srk
          else sessFail s p)) ∧
      (a.init = false → a.stage = 2 → ∀ first head keyId ed ml,
        let ok := finOk s a first (finSig head keyId ed ml) && firstOk s p first
        exec (.sFin p first head keyId ed ml) s = .next (if ok = true then openSess s p first a.th a.srk else sessFail s p)) ∧
      (∀ b t, a.retry = some b → b ≤ beat s → sessRoom s p = some t →
        exec (.sessionRetry p) s = .next (startAtt t p))) ∧
    (∀ x t, (s.sec.sess.find? fun x => x.peer = p && x.stop.isNone) = some x → peerLt (ownPeer s) p = true →
      findAtt s p = none → x.first + bits (rd32 s 0x1C064) 7 0 ≤ s.fab.epoch → sessRoom s p = some t →
      exec (.sessionReplace p) s = .next (startAtt t p))

/-- The site exchange (R332 to R343): the round begins, streams up to the data deadline and their repetition, reports and receipts, the
deadlines, the decision made, applied or missed, state for rejoin rounds and joiners. -/
def Obligations.SiteExchangeRounds : Prop :=
  ∀ s : State, sxOn s = true →
    (∀ n, lastDecided s (sxJob s) = some n → s.sx.h ≠ 0 → n ≠ 0 → n % s.sx.h = 0 → s.sx.cur = none →
        s.sx.round < n / s.sx.h → released s (sxJob s) n = true → s.sx.rejoin = false → s.sx.stale = false →
      exec .outerRoundBegin s = .next (fillJ (s.setSx { s.sx with
        rejoin := false, omom := []
        cur := some ⟨n / s.sx.h, beat s, false, false, [], [], [], [], false, false, [], none, false⟩ }) (n / s.sx.h))) ∧
    (∀ r src site shard first tags blocks scales sh, openRound s r.j = some r → streamShard s src shard = some sh →
        site ≠ ownSite s → (validSites s).contains site = true →
      (r.t0 + s.sx.dataWait < beat s → exec (.sxData src site r.j shard first tags blocks) s = .next s ∧
        exec (.sxScale src site r.j shard first tags scales) s = .next s) ∧
      (beat s ≤ r.t0 + s.sx.dataWait → tags.length = blocks.length → exec (.sxData src site r.j shard first tags blocks) s =
        .next (takeStream s r sh site src ⟨site, shardKey sh, true, first, tags, blocks⟩)) ∧
      (beat s ≤ r.t0 + s.sx.dataWait → tags.length = scales.length → exec (.sxScale src site r.j shard first tags scales) s =
        .next (takeStream s r sh site src ⟨site, shardKey sh, false, first, tags, scales.map fun b => [b]⟩))) ∧
    (∀ r, openRound s r.j = some r →
      (∀ src shard sh, shardBy s (sxJob s) shard false = some sh →
        (src.site = ownSite s → exec (.sxRetransmitReq src r.j shard) s = .next (forwardAgain s r sh src)) ∧
        (src.site ≠ ownSite s → r.enc = true → r.rejoin = false →
          exec (.sxRetransmitReq src r.j shard) s = .next (sendStreams s sh (ownSite s) src r.j))) ∧
      (∀ src partner mask, isCoord s = true → src.site = ownSite s →
        exec (.sxReport src partner r.j mask) s = .next (takeReport s ⟨src, partner, mask⟩)) ∧
      (∀ c, isCoord s = true → c.round = r.j → r.decided = false →
          beat s ≤ r.t0 + s.sx.dataWait + s.sx.decWait → (validSites s).contains c.site = true →
        let r1 := { r with receipts := r.receipts.filter (fun x => x.site != c.site) ++ [c] }
        exec (.sxReceipt c) s = .next (if allIn s r1 = true then applyCame (setRound s r1) r1 else setRound s r1)) ∧
      (∀ d, d.d.round = r.j →
        (isCoord s = false → exec (.sxApply d) s =
          .next (if fromCoord s d.src (ownSite s) = true then applyRound (rejoinNote s d.d) r d.d else s)) ∧
        (isCoord s = true → fromCoord s d.src d.d.proposer = false → exec (.sxApply d) s = .next s) ∧
        (isCoord s = true → fromCoord s d.src d.d.proposer = true → let r1 := { r with came := r.came ++ [d] }
          ((r.decided || allIn s r1) = false → exec (.sxApply d) s = .next (setRound s r1)) ∧
          ((r.decided || allIn s r1) = true → r.came = [] → proposerOf r1 = some d.d.proposer → let t := setRound s r1
            exec (.sxApply d) s = .next (applyRound (passDecision (rejoinNote t d.d) r1 d.d) r1 d.d))))) ∧
    (∀ r, s.sx.cur = some r → r.applied = none →
      (isCoord s = true → r.t0 + s.sx.dataWait ≤ beat s → exec .dataWaitExpiry s = .next (sendReceipt s r)) ∧
      (mayPropose s r = true → (∀ k ∈ validSites s, ∃ x ∈ r.receipts, x.site = k) →
        exec .sxDecision s = .next (propose s r)) ∧
      (isCoord s = true → r.decided = false → r.t0 + s.sx.dataWait + s.sx.decWait ≤ beat s →
        exec .decWaitExpiry s = .next (if mayPropose s r then propose s r
          else applyCame (setRound s { r with decided := true }) { r with decided := true })) ∧
      (isCoord s = true → proposerOf r ≠ some (ownSite s) → r.t0 + s.sx.dataWait + 2 * s.sx.decWait ≤ beat s →
        exec .sxDecisionTimeout s = .next (applyRound (passDecision s r (noDecision s r)) r (noDecision s r)))) ∧
    (∀ r src site shard sh data, s.sx.cur = some r → streamShard s src shard = some sh → r.rejoin = true →
        r.applied = none →
      exec (.sxState src site shard 3 data (crc64 data)) s = .next (keepMomentum s sh site data (crc64 data))) ∧
    (∀ src site shard kind data, s.sx.cur = none → lastDecided s (sxJob s) = none →
        (kind = 0 ∨ kind = 3 ∨ kind = 4 ∨ kind = 8) →
      exec (.sxState src site shard kind data (crc64 data)) s = .next (joinLoad s src shard kind data)) ∧
    (∀ src n, (s.sx.joins.any fun x => x.1 = src) = false → ∃ t, exec (.join ⟨src, n, false⟩) s = .next t ∧
      t.sx.joins = s.sx.joins ++ [(src, if n = 0 then joinRound s else n)] ∧ t.mem = s.mem) ∧
    (∀ src n, s.sx.asked = true → isCoord s = false →
      exec (.join ⟨src, n, true⟩) s = .next (s.setSx { s.sx with joinAt := some n }))

/-- The fabric block (R310, R316, R318, R329, R346): the loads of routes, sites, watched partners and the tenant map, a
route read, and the registers. -/
def Obligations.FabricRegisters : Prop :=
  (∀ (s : State) (w : BitVec 56), cmdReady .fabric s = true → bits w 55 35 = 0 →
    let a := fabArg s
    let first := bits w 34 18
    let n := bits w 17 0
    let room (k : Nat) : Prop := hostBase + a.toNat + k ≤ 2 ^ 48
    (bits a 63 52 = 0 → a.toNat % 64 = 0 → n ≠ 0 → n ≤ 131072 → fabValid s = true → s.dev.linkUp = true →
      (room (2 * n) → first + n ≤ 131072 → exec (.loadRoutes w) s = .next (finish .fabric 0 (s.setFab { s.fab with
        routes := Tab.putMany (fun _ => 0) s.fab.routes first
          ((groupsOf 2 (fabBuf s (2 * n))).map fun b => bv 16 (leNat b)) }))) ∧
      (room 1024 → (∀ e ∈ (groupsOf 16 (fabBuf s 1024)).map parseSite, e ≠ none) →
          (∀ k e, ((groupsOf 16 (fabBuf s 1024)).map parseSite)[k]? = some (some e) → siteHusil s k e = false) →
        exec (.loadSites w) s = .next (finish .fabric 0 (s.setFab { s.fab with
          sites := Tab.putMany (fun _ => {}) [] 0
            (((groupsOf 16 (fabBuf s 1024)).map parseSite).map fun e => e.getD {}) }))) ∧
      (room (4 * n) → first + n ≤ 64 →
          (∀ b ∈ groupsOf 4 (fabBuf s (4 * n)), leNat b / 2 ^ 23 % 2 ^ 8 = 0) →
        exec (.loadWatch w) s = .next (finish .fabric 0 (s.setFab { s.fab with
          watch := sortOn Watch.pos ((s.fab.watch.filter fun x => decide (x.pos < first) || decide (first + n ≤ x.pos)) ++
            (groupsOf 4 (fabBuf s (4 * n))).zipIdx.filterMap fun x => watchEntry s (first + x.2) x.1) }))) ∧
      (room 512 → ∃ t, exec (.loadEnc w) s = .next (finish .fabric 0 t) ∧ t.mem = s.mem ∧ ∀ i < 4096,
        Tab.get (fun _ => false) t.fab.encMap i = ((fabBuf s 512).getD (i / 8) 0).getLsbD (i % 8))) ∧
    (first < 131072 → n ≠ 0 → n ≤ 131072 → exec (.readRoute w) s = .next (finish .fabric 0 (setBlk s .fabric { getBlk s .fabric with
      count := (Tab.get (fun _ => 0) s.fab.routes first).toNat })))) ∧
  (∀ (s : State) (v : B32), regsOn s = true →
    (fabValid s = false → exec (.fabId v) s = .next (refreshRdy (s.setFab { s.fab with id := v &&& 0x807FFFFF }))) ∧
    (bits v 5 0 ≠ 0 →
      (s.fab.lat ≤ bits v 5 0 →
        exec (.fabLat v) s = .next (s.setFab { s.fab with lat := bits v 5 0, latPend := none })) ∧
      (bits v 5 0 < s.fab.lat → exec (.fabLat v) s = .next (s.setFab { s.fab with
        latPend := some (bits v 5 0, (ns s + (2 * s.fab.lat + 1) * beatNs + (beatNs - 1)) / beatNs) }))) ∧
    (30 ≤ bits v 5 0 → bits v 5 0 ≤ 40 →
      exec (.encCtrl v) s = .next (s.setFab { s.fab with encNext := bits v 5 0, encAllNext := bit v 8 })) ∧
    (bits v 27 16 ≠ 0 → bits v 7 0 ≠ 0 → (bit v 31 = true → 16 ≤ s.sx.h ∧ s.sx.h ≤ 4096) →
      exec (.sxCtrl v) s =
        .next (refreshRdy (s.setSx { s.sx with en := bit v 31, dataWait := bits v 27 16, decWait := bits v 7 0 }))) ∧
    (s.sx.en = false → exec (.sxH v) s = .next (s.setSx { s.sx with h := bits v 12 0 })))

/-- The resilience block and pairing (R348 to R350, R365, R366, R387): PAIR, UNPAIR, SUBSTITUTE and PROMOTE, and the two
pairing messages. -/
def Obligations.PairingAndPromotion : Prop :=
  (∀ (s : State) (w : BitVec 56), cmdReady .resilience s = true → bits w 43 17 = 0 → bits (mirArg0 s) 63 49 = 0 →
    bits (mirArg1 s) 63 52 = 0 →
    let id := bits w 55 44
    let a := bits w 16 0
    let c := getCtx s id
    (c.st ≠ .free → c.job = mirJob s → ((pairOf s c.fil).st = .off ∨ (pairOf s c.fil).st = .down) →
        watched s (localPeer s a) = true → husilPeer s (localPeer s a) = false →
      let s0 := s.setMir { s.mir with wasPairs := (s.mir.p, s.mir.f) }
      exec (.pair w) s = .next (sendPair (busy .resilience (setPair s0 c.fil ⟨.pairing, a, 0, c.job, id, true, 0⟩)) c.fil false)) ∧
    (∀ fil, ([false, true].find? fun fil => (pairOf s fil).job = mirJob s && (pairOf s fil).partner == a &&
        pairServes (pairOf s fil)) = some fil → exec (.unpair w) s = .next (finish .resilience 0 (downPair s fil))) ∧
    ((s.col.colls.any fun c => c.job = mirJob s && (c.st = .queued || c.st = .running)) = false →
      exec (.substitute w) s = .next (finish .resilience 0 (substitute s (mirJob s) a (bits (mirArg0 s) 48 32)))) ∧
    (let pa := hostBase + (mirArg1 s).toNat
      let es := promoList s 8192 pa
      let todo := es.map fun e => (bits e 51 0, bit e 63)
      let t := busy .resilience (s.setMir { s.mir with
        promo := some ⟨c.job, a, id, todo, 0, false⟩, promoBlocks := 0
        wasPairs := (s.mir.p, s.mir.f), wasShards := s.upd.shards, was := imagesOf s (todo.filterMap (promoShard s id)) })
      c.st ≠ .free → c.job = mirJob s → (mirArg1 s).toNat % 64 = 0 → pa + 8 ≤ 2 ^ 48 → (pairOf s c.fil).st = .off →
      watched s (localPeer s a) = true → s.dev.linkUp = true → (∀ e ∈ es, bits e 62 52 = 0) →
      (∀ e ∈ todo, promoShard s id e ≠ none) → isAbsent s (localPeer s a) = false →
      exec (.promote w) s = .next (promoNext t))) ∧
  (∀ (s : State) (m : PairMsg) (fil : Bool), live s = true → transportOn s = true → s.err.ka = false →
    mayLead s = true → subFrom s m.job m.src = none → pairFrom s m.job m.src = some fil → (pairOf s fil).st = .pairing →
    exec (.pairReq m) s = .next (pairTest (sendPair s fil true) fil m) ∧
    exec (.pairAck m) s = .next (pairTest s fil m))

/-- The mirror check and the divergence procedure (R351 to R359): lists computed and compared, verdicts given and taken,
and the end of the procedure with the copy that Table 11-4 keeps. -/
def Obligations.MirrorCheckAndDivergence : Prop :=
  (∀ (s : State) (job : B32) (shard : Nat) (mirror : Bool) (sh : Shard) (c : Chk), shardBy s job shard mirror = some sh →
    (s.mir.chks.find? fun c => c.job = job && c.shard == shard && c.mirror == mirror && !c.done && c.mine.isNone) =
      some c → live s = true → s.err.ka = false → pairServes (pairOf s sh.fil) = true → chkDue s sh c = true →
    let p := pairOf s sh.fil
    let s0 := meetShard s sh
    let l := digestList s0 sh c.outer
    (checkErr s0 sh c.outer = none →
      exec (.digestListComputed job shard mirror) s =
        .next (giveVerdict (sendDigests s0 p ⟨ownPeer s0, job, c.step, shard, mirror, l⟩) sh.fil { c with mine := some l })) ∧
    (∀ e, checkErr s0 sh c.outer = some e →
      exec (.digestListComputed job shard mirror) s = .next (poisonVote (logPt s0 sh.ctx e) job e))) ∧
  (∀ (s : State) (job : B32) (src : Peer) (fil : Bool) (c : Chk) (step shard : Nat) (mirror : Bool), live s = true →
    transportOn s = true → s.err.ka = false → pairFrom s job src = some fil → pairServes (pairOf s fil) = true →
    findChk s job step shard (!mirror) = some c →
    (∀ l, c.theirs = none →
      exec (.digest ⟨src, job, step, shard, mirror, l⟩) s = .next (giveVerdict s fil { c with theirs := some l })) ∧
    (∀ agree first count, c.got = none → let c1 : Chk := { c with got := some (agree, first, count) }
      exec (.verdict src job step shard mirror agree first count) s = .next (settleChk (putChk s c1) fil c1))) ∧
  (∀ (s : State) (d : Dvg) (c : Chk) (sh : Shard) (a b : List B64),
    (s.mir.dvg.find? fun d => d.job = sh.job && d.shard == sh.idx && s.mir.chks.any fun c => c.job = sh.job &&
      c.shard == sh.idx && c.mirror == d.mirror && c.step == d.step && c.again.isSome && c.mine.isSome &&
      c.theirs.isSome && c.given.isSome && c.got.isSome) = some d →
    findChk s sh.job d.step sh.idx d.mirror = some c → shardBy s sh.job sh.idx d.mirror = some sh → c.mine = some a →
    c.theirs = some b → live s = true → s.err.ka = false →
    (a = b → a = d.dOwn → exec (.divergenceEnd sh.job sh.idx) s = .next (dvgKept s sh.fil sh d c true)) ∧
    (a = b → a ≠ d.dOwn → a = d.dMir →
      exec (.divergenceEnd sh.job sh.idx) s = .next (dvgKept s sh.fil sh d c false)) ∧
    (a ≠ b → exec (.divergenceEnd sh.job sh.idx) s = .next (mirrorFatal s sh.fil sh.idx)))

/-- Records and copies between partners (R251, R353, R355, R356, R364, R366): each message from the pair partner takes its
effect, one from any other device is counted. -/
def Obligations.MirrorTransfers : Prop :=
  ∀ (s : State) (job : B32) (src : Peer), live s = true → transportOn s = true →
    (∀ fil, s.err.ka = false → pairFrom s job src = some fil →
      (∀ step (x : ShardRef) sh e, shardBy s job x.idx false = some sh →
        let s1 := checkEnt s fil x.outer step
        findEnt s1 fil x.outer step = some e →
        (entGood s1 e sh = true → exec (.undoReq src job step x) s = .next (sendUndo s1 src sh e false)) ∧
        (entGood s1 e sh = false → exec (.undoReq src job step x) s = .next (undoNone s1 src sh step))) ∧
      (∀ step outer, s.upd.owner.contains ⟨job, step, outer, src⟩ = false →
        exec (.undoRecordReport src job step outer) s =
          .next (s.setUpd { s.upd with owner := s.upd.owner ++ [⟨job, step, outer, src⟩] })) ∧
      (∀ b step sh d, b.job = job → b.src = src → shardBy s job b.shard true = some sh → b.last = false →
          (s.mir.dvg.find? fun d => d.job = job && d.shard == b.shard && d.mirror && d.step == step && !d.restored) = some d →
        exec (.undoData b step) s = .next (writeBlocks s sh b.kind b.first b.data)) ∧
      (∀ shard sh, shardBy s job shard true = some sh →
        exec (.fetchReq src job shard true none) s = .next (sendCopy s src sh)) ∧
      (∀ b sh, b.job = job → b.src = src → promoFrom s b = none → b.kind ≠ 2 → awaited s b = some sh → b.last = true → b.hdr = [] →
          b.kind ≠ 5 →
        (b.data ≠ [] → (pairOf s fil).st = .up → copySettled s sh = true →
          exec (.fetchData b) s = .next (writeBlocks s sh b.kind b.first b.data)) ∧
        (b.data = [] → exec (.fetchData b) s = .next (repairElse s sh b.kind)))) ∧
    (∀ b p e es sh, b.job = job → b.src = src → s.err.ka = false → mayLead s = true → s.mir.promo = some p → localPeer s p.src = src →
        p.job = job → p.todo = e :: es → promoShard s p.ctx e = some sh → sh.idx = b.shard →
      exec (.fetchData b) s = .next (promoData s p sh b)) ∧
    (∀ step shard, pairFrom s job src = none →
      exec (.undoReq src job step shard) s =
        .next (s.setCol { s.col with foreign := sat32 (s.col.foreign + 1) }))

/-- Error handling and leadership (R375 to R386, R444): a record's handling ends, the host takes records, the lease is
claimed, renewed, lost, stopped and forced. -/
def Obligations.HandlingAndLeadership : Prop :=
  ∀ (s : State) (h : Half),
    (∀ c l, (s.err.ring.get h).hand = c :: l → s.err.ka = false → s.boot.sage.get h = true →
      (c.sev ≠ 3 ∨ c.scope ≠ 0) → exec (.recordHandlingEnd h) s =
        .next (s.setErr { s.err with ring := s.err.ring.upd h Ring.handled })) ∧
    (∀ v, regsOn s = true → let r := s.err.ring.get h
      (v - r.tail).toNat ≤ (r.head - r.tail).toNat →
      exec (.errTail h v) s = .next (s.setErr { s.err with ring := s.err.ring.set h { r with tail := v } })) ∧
    (latchPath s h = true →
      (leader s = none → s.lead.holder ≠ some h → (s.lead.half.get (otherHalf h)).reach = true →
        ∃ t, exec (.leaseClaim h) s = .next t ∧ t.lead.holder = some h ∧ t.lead.epoch = s.lead.epoch + 1 ∧
          t.lead.expiry = beat s + 16 ∧ leader t = some h ∧ bit t.dev.irqStat 7 = true) ∧
      ((s.lead.half.get h).mine = true → beat s % 4 = 0 → s.lead.forced = false → leader s = some h →
          (s.lead.half.get (otherHalf h)).reach = true →
        exec (.leaseRenew h) s = .next (s.setLead { s.lead with
          expiry := beat s + 16
          half := s.lead.half.upd h fun v => { v with readBeat := beat s, mine := true, expiry := beat s + 16 } }))) ∧
    (leader s = some h → beat s % 4 ≠ 0 → let v := s.lead.half.get (otherHalf h)
      s.boot.sage.get (otherHalf h) = true → v.reach = false → v.expiry ≤ beat s → v.told = false →
      exec (.leaseRenew h) s = .next (raiseAll (s.setLead { s.lead with
        half := s.lead.half.upd (otherHalf h) fun v => { v with told := true } }) h { code := 0x0902, sev := 3, scope := 0 })) ∧
    (s.lead.holder = some h → leader s = none → ∃ t, exec .leaseExpiry s = .next t ∧
      (t.lead.half.get h).mine = false ∧ t.lead.holder = some h ∧ t.mem = s.mem) ∧
    (s.pwr.on = true → s.boot.sage.get h = true → (s.lead.half.get (otherHalf h)).stopped = false →
      ∃ t, exec (.spineUnreachableStop h) s = .next t ∧ (t.lead.half.get h).reach = false ∧
        (t.lead.half.get h).stopped = ((s.lead.half.get h).stopped || decide ((s.lead.half.get h).expiry ≤ halfBeat s h + 1)) ∧
        t.mem = s.mem) ∧
    (∀ v, regsOn s = true → s.err.ka = true → bits v 31 16 = 0x4C46 → bits v 1 0 = halfNo h + 1 →
      ∃ t, exec (.leadForce v) s = .next t ∧ t.lead.holder = some h ∧ t.lead.forced = true ∧
        t.lead.epoch = s.lead.epoch + 1)

/-- The boot chain (R394 to R398, R437, R438): BOOT_LOAD starts the check of an image, a verdict of both halves accepts
or refuses it, training opens the memory; RST_CMD, CXL_RESET, FLR and HOT_RESET start the chain anew or keep it (R441,
R443). -/
def Obligations.BootChain : Prop :=
  ∀ s : State,
    (s.pwr.on = true → s.boot.opened = true → s.boot.done = false → s.boot.fuseSplit = false → s.boot.busy = false →
      exec (.bootLoad 0) s = .next (s.setBoot { s.boot with busy := true })) ∧
    (∀ rw re, s.boot.busy = true → s.dev.linkUp = true →
        (leNat (slice (imageHead s) 4 4) = 15 → svnOk s = true) →
      ∃ t, exec (.imageVerifyComplete rw re) s = .next t ∧ t.boot.busy = false ∧ t.mem = s.mem ∧
        t.boot.result = (if imageResult s rw ≠ 0 then imageResult s rw else imageResult s re) ∧
        bit t.dev.irqStat 3 = true ∧
        (imageResult s rw ≠ 0 ∨ imageResult s re ≠ 0 → t.boot.acc = s.boot.acc ∧ t.boot.next = s.boot.next) ∧
        (imageResult s rw = 0 → imageResult s re = 0 →
          t.boot.acc = s.boot.acc ++ [leNat (slice (imageHead s) 4 4)])) ∧
    (∀ rw re, s.boot.busy = true → s.dev.linkUp = true → imageResult s rw = 0 → imageResult s re = 0 →
        leNat (slice (imageHead s) 4 4) = 15 → svnOk s = false →
      ∃ t, exec (.imageVerifyComplete rw re) s = .next t ∧ t.boot.result = 6 ∧ t.boot.acc = s.boot.acc ∧
        t.fuse.svn = raiseSvn s ∧ t.fuseE.svn = raiseSvn s) ∧
    (hasImage s 3 = true → s.boot.trained = false → ∃ t, exec .memoryTrainingComplete s = .next t ∧
      t.boot.trained = true ∧ t.mem = s.mem) ∧
    (regsOn s = true → exec (.rstCmd 0x52530001) s = .next (deviceReset s 1)) ∧
    (s.pwr.on = true → s.pwr.perst = false → s.boot.opened = true → s.dev.linkUp = true →
      exec .cxlReset s = .next (deviceReset s 2) ∧ (deviceReset s 2).boot.acc = [] ∧
      exec .flr s = .next (flrStart s 3) ∧ exec .hotReset s = .next (flrStart s 4) ∧ (flrStart s 4).boot = s.boot)

/-- The SPDM responder (R403 to R406, R434): each request in its order, once IDCERT is accepted, what its answer holds and
what its signature covers, the session's secrets formed and erased, and the path that an answer takes. -/
def Obligations.SpdmResponder : Prop :=
  ∀ s : State, responds s = true →
    let x := s.sec.spdm
    let sign (t : State) (b : List Byte) : List Byte := dualSign (aliasKey t) 3 (rand256 t) b
    let digest := leBytes 64 (Config.sha512 (certChain s)).toNat
    exec .getVersion s = .next (doe (setSpdm s { x with
      ver := true, caps := false, alg := false, kex := false, vca := [0x84, 4, 2, 0x12, 0x13], certs := [], meas := [] })
      [0x04, 2, 0x12, 0x13]) ∧
    (hasImage s 6 = true → vaultOk s = true →
      (∀ v, x.ver = true → (v = 0x12 ∨ v = 0x13) → exec (.getCapabilities v) s =
        .next (doe (setSpdm s { x with caps := true, vca := x.vca ++ [0xE1, v, 0x61, v] }) [0x61, v])) ∧
      (x.caps = true → exec (.negotiateAlgorithms ⟨true, true, true⟩ true) s = .next (doe (setSpdm s
        { x with alg := true, kex := true, vca := x.vca ++ [0xE3, 1, 1, 0x63, 1, 1] }) [0x63, 1, 1])) ∧
      (x.alg = true →
        exec .getDigests s = .next (doe (setSpdm s { x with certs := x.certs ++ 0x81 :: ([0x01, 1] ++ digest) }) ([0x01, 1] ++ digest)) ∧
        (∀ off len, ∃ t, exec (.getCertificate 0 off len) s = .next t ∧
          t.dev = (doe s ([0x02, 0] ++ slice (certChain s) off len)).dev ∧ t.mem = s.mem) ∧
        (∀ n : BitVec 256, let r := [0x03, 0] ++ digest ++ leBytes 32 (rand256 s).toNat
          exec (.challenge 0 n) s = .next (doe (setSpdm (hedged (hedged s)) { x with certs := [] })
            (r ++ sign (hedged s) (x.vca ++ x.certs ++ [0x83, 0] ++ leBytes 32 n.toNat ++ r)))) ∧
        (∀ (i : Byte) (n : BitVec 256), 1 ≤ i.toNat → (i.toNat ≤ 11 ∨ i.toNat = 0xFF) →
          let m := [0x60, 0] ++ measures s i.toNat
          let r := m ++ leBytes 32 (rand256 s).toNat
          exec (.getMeasurements i false n) s =
            .next (doe (setSpdm s { x with meas := x.meas ++ ([0xE0, 0, i] ++ []) ++ m }) m) ∧
          exec (.getMeasurements i true n) s = .next (doe (setSpdm (hedged (hedged s)) { x with meas := [] })
            (r ++ sign (hedged s) (x.vca ++ x.meas ++ ([0xE0, 1, i] ++ leBytes 32 n.toNat) ++ r)))) ∧
        (∀ k, x.kex = true → ∃ t, exec (.keyExchange k) s = .next t ∧ t.mem = s.mem ∧
          (∀ ss, Config.p384Shared (rand384 s) k.share = some ss → t.sec.spdm.sess = true ∧ t.sec.spdm.secured = false ∧
            t.sec.spdm.secret = Config.spdmSecret ss t.sec.spdm.th) ∧
          (Config.p384Shared (rand384 s) k.share = none → t = spdmErr s 1))) ∧
      (x.sess = true → x.secured = false →
        exec (.finish (finishMac x)) s = .next (doe (setSpdm s { x with
          secured := true, keys := Config.spdmKeys x.secret (x.th ++ [0xE5] ++ leBytes 64 (finishMac x).toNat) }) [0x65])) ∧
      (x.secured = true →
        exec .endSession s = .next (doe (setSpdm s { x with sess := false, secured := false, th := [], secret := 0, keys := 0 }) [0x6C]) ∧
        exec .spdmHeartbeat s = .next (doe s [0x68]) ∧
        exec .keyUpdate s = .next (doe (setSpdm s { x with keyGen := x.keyGen + 1, keys := Config.spdmUpdate x.keys }) [0x69]) ∧
        (s.dev.linkUp = true → exec .ideKeyProgram s = .next (s.setDev { s.dev with ide := true })))) ∧
    (∀ bs, let t := doe s bs
      (x.mctp = false → t.dev.doeAns = bs ∧ t.dev.mctpAns = s.dev.mctpAns) ∧
      (x.mctp = true → t.dev.mctpAns = bs ∧ t.dev.doeAns = s.dev.doeAns ∧ t.sec.spdm.mctp = false))

/-- Host key slots and the host's requests (R414 to R416): a key is loaded while IDE is active, erased at once or after
the requests that name it, requests start in order and end with their result in the ring entry. -/
def Obligations.HostKeysAndCipherRequests : Prop :=
  (∀ (s : State) (w : BitVec 24), cmdReady .hkey s = true → bits w 23 7 = 0 →
    let k := bits w 6 0
    let key : BitVec 256 := bv 256 (leNat (imgOf s .hkey))
    let held : HKey := ⟨key, Config.aes key 0⟩
    (s.dev.ide = true → slotErasing s k = false → slotNamed s k = false →
      exec (.hkeyLoad w) s = .next (finish .hkey 0 (setHost s k (some held)))) ∧
    (slotErasing s k = false → slotNamed s k = false →
      exec (.hkeyErase w) s = .next (finish .hkey 0 (setHost s k none))) ∧
    (slotErasing s k = false → slotNamed s k = true →
      exec (.hkeyErase w) s =
        .next (finish .hkey 0 (s.setSec { s.sec with erase := s.sec.erase ++ [eraseOf k s.sec.cqWr.toNat] })))) ∧
  (∀ (s : State) (k e : Nat), (s.sec.erase.find? fun x => eraseSlot x == k) = some e →
    (s.sec.reqs.any fun i => before i (eraseBound e) && (creqOf s i).slot == k) = false →
    ∃ t, exec (.slotErase k) s = .next t ∧ Tab.get (fun _ => none) t.sec.host k = none ∧ slotErasing t k = false ∧
      t.mem = s.mem) ∧
  (∀ (s : State) (v : B32), regsOn s = true → s.err.ka = false → rdyBit s 29 = true → cqBase s ≠ 0 → 4 ≤ cqLog2 s →
    cqLog2 s ≤ 16 → (v - s.sec.cqWr).toNat + s.sec.reqs.length ≤ 2 ^ cqLog2 s →
    exec (.cqrWr v) s = .next (s.setSec { s.sec with
      cqWr := v
      reqs := s.sec.reqs ++ (List.range (v - s.sec.cqWr).toNat).map fun i => (s.sec.cqWr + bv 32 i).toNat })) ∧
  (∀ (s : State) (i : Nat), s.sec.reqs.contains i = true → s.dev.linkUp = true → cqBase s ≠ 0 →
    let r := creqOf s i
    s.sec.rngOk.get (halfOf (r.slot / 64)) = true →
    let h := halfOf (r.slot / 64)
    let s1 := creqMeet (useMask s h (r.aadLen + r.len)) r
    let aad := readMem s1 r.aad r.aadLen
    let text := readMem s1 r.src r.len
    (creqBad r = true → exec (.cipherRequestComplete i) s = .next (putStatus s i false false 2)) ∧
    (creqBad r = false → slotKeyFor s i r.slot = none →
      exec (.cipherRequestComplete i) s = .next (putStatus s i false false 1)) ∧
    (∀ key gh, creqBad r = false → slotKeyFor s i r.slot = some ⟨key, gh⟩ →
      (cleanBytes s1 r.aad r.aadLen < r.aadLen ∨ cleanBytes s1 r.src r.len < r.len ∨ openBytes s1 r.dst r.len < r.len →
        exec (.cipherRequestComplete i) s = .next (creqPoison s1 i r key aad)) ∧
      (¬ cleanBytes s1 r.aad r.aadLen < r.aadLen → ¬ cleanBytes s1 r.src r.len < r.len → ¬ openBytes s1 r.dst r.len < r.len →
      (r.op = 1 → exec (.cipherRequestComplete i) s = .next (putStatus
        (writeMem (writeMem s1 r.dst (Config.gcmEncrypt key r.iv aad text).1) (cqAt s1 i + 0x40)
          (leBytes 16 (Config.gcmEncrypt key r.iv aad text).2.toNat)) i false false 0)) ∧
      (r.op = 2 →
        let out := Config.gcmDecrypt key r.iv aad text
        let s2 := writeMem s1 r.dst out.1
        exec (.cipherRequestComplete i) s = .next (if out.2 = r.tag then putStatus s2 i true false 0
          else putStatus (logRec s2 h { code := 0x0B03, addr := bv 64 r.dst }) i false true 0)))))

/-- Chive (R418, R419, Table 12-12): RUN starts a unit, its completion gives the check value, writes it or compares it
and follows the alive counter; RESET_ALIVE sets LAST. -/
def Obligations.ChiveUnits : Prop :=
  ∀ (s : State) (u : Nat) (w : BitVec 24), u < 32 →
    let x := getChv s u
    (regsOn s = true → x.busy = false → mayLead s = true →
      let y : ChvU := { x with done := false, mismatch := false, rept := false, skip := false, gap := 0, res := 0 }
      exec (.run u w) s = .next (if chvBad s u then setChv s u { y with done := true, busy := false, res := 3 }
        else setChv s u { y with busy := true })) ∧
    (regsOn s = true → x.busy = true →
      exec (.run u w) s = .next (setChv s u { x with res := 5 }) ∧
      exec (.resetAlive u w) s = .next (setChv s u { x with res := 5 })) ∧
    (regsOn s = true → x.busy = false →
      exec (.resetAlive u w) s = .next (setChv s u { x with last := w.extractLsb' 0 8, first := true })) ∧
    (x.busy = true → (s.held.any fun c => match c with | .run v _ => v == u | _ => false) = false →
      (inHost (chvSrc s u) = true → s.dev.linkUp = true) → chvReach (chvSrc s u) (chvSpan s u) = true →
      let ends (t : State) (y : ChvU) : Host.Outcome State Fault Refusal :=
        .next (setChv t u { y with busy := false, done := true, res := 0 })
      let t := meetRange s (chvSrc s u) (chvLen s u)
      let pay := readMem t (chvSrc s u) (chvLen s u)
      (chvMode s u = 0 → poisoned t (chvSrc s u) (chvLen s u) = false →
        exec (.chiveRunComplete u) s = ends t { x with result := bv 64 (chvCrc t u pay) }) ∧
      (chvMode s u = 1 → poisoned t (chvSrc s u) (chvLen s u) = false → chvAlive t u = true →
        let v := chvCrc t u (pay ++ [x.last + 1])
        exec (.chiveRunComplete u) s = ends (writeMem t (chvSrc t u + chvLen t u) ((x.last + 1) :: leBytes (chvCheck t u) v))
          { x with last := x.last + 1, first := false, result := bv 64 v }) ∧
      (let t := meetRange s (chvSrc s u) (chvSpan s u)
      chvMode s u = 2 → poisoned t (chvSrc s u) (chvSpan s u) = false → chvAlive t u = false →
        let all := readMem t (chvSrc s u) (chvSpan s u)
        let v := chvCrc t u (all.take (chvLen t u))
        exec (.chiveRunComplete u) s = ends t { x with
          result := bv 64 v
          mismatch := x.mismatch || decide (leNat (slice all (chvLen t u) (chvCheck t u)) ≠ v) }))

/-- RST_CMD, CXL_RESET, FLR, HOT_RESET, RESET_INPUT_ASSERT, RESET_INPUT_RELEASE, RESET_RELEASE_HOLD_END (R11, R441 to
R443, R450): the state that each leaves, and what a device reset and a function-level or hot reset keep and lose.
CXL_LINK_TRAIN, CXL_LINK_LOSS, CXL_LINK_RETURN, IDE_FAIL, CXL_CACHE_TIMEOUT (R424, R425, R433): the link comes up, is lost
with the device running on, returns with its configuration as after a hot reset; a request that has passed HOST_TO ends
the command or the transfer that sent it, and a snapshot's write is tried again. -/
def Obligations.ResetsAndCxlLink : Prop :=
  (∀ s : State,
     (∀ v, regsOn s = true → bits v 31 16 = 0x5253 → bits v 3 0 = 1 →
       exec (.rstCmd v) s = .next (deviceReset s 1)) ∧
     (started s = true → s.dev.linkUp = true →
       exec .cxlReset s = .next (deviceReset s 2) ∧
       (s.dma.xfers = [] → s.led.snaps = [] → s.dev.flrWait = none →
         exec .flr s = .next (flr s 3) ∧ exec .hotReset s = .next (flr s 4)) ∧
       (∀ x l, snapIssued s = true → s.led.snaps = x :: l → ∃ t u, exec .flr s = .next t ∧ exec .hotReset s = .next u ∧
         t.que = s.que ∧ t.led = s.led ∧ (t.dev.flrWait.map (·.kind)) = some 3 ∧ (u.dev.flrWait.map (·.kind)) = some 4)) ∧
     (∀ kind, let t := flr s kind
       t.led.base = 0 ∧ cqBase t = 0 ∧ t.dev.irqEn = 0 ∧ t.dev.bar2Sel = 0 ∧ t.mem = s.mem ∧ t.syn = s.syn ∧ t.slot = s.slot ∧
         t.dev.rstStat = bv 32 (kind * 2 ^ 28 + kaBefore s)) ∧
     (∀ src, let t := deviceReset s src
       t.mem = hostMem s.mem ∧ t.fuse = s.fuse ∧ t.que = State.reset.que ∧ t.ctx = [] ∧ t.boot.opened = true ∧ t.boot.acc = [] ∧
         t.boot.kept = s.boot.trained ∧ t.dev.rstCount = sat32 (s.dev.rstCount + 1) ∧ t.dev.linkUp = false ∧
         t.fuseE = s.fuseE ∧ t.dev.rstPrev = s.err.lastFatal.or s.dev.rstPrev ∧
         t.dev.rstStat = rstWord 2 src s ∧ t.pending = s.pending) ∧
     (s.pwr.on = true → s.pwr.pwrgd = true →
       (s.pwr.perst = false → exec .resetInputAssert s = .next (fundamental s)) ∧
       (s.pwr.perst = true → s.pwr.holdOver = true →
         exec .resetInputRelease s = .next (bringUp (s.setPwr { s.pwr with perst := false }))) ∧
       (s.pwr.perst = true → s.pwr.holdOver = false →
         exec .resetInputRelease s = .next (s.setPwr { s.pwr with perst := false, relPend := true })) ∧
       (s.pwr.perst = false → s.pwr.holdOver = false →
         exec .resetReleaseHoldEnd s = .next (bringUp (s.setPwr { s.pwr with holdOver := true, relPend := false }))) ∧
       (s.pwr.perst = true → s.pwr.holdOver = false →
         exec .resetReleaseHoldEnd s = .next (s.setPwr { s.pwr with holdOver := true, relPend := false })))) ∧
  (∀ s : State,
     (∀ rate width, s.pwr.on = true → s.pwr.perst = false → s.dev.linkUp = false → linkFits rate width = true →
       (s.dev.rate = 0 → exec (.cxlLinkTrain rate width) s = .next (linkUpAt s rate width)) ∧
       (s.dev.rate ≠ 0 →
         let s1 := resetConfig s
         let t := linkUpAt (s1.setDev { s1.dev with ide := false }) rate width
         exec (.cxlLinkReturn rate width) s = .next t ∧ t.dev.linkUp = true ∧ t.dev.rate = rate ∧
         t.dev.width = width ∧ t.dev.irqEn = 0 ∧ t.dev.bar2Sel = 0 ∧ t.dev.ide = false ∧ t.mem = s.mem ∧ t.que = s.que)) ∧
     (s.dev.linkUp = true → exec .cxlLinkLoss s = .next (logSpine (s.setDev
       { s.dev with linkUp := false, ide := false, rstStat := rstWord 5 0 s }) { code := 0x0C02 })) ∧
     (s.dev.ide = true → exec .ideFail s = .next (logSpine (s.setDev { s.dev with ide := false })
       { code := 0x0C04, sev := 2, scope := 0 })) ∧
     (∀ pa, live s = true →
       let t := hostTimeout s pa
       (t.dev.hostToCnt = sat32 (s.dev.hostToCnt + 1) ∧ t.mem = s.mem ∧ t.link = s.link ∧ t.dma = s.dma) ∧
       (∀ n b, blkOf n = some b → (s.link.any fun x => hostHeld b x.c && pastHostTo s x.since) = true →
         exec (.cxlCacheTimeout pa (some n) none) s =
           .next (finish b 3 (t.setLink (s.link.filter fun x => !hostHeld b x.c)))) ∧
       (∀ n v, (s.dma.xfers.find? fun v => v.n == n) = some v → pastHostTo s v.since = true → let d := parseDma v.desc
         exec (.cxlCacheTimeout pa none (some n)) s = .next (flrSettle (engineFault
           (t.setDma { t.dma with xfers := t.dma.xfers.filter fun y => y.n != v.n }) v.cl v.fil v.ctx 5
           (if d.dstMem then d.dst else d.src) v.pc))) ∧
       (∀ n c, findUCmd s n = some c → c.kind = .exp → c.since.any (pastHostTo s) = true → hostVa s c.ctx c.arg 4096 .write = true →
         exec (.cxlCacheTimeout pa (some 4) (some n)) s = .next (updEngine (dropUCmd t n) c c.arg)) ∧
       (∀ x rest, s.led.snaps = x :: rest → pastHostTo s x.since = true →
         exec (.cxlCacheTimeout pa none none) s = .next (flrSettle (flrSnapGone
           ((t.setDev { t.dev with hostRetry := true }).setLed { t.led with
             extending := true, ext := true, snaps := { x with since := ns s } :: rest }))))))

/-- Host accesses of HBM, interrupts and plain registers (R426, R428 to R430, R432); lines reached by CXL.mem are noted as the
host's to hold. -/
def Obligations.HostAccesses : Prop :=
  ∀ s : State,
    (∀ a : HostAcc, a.wr = true → framesOn s = true →
      (a.off + a.len ≤ hdmSize → a.off + a.data.length ≤ hdmSize →
        exec (.hdmAccess a) s = .next (hostHolds (hostWrite s a.off a.data) a.off a.data.length)) ∧
      (a.off + a.len ≤ 2 ^ 36 → a.off + a.data.length ≤ 2 ^ 36 →
        exec (.bar2Access a) s = .next (hostWrite s (s.dev.bar2Sel * 2 ^ 30 + a.off) a.data))) ∧
    (∀ a : HostAcc, a.wr = false → framesOn s = true →
      (a.off + a.len ≤ hdmSize → a.off + a.data.length ≤ hdmSize →
        exec (.hdmAccess a) s = .next (hostHolds (hostRead s a.off a.len) a.off a.len)) ∧
      (a.off + a.len ≤ 2 ^ 36 → a.off + a.data.length ≤ 2 ^ 36 →
        exec (.bar2Access a) s = .next (hostRead s (s.dev.bar2Sel * 2 ^ 30 + a.off) a.len))) ∧
    (regsOn s = true →
      (∀ v : B32, bits v 10 0 ≤ 1424 → exec (.bar2Sel v) s = .next (s.setDev { s.dev with bar2Sel := bits v 10 0 })) ∧
      (∀ v, exec (.irqStat v) s = .next (s.setDev { s.dev with irqStat := s.dev.irqStat &&& ~~~(v.extractLsb' 0 16) })) ∧
      (∀ v : B32, ((List.range 16).all fun n => !(bit v n && bit s.dev.irqStat n)) = true →
        exec (.irqEn v) s = .next (s.setDev { s.dev with irqEn := v.extractLsb' 0 16 })) ∧
      (∀ v : B32, ∀ n < 16, bit v n = true → bit s.dev.irqEn n = false → bit s.dev.irqStat n = true →
        vecMasked s n = false → s.dev.linkUp = true → ∃ t, exec (.irqEn v) s = .next t ∧ t.dev.irqEn = v.extractLsb' 0 16 ∧
          Tab.get (fun _ => 0) t.dev.msi n = Tab.get (fun _ => 0) s.dev.msi n + 1) ∧
      (∀ o v x, o % 4 = 0 → o < 0x30000 → wideLow o = false → wideLow (o - 4) = false →
        plain32 o v = some x → (o ≠ 0x14064 →
        exec (.plainRegisterWrite o 4 (v.setWidth 64)) s = .next (refreshRdy (wr32 s o x))) ∧
        (o = 0x14064 → bit v 8 = false → ∃ t, exec (.plainRegisterWrite o 4 (v.setWidth 64)) s = .next t ∧
          rd32 t o = x ∧ ∀ n, (getClu t n).lending = false)) ∧
      (∀ o b ka n (v : B64), cmdReg o = some (b, ka, n) → o ≠ 0x1C070 → (registerCommand o v).isNone = true →
        (getBlk s b).busy = true →
        ∃ t, exec (.plainRegisterWrite o 8 v) s = .next t ∧ (getBlk t b).busy = true ∧ (getBlk t b).result = 5 ∧
          t.mem = s.mem) ∧
      (∀ o (v : B64), o % 8 = 0 → wideLow o = true → (o = 0x17028 → timeSettable s = true) →
        ∃ t, exec (.plainRegisterWrite o 8 v) s = .next t ∧ rd64 t o = v &&& wideMask o ∧ t.mem = s.mem))

/-- The MCTP endpoint (R434, R435, R464): each request is answered from power-on's BOOTMB on; RESET_REQ and LEAD_FORCE
take their effect. -/
def Obligations.ManagementSideband : Prop :=
  ∀ s : State, responds s = true →
    exec .getStatus s = .next (mctp s ([0] ++ leBytes 4 (devState s) ++ leBytes 8 s.dev.rdy.toNat ++
      leBytes 4 s.dev.rstStat.toNat ++ leBytes 4 (kaStat s) ++ leBytes 8 (leadHigh s * 2 ^ 32 + s.lead.epoch.toNat) ++
      leBytes 8 s.lead.expiry)) ∧
    exec .getIdent s = .next (mctp s ([0] ++ leBytes 8 s.fuse.serial.toNat ++ leBytes 4 (capWord s 8) ++
      leBytes 4 s.fuse.grade ++ leBytes 4 (capWord s 0xC) ++ leBytes 4 (bootStat s))) ∧
    (∀ h slot, hasImage s 1 = true → slot < 64 →
      exec (.getRecord h slot) s = .next (mctp s ([0] ++ ringImage s h slot ++ leBytes 4 (s.err.ring.get h).head.toNat ++
        leBytes 4 (s.err.ring.get h).tail.toNat ++ leBytes 4 (s.err.ring.get h).ovf))) ∧
    exec (.resetReq 0x5253) s = .next (mctp (deviceReset s 3) [0]) ∧
    (∀ k, k ≠ 0x5253 → exec (.resetReq k) s = .next (mctp s [5])) ∧
    (∀ v t, leadForce v s = some t → exec (.mctpLeadForce v) s = .next (mctp t [0])) ∧
    (∀ c, ∃ t, exec (.mctpControl (.control c)) s = .next t ∧ t.dev.mctpAns.head? = some c ∧ t.mem = s.mem) ∧
    (∀ a, exec (.mctpControl (.address a)) s = .next (s.setDev { s.dev with mctpAddr := a })) ∧
    exec (.mctpControl .spdm) s = .next (s.setSec { s.sec with spdm := { s.sec.spdm with mctp := true } }) ∧
    (∀ n l, sensor s n = some l → exec (.pldmRequest n) s = .next (mctp s ([0] ++ l.flatMap (leBytes 2))))

/-- POWER_STAGE_START, PWRGD_ASSERT, OVERVOLTAGE, UNDERVOLTAGE, OVERCURRENT, THERMAL_TRIP, OVERVOLTAGE_RESTART,
INPUT_LOW_ENTRY (R447 to R450, R459): where the power stage starts, stops and starts again, and the state that each leaves;
stopping it loses every state but fuses and the host's memory. -/
def Obligations.InputStage : Prop :=
  ∀ s : State,
    (s.pwr.on = false → s.pwr.thermTrip = false → s.pwr.ovStop = false → ∃ v, 4800 < v ∧ v ≤ 6200 ∧
      exec .powerStageStart s =
        .next ((drawn s).setPwr { s.pwr with on := true, vin := v, hsOpen := false, vinLow := decide (v < 5000) })) ∧
    (s.pwr.on = true → s.pwr.pwrgd = false →
      (5 ≤ s.pwr.rails → exec .pwrgdAssert s = .next (s.setPwr { s.pwr with pwrgd := true, holdOver := false })) ∧
      (s.pwr.rails < 5 → exec .pwrgdAssert s = .next s ∧ (railTick s).pwr.rails = s.pwr.rails + 1)) ∧
    (∀ v, s.pwr.on = true →
      let off := powerOff s
      (6200 < v → exec (.overvoltage v) s = .next (off.setPwr { off.pwr with vin := v, ovStop := true })) ∧
      (v < 4500 →
        exec (.undervoltage (.input v)) s =
          .next (off.setPwr { off.pwr with vin := v, ovStop := false, thermTrip := false })) ∧
      (1 ≤ v → v ≤ s.pwr.rails → exec (.undervoltage (.rail v)) s = .next (off.setPwr { off.pwr with rails := v - 1 })) ∧
      (13000 < v → exec (.overcurrent v) s = .next (off.setPwr { off.pwr with hsOpen := true }) ∧ off.pwr.iin = 0) ∧
      (∀ n lim, tripTemp n = some lim →
        (lim ≤ v → exec (.thermalTrip ⟨n, v⟩) s = .next (off.setPwr { off.pwr with thermTrip := true })) ∧
        (v < lim → exec (.thermalTrip ⟨n, v⟩) s = .next s)) ∧
      off.pwr.on = false ∧ off.pwr.pwrgd = false ∧ off.mem = hostMem s.mem ∧ off.fuse = s.fuse ∧ off.boot.acc = [] ∧
      off.dev.rstCount = 0) ∧
    (∀ v, s.pwr.on = false →
      (6200 < v → exec (.overvoltage v) s = .next (s.setPwr { s.pwr with vin := v, ovStop := true })) ∧
      (v < 4500 → exec (.undervoltage (.input v)) s =
        .next (s.setPwr { s.pwr with vin := v, ovStop := false, thermTrip := false }))) ∧
    (s.pwr.on = false → 0 < s.pwr.rails → (railTick s).pwr.rails = s.pwr.rails - 1) ∧
    (∀ v, s.pwr.ovStop = true → 4500 ≤ v → v < 6100 → exec (.overvoltageRestart v) s = .next (s.setPwr { s.pwr with
      vin := v, ovStop := false, on := !s.pwr.thermTrip && !s.pwr.hsOpen, vinLow := decide (v < 5000) })) ∧
    (∀ v, s.pwr.on = true → 4500 ≤ v → v ≤ 6200 →
      let t := s.setPwr { s.pwr with vin := v, vinLow := decide (v < 5000) }
      (5000 ≤ v ∨ s.pwr.vinLow = true → exec (.inputLowEntry v) s = .next t) ∧
      (v < 5000 → s.pwr.vinLow = false →
        exec (.inputLowEntry v) s = .next (logSpine t { code := 0x0A03, data0 := bv 64 v })))

/-- The power manager, throttling and the thermal limits (R452 to R458, R465), and the lending of the allowance of clusters
that wait: LEND_START, LEND_GRANT, LEND_WAKE, LEND_REVOKE (R238, R239). -/
def Obligations.PowerManager : Prop :=
  ∀ s : State,
    (∀ v : B32, regsOn s = true → 2000 ≤ bits v 12 0 → bits v 12 0 ≤ 5200 →
      exec (.pwrLimit v) s = .next (wr32 s 0x1D000 (v &&& 0x1FFF))) ∧
    (∀ avg other, s.pwr.on = true → s.time.run = true → beat s < s.pwr.budNext →
      exec (.budgetPeriod avg other) s = .next s) ∧
    (∀ avg other, s.pwr.on = true → s.time.run = true → s.pwr.budNext ≤ beat s →
      ∃ t, exec (.budgetPeriod avg other) s = .next t ∧ t.pwr.budNext = beat s + 1 ∧
      t.pwr.tb = budgetFor s ((avg :: s.pwr.avgs).take 15) ∧
      (s.err.ka = false → t.pwr.tb =
        if s.time.locked then budgetT (pwrL s) s.pwr.vin ((avg :: s.pwr.avgs).take 15) else pwrL s) ∧
      (s.err.ka = true → s.err.kaCode = 0x0A06 → t.pwr.tb ≤ 1500) ∧ t.pwr.lent.w = lentOf t .west ∧
      t.pwr.avgs = (avg :: s.pwr.avgs).take 15 ∧ t.pwr.started = true ∧ t.pwr.k = s.pwr.k ∧
      t.pwr.overBeats = (if s.pwr.lim < avg then sat32 (s.pwr.overBeats + 1) else s.pwr.overBeats) ∧
      t = s.setPwr t.pwr) ∧
    (live s = true → s.pwr.fast = false →
      (∀ pw pe fw fe, s.pwr.thrNext ≤ ns s →
        let s1 := s.setPwr { s.pwr with thrNext := (ns s / 1000 + 1) * 1000 }
        exec (.throttleTick pw pe fw fe) s = .next (throttle (throttle s1 .west pw fw) .east pe fe)) ∧
      (∀ avg, 5800 < avg →
        let s1 := s.setPwr { s.pwr with
          fast := true, fastCnt := sat32 (s.pwr.fastCnt + 1), held := ⟨true, true⟩, fastEnd := ns s + 100000 }
        let s2 := logSpine (settleLent (settleLent s1 .west fun _ => false) .east fun _ => false) { code := 0x0A02 }
        let t := setRate (setRate s2 .west 8) .east 8
        exec (.fastLoopTrip avg) s = .next t ∧ t.pwr.fast = true ∧ t.pwr.k = ⟨8, 8⟩ ∧
        t.pwr.held = ⟨true, true⟩ ∧ t.pwr.fastCnt = sat32 (s.pwr.fastCnt + 1) ∧ t.mem = s.mem)) ∧
    (∀ h proj fill, (throttle s h proj fill).pwr.k.get h =
      (let want := min (fitRate proj (pool s h)) (rateCap s h)
       if s.pwr.k.get h < want then s.pwr.k.get h + 1 else want)) ∧
    (live s = true → s.err.ka = false → s.pwr.fast = false → ∀ cl < 512,
      (mayLendNow s cl = true → exec (.lendStart cl) s = .next (setClu s cl { getClu s cl with lending := true })) ∧
      (∀ h, exec (.lendGrant h) s = .next (settleLent s h fun c => c.granted || c.lending) ∧
        exec (.lendRevoke h) s = .next (settleLent s h fun c => c.granted && c.lending)) ∧
      ((getClu s cl).lending = true → (idleSlot (getSlot s cl false) && idleSlot (getSlot s cl true)) = false →
        exec (.lendWake cl) s = .next (setClu s cl { getClu s cl with lending := false }))) ∧
    (s.pwr.fast = true → s.pwr.fastEnd ≤ ns s →
      exec .fastLoopRelease s = .next (s.setPwr { s.pwr with fast := false })) ∧
    (live s = true →
      (∀ x : Temps, s.pwr.on = true → tripped x = true → exec (.thermalSample x) s = .next (tripOff s)) ∧
      (∀ x : Temps, tripped x = false → s.pwr.sampNext ≤ ns s →
        let s1 := s.setPwr (noteWarm s x .west (noteWarm s x .east { s.pwr with
          temps := x, inletHot := decide (40 < x.inlet), sampNext := (ns s / 100000 + 1) * 100000 }))
        let s2 := if 40 < x.inlet ∧ s.pwr.inletHot = false then logSpine s1 { code := 0x0A05 } else s1
        exec (.thermalSample x) s = .next ((newCrit s.pwr.temps x).foldl (fun t n =>
          raiseSpineAll t { code := 0x0A06, sev := 3, scope := 0, data0 := bv 64 n }) s2)) ∧
      (∀ h above n, s.pwr.capNext.get h ≤ ns s →
        ∃ t, exec (.thermalCapStep h above n) s = .next t ∧ t.pwr.capNext.get h = ns s + 1000000 ∧ t.mem = s.mem ∧
          t.pwr.cap.get h =
            if msAbove s h above then max 1 (s.pwr.cap.get h - 1) else min 16 (s.pwr.cap.get h + 1)) ∧
      (∀ n, 1 ≤ n → n ≤ 9 → bit s.pwr.sensFault n = false → ∃ t, exec (.sensorFault n) s = .next t ∧
        bit t.pwr.sensFault n = true ∧ t.pwr.k.w = min 8 s.pwr.k.w ∧ t.pwr.k.e = min 8 s.pwr.k.e ∧ t.mem = s.mem))

/-! ### Rules of the whole block -/

/-- A step runs the command at the front of the queue with the queue's rest (the row's cut). -/
def Obligations.StepRunsFrontCommand : Prop :=
  ∀ (s : State) (c : Instr) (cs : List Instr), s.pending = c :: cs → step s = exec c (s.setPending cs)

/-- The state after reset satisfies the invariant that every step keeps. -/
def Obligations.ResetSatisfiesInvariant : Prop := Inv State.reset = true

/-- Every step, whatever command it runs and in whatever state, keeps the invariant: every memory stays in its canonical
form, the clock rates and their thermal caps stay from 1 to 16. -/
def Obligations.StepKeepsInvariant : Prop :=
  ∀ s t : State, Inv s = true → step s = .next t → Inv t = true

/-- R379: no command but a reset, or the power going, ends keep-alive mode. -/
def Obligations.KeepAliveEndsOnlyByReset : Prop :=
  ∀ s t : State, s.err.ka = true → step s = .next t →
    t.err.ka = true ∨ ∃ c cs, s.pending = c :: cs ∧ startsDevice c = true

/-- R380: the latch's fields are a holder, an epoch of 32 bits and an expiry; a half leads exactly while the latch names it
and the beat is below the expiry, but for a lease that LEAD_FORCE gave (R386), which has no expiry. -/
def Obligations.LatchNamesLeader : Prop :=
  ∀ (s : State) (h : Half),
    (s.lead.forced = false → (leader s = some h ↔ s.lead.holder = some h ∧ beat s < s.lead.expiry)) ∧
    (s.lead.forced = true → (leader s = some h ↔ s.lead.holder = some h)) ∧
    s.lead.epoch.toNat < 2 ^ 32 ∧ ∀ b, leader (s.setLead { s.lead with expiry := b }) = some h →
      s.lead.forced = true ∨ beat s < b

/-- R222: the arrival that fills a barrier completes the round, and the next one with it when that is full already; an
arrival that would pass PARTICIPANTS is a BARRIER_OVERRUN and leaves the barrier unchanged. -/
def Obligations.BarrierRounds : Prop :=
  ∀ (s : State) (n : Nat) (g : SigFly) (o : SObj), (s.syn.sigs.find? fun g => g.n == n) = some g → live s = true →
    (s.syn.sigs.any fun h => decide (h.n < n) && srcOf h.who = srcOf g.who && h.obj = g.obj) = false →
    objFor s g.obj = some o → g.ctx = none → o.waiters = [] → o.ty = .barrier → o.round < 65536 →
    let i := hIdx g.obj
    let s1 := s.setSyn { s.syn with sigs := s.syn.sigs.filter fun h => h.n != n }
    let q := g.amount.toNat % 65536
    (q = o.round → o.count + 1 = o.parts → o.next ≠ o.parts → exec (.barrierArrival n) s = .next (setObj s1 i { o with
      round := (o.round + 1) % 65536, count := o.next, next := 0, sig1 := g.who, tSig := ns s })) ∧
    (q = o.round → o.count + 1 = o.parts → o.next = o.parts → exec (.barrierArrival n) s = .next (setObj s1 i { o with
      round := (o.round + 2) % 65536, count := 0, next := 0, sig1 := g.who, tSig := ns s })) ∧
    (q = o.round ∧ o.parts ≤ o.count ∨ q = (o.round + 1) % 65536 ∧ o.parts ≤ o.next →
      ∃ t, exec (.barrierArrival n) s = .next t ∧ getObj t i = o ∧ t.mem = s.mem ∧
        (s.boot.sage.get (objHalf i) = true → s.err.ka = false → s.err.frozen = false →
          t.err.ring.get (objHalf i) ≠ s.err.ring.get (objHalf i)))

/-- The values of one lane (R52, R56, R117, R127): an active lane of Vd takes the operation of the operands' lanes, any
other lane keeps what it held. -/
def Obligations.VectorLaneValues : Prop :=
  ∀ (s : State) (sl : Slot) (f : Fld), issues s sl = true →
    let x := slotOf s sl
    let r := rndOf f.rnd
    let fl (op : Nat → Nat → Nat → Nat × Nat) (a b c : B32) : B32 := bv 32 (op a.toNat b.toNat c.toNat).1
    (vget x f.ra.toNat).length = 128 → (vOperand x f).length = 128 → (vget x f.rc.toNat).length = 128 →
    (vget x f.rd.toNat).length = 128 →
    ∀ p ∈ ([(.vadd sl f, useVab f true, 0, fl fun a b _ => fadd f32 r a b),
        (.vsub sl f, useVab f true, 0, fl fun a b _ => fsub f32 r a b),
        (.vmul sl f, useVab f true, 0, fl fun a b _ => fmul f32 r a b),
        (.vfma sl f, useVabc f, 0, fl fun a b c => ffma f32 r a b c),
        (.vmin sl f, useVab f false, 0, fl fun a b _ => fmin f32 a b),
        (.vmax sl f, useVab f false, 0, fl fun a b _ => fmax f32 a b),
        (.vadd sl f, useVab f true, 3, fun a b _ => a + b), (.vsub sl f, useVab f true, 3, fun a b _ => a - b),
        (.vmul sl f, useVab f true, 3, fun a b _ => a * b),
        (.vmin sl f, useVab f false, 3, fun a b _ => if a.toInt < b.toInt then a else b),
        (.vmax sl f, useVab f false, 3, fun a b _ => if b.toInt < a.toInt then a else b),
        (.vand sl f, useVab f false, 3, fun a b _ => a &&& b), (.vor sl f, useVab f false, 3, fun a b _ => a ||| b),
        (.vxor sl f, useVab f false, 3, fun a b _ => a ^^^ b),
        (.vshl sl f, useVab f false, 3, fun a b _ => a <<< (b.toNat % 32)),
        (.vshr sl f, useVab f false, 3, fun a b _ => a >>> (b.toNat % 32)),
        (.vsar sl f, useVab f false, 3, fun a b _ => a.sshiftRight (b.toNat % 32))] :
        List (Instr × Use × Nat × (B32 → B32 → B32 → B32))),
      fldVec p.2.1 [p.2.2.1] f = true → ∃ t, exec p.1 s = .next t ∧
        (vget (slotOf t sl) f.rd.toNat).length = 128 ∧
        (∀ i < 128, (vget (slotOf t sl) f.rd.toNat).getD i 0 =
          if active x f i then
            p.2.2.2 ((vget x f.ra.toNat).getD i 0) ((vOperand x f).getD i 0) ((vget x f.rc.toNat).getD i 0)
          else (vget x f.rd.toNat).getD i 0) ∧
        ∀ k, k ≠ f.rd.toNat → vget (slotOf t sl) k = vget x k

/-- Rounding (R50 to R52, R74): every finite code of every format rounds to itself without a flag; of an exact value, round
to nearest even chooses the nearest multiple, the even one of two, the directed ones the multiple on their side. -/
def Obligations.RoundingIsNearest : Prop :=
  (∀ f ∈ [f32, f16, bf16, e4m3, e5m2, e3m2, e2m3, e2m1], ∀ (rm : Rnd) (x : Nat) (d : Dy), x < 2 ^ f.w →
    decode f x = .fin d → roundDy f rm d = (x, 0)) ∧
  (∀ (neg : Bool) (m : Nat) (e q : Int), e < q →
    let u := 2 ^ (q - e).toNat
    let k (rm : Rnd) : Nat := (roundMag rm neg m e q).1
    (2 * m ≤ 2 * (k .rne * u) + u ∧ 2 * (k .rne * u) ≤ 2 * m + u ∧
      (2 * m = 2 * (k .rne * u) + u ∨ 2 * (k .rne * u) = 2 * m + u → k .rne % 2 = 0)) ∧
    (k .rtz * u ≤ m ∧ m < k .rtz * u + u) ∧
    (neg = false → m ≤ k .rup * u ∧ k .rup * u < m + u ∧ k .rdn = k .rtz) ∧
    (neg = true → m ≤ k .rdn * u ∧ k .rdn * u < m + u ∧ k .rup = k .rtz))
end

