-- ==== Sys2Proof/Laws/State.lean ====
section
/-!
SUPPORT. One lemma per field per update of `State`, true by `rfl`: a later proof reads a field of an
updated state without unfolding a record update.
-/

namespace Sys2Proof.Machine

@[simp] theorem State.setPending_pending (s : State) (x : List Instr) : (s.setPending x).pending = x := rfl
@[simp] theorem State.setPending_held (s : State) (x : List Instr) : (s.setPending x).held = s.held := rfl
@[simp] theorem State.setPending_link (s : State) (x : List Instr) : (s.setPending x).link = s.link := rfl
@[simp] theorem State.setPending_free (s : State) (x : List Instr) : (s.setPending x).free = s.free := rfl
@[simp] theorem State.setPending_fuse (s : State) (x : List Instr) : (s.setPending x).fuse = s.fuse := rfl
@[simp] theorem State.setPending_fuseE (s : State) (x : List Instr) : (s.setPending x).fuseE = s.fuseE := rfl
@[simp] theorem State.setPending_pwr (s : State) (x : List Instr) : (s.setPending x).pwr = s.pwr := rfl
@[simp] theorem State.setPending_time (s : State) (x : List Instr) : (s.setPending x).time = s.time := rfl
@[simp] theorem State.setPending_dev (s : State) (x : List Instr) : (s.setPending x).dev = s.dev := rfl
@[simp] theorem State.setPending_regs (s : State) (x : List Instr) : (s.setPending x).regs = s.regs := rfl
@[simp] theorem State.setPending_blk (s : State) (x : List Instr) : (s.setPending x).blk = s.blk := rfl
@[simp] theorem State.setPending_boot (s : State) (x : List Instr) : (s.setPending x).boot = s.boot := rfl
@[simp] theorem State.setPending_sec (s : State) (x : List Instr) : (s.setPending x).sec = s.sec := rfl
@[simp] theorem State.setPending_chv (s : State) (x : List Instr) : (s.setPending x).chv = s.chv := rfl
@[simp] theorem State.setPending_mem (s : State) (x : List Instr) : (s.setPending x).mem = s.mem := rfl
@[simp] theorem State.setPending_frm (s : State) (x : List Instr) : (s.setPending x).frm = s.frm := rfl
@[simp] theorem State.setPending_mmu (s : State) (x : List Instr) : (s.setPending x).mmu = s.mmu := rfl
@[simp] theorem State.setPending_jrn (s : State) (x : List Instr) : (s.setPending x).jrn = s.jrn := rfl
@[simp] theorem State.setPending_ctx (s : State) (x : List Instr) : (s.setPending x).ctx = s.ctx := rfl
@[simp] theorem State.setPending_clu (s : State) (x : List Instr) : (s.setPending x).clu = s.clu := rfl
@[simp] theorem State.setPending_slot (s : State) (x : List Instr) : (s.setPending x).slot = s.slot := rfl
@[simp] theorem State.setPending_que (s : State) (x : List Instr) : (s.setPending x).que = s.que := rfl
@[simp] theorem State.setPending_led (s : State) (x : List Instr) : (s.setPending x).led = s.led := rfl
@[simp] theorem State.setPending_syn (s : State) (x : List Instr) : (s.setPending x).syn = s.syn := rfl
@[simp] theorem State.setPending_dma (s : State) (x : List Instr) : (s.setPending x).dma = s.dma := rfl
@[simp] theorem State.setPending_upd (s : State) (x : List Instr) : (s.setPending x).upd = s.upd := rfl
@[simp] theorem State.setPending_col (s : State) (x : List Instr) : (s.setPending x).col = s.col := rfl
@[simp] theorem State.setPending_fab (s : State) (x : List Instr) : (s.setPending x).fab = s.fab := rfl
@[simp] theorem State.setPending_sx (s : State) (x : List Instr) : (s.setPending x).sx = s.sx := rfl
@[simp] theorem State.setPending_mir (s : State) (x : List Instr) : (s.setPending x).mir = s.mir := rfl
@[simp] theorem State.setPending_err (s : State) (x : List Instr) : (s.setPending x).err = s.err := rfl
@[simp] theorem State.setPending_lead (s : State) (x : List Instr) : (s.setPending x).lead = s.lead := rfl
@[simp] theorem State.setHeld_pending (s : State) (x : List Instr) : (s.setHeld x).pending = s.pending := rfl
@[simp] theorem State.setHeld_held (s : State) (x : List Instr) : (s.setHeld x).held = x := rfl
@[simp] theorem State.setHeld_link (s : State) (x : List Instr) : (s.setHeld x).link = s.link := rfl
@[simp] theorem State.setHeld_free (s : State) (x : List Instr) : (s.setHeld x).free = s.free := rfl
@[simp] theorem State.setHeld_fuse (s : State) (x : List Instr) : (s.setHeld x).fuse = s.fuse := rfl
@[simp] theorem State.setHeld_fuseE (s : State) (x : List Instr) : (s.setHeld x).fuseE = s.fuseE := rfl
@[simp] theorem State.setHeld_pwr (s : State) (x : List Instr) : (s.setHeld x).pwr = s.pwr := rfl
@[simp] theorem State.setHeld_time (s : State) (x : List Instr) : (s.setHeld x).time = s.time := rfl
@[simp] theorem State.setHeld_dev (s : State) (x : List Instr) : (s.setHeld x).dev = s.dev := rfl
@[simp] theorem State.setHeld_regs (s : State) (x : List Instr) : (s.setHeld x).regs = s.regs := rfl
@[simp] theorem State.setHeld_blk (s : State) (x : List Instr) : (s.setHeld x).blk = s.blk := rfl
@[simp] theorem State.setHeld_boot (s : State) (x : List Instr) : (s.setHeld x).boot = s.boot := rfl
@[simp] theorem State.setHeld_sec (s : State) (x : List Instr) : (s.setHeld x).sec = s.sec := rfl
@[simp] theorem State.setHeld_chv (s : State) (x : List Instr) : (s.setHeld x).chv = s.chv := rfl
@[simp] theorem State.setHeld_mem (s : State) (x : List Instr) : (s.setHeld x).mem = s.mem := rfl
@[simp] theorem State.setHeld_frm (s : State) (x : List Instr) : (s.setHeld x).frm = s.frm := rfl
@[simp] theorem State.setHeld_mmu (s : State) (x : List Instr) : (s.setHeld x).mmu = s.mmu := rfl
@[simp] theorem State.setHeld_jrn (s : State) (x : List Instr) : (s.setHeld x).jrn = s.jrn := rfl
@[simp] theorem State.setHeld_ctx (s : State) (x : List Instr) : (s.setHeld x).ctx = s.ctx := rfl
@[simp] theorem State.setHeld_clu (s : State) (x : List Instr) : (s.setHeld x).clu = s.clu := rfl
@[simp] theorem State.setHeld_slot (s : State) (x : List Instr) : (s.setHeld x).slot = s.slot := rfl
@[simp] theorem State.setHeld_que (s : State) (x : List Instr) : (s.setHeld x).que = s.que := rfl
@[simp] theorem State.setHeld_led (s : State) (x : List Instr) : (s.setHeld x).led = s.led := rfl
@[simp] theorem State.setHeld_syn (s : State) (x : List Instr) : (s.setHeld x).syn = s.syn := rfl
@[simp] theorem State.setHeld_dma (s : State) (x : List Instr) : (s.setHeld x).dma = s.dma := rfl
@[simp] theorem State.setHeld_upd (s : State) (x : List Instr) : (s.setHeld x).upd = s.upd := rfl
@[simp] theorem State.setHeld_col (s : State) (x : List Instr) : (s.setHeld x).col = s.col := rfl
@[simp] theorem State.setHeld_fab (s : State) (x : List Instr) : (s.setHeld x).fab = s.fab := rfl
@[simp] theorem State.setHeld_sx (s : State) (x : List Instr) : (s.setHeld x).sx = s.sx := rfl
@[simp] theorem State.setHeld_mir (s : State) (x : List Instr) : (s.setHeld x).mir = s.mir := rfl
@[simp] theorem State.setHeld_err (s : State) (x : List Instr) : (s.setHeld x).err = s.err := rfl
@[simp] theorem State.setHeld_lead (s : State) (x : List Instr) : (s.setHeld x).lead = s.lead := rfl
@[simp] theorem State.setLink_pending (s : State) (x : List LinkWait) : (s.setLink x).pending = s.pending := rfl
@[simp] theorem State.setLink_held (s : State) (x : List LinkWait) : (s.setLink x).held = s.held := rfl
@[simp] theorem State.setLink_link (s : State) (x : List LinkWait) : (s.setLink x).link = x := rfl
@[simp] theorem State.setLink_free (s : State) (x : List LinkWait) : (s.setLink x).free = s.free := rfl
@[simp] theorem State.setLink_fuse (s : State) (x : List LinkWait) : (s.setLink x).fuse = s.fuse := rfl
@[simp] theorem State.setLink_fuseE (s : State) (x : List LinkWait) : (s.setLink x).fuseE = s.fuseE := rfl
@[simp] theorem State.setLink_pwr (s : State) (x : List LinkWait) : (s.setLink x).pwr = s.pwr := rfl
@[simp] theorem State.setLink_time (s : State) (x : List LinkWait) : (s.setLink x).time = s.time := rfl
@[simp] theorem State.setLink_dev (s : State) (x : List LinkWait) : (s.setLink x).dev = s.dev := rfl
@[simp] theorem State.setLink_regs (s : State) (x : List LinkWait) : (s.setLink x).regs = s.regs := rfl
@[simp] theorem State.setLink_blk (s : State) (x : List LinkWait) : (s.setLink x).blk = s.blk := rfl
@[simp] theorem State.setLink_boot (s : State) (x : List LinkWait) : (s.setLink x).boot = s.boot := rfl
@[simp] theorem State.setLink_sec (s : State) (x : List LinkWait) : (s.setLink x).sec = s.sec := rfl
@[simp] theorem State.setLink_chv (s : State) (x : List LinkWait) : (s.setLink x).chv = s.chv := rfl
@[simp] theorem State.setLink_mem (s : State) (x : List LinkWait) : (s.setLink x).mem = s.mem := rfl
@[simp] theorem State.setLink_frm (s : State) (x : List LinkWait) : (s.setLink x).frm = s.frm := rfl
@[simp] theorem State.setLink_mmu (s : State) (x : List LinkWait) : (s.setLink x).mmu = s.mmu := rfl
@[simp] theorem State.setLink_jrn (s : State) (x : List LinkWait) : (s.setLink x).jrn = s.jrn := rfl
@[simp] theorem State.setLink_ctx (s : State) (x : List LinkWait) : (s.setLink x).ctx = s.ctx := rfl
@[simp] theorem State.setLink_clu (s : State) (x : List LinkWait) : (s.setLink x).clu = s.clu := rfl
@[simp] theorem State.setLink_slot (s : State) (x : List LinkWait) : (s.setLink x).slot = s.slot := rfl
@[simp] theorem State.setLink_que (s : State) (x : List LinkWait) : (s.setLink x).que = s.que := rfl
@[simp] theorem State.setLink_led (s : State) (x : List LinkWait) : (s.setLink x).led = s.led := rfl
@[simp] theorem State.setLink_syn (s : State) (x : List LinkWait) : (s.setLink x).syn = s.syn := rfl
@[simp] theorem State.setLink_dma (s : State) (x : List LinkWait) : (s.setLink x).dma = s.dma := rfl
@[simp] theorem State.setLink_upd (s : State) (x : List LinkWait) : (s.setLink x).upd = s.upd := rfl
@[simp] theorem State.setLink_col (s : State) (x : List LinkWait) : (s.setLink x).col = s.col := rfl
@[simp] theorem State.setLink_fab (s : State) (x : List LinkWait) : (s.setLink x).fab = s.fab := rfl
@[simp] theorem State.setLink_sx (s : State) (x : List LinkWait) : (s.setLink x).sx = s.sx := rfl
@[simp] theorem State.setLink_mir (s : State) (x : List LinkWait) : (s.setLink x).mir = s.mir := rfl
@[simp] theorem State.setLink_err (s : State) (x : List LinkWait) : (s.setLink x).err = s.err := rfl
@[simp] theorem State.setLink_lead (s : State) (x : List LinkWait) : (s.setLink x).lead = s.lead := rfl
@[simp] theorem State.setFree_pending (s : State) (x : Nat) : (s.setFree x).pending = s.pending := rfl
@[simp] theorem State.setFree_held (s : State) (x : Nat) : (s.setFree x).held = s.held := rfl
@[simp] theorem State.setFree_link (s : State) (x : Nat) : (s.setFree x).link = s.link := rfl
@[simp] theorem State.setFree_free (s : State) (x : Nat) : (s.setFree x).free = x := rfl
@[simp] theorem State.setFree_fuse (s : State) (x : Nat) : (s.setFree x).fuse = s.fuse := rfl
@[simp] theorem State.setFree_fuseE (s : State) (x : Nat) : (s.setFree x).fuseE = s.fuseE := rfl
@[simp] theorem State.setFree_pwr (s : State) (x : Nat) : (s.setFree x).pwr = s.pwr := rfl
@[simp] theorem State.setFree_time (s : State) (x : Nat) : (s.setFree x).time = s.time := rfl
@[simp] theorem State.setFree_dev (s : State) (x : Nat) : (s.setFree x).dev = s.dev := rfl
@[simp] theorem State.setFree_regs (s : State) (x : Nat) : (s.setFree x).regs = s.regs := rfl
@[simp] theorem State.setFree_blk (s : State) (x : Nat) : (s.setFree x).blk = s.blk := rfl
@[simp] theorem State.setFree_boot (s : State) (x : Nat) : (s.setFree x).boot = s.boot := rfl
@[simp] theorem State.setFree_sec (s : State) (x : Nat) : (s.setFree x).sec = s.sec := rfl
@[simp] theorem State.setFree_chv (s : State) (x : Nat) : (s.setFree x).chv = s.chv := rfl
@[simp] theorem State.setFree_mem (s : State) (x : Nat) : (s.setFree x).mem = s.mem := rfl
@[simp] theorem State.setFree_frm (s : State) (x : Nat) : (s.setFree x).frm = s.frm := rfl
@[simp] theorem State.setFree_mmu (s : State) (x : Nat) : (s.setFree x).mmu = s.mmu := rfl
@[simp] theorem State.setFree_jrn (s : State) (x : Nat) : (s.setFree x).jrn = s.jrn := rfl
@[simp] theorem State.setFree_ctx (s : State) (x : Nat) : (s.setFree x).ctx = s.ctx := rfl
@[simp] theorem State.setFree_clu (s : State) (x : Nat) : (s.setFree x).clu = s.clu := rfl
@[simp] theorem State.setFree_slot (s : State) (x : Nat) : (s.setFree x).slot = s.slot := rfl
@[simp] theorem State.setFree_que (s : State) (x : Nat) : (s.setFree x).que = s.que := rfl
@[simp] theorem State.setFree_led (s : State) (x : Nat) : (s.setFree x).led = s.led := rfl
@[simp] theorem State.setFree_syn (s : State) (x : Nat) : (s.setFree x).syn = s.syn := rfl
@[simp] theorem State.setFree_dma (s : State) (x : Nat) : (s.setFree x).dma = s.dma := rfl
@[simp] theorem State.setFree_upd (s : State) (x : Nat) : (s.setFree x).upd = s.upd := rfl
@[simp] theorem State.setFree_col (s : State) (x : Nat) : (s.setFree x).col = s.col := rfl
@[simp] theorem State.setFree_fab (s : State) (x : Nat) : (s.setFree x).fab = s.fab := rfl
@[simp] theorem State.setFree_sx (s : State) (x : Nat) : (s.setFree x).sx = s.sx := rfl
@[simp] theorem State.setFree_mir (s : State) (x : Nat) : (s.setFree x).mir = s.mir := rfl
@[simp] theorem State.setFree_err (s : State) (x : Nat) : (s.setFree x).err = s.err := rfl
@[simp] theorem State.setFree_lead (s : State) (x : Nat) : (s.setFree x).lead = s.lead := rfl
@[simp] theorem State.setFuse_pending (s : State) (x : Fuse) : (s.setFuse x).pending = s.pending := rfl
@[simp] theorem State.setFuse_held (s : State) (x : Fuse) : (s.setFuse x).held = s.held := rfl
@[simp] theorem State.setFuse_link (s : State) (x : Fuse) : (s.setFuse x).link = s.link := rfl
@[simp] theorem State.setFuse_free (s : State) (x : Fuse) : (s.setFuse x).free = s.free := rfl
@[simp] theorem State.setFuse_fuse (s : State) (x : Fuse) : (s.setFuse x).fuse = x := rfl
@[simp] theorem State.setFuse_fuseE (s : State) (x : Fuse) : (s.setFuse x).fuseE = s.fuseE := rfl
@[simp] theorem State.setFuse_pwr (s : State) (x : Fuse) : (s.setFuse x).pwr = s.pwr := rfl
@[simp] theorem State.setFuse_time (s : State) (x : Fuse) : (s.setFuse x).time = s.time := rfl
@[simp] theorem State.setFuse_dev (s : State) (x : Fuse) : (s.setFuse x).dev = s.dev := rfl
@[simp] theorem State.setFuse_regs (s : State) (x : Fuse) : (s.setFuse x).regs = s.regs := rfl
@[simp] theorem State.setFuse_blk (s : State) (x : Fuse) : (s.setFuse x).blk = s.blk := rfl
@[simp] theorem State.setFuse_boot (s : State) (x : Fuse) : (s.setFuse x).boot = s.boot := rfl
@[simp] theorem State.setFuse_sec (s : State) (x : Fuse) : (s.setFuse x).sec = s.sec := rfl
@[simp] theorem State.setFuse_chv (s : State) (x : Fuse) : (s.setFuse x).chv = s.chv := rfl
@[simp] theorem State.setFuse_mem (s : State) (x : Fuse) : (s.setFuse x).mem = s.mem := rfl
@[simp] theorem State.setFuse_frm (s : State) (x : Fuse) : (s.setFuse x).frm = s.frm := rfl
@[simp] theorem State.setFuse_mmu (s : State) (x : Fuse) : (s.setFuse x).mmu = s.mmu := rfl
@[simp] theorem State.setFuse_jrn (s : State) (x : Fuse) : (s.setFuse x).jrn = s.jrn := rfl
@[simp] theorem State.setFuse_ctx (s : State) (x : Fuse) : (s.setFuse x).ctx = s.ctx := rfl
@[simp] theorem State.setFuse_clu (s : State) (x : Fuse) : (s.setFuse x).clu = s.clu := rfl
@[simp] theorem State.setFuse_slot (s : State) (x : Fuse) : (s.setFuse x).slot = s.slot := rfl
@[simp] theorem State.setFuse_que (s : State) (x : Fuse) : (s.setFuse x).que = s.que := rfl
@[simp] theorem State.setFuse_led (s : State) (x : Fuse) : (s.setFuse x).led = s.led := rfl
@[simp] theorem State.setFuse_syn (s : State) (x : Fuse) : (s.setFuse x).syn = s.syn := rfl
@[simp] theorem State.setFuse_dma (s : State) (x : Fuse) : (s.setFuse x).dma = s.dma := rfl
@[simp] theorem State.setFuse_upd (s : State) (x : Fuse) : (s.setFuse x).upd = s.upd := rfl
@[simp] theorem State.setFuse_col (s : State) (x : Fuse) : (s.setFuse x).col = s.col := rfl
@[simp] theorem State.setFuse_fab (s : State) (x : Fuse) : (s.setFuse x).fab = s.fab := rfl
@[simp] theorem State.setFuse_sx (s : State) (x : Fuse) : (s.setFuse x).sx = s.sx := rfl
@[simp] theorem State.setFuse_mir (s : State) (x : Fuse) : (s.setFuse x).mir = s.mir := rfl
@[simp] theorem State.setFuse_err (s : State) (x : Fuse) : (s.setFuse x).err = s.err := rfl
@[simp] theorem State.setFuse_lead (s : State) (x : Fuse) : (s.setFuse x).lead = s.lead := rfl
@[simp] theorem State.setFuseE_pending (s : State) (x : Fuse) : (s.setFuseE x).pending = s.pending := rfl
@[simp] theorem State.setFuseE_held (s : State) (x : Fuse) : (s.setFuseE x).held = s.held := rfl
@[simp] theorem State.setFuseE_link (s : State) (x : Fuse) : (s.setFuseE x).link = s.link := rfl
@[simp] theorem State.setFuseE_free (s : State) (x : Fuse) : (s.setFuseE x).free = s.free := rfl
@[simp] theorem State.setFuseE_fuse (s : State) (x : Fuse) : (s.setFuseE x).fuse = s.fuse := rfl
@[simp] theorem State.setFuseE_fuseE (s : State) (x : Fuse) : (s.setFuseE x).fuseE = x := rfl
@[simp] theorem State.setFuseE_pwr (s : State) (x : Fuse) : (s.setFuseE x).pwr = s.pwr := rfl
@[simp] theorem State.setFuseE_time (s : State) (x : Fuse) : (s.setFuseE x).time = s.time := rfl
@[simp] theorem State.setFuseE_dev (s : State) (x : Fuse) : (s.setFuseE x).dev = s.dev := rfl
@[simp] theorem State.setFuseE_regs (s : State) (x : Fuse) : (s.setFuseE x).regs = s.regs := rfl
@[simp] theorem State.setFuseE_blk (s : State) (x : Fuse) : (s.setFuseE x).blk = s.blk := rfl
@[simp] theorem State.setFuseE_boot (s : State) (x : Fuse) : (s.setFuseE x).boot = s.boot := rfl
@[simp] theorem State.setFuseE_sec (s : State) (x : Fuse) : (s.setFuseE x).sec = s.sec := rfl
@[simp] theorem State.setFuseE_chv (s : State) (x : Fuse) : (s.setFuseE x).chv = s.chv := rfl
@[simp] theorem State.setFuseE_mem (s : State) (x : Fuse) : (s.setFuseE x).mem = s.mem := rfl
@[simp] theorem State.setFuseE_frm (s : State) (x : Fuse) : (s.setFuseE x).frm = s.frm := rfl
@[simp] theorem State.setFuseE_mmu (s : State) (x : Fuse) : (s.setFuseE x).mmu = s.mmu := rfl
@[simp] theorem State.setFuseE_jrn (s : State) (x : Fuse) : (s.setFuseE x).jrn = s.jrn := rfl
@[simp] theorem State.setFuseE_ctx (s : State) (x : Fuse) : (s.setFuseE x).ctx = s.ctx := rfl
@[simp] theorem State.setFuseE_clu (s : State) (x : Fuse) : (s.setFuseE x).clu = s.clu := rfl
@[simp] theorem State.setFuseE_slot (s : State) (x : Fuse) : (s.setFuseE x).slot = s.slot := rfl
@[simp] theorem State.setFuseE_que (s : State) (x : Fuse) : (s.setFuseE x).que = s.que := rfl
@[simp] theorem State.setFuseE_led (s : State) (x : Fuse) : (s.setFuseE x).led = s.led := rfl
@[simp] theorem State.setFuseE_syn (s : State) (x : Fuse) : (s.setFuseE x).syn = s.syn := rfl
@[simp] theorem State.setFuseE_dma (s : State) (x : Fuse) : (s.setFuseE x).dma = s.dma := rfl
@[simp] theorem State.setFuseE_upd (s : State) (x : Fuse) : (s.setFuseE x).upd = s.upd := rfl
@[simp] theorem State.setFuseE_col (s : State) (x : Fuse) : (s.setFuseE x).col = s.col := rfl
@[simp] theorem State.setFuseE_fab (s : State) (x : Fuse) : (s.setFuseE x).fab = s.fab := rfl
@[simp] theorem State.setFuseE_sx (s : State) (x : Fuse) : (s.setFuseE x).sx = s.sx := rfl
@[simp] theorem State.setFuseE_mir (s : State) (x : Fuse) : (s.setFuseE x).mir = s.mir := rfl
@[simp] theorem State.setFuseE_err (s : State) (x : Fuse) : (s.setFuseE x).err = s.err := rfl
@[simp] theorem State.setFuseE_lead (s : State) (x : Fuse) : (s.setFuseE x).lead = s.lead := rfl
@[simp] theorem State.setPwr_pending (s : State) (x : Pwr) : (s.setPwr x).pending = s.pending := rfl
@[simp] theorem State.setPwr_held (s : State) (x : Pwr) : (s.setPwr x).held = s.held := rfl
@[simp] theorem State.setPwr_link (s : State) (x : Pwr) : (s.setPwr x).link = s.link := rfl
@[simp] theorem State.setPwr_free (s : State) (x : Pwr) : (s.setPwr x).free = s.free := rfl
@[simp] theorem State.setPwr_fuse (s : State) (x : Pwr) : (s.setPwr x).fuse = s.fuse := rfl
@[simp] theorem State.setPwr_fuseE (s : State) (x : Pwr) : (s.setPwr x).fuseE = s.fuseE := rfl
@[simp] theorem State.setPwr_pwr (s : State) (x : Pwr) : (s.setPwr x).pwr = x := rfl
@[simp] theorem State.setPwr_time (s : State) (x : Pwr) : (s.setPwr x).time = s.time := rfl
@[simp] theorem State.setPwr_dev (s : State) (x : Pwr) : (s.setPwr x).dev = s.dev := rfl
@[simp] theorem State.setPwr_regs (s : State) (x : Pwr) : (s.setPwr x).regs = s.regs := rfl
@[simp] theorem State.setPwr_blk (s : State) (x : Pwr) : (s.setPwr x).blk = s.blk := rfl
@[simp] theorem State.setPwr_boot (s : State) (x : Pwr) : (s.setPwr x).boot = s.boot := rfl
@[simp] theorem State.setPwr_sec (s : State) (x : Pwr) : (s.setPwr x).sec = s.sec := rfl
@[simp] theorem State.setPwr_chv (s : State) (x : Pwr) : (s.setPwr x).chv = s.chv := rfl
@[simp] theorem State.setPwr_mem (s : State) (x : Pwr) : (s.setPwr x).mem = s.mem := rfl
@[simp] theorem State.setPwr_frm (s : State) (x : Pwr) : (s.setPwr x).frm = s.frm := rfl
@[simp] theorem State.setPwr_mmu (s : State) (x : Pwr) : (s.setPwr x).mmu = s.mmu := rfl
@[simp] theorem State.setPwr_jrn (s : State) (x : Pwr) : (s.setPwr x).jrn = s.jrn := rfl
@[simp] theorem State.setPwr_ctx (s : State) (x : Pwr) : (s.setPwr x).ctx = s.ctx := rfl
@[simp] theorem State.setPwr_clu (s : State) (x : Pwr) : (s.setPwr x).clu = s.clu := rfl
@[simp] theorem State.setPwr_slot (s : State) (x : Pwr) : (s.setPwr x).slot = s.slot := rfl
@[simp] theorem State.setPwr_que (s : State) (x : Pwr) : (s.setPwr x).que = s.que := rfl
@[simp] theorem State.setPwr_led (s : State) (x : Pwr) : (s.setPwr x).led = s.led := rfl
@[simp] theorem State.setPwr_syn (s : State) (x : Pwr) : (s.setPwr x).syn = s.syn := rfl
@[simp] theorem State.setPwr_dma (s : State) (x : Pwr) : (s.setPwr x).dma = s.dma := rfl
@[simp] theorem State.setPwr_upd (s : State) (x : Pwr) : (s.setPwr x).upd = s.upd := rfl
@[simp] theorem State.setPwr_col (s : State) (x : Pwr) : (s.setPwr x).col = s.col := rfl
@[simp] theorem State.setPwr_fab (s : State) (x : Pwr) : (s.setPwr x).fab = s.fab := rfl
@[simp] theorem State.setPwr_sx (s : State) (x : Pwr) : (s.setPwr x).sx = s.sx := rfl
@[simp] theorem State.setPwr_mir (s : State) (x : Pwr) : (s.setPwr x).mir = s.mir := rfl
@[simp] theorem State.setPwr_err (s : State) (x : Pwr) : (s.setPwr x).err = s.err := rfl
@[simp] theorem State.setPwr_lead (s : State) (x : Pwr) : (s.setPwr x).lead = s.lead := rfl
@[simp] theorem State.setTime_pending (s : State) (x : Time) : (s.setTime x).pending = s.pending := rfl
@[simp] theorem State.setTime_held (s : State) (x : Time) : (s.setTime x).held = s.held := rfl
@[simp] theorem State.setTime_link (s : State) (x : Time) : (s.setTime x).link = s.link := rfl
@[simp] theorem State.setTime_free (s : State) (x : Time) : (s.setTime x).free = s.free := rfl
@[simp] theorem State.setTime_fuse (s : State) (x : Time) : (s.setTime x).fuse = s.fuse := rfl
@[simp] theorem State.setTime_fuseE (s : State) (x : Time) : (s.setTime x).fuseE = s.fuseE := rfl
@[simp] theorem State.setTime_pwr (s : State) (x : Time) : (s.setTime x).pwr = s.pwr := rfl
@[simp] theorem State.setTime_time (s : State) (x : Time) : (s.setTime x).time = x := rfl
@[simp] theorem State.setTime_dev (s : State) (x : Time) : (s.setTime x).dev = s.dev := rfl
@[simp] theorem State.setTime_regs (s : State) (x : Time) : (s.setTime x).regs = s.regs := rfl
@[simp] theorem State.setTime_blk (s : State) (x : Time) : (s.setTime x).blk = s.blk := rfl
@[simp] theorem State.setTime_boot (s : State) (x : Time) : (s.setTime x).boot = s.boot := rfl
@[simp] theorem State.setTime_sec (s : State) (x : Time) : (s.setTime x).sec = s.sec := rfl
@[simp] theorem State.setTime_chv (s : State) (x : Time) : (s.setTime x).chv = s.chv := rfl
@[simp] theorem State.setTime_mem (s : State) (x : Time) : (s.setTime x).mem = s.mem := rfl
@[simp] theorem State.setTime_frm (s : State) (x : Time) : (s.setTime x).frm = s.frm := rfl
@[simp] theorem State.setTime_mmu (s : State) (x : Time) : (s.setTime x).mmu = s.mmu := rfl
@[simp] theorem State.setTime_jrn (s : State) (x : Time) : (s.setTime x).jrn = s.jrn := rfl
@[simp] theorem State.setTime_ctx (s : State) (x : Time) : (s.setTime x).ctx = s.ctx := rfl
@[simp] theorem State.setTime_clu (s : State) (x : Time) : (s.setTime x).clu = s.clu := rfl
@[simp] theorem State.setTime_slot (s : State) (x : Time) : (s.setTime x).slot = s.slot := rfl
@[simp] theorem State.setTime_que (s : State) (x : Time) : (s.setTime x).que = s.que := rfl
@[simp] theorem State.setTime_led (s : State) (x : Time) : (s.setTime x).led = s.led := rfl
@[simp] theorem State.setTime_syn (s : State) (x : Time) : (s.setTime x).syn = s.syn := rfl
@[simp] theorem State.setTime_dma (s : State) (x : Time) : (s.setTime x).dma = s.dma := rfl
@[simp] theorem State.setTime_upd (s : State) (x : Time) : (s.setTime x).upd = s.upd := rfl
@[simp] theorem State.setTime_col (s : State) (x : Time) : (s.setTime x).col = s.col := rfl
@[simp] theorem State.setTime_fab (s : State) (x : Time) : (s.setTime x).fab = s.fab := rfl
@[simp] theorem State.setTime_sx (s : State) (x : Time) : (s.setTime x).sx = s.sx := rfl
@[simp] theorem State.setTime_mir (s : State) (x : Time) : (s.setTime x).mir = s.mir := rfl
@[simp] theorem State.setTime_err (s : State) (x : Time) : (s.setTime x).err = s.err := rfl
@[simp] theorem State.setTime_lead (s : State) (x : Time) : (s.setTime x).lead = s.lead := rfl
@[simp] theorem State.setDev_pending (s : State) (x : Dev) : (s.setDev x).pending = s.pending := rfl
@[simp] theorem State.setDev_held (s : State) (x : Dev) : (s.setDev x).held = s.held := rfl
@[simp] theorem State.setDev_link (s : State) (x : Dev) : (s.setDev x).link = s.link := rfl
@[simp] theorem State.setDev_free (s : State) (x : Dev) : (s.setDev x).free = s.free := rfl
@[simp] theorem State.setDev_fuse (s : State) (x : Dev) : (s.setDev x).fuse = s.fuse := rfl
@[simp] theorem State.setDev_fuseE (s : State) (x : Dev) : (s.setDev x).fuseE = s.fuseE := rfl
@[simp] theorem State.setDev_pwr (s : State) (x : Dev) : (s.setDev x).pwr = s.pwr := rfl
@[simp] theorem State.setDev_time (s : State) (x : Dev) : (s.setDev x).time = s.time := rfl
@[simp] theorem State.setDev_dev (s : State) (x : Dev) : (s.setDev x).dev = x := rfl
@[simp] theorem State.setDev_regs (s : State) (x : Dev) : (s.setDev x).regs = s.regs := rfl
@[simp] theorem State.setDev_blk (s : State) (x : Dev) : (s.setDev x).blk = s.blk := rfl
@[simp] theorem State.setDev_boot (s : State) (x : Dev) : (s.setDev x).boot = s.boot := rfl
@[simp] theorem State.setDev_sec (s : State) (x : Dev) : (s.setDev x).sec = s.sec := rfl
@[simp] theorem State.setDev_chv (s : State) (x : Dev) : (s.setDev x).chv = s.chv := rfl
@[simp] theorem State.setDev_mem (s : State) (x : Dev) : (s.setDev x).mem = s.mem := rfl
@[simp] theorem State.setDev_frm (s : State) (x : Dev) : (s.setDev x).frm = s.frm := rfl
@[simp] theorem State.setDev_mmu (s : State) (x : Dev) : (s.setDev x).mmu = s.mmu := rfl
@[simp] theorem State.setDev_jrn (s : State) (x : Dev) : (s.setDev x).jrn = s.jrn := rfl
@[simp] theorem State.setDev_ctx (s : State) (x : Dev) : (s.setDev x).ctx = s.ctx := rfl
@[simp] theorem State.setDev_clu (s : State) (x : Dev) : (s.setDev x).clu = s.clu := rfl
@[simp] theorem State.setDev_slot (s : State) (x : Dev) : (s.setDev x).slot = s.slot := rfl
@[simp] theorem State.setDev_que (s : State) (x : Dev) : (s.setDev x).que = s.que := rfl
@[simp] theorem State.setDev_led (s : State) (x : Dev) : (s.setDev x).led = s.led := rfl
@[simp] theorem State.setDev_syn (s : State) (x : Dev) : (s.setDev x).syn = s.syn := rfl
@[simp] theorem State.setDev_dma (s : State) (x : Dev) : (s.setDev x).dma = s.dma := rfl
@[simp] theorem State.setDev_upd (s : State) (x : Dev) : (s.setDev x).upd = s.upd := rfl
@[simp] theorem State.setDev_col (s : State) (x : Dev) : (s.setDev x).col = s.col := rfl
@[simp] theorem State.setDev_fab (s : State) (x : Dev) : (s.setDev x).fab = s.fab := rfl
@[simp] theorem State.setDev_sx (s : State) (x : Dev) : (s.setDev x).sx = s.sx := rfl
@[simp] theorem State.setDev_mir (s : State) (x : Dev) : (s.setDev x).mir = s.mir := rfl
@[simp] theorem State.setDev_err (s : State) (x : Dev) : (s.setDev x).err = s.err := rfl
@[simp] theorem State.setDev_lead (s : State) (x : Dev) : (s.setDev x).lead = s.lead := rfl
@[simp] theorem State.setRegs_pending (s : State) (x : Tab B32) : (s.setRegs x).pending = s.pending := rfl
@[simp] theorem State.setRegs_held (s : State) (x : Tab B32) : (s.setRegs x).held = s.held := rfl
@[simp] theorem State.setRegs_link (s : State) (x : Tab B32) : (s.setRegs x).link = s.link := rfl
@[simp] theorem State.setRegs_free (s : State) (x : Tab B32) : (s.setRegs x).free = s.free := rfl
@[simp] theorem State.setRegs_fuse (s : State) (x : Tab B32) : (s.setRegs x).fuse = s.fuse := rfl
@[simp] theorem State.setRegs_fuseE (s : State) (x : Tab B32) : (s.setRegs x).fuseE = s.fuseE := rfl
@[simp] theorem State.setRegs_pwr (s : State) (x : Tab B32) : (s.setRegs x).pwr = s.pwr := rfl
@[simp] theorem State.setRegs_time (s : State) (x : Tab B32) : (s.setRegs x).time = s.time := rfl
@[simp] theorem State.setRegs_dev (s : State) (x : Tab B32) : (s.setRegs x).dev = s.dev := rfl
@[simp] theorem State.setRegs_regs (s : State) (x : Tab B32) : (s.setRegs x).regs = x := rfl
@[simp] theorem State.setRegs_blk (s : State) (x : Tab B32) : (s.setRegs x).blk = s.blk := rfl
@[simp] theorem State.setRegs_boot (s : State) (x : Tab B32) : (s.setRegs x).boot = s.boot := rfl
@[simp] theorem State.setRegs_sec (s : State) (x : Tab B32) : (s.setRegs x).sec = s.sec := rfl
@[simp] theorem State.setRegs_chv (s : State) (x : Tab B32) : (s.setRegs x).chv = s.chv := rfl
@[simp] theorem State.setRegs_mem (s : State) (x : Tab B32) : (s.setRegs x).mem = s.mem := rfl
@[simp] theorem State.setRegs_frm (s : State) (x : Tab B32) : (s.setRegs x).frm = s.frm := rfl
@[simp] theorem State.setRegs_mmu (s : State) (x : Tab B32) : (s.setRegs x).mmu = s.mmu := rfl
@[simp] theorem State.setRegs_jrn (s : State) (x : Tab B32) : (s.setRegs x).jrn = s.jrn := rfl
@[simp] theorem State.setRegs_ctx (s : State) (x : Tab B32) : (s.setRegs x).ctx = s.ctx := rfl
@[simp] theorem State.setRegs_clu (s : State) (x : Tab B32) : (s.setRegs x).clu = s.clu := rfl
@[simp] theorem State.setRegs_slot (s : State) (x : Tab B32) : (s.setRegs x).slot = s.slot := rfl
@[simp] theorem State.setRegs_que (s : State) (x : Tab B32) : (s.setRegs x).que = s.que := rfl
@[simp] theorem State.setRegs_led (s : State) (x : Tab B32) : (s.setRegs x).led = s.led := rfl
@[simp] theorem State.setRegs_syn (s : State) (x : Tab B32) : (s.setRegs x).syn = s.syn := rfl
@[simp] theorem State.setRegs_dma (s : State) (x : Tab B32) : (s.setRegs x).dma = s.dma := rfl
@[simp] theorem State.setRegs_upd (s : State) (x : Tab B32) : (s.setRegs x).upd = s.upd := rfl
@[simp] theorem State.setRegs_col (s : State) (x : Tab B32) : (s.setRegs x).col = s.col := rfl
@[simp] theorem State.setRegs_fab (s : State) (x : Tab B32) : (s.setRegs x).fab = s.fab := rfl
@[simp] theorem State.setRegs_sx (s : State) (x : Tab B32) : (s.setRegs x).sx = s.sx := rfl
@[simp] theorem State.setRegs_mir (s : State) (x : Tab B32) : (s.setRegs x).mir = s.mir := rfl
@[simp] theorem State.setRegs_err (s : State) (x : Tab B32) : (s.setRegs x).err = s.err := rfl
@[simp] theorem State.setRegs_lead (s : State) (x : Tab B32) : (s.setRegs x).lead = s.lead := rfl
@[simp] theorem State.setBlk_pending (s : State) (x : Tab BlkStat) : (s.setBlk x).pending = s.pending := rfl
@[simp] theorem State.setBlk_held (s : State) (x : Tab BlkStat) : (s.setBlk x).held = s.held := rfl
@[simp] theorem State.setBlk_link (s : State) (x : Tab BlkStat) : (s.setBlk x).link = s.link := rfl
@[simp] theorem State.setBlk_free (s : State) (x : Tab BlkStat) : (s.setBlk x).free = s.free := rfl
@[simp] theorem State.setBlk_fuse (s : State) (x : Tab BlkStat) : (s.setBlk x).fuse = s.fuse := rfl
@[simp] theorem State.setBlk_fuseE (s : State) (x : Tab BlkStat) : (s.setBlk x).fuseE = s.fuseE := rfl
@[simp] theorem State.setBlk_pwr (s : State) (x : Tab BlkStat) : (s.setBlk x).pwr = s.pwr := rfl
@[simp] theorem State.setBlk_time (s : State) (x : Tab BlkStat) : (s.setBlk x).time = s.time := rfl
@[simp] theorem State.setBlk_dev (s : State) (x : Tab BlkStat) : (s.setBlk x).dev = s.dev := rfl
@[simp] theorem State.setBlk_regs (s : State) (x : Tab BlkStat) : (s.setBlk x).regs = s.regs := rfl
@[simp] theorem State.setBlk_blk (s : State) (x : Tab BlkStat) : (s.setBlk x).blk = x := rfl
@[simp] theorem State.setBlk_boot (s : State) (x : Tab BlkStat) : (s.setBlk x).boot = s.boot := rfl
@[simp] theorem State.setBlk_sec (s : State) (x : Tab BlkStat) : (s.setBlk x).sec = s.sec := rfl
@[simp] theorem State.setBlk_chv (s : State) (x : Tab BlkStat) : (s.setBlk x).chv = s.chv := rfl
@[simp] theorem State.setBlk_mem (s : State) (x : Tab BlkStat) : (s.setBlk x).mem = s.mem := rfl
@[simp] theorem State.setBlk_frm (s : State) (x : Tab BlkStat) : (s.setBlk x).frm = s.frm := rfl
@[simp] theorem State.setBlk_mmu (s : State) (x : Tab BlkStat) : (s.setBlk x).mmu = s.mmu := rfl
@[simp] theorem State.setBlk_jrn (s : State) (x : Tab BlkStat) : (s.setBlk x).jrn = s.jrn := rfl
@[simp] theorem State.setBlk_ctx (s : State) (x : Tab BlkStat) : (s.setBlk x).ctx = s.ctx := rfl
@[simp] theorem State.setBlk_clu (s : State) (x : Tab BlkStat) : (s.setBlk x).clu = s.clu := rfl
@[simp] theorem State.setBlk_slot (s : State) (x : Tab BlkStat) : (s.setBlk x).slot = s.slot := rfl
@[simp] theorem State.setBlk_que (s : State) (x : Tab BlkStat) : (s.setBlk x).que = s.que := rfl
@[simp] theorem State.setBlk_led (s : State) (x : Tab BlkStat) : (s.setBlk x).led = s.led := rfl
@[simp] theorem State.setBlk_syn (s : State) (x : Tab BlkStat) : (s.setBlk x).syn = s.syn := rfl
@[simp] theorem State.setBlk_dma (s : State) (x : Tab BlkStat) : (s.setBlk x).dma = s.dma := rfl
@[simp] theorem State.setBlk_upd (s : State) (x : Tab BlkStat) : (s.setBlk x).upd = s.upd := rfl
@[simp] theorem State.setBlk_col (s : State) (x : Tab BlkStat) : (s.setBlk x).col = s.col := rfl
@[simp] theorem State.setBlk_fab (s : State) (x : Tab BlkStat) : (s.setBlk x).fab = s.fab := rfl
@[simp] theorem State.setBlk_sx (s : State) (x : Tab BlkStat) : (s.setBlk x).sx = s.sx := rfl
@[simp] theorem State.setBlk_mir (s : State) (x : Tab BlkStat) : (s.setBlk x).mir = s.mir := rfl
@[simp] theorem State.setBlk_err (s : State) (x : Tab BlkStat) : (s.setBlk x).err = s.err := rfl
@[simp] theorem State.setBlk_lead (s : State) (x : Tab BlkStat) : (s.setBlk x).lead = s.lead := rfl
@[simp] theorem State.setBoot_pending (s : State) (x : Boot) : (s.setBoot x).pending = s.pending := rfl
@[simp] theorem State.setBoot_held (s : State) (x : Boot) : (s.setBoot x).held = s.held := rfl
@[simp] theorem State.setBoot_link (s : State) (x : Boot) : (s.setBoot x).link = s.link := rfl
@[simp] theorem State.setBoot_free (s : State) (x : Boot) : (s.setBoot x).free = s.free := rfl
@[simp] theorem State.setBoot_fuse (s : State) (x : Boot) : (s.setBoot x).fuse = s.fuse := rfl
@[simp] theorem State.setBoot_fuseE (s : State) (x : Boot) : (s.setBoot x).fuseE = s.fuseE := rfl
@[simp] theorem State.setBoot_pwr (s : State) (x : Boot) : (s.setBoot x).pwr = s.pwr := rfl
@[simp] theorem State.setBoot_time (s : State) (x : Boot) : (s.setBoot x).time = s.time := rfl
@[simp] theorem State.setBoot_dev (s : State) (x : Boot) : (s.setBoot x).dev = s.dev := rfl
@[simp] theorem State.setBoot_regs (s : State) (x : Boot) : (s.setBoot x).regs = s.regs := rfl
@[simp] theorem State.setBoot_blk (s : State) (x : Boot) : (s.setBoot x).blk = s.blk := rfl
@[simp] theorem State.setBoot_boot (s : State) (x : Boot) : (s.setBoot x).boot = x := rfl
@[simp] theorem State.setBoot_sec (s : State) (x : Boot) : (s.setBoot x).sec = s.sec := rfl
@[simp] theorem State.setBoot_chv (s : State) (x : Boot) : (s.setBoot x).chv = s.chv := rfl
@[simp] theorem State.setBoot_mem (s : State) (x : Boot) : (s.setBoot x).mem = s.mem := rfl
@[simp] theorem State.setBoot_frm (s : State) (x : Boot) : (s.setBoot x).frm = s.frm := rfl
@[simp] theorem State.setBoot_mmu (s : State) (x : Boot) : (s.setBoot x).mmu = s.mmu := rfl
@[simp] theorem State.setBoot_jrn (s : State) (x : Boot) : (s.setBoot x).jrn = s.jrn := rfl
@[simp] theorem State.setBoot_ctx (s : State) (x : Boot) : (s.setBoot x).ctx = s.ctx := rfl
@[simp] theorem State.setBoot_clu (s : State) (x : Boot) : (s.setBoot x).clu = s.clu := rfl
@[simp] theorem State.setBoot_slot (s : State) (x : Boot) : (s.setBoot x).slot = s.slot := rfl
@[simp] theorem State.setBoot_que (s : State) (x : Boot) : (s.setBoot x).que = s.que := rfl
@[simp] theorem State.setBoot_led (s : State) (x : Boot) : (s.setBoot x).led = s.led := rfl
@[simp] theorem State.setBoot_syn (s : State) (x : Boot) : (s.setBoot x).syn = s.syn := rfl
@[simp] theorem State.setBoot_dma (s : State) (x : Boot) : (s.setBoot x).dma = s.dma := rfl
@[simp] theorem State.setBoot_upd (s : State) (x : Boot) : (s.setBoot x).upd = s.upd := rfl
@[simp] theorem State.setBoot_col (s : State) (x : Boot) : (s.setBoot x).col = s.col := rfl
@[simp] theorem State.setBoot_fab (s : State) (x : Boot) : (s.setBoot x).fab = s.fab := rfl
@[simp] theorem State.setBoot_sx (s : State) (x : Boot) : (s.setBoot x).sx = s.sx := rfl
@[simp] theorem State.setBoot_mir (s : State) (x : Boot) : (s.setBoot x).mir = s.mir := rfl
@[simp] theorem State.setBoot_err (s : State) (x : Boot) : (s.setBoot x).err = s.err := rfl
@[simp] theorem State.setBoot_lead (s : State) (x : Boot) : (s.setBoot x).lead = s.lead := rfl
@[simp] theorem State.setSec_pending (s : State) (x : Sec) : (s.setSec x).pending = s.pending := rfl
@[simp] theorem State.setSec_held (s : State) (x : Sec) : (s.setSec x).held = s.held := rfl
@[simp] theorem State.setSec_link (s : State) (x : Sec) : (s.setSec x).link = s.link := rfl
@[simp] theorem State.setSec_free (s : State) (x : Sec) : (s.setSec x).free = s.free := rfl
@[simp] theorem State.setSec_fuse (s : State) (x : Sec) : (s.setSec x).fuse = s.fuse := rfl
@[simp] theorem State.setSec_fuseE (s : State) (x : Sec) : (s.setSec x).fuseE = s.fuseE := rfl
@[simp] theorem State.setSec_pwr (s : State) (x : Sec) : (s.setSec x).pwr = s.pwr := rfl
@[simp] theorem State.setSec_time (s : State) (x : Sec) : (s.setSec x).time = s.time := rfl
@[simp] theorem State.setSec_dev (s : State) (x : Sec) : (s.setSec x).dev = s.dev := rfl
@[simp] theorem State.setSec_regs (s : State) (x : Sec) : (s.setSec x).regs = s.regs := rfl
@[simp] theorem State.setSec_blk (s : State) (x : Sec) : (s.setSec x).blk = s.blk := rfl
@[simp] theorem State.setSec_boot (s : State) (x : Sec) : (s.setSec x).boot = s.boot := rfl
@[simp] theorem State.setSec_sec (s : State) (x : Sec) : (s.setSec x).sec = x := rfl
@[simp] theorem State.setSec_chv (s : State) (x : Sec) : (s.setSec x).chv = s.chv := rfl
@[simp] theorem State.setSec_mem (s : State) (x : Sec) : (s.setSec x).mem = s.mem := rfl
@[simp] theorem State.setSec_frm (s : State) (x : Sec) : (s.setSec x).frm = s.frm := rfl
@[simp] theorem State.setSec_mmu (s : State) (x : Sec) : (s.setSec x).mmu = s.mmu := rfl
@[simp] theorem State.setSec_jrn (s : State) (x : Sec) : (s.setSec x).jrn = s.jrn := rfl
@[simp] theorem State.setSec_ctx (s : State) (x : Sec) : (s.setSec x).ctx = s.ctx := rfl
@[simp] theorem State.setSec_clu (s : State) (x : Sec) : (s.setSec x).clu = s.clu := rfl
@[simp] theorem State.setSec_slot (s : State) (x : Sec) : (s.setSec x).slot = s.slot := rfl
@[simp] theorem State.setSec_que (s : State) (x : Sec) : (s.setSec x).que = s.que := rfl
@[simp] theorem State.setSec_led (s : State) (x : Sec) : (s.setSec x).led = s.led := rfl
@[simp] theorem State.setSec_syn (s : State) (x : Sec) : (s.setSec x).syn = s.syn := rfl
@[simp] theorem State.setSec_dma (s : State) (x : Sec) : (s.setSec x).dma = s.dma := rfl
@[simp] theorem State.setSec_upd (s : State) (x : Sec) : (s.setSec x).upd = s.upd := rfl
@[simp] theorem State.setSec_col (s : State) (x : Sec) : (s.setSec x).col = s.col := rfl
@[simp] theorem State.setSec_fab (s : State) (x : Sec) : (s.setSec x).fab = s.fab := rfl
@[simp] theorem State.setSec_sx (s : State) (x : Sec) : (s.setSec x).sx = s.sx := rfl
@[simp] theorem State.setSec_mir (s : State) (x : Sec) : (s.setSec x).mir = s.mir := rfl
@[simp] theorem State.setSec_err (s : State) (x : Sec) : (s.setSec x).err = s.err := rfl
@[simp] theorem State.setSec_lead (s : State) (x : Sec) : (s.setSec x).lead = s.lead := rfl
@[simp] theorem State.setChv_pending (s : State) (x : Tab ChvU) : (s.setChv x).pending = s.pending := rfl
@[simp] theorem State.setChv_held (s : State) (x : Tab ChvU) : (s.setChv x).held = s.held := rfl
@[simp] theorem State.setChv_link (s : State) (x : Tab ChvU) : (s.setChv x).link = s.link := rfl
@[simp] theorem State.setChv_free (s : State) (x : Tab ChvU) : (s.setChv x).free = s.free := rfl
@[simp] theorem State.setChv_fuse (s : State) (x : Tab ChvU) : (s.setChv x).fuse = s.fuse := rfl
@[simp] theorem State.setChv_fuseE (s : State) (x : Tab ChvU) : (s.setChv x).fuseE = s.fuseE := rfl
@[simp] theorem State.setChv_pwr (s : State) (x : Tab ChvU) : (s.setChv x).pwr = s.pwr := rfl
@[simp] theorem State.setChv_time (s : State) (x : Tab ChvU) : (s.setChv x).time = s.time := rfl
@[simp] theorem State.setChv_dev (s : State) (x : Tab ChvU) : (s.setChv x).dev = s.dev := rfl
@[simp] theorem State.setChv_regs (s : State) (x : Tab ChvU) : (s.setChv x).regs = s.regs := rfl
@[simp] theorem State.setChv_blk (s : State) (x : Tab ChvU) : (s.setChv x).blk = s.blk := rfl
@[simp] theorem State.setChv_boot (s : State) (x : Tab ChvU) : (s.setChv x).boot = s.boot := rfl
@[simp] theorem State.setChv_sec (s : State) (x : Tab ChvU) : (s.setChv x).sec = s.sec := rfl
@[simp] theorem State.setChv_chv (s : State) (x : Tab ChvU) : (s.setChv x).chv = x := rfl
@[simp] theorem State.setChv_mem (s : State) (x : Tab ChvU) : (s.setChv x).mem = s.mem := rfl
@[simp] theorem State.setChv_frm (s : State) (x : Tab ChvU) : (s.setChv x).frm = s.frm := rfl
@[simp] theorem State.setChv_mmu (s : State) (x : Tab ChvU) : (s.setChv x).mmu = s.mmu := rfl
@[simp] theorem State.setChv_jrn (s : State) (x : Tab ChvU) : (s.setChv x).jrn = s.jrn := rfl
@[simp] theorem State.setChv_ctx (s : State) (x : Tab ChvU) : (s.setChv x).ctx = s.ctx := rfl
@[simp] theorem State.setChv_clu (s : State) (x : Tab ChvU) : (s.setChv x).clu = s.clu := rfl
@[simp] theorem State.setChv_slot (s : State) (x : Tab ChvU) : (s.setChv x).slot = s.slot := rfl
@[simp] theorem State.setChv_que (s : State) (x : Tab ChvU) : (s.setChv x).que = s.que := rfl
@[simp] theorem State.setChv_led (s : State) (x : Tab ChvU) : (s.setChv x).led = s.led := rfl
@[simp] theorem State.setChv_syn (s : State) (x : Tab ChvU) : (s.setChv x).syn = s.syn := rfl
@[simp] theorem State.setChv_dma (s : State) (x : Tab ChvU) : (s.setChv x).dma = s.dma := rfl
@[simp] theorem State.setChv_upd (s : State) (x : Tab ChvU) : (s.setChv x).upd = s.upd := rfl
@[simp] theorem State.setChv_col (s : State) (x : Tab ChvU) : (s.setChv x).col = s.col := rfl
@[simp] theorem State.setChv_fab (s : State) (x : Tab ChvU) : (s.setChv x).fab = s.fab := rfl
@[simp] theorem State.setChv_sx (s : State) (x : Tab ChvU) : (s.setChv x).sx = s.sx := rfl
@[simp] theorem State.setChv_mir (s : State) (x : Tab ChvU) : (s.setChv x).mir = s.mir := rfl
@[simp] theorem State.setChv_err (s : State) (x : Tab ChvU) : (s.setChv x).err = s.err := rfl
@[simp] theorem State.setChv_lead (s : State) (x : Tab ChvU) : (s.setChv x).lead = s.lead := rfl
@[simp] theorem State.setMem_pending (s : State) (x : Mem) : (s.setMem x).pending = s.pending := rfl
@[simp] theorem State.setMem_held (s : State) (x : Mem) : (s.setMem x).held = s.held := rfl
@[simp] theorem State.setMem_link (s : State) (x : Mem) : (s.setMem x).link = s.link := rfl
@[simp] theorem State.setMem_free (s : State) (x : Mem) : (s.setMem x).free = s.free := rfl
@[simp] theorem State.setMem_fuse (s : State) (x : Mem) : (s.setMem x).fuse = s.fuse := rfl
@[simp] theorem State.setMem_fuseE (s : State) (x : Mem) : (s.setMem x).fuseE = s.fuseE := rfl
@[simp] theorem State.setMem_pwr (s : State) (x : Mem) : (s.setMem x).pwr = s.pwr := rfl
@[simp] theorem State.setMem_time (s : State) (x : Mem) : (s.setMem x).time = s.time := rfl
@[simp] theorem State.setMem_dev (s : State) (x : Mem) : (s.setMem x).dev = s.dev := rfl
@[simp] theorem State.setMem_regs (s : State) (x : Mem) : (s.setMem x).regs = s.regs := rfl
@[simp] theorem State.setMem_blk (s : State) (x : Mem) : (s.setMem x).blk = s.blk := rfl
@[simp] theorem State.setMem_boot (s : State) (x : Mem) : (s.setMem x).boot = s.boot := rfl
@[simp] theorem State.setMem_sec (s : State) (x : Mem) : (s.setMem x).sec = s.sec := rfl
@[simp] theorem State.setMem_chv (s : State) (x : Mem) : (s.setMem x).chv = s.chv := rfl
@[simp] theorem State.setMem_mem (s : State) (x : Mem) : (s.setMem x).mem = x := rfl
@[simp] theorem State.setMem_frm (s : State) (x : Mem) : (s.setMem x).frm = s.frm := rfl
@[simp] theorem State.setMem_mmu (s : State) (x : Mem) : (s.setMem x).mmu = s.mmu := rfl
@[simp] theorem State.setMem_jrn (s : State) (x : Mem) : (s.setMem x).jrn = s.jrn := rfl
@[simp] theorem State.setMem_ctx (s : State) (x : Mem) : (s.setMem x).ctx = s.ctx := rfl
@[simp] theorem State.setMem_clu (s : State) (x : Mem) : (s.setMem x).clu = s.clu := rfl
@[simp] theorem State.setMem_slot (s : State) (x : Mem) : (s.setMem x).slot = s.slot := rfl
@[simp] theorem State.setMem_que (s : State) (x : Mem) : (s.setMem x).que = s.que := rfl
@[simp] theorem State.setMem_led (s : State) (x : Mem) : (s.setMem x).led = s.led := rfl
@[simp] theorem State.setMem_syn (s : State) (x : Mem) : (s.setMem x).syn = s.syn := rfl
@[simp] theorem State.setMem_dma (s : State) (x : Mem) : (s.setMem x).dma = s.dma := rfl
@[simp] theorem State.setMem_upd (s : State) (x : Mem) : (s.setMem x).upd = s.upd := rfl
@[simp] theorem State.setMem_col (s : State) (x : Mem) : (s.setMem x).col = s.col := rfl
@[simp] theorem State.setMem_fab (s : State) (x : Mem) : (s.setMem x).fab = s.fab := rfl
@[simp] theorem State.setMem_sx (s : State) (x : Mem) : (s.setMem x).sx = s.sx := rfl
@[simp] theorem State.setMem_mir (s : State) (x : Mem) : (s.setMem x).mir = s.mir := rfl
@[simp] theorem State.setMem_err (s : State) (x : Mem) : (s.setMem x).err = s.err := rfl
@[simp] theorem State.setMem_lead (s : State) (x : Mem) : (s.setMem x).lead = s.lead := rfl
@[simp] theorem State.setFrm_pending (s : State) (x : Frm) : (s.setFrm x).pending = s.pending := rfl
@[simp] theorem State.setFrm_held (s : State) (x : Frm) : (s.setFrm x).held = s.held := rfl
@[simp] theorem State.setFrm_link (s : State) (x : Frm) : (s.setFrm x).link = s.link := rfl
@[simp] theorem State.setFrm_free (s : State) (x : Frm) : (s.setFrm x).free = s.free := rfl
@[simp] theorem State.setFrm_fuse (s : State) (x : Frm) : (s.setFrm x).fuse = s.fuse := rfl
@[simp] theorem State.setFrm_fuseE (s : State) (x : Frm) : (s.setFrm x).fuseE = s.fuseE := rfl
@[simp] theorem State.setFrm_pwr (s : State) (x : Frm) : (s.setFrm x).pwr = s.pwr := rfl
@[simp] theorem State.setFrm_time (s : State) (x : Frm) : (s.setFrm x).time = s.time := rfl
@[simp] theorem State.setFrm_dev (s : State) (x : Frm) : (s.setFrm x).dev = s.dev := rfl
@[simp] theorem State.setFrm_regs (s : State) (x : Frm) : (s.setFrm x).regs = s.regs := rfl
@[simp] theorem State.setFrm_blk (s : State) (x : Frm) : (s.setFrm x).blk = s.blk := rfl
@[simp] theorem State.setFrm_boot (s : State) (x : Frm) : (s.setFrm x).boot = s.boot := rfl
@[simp] theorem State.setFrm_sec (s : State) (x : Frm) : (s.setFrm x).sec = s.sec := rfl
@[simp] theorem State.setFrm_chv (s : State) (x : Frm) : (s.setFrm x).chv = s.chv := rfl
@[simp] theorem State.setFrm_mem (s : State) (x : Frm) : (s.setFrm x).mem = s.mem := rfl
@[simp] theorem State.setFrm_frm (s : State) (x : Frm) : (s.setFrm x).frm = x := rfl
@[simp] theorem State.setFrm_mmu (s : State) (x : Frm) : (s.setFrm x).mmu = s.mmu := rfl
@[simp] theorem State.setFrm_jrn (s : State) (x : Frm) : (s.setFrm x).jrn = s.jrn := rfl
@[simp] theorem State.setFrm_ctx (s : State) (x : Frm) : (s.setFrm x).ctx = s.ctx := rfl
@[simp] theorem State.setFrm_clu (s : State) (x : Frm) : (s.setFrm x).clu = s.clu := rfl
@[simp] theorem State.setFrm_slot (s : State) (x : Frm) : (s.setFrm x).slot = s.slot := rfl
@[simp] theorem State.setFrm_que (s : State) (x : Frm) : (s.setFrm x).que = s.que := rfl
@[simp] theorem State.setFrm_led (s : State) (x : Frm) : (s.setFrm x).led = s.led := rfl
@[simp] theorem State.setFrm_syn (s : State) (x : Frm) : (s.setFrm x).syn = s.syn := rfl
@[simp] theorem State.setFrm_dma (s : State) (x : Frm) : (s.setFrm x).dma = s.dma := rfl
@[simp] theorem State.setFrm_upd (s : State) (x : Frm) : (s.setFrm x).upd = s.upd := rfl
@[simp] theorem State.setFrm_col (s : State) (x : Frm) : (s.setFrm x).col = s.col := rfl
@[simp] theorem State.setFrm_fab (s : State) (x : Frm) : (s.setFrm x).fab = s.fab := rfl
@[simp] theorem State.setFrm_sx (s : State) (x : Frm) : (s.setFrm x).sx = s.sx := rfl
@[simp] theorem State.setFrm_mir (s : State) (x : Frm) : (s.setFrm x).mir = s.mir := rfl
@[simp] theorem State.setFrm_err (s : State) (x : Frm) : (s.setFrm x).err = s.err := rfl
@[simp] theorem State.setFrm_lead (s : State) (x : Frm) : (s.setFrm x).lead = s.lead := rfl
@[simp] theorem State.setMmu_pending (s : State) (x : Mmu) : (s.setMmu x).pending = s.pending := rfl
@[simp] theorem State.setMmu_held (s : State) (x : Mmu) : (s.setMmu x).held = s.held := rfl
@[simp] theorem State.setMmu_link (s : State) (x : Mmu) : (s.setMmu x).link = s.link := rfl
@[simp] theorem State.setMmu_free (s : State) (x : Mmu) : (s.setMmu x).free = s.free := rfl
@[simp] theorem State.setMmu_fuse (s : State) (x : Mmu) : (s.setMmu x).fuse = s.fuse := rfl
@[simp] theorem State.setMmu_fuseE (s : State) (x : Mmu) : (s.setMmu x).fuseE = s.fuseE := rfl
@[simp] theorem State.setMmu_pwr (s : State) (x : Mmu) : (s.setMmu x).pwr = s.pwr := rfl
@[simp] theorem State.setMmu_time (s : State) (x : Mmu) : (s.setMmu x).time = s.time := rfl
@[simp] theorem State.setMmu_dev (s : State) (x : Mmu) : (s.setMmu x).dev = s.dev := rfl
@[simp] theorem State.setMmu_regs (s : State) (x : Mmu) : (s.setMmu x).regs = s.regs := rfl
@[simp] theorem State.setMmu_blk (s : State) (x : Mmu) : (s.setMmu x).blk = s.blk := rfl
@[simp] theorem State.setMmu_boot (s : State) (x : Mmu) : (s.setMmu x).boot = s.boot := rfl
@[simp] theorem State.setMmu_sec (s : State) (x : Mmu) : (s.setMmu x).sec = s.sec := rfl
@[simp] theorem State.setMmu_chv (s : State) (x : Mmu) : (s.setMmu x).chv = s.chv := rfl
@[simp] theorem State.setMmu_mem (s : State) (x : Mmu) : (s.setMmu x).mem = s.mem := rfl
@[simp] theorem State.setMmu_frm (s : State) (x : Mmu) : (s.setMmu x).frm = s.frm := rfl
@[simp] theorem State.setMmu_mmu (s : State) (x : Mmu) : (s.setMmu x).mmu = x := rfl
@[simp] theorem State.setMmu_jrn (s : State) (x : Mmu) : (s.setMmu x).jrn = s.jrn := rfl
@[simp] theorem State.setMmu_ctx (s : State) (x : Mmu) : (s.setMmu x).ctx = s.ctx := rfl
@[simp] theorem State.setMmu_clu (s : State) (x : Mmu) : (s.setMmu x).clu = s.clu := rfl
@[simp] theorem State.setMmu_slot (s : State) (x : Mmu) : (s.setMmu x).slot = s.slot := rfl
@[simp] theorem State.setMmu_que (s : State) (x : Mmu) : (s.setMmu x).que = s.que := rfl
@[simp] theorem State.setMmu_led (s : State) (x : Mmu) : (s.setMmu x).led = s.led := rfl
@[simp] theorem State.setMmu_syn (s : State) (x : Mmu) : (s.setMmu x).syn = s.syn := rfl
@[simp] theorem State.setMmu_dma (s : State) (x : Mmu) : (s.setMmu x).dma = s.dma := rfl
@[simp] theorem State.setMmu_upd (s : State) (x : Mmu) : (s.setMmu x).upd = s.upd := rfl
@[simp] theorem State.setMmu_col (s : State) (x : Mmu) : (s.setMmu x).col = s.col := rfl
@[simp] theorem State.setMmu_fab (s : State) (x : Mmu) : (s.setMmu x).fab = s.fab := rfl
@[simp] theorem State.setMmu_sx (s : State) (x : Mmu) : (s.setMmu x).sx = s.sx := rfl
@[simp] theorem State.setMmu_mir (s : State) (x : Mmu) : (s.setMmu x).mir = s.mir := rfl
@[simp] theorem State.setMmu_err (s : State) (x : Mmu) : (s.setMmu x).err = s.err := rfl
@[simp] theorem State.setMmu_lead (s : State) (x : Mmu) : (s.setMmu x).lead = s.lead := rfl
@[simp] theorem State.setJrn_pending (s : State) (x : Jrn) : (s.setJrn x).pending = s.pending := rfl
@[simp] theorem State.setJrn_held (s : State) (x : Jrn) : (s.setJrn x).held = s.held := rfl
@[simp] theorem State.setJrn_link (s : State) (x : Jrn) : (s.setJrn x).link = s.link := rfl
@[simp] theorem State.setJrn_free (s : State) (x : Jrn) : (s.setJrn x).free = s.free := rfl
@[simp] theorem State.setJrn_fuse (s : State) (x : Jrn) : (s.setJrn x).fuse = s.fuse := rfl
@[simp] theorem State.setJrn_fuseE (s : State) (x : Jrn) : (s.setJrn x).fuseE = s.fuseE := rfl
@[simp] theorem State.setJrn_pwr (s : State) (x : Jrn) : (s.setJrn x).pwr = s.pwr := rfl
@[simp] theorem State.setJrn_time (s : State) (x : Jrn) : (s.setJrn x).time = s.time := rfl
@[simp] theorem State.setJrn_dev (s : State) (x : Jrn) : (s.setJrn x).dev = s.dev := rfl
@[simp] theorem State.setJrn_regs (s : State) (x : Jrn) : (s.setJrn x).regs = s.regs := rfl
@[simp] theorem State.setJrn_blk (s : State) (x : Jrn) : (s.setJrn x).blk = s.blk := rfl
@[simp] theorem State.setJrn_boot (s : State) (x : Jrn) : (s.setJrn x).boot = s.boot := rfl
@[simp] theorem State.setJrn_sec (s : State) (x : Jrn) : (s.setJrn x).sec = s.sec := rfl
@[simp] theorem State.setJrn_chv (s : State) (x : Jrn) : (s.setJrn x).chv = s.chv := rfl
@[simp] theorem State.setJrn_mem (s : State) (x : Jrn) : (s.setJrn x).mem = s.mem := rfl
@[simp] theorem State.setJrn_frm (s : State) (x : Jrn) : (s.setJrn x).frm = s.frm := rfl
@[simp] theorem State.setJrn_mmu (s : State) (x : Jrn) : (s.setJrn x).mmu = s.mmu := rfl
@[simp] theorem State.setJrn_jrn (s : State) (x : Jrn) : (s.setJrn x).jrn = x := rfl
@[simp] theorem State.setJrn_ctx (s : State) (x : Jrn) : (s.setJrn x).ctx = s.ctx := rfl
@[simp] theorem State.setJrn_clu (s : State) (x : Jrn) : (s.setJrn x).clu = s.clu := rfl
@[simp] theorem State.setJrn_slot (s : State) (x : Jrn) : (s.setJrn x).slot = s.slot := rfl
@[simp] theorem State.setJrn_que (s : State) (x : Jrn) : (s.setJrn x).que = s.que := rfl
@[simp] theorem State.setJrn_led (s : State) (x : Jrn) : (s.setJrn x).led = s.led := rfl
@[simp] theorem State.setJrn_syn (s : State) (x : Jrn) : (s.setJrn x).syn = s.syn := rfl
@[simp] theorem State.setJrn_dma (s : State) (x : Jrn) : (s.setJrn x).dma = s.dma := rfl
@[simp] theorem State.setJrn_upd (s : State) (x : Jrn) : (s.setJrn x).upd = s.upd := rfl
@[simp] theorem State.setJrn_col (s : State) (x : Jrn) : (s.setJrn x).col = s.col := rfl
@[simp] theorem State.setJrn_fab (s : State) (x : Jrn) : (s.setJrn x).fab = s.fab := rfl
@[simp] theorem State.setJrn_sx (s : State) (x : Jrn) : (s.setJrn x).sx = s.sx := rfl
@[simp] theorem State.setJrn_mir (s : State) (x : Jrn) : (s.setJrn x).mir = s.mir := rfl
@[simp] theorem State.setJrn_err (s : State) (x : Jrn) : (s.setJrn x).err = s.err := rfl
@[simp] theorem State.setJrn_lead (s : State) (x : Jrn) : (s.setJrn x).lead = s.lead := rfl
@[simp] theorem State.setCtx_pending (s : State) (x : Tab Ctx) : (s.setCtx x).pending = s.pending := rfl
@[simp] theorem State.setCtx_held (s : State) (x : Tab Ctx) : (s.setCtx x).held = s.held := rfl
@[simp] theorem State.setCtx_link (s : State) (x : Tab Ctx) : (s.setCtx x).link = s.link := rfl
@[simp] theorem State.setCtx_free (s : State) (x : Tab Ctx) : (s.setCtx x).free = s.free := rfl
@[simp] theorem State.setCtx_fuse (s : State) (x : Tab Ctx) : (s.setCtx x).fuse = s.fuse := rfl
@[simp] theorem State.setCtx_fuseE (s : State) (x : Tab Ctx) : (s.setCtx x).fuseE = s.fuseE := rfl
@[simp] theorem State.setCtx_pwr (s : State) (x : Tab Ctx) : (s.setCtx x).pwr = s.pwr := rfl
@[simp] theorem State.setCtx_time (s : State) (x : Tab Ctx) : (s.setCtx x).time = s.time := rfl
@[simp] theorem State.setCtx_dev (s : State) (x : Tab Ctx) : (s.setCtx x).dev = s.dev := rfl
@[simp] theorem State.setCtx_regs (s : State) (x : Tab Ctx) : (s.setCtx x).regs = s.regs := rfl
@[simp] theorem State.setCtx_blk (s : State) (x : Tab Ctx) : (s.setCtx x).blk = s.blk := rfl
@[simp] theorem State.setCtx_boot (s : State) (x : Tab Ctx) : (s.setCtx x).boot = s.boot := rfl
@[simp] theorem State.setCtx_sec (s : State) (x : Tab Ctx) : (s.setCtx x).sec = s.sec := rfl
@[simp] theorem State.setCtx_chv (s : State) (x : Tab Ctx) : (s.setCtx x).chv = s.chv := rfl
@[simp] theorem State.setCtx_mem (s : State) (x : Tab Ctx) : (s.setCtx x).mem = s.mem := rfl
@[simp] theorem State.setCtx_frm (s : State) (x : Tab Ctx) : (s.setCtx x).frm = s.frm := rfl
@[simp] theorem State.setCtx_mmu (s : State) (x : Tab Ctx) : (s.setCtx x).mmu = s.mmu := rfl
@[simp] theorem State.setCtx_jrn (s : State) (x : Tab Ctx) : (s.setCtx x).jrn = s.jrn := rfl
@[simp] theorem State.setCtx_ctx (s : State) (x : Tab Ctx) : (s.setCtx x).ctx = x := rfl
@[simp] theorem State.setCtx_clu (s : State) (x : Tab Ctx) : (s.setCtx x).clu = s.clu := rfl
@[simp] theorem State.setCtx_slot (s : State) (x : Tab Ctx) : (s.setCtx x).slot = s.slot := rfl
@[simp] theorem State.setCtx_que (s : State) (x : Tab Ctx) : (s.setCtx x).que = s.que := rfl
@[simp] theorem State.setCtx_led (s : State) (x : Tab Ctx) : (s.setCtx x).led = s.led := rfl
@[simp] theorem State.setCtx_syn (s : State) (x : Tab Ctx) : (s.setCtx x).syn = s.syn := rfl
@[simp] theorem State.setCtx_dma (s : State) (x : Tab Ctx) : (s.setCtx x).dma = s.dma := rfl
@[simp] theorem State.setCtx_upd (s : State) (x : Tab Ctx) : (s.setCtx x).upd = s.upd := rfl
@[simp] theorem State.setCtx_col (s : State) (x : Tab Ctx) : (s.setCtx x).col = s.col := rfl
@[simp] theorem State.setCtx_fab (s : State) (x : Tab Ctx) : (s.setCtx x).fab = s.fab := rfl
@[simp] theorem State.setCtx_sx (s : State) (x : Tab Ctx) : (s.setCtx x).sx = s.sx := rfl
@[simp] theorem State.setCtx_mir (s : State) (x : Tab Ctx) : (s.setCtx x).mir = s.mir := rfl
@[simp] theorem State.setCtx_err (s : State) (x : Tab Ctx) : (s.setCtx x).err = s.err := rfl
@[simp] theorem State.setCtx_lead (s : State) (x : Tab Ctx) : (s.setCtx x).lead = s.lead := rfl
@[simp] theorem State.setClu_pending (s : State) (x : Tab Clu) : (s.setClu x).pending = s.pending := rfl
@[simp] theorem State.setClu_held (s : State) (x : Tab Clu) : (s.setClu x).held = s.held := rfl
@[simp] theorem State.setClu_link (s : State) (x : Tab Clu) : (s.setClu x).link = s.link := rfl
@[simp] theorem State.setClu_free (s : State) (x : Tab Clu) : (s.setClu x).free = s.free := rfl
@[simp] theorem State.setClu_fuse (s : State) (x : Tab Clu) : (s.setClu x).fuse = s.fuse := rfl
@[simp] theorem State.setClu_fuseE (s : State) (x : Tab Clu) : (s.setClu x).fuseE = s.fuseE := rfl
@[simp] theorem State.setClu_pwr (s : State) (x : Tab Clu) : (s.setClu x).pwr = s.pwr := rfl
@[simp] theorem State.setClu_time (s : State) (x : Tab Clu) : (s.setClu x).time = s.time := rfl
@[simp] theorem State.setClu_dev (s : State) (x : Tab Clu) : (s.setClu x).dev = s.dev := rfl
@[simp] theorem State.setClu_regs (s : State) (x : Tab Clu) : (s.setClu x).regs = s.regs := rfl
@[simp] theorem State.setClu_blk (s : State) (x : Tab Clu) : (s.setClu x).blk = s.blk := rfl
@[simp] theorem State.setClu_boot (s : State) (x : Tab Clu) : (s.setClu x).boot = s.boot := rfl
@[simp] theorem State.setClu_sec (s : State) (x : Tab Clu) : (s.setClu x).sec = s.sec := rfl
@[simp] theorem State.setClu_chv (s : State) (x : Tab Clu) : (s.setClu x).chv = s.chv := rfl
@[simp] theorem State.setClu_mem (s : State) (x : Tab Clu) : (s.setClu x).mem = s.mem := rfl
@[simp] theorem State.setClu_frm (s : State) (x : Tab Clu) : (s.setClu x).frm = s.frm := rfl
@[simp] theorem State.setClu_mmu (s : State) (x : Tab Clu) : (s.setClu x).mmu = s.mmu := rfl
@[simp] theorem State.setClu_jrn (s : State) (x : Tab Clu) : (s.setClu x).jrn = s.jrn := rfl
@[simp] theorem State.setClu_ctx (s : State) (x : Tab Clu) : (s.setClu x).ctx = s.ctx := rfl
@[simp] theorem State.setClu_clu (s : State) (x : Tab Clu) : (s.setClu x).clu = x := rfl
@[simp] theorem State.setClu_slot (s : State) (x : Tab Clu) : (s.setClu x).slot = s.slot := rfl
@[simp] theorem State.setClu_que (s : State) (x : Tab Clu) : (s.setClu x).que = s.que := rfl
@[simp] theorem State.setClu_led (s : State) (x : Tab Clu) : (s.setClu x).led = s.led := rfl
@[simp] theorem State.setClu_syn (s : State) (x : Tab Clu) : (s.setClu x).syn = s.syn := rfl
@[simp] theorem State.setClu_dma (s : State) (x : Tab Clu) : (s.setClu x).dma = s.dma := rfl
@[simp] theorem State.setClu_upd (s : State) (x : Tab Clu) : (s.setClu x).upd = s.upd := rfl
@[simp] theorem State.setClu_col (s : State) (x : Tab Clu) : (s.setClu x).col = s.col := rfl
@[simp] theorem State.setClu_fab (s : State) (x : Tab Clu) : (s.setClu x).fab = s.fab := rfl
@[simp] theorem State.setClu_sx (s : State) (x : Tab Clu) : (s.setClu x).sx = s.sx := rfl
@[simp] theorem State.setClu_mir (s : State) (x : Tab Clu) : (s.setClu x).mir = s.mir := rfl
@[simp] theorem State.setClu_err (s : State) (x : Tab Clu) : (s.setClu x).err = s.err := rfl
@[simp] theorem State.setClu_lead (s : State) (x : Tab Clu) : (s.setClu x).lead = s.lead := rfl
@[simp] theorem State.setSlot_pending (s : State) (x : Tab SlotSt) : (s.setSlot x).pending = s.pending := rfl
@[simp] theorem State.setSlot_held (s : State) (x : Tab SlotSt) : (s.setSlot x).held = s.held := rfl
@[simp] theorem State.setSlot_link (s : State) (x : Tab SlotSt) : (s.setSlot x).link = s.link := rfl
@[simp] theorem State.setSlot_free (s : State) (x : Tab SlotSt) : (s.setSlot x).free = s.free := rfl
@[simp] theorem State.setSlot_fuse (s : State) (x : Tab SlotSt) : (s.setSlot x).fuse = s.fuse := rfl
@[simp] theorem State.setSlot_fuseE (s : State) (x : Tab SlotSt) : (s.setSlot x).fuseE = s.fuseE := rfl
@[simp] theorem State.setSlot_pwr (s : State) (x : Tab SlotSt) : (s.setSlot x).pwr = s.pwr := rfl
@[simp] theorem State.setSlot_time (s : State) (x : Tab SlotSt) : (s.setSlot x).time = s.time := rfl
@[simp] theorem State.setSlot_dev (s : State) (x : Tab SlotSt) : (s.setSlot x).dev = s.dev := rfl
@[simp] theorem State.setSlot_regs (s : State) (x : Tab SlotSt) : (s.setSlot x).regs = s.regs := rfl
@[simp] theorem State.setSlot_blk (s : State) (x : Tab SlotSt) : (s.setSlot x).blk = s.blk := rfl
@[simp] theorem State.setSlot_boot (s : State) (x : Tab SlotSt) : (s.setSlot x).boot = s.boot := rfl
@[simp] theorem State.setSlot_sec (s : State) (x : Tab SlotSt) : (s.setSlot x).sec = s.sec := rfl
@[simp] theorem State.setSlot_chv (s : State) (x : Tab SlotSt) : (s.setSlot x).chv = s.chv := rfl
@[simp] theorem State.setSlot_mem (s : State) (x : Tab SlotSt) : (s.setSlot x).mem = s.mem := rfl
@[simp] theorem State.setSlot_frm (s : State) (x : Tab SlotSt) : (s.setSlot x).frm = s.frm := rfl
@[simp] theorem State.setSlot_mmu (s : State) (x : Tab SlotSt) : (s.setSlot x).mmu = s.mmu := rfl
@[simp] theorem State.setSlot_jrn (s : State) (x : Tab SlotSt) : (s.setSlot x).jrn = s.jrn := rfl
@[simp] theorem State.setSlot_ctx (s : State) (x : Tab SlotSt) : (s.setSlot x).ctx = s.ctx := rfl
@[simp] theorem State.setSlot_clu (s : State) (x : Tab SlotSt) : (s.setSlot x).clu = s.clu := rfl
@[simp] theorem State.setSlot_slot (s : State) (x : Tab SlotSt) : (s.setSlot x).slot = x := rfl
@[simp] theorem State.setSlot_que (s : State) (x : Tab SlotSt) : (s.setSlot x).que = s.que := rfl
@[simp] theorem State.setSlot_led (s : State) (x : Tab SlotSt) : (s.setSlot x).led = s.led := rfl
@[simp] theorem State.setSlot_syn (s : State) (x : Tab SlotSt) : (s.setSlot x).syn = s.syn := rfl
@[simp] theorem State.setSlot_dma (s : State) (x : Tab SlotSt) : (s.setSlot x).dma = s.dma := rfl
@[simp] theorem State.setSlot_upd (s : State) (x : Tab SlotSt) : (s.setSlot x).upd = s.upd := rfl
@[simp] theorem State.setSlot_col (s : State) (x : Tab SlotSt) : (s.setSlot x).col = s.col := rfl
@[simp] theorem State.setSlot_fab (s : State) (x : Tab SlotSt) : (s.setSlot x).fab = s.fab := rfl
@[simp] theorem State.setSlot_sx (s : State) (x : Tab SlotSt) : (s.setSlot x).sx = s.sx := rfl
@[simp] theorem State.setSlot_mir (s : State) (x : Tab SlotSt) : (s.setSlot x).mir = s.mir := rfl
@[simp] theorem State.setSlot_err (s : State) (x : Tab SlotSt) : (s.setSlot x).err = s.err := rfl
@[simp] theorem State.setSlot_lead (s : State) (x : Tab SlotSt) : (s.setSlot x).lead = s.lead := rfl
@[simp] theorem State.setQue_pending (s : State) (x : Que) : (s.setQue x).pending = s.pending := rfl
@[simp] theorem State.setQue_held (s : State) (x : Que) : (s.setQue x).held = s.held := rfl
@[simp] theorem State.setQue_link (s : State) (x : Que) : (s.setQue x).link = s.link := rfl
@[simp] theorem State.setQue_free (s : State) (x : Que) : (s.setQue x).free = s.free := rfl
@[simp] theorem State.setQue_fuse (s : State) (x : Que) : (s.setQue x).fuse = s.fuse := rfl
@[simp] theorem State.setQue_fuseE (s : State) (x : Que) : (s.setQue x).fuseE = s.fuseE := rfl
@[simp] theorem State.setQue_pwr (s : State) (x : Que) : (s.setQue x).pwr = s.pwr := rfl
@[simp] theorem State.setQue_time (s : State) (x : Que) : (s.setQue x).time = s.time := rfl
@[simp] theorem State.setQue_dev (s : State) (x : Que) : (s.setQue x).dev = s.dev := rfl
@[simp] theorem State.setQue_regs (s : State) (x : Que) : (s.setQue x).regs = s.regs := rfl
@[simp] theorem State.setQue_blk (s : State) (x : Que) : (s.setQue x).blk = s.blk := rfl
@[simp] theorem State.setQue_boot (s : State) (x : Que) : (s.setQue x).boot = s.boot := rfl
@[simp] theorem State.setQue_sec (s : State) (x : Que) : (s.setQue x).sec = s.sec := rfl
@[simp] theorem State.setQue_chv (s : State) (x : Que) : (s.setQue x).chv = s.chv := rfl
@[simp] theorem State.setQue_mem (s : State) (x : Que) : (s.setQue x).mem = s.mem := rfl
@[simp] theorem State.setQue_frm (s : State) (x : Que) : (s.setQue x).frm = s.frm := rfl
@[simp] theorem State.setQue_mmu (s : State) (x : Que) : (s.setQue x).mmu = s.mmu := rfl
@[simp] theorem State.setQue_jrn (s : State) (x : Que) : (s.setQue x).jrn = s.jrn := rfl
@[simp] theorem State.setQue_ctx (s : State) (x : Que) : (s.setQue x).ctx = s.ctx := rfl
@[simp] theorem State.setQue_clu (s : State) (x : Que) : (s.setQue x).clu = s.clu := rfl
@[simp] theorem State.setQue_slot (s : State) (x : Que) : (s.setQue x).slot = s.slot := rfl
@[simp] theorem State.setQue_que (s : State) (x : Que) : (s.setQue x).que = x := rfl
@[simp] theorem State.setQue_led (s : State) (x : Que) : (s.setQue x).led = s.led := rfl
@[simp] theorem State.setQue_syn (s : State) (x : Que) : (s.setQue x).syn = s.syn := rfl
@[simp] theorem State.setQue_dma (s : State) (x : Que) : (s.setQue x).dma = s.dma := rfl
@[simp] theorem State.setQue_upd (s : State) (x : Que) : (s.setQue x).upd = s.upd := rfl
@[simp] theorem State.setQue_col (s : State) (x : Que) : (s.setQue x).col = s.col := rfl
@[simp] theorem State.setQue_fab (s : State) (x : Que) : (s.setQue x).fab = s.fab := rfl
@[simp] theorem State.setQue_sx (s : State) (x : Que) : (s.setQue x).sx = s.sx := rfl
@[simp] theorem State.setQue_mir (s : State) (x : Que) : (s.setQue x).mir = s.mir := rfl
@[simp] theorem State.setQue_err (s : State) (x : Que) : (s.setQue x).err = s.err := rfl
@[simp] theorem State.setQue_lead (s : State) (x : Que) : (s.setQue x).lead = s.lead := rfl
@[simp] theorem State.setLed_pending (s : State) (x : Led) : (s.setLed x).pending = s.pending := rfl
@[simp] theorem State.setLed_held (s : State) (x : Led) : (s.setLed x).held = s.held := rfl
@[simp] theorem State.setLed_link (s : State) (x : Led) : (s.setLed x).link = s.link := rfl
@[simp] theorem State.setLed_free (s : State) (x : Led) : (s.setLed x).free = s.free := rfl
@[simp] theorem State.setLed_fuse (s : State) (x : Led) : (s.setLed x).fuse = s.fuse := rfl
@[simp] theorem State.setLed_fuseE (s : State) (x : Led) : (s.setLed x).fuseE = s.fuseE := rfl
@[simp] theorem State.setLed_pwr (s : State) (x : Led) : (s.setLed x).pwr = s.pwr := rfl
@[simp] theorem State.setLed_time (s : State) (x : Led) : (s.setLed x).time = s.time := rfl
@[simp] theorem State.setLed_dev (s : State) (x : Led) : (s.setLed x).dev = s.dev := rfl
@[simp] theorem State.setLed_regs (s : State) (x : Led) : (s.setLed x).regs = s.regs := rfl
@[simp] theorem State.setLed_blk (s : State) (x : Led) : (s.setLed x).blk = s.blk := rfl
@[simp] theorem State.setLed_boot (s : State) (x : Led) : (s.setLed x).boot = s.boot := rfl
@[simp] theorem State.setLed_sec (s : State) (x : Led) : (s.setLed x).sec = s.sec := rfl
@[simp] theorem State.setLed_chv (s : State) (x : Led) : (s.setLed x).chv = s.chv := rfl
@[simp] theorem State.setLed_mem (s : State) (x : Led) : (s.setLed x).mem = s.mem := rfl
@[simp] theorem State.setLed_frm (s : State) (x : Led) : (s.setLed x).frm = s.frm := rfl
@[simp] theorem State.setLed_mmu (s : State) (x : Led) : (s.setLed x).mmu = s.mmu := rfl
@[simp] theorem State.setLed_jrn (s : State) (x : Led) : (s.setLed x).jrn = s.jrn := rfl
@[simp] theorem State.setLed_ctx (s : State) (x : Led) : (s.setLed x).ctx = s.ctx := rfl
@[simp] theorem State.setLed_clu (s : State) (x : Led) : (s.setLed x).clu = s.clu := rfl
@[simp] theorem State.setLed_slot (s : State) (x : Led) : (s.setLed x).slot = s.slot := rfl
@[simp] theorem State.setLed_que (s : State) (x : Led) : (s.setLed x).que = s.que := rfl
@[simp] theorem State.setLed_led (s : State) (x : Led) : (s.setLed x).led = x := rfl
@[simp] theorem State.setLed_syn (s : State) (x : Led) : (s.setLed x).syn = s.syn := rfl
@[simp] theorem State.setLed_dma (s : State) (x : Led) : (s.setLed x).dma = s.dma := rfl
@[simp] theorem State.setLed_upd (s : State) (x : Led) : (s.setLed x).upd = s.upd := rfl
@[simp] theorem State.setLed_col (s : State) (x : Led) : (s.setLed x).col = s.col := rfl
@[simp] theorem State.setLed_fab (s : State) (x : Led) : (s.setLed x).fab = s.fab := rfl
@[simp] theorem State.setLed_sx (s : State) (x : Led) : (s.setLed x).sx = s.sx := rfl
@[simp] theorem State.setLed_mir (s : State) (x : Led) : (s.setLed x).mir = s.mir := rfl
@[simp] theorem State.setLed_err (s : State) (x : Led) : (s.setLed x).err = s.err := rfl
@[simp] theorem State.setLed_lead (s : State) (x : Led) : (s.setLed x).lead = s.lead := rfl
@[simp] theorem State.setSyn_pending (s : State) (x : Syn) : (s.setSyn x).pending = s.pending := rfl
@[simp] theorem State.setSyn_held (s : State) (x : Syn) : (s.setSyn x).held = s.held := rfl
@[simp] theorem State.setSyn_link (s : State) (x : Syn) : (s.setSyn x).link = s.link := rfl
@[simp] theorem State.setSyn_free (s : State) (x : Syn) : (s.setSyn x).free = s.free := rfl
@[simp] theorem State.setSyn_fuse (s : State) (x : Syn) : (s.setSyn x).fuse = s.fuse := rfl
@[simp] theorem State.setSyn_fuseE (s : State) (x : Syn) : (s.setSyn x).fuseE = s.fuseE := rfl
@[simp] theorem State.setSyn_pwr (s : State) (x : Syn) : (s.setSyn x).pwr = s.pwr := rfl
@[simp] theorem State.setSyn_time (s : State) (x : Syn) : (s.setSyn x).time = s.time := rfl
@[simp] theorem State.setSyn_dev (s : State) (x : Syn) : (s.setSyn x).dev = s.dev := rfl
@[simp] theorem State.setSyn_regs (s : State) (x : Syn) : (s.setSyn x).regs = s.regs := rfl
@[simp] theorem State.setSyn_blk (s : State) (x : Syn) : (s.setSyn x).blk = s.blk := rfl
@[simp] theorem State.setSyn_boot (s : State) (x : Syn) : (s.setSyn x).boot = s.boot := rfl
@[simp] theorem State.setSyn_sec (s : State) (x : Syn) : (s.setSyn x).sec = s.sec := rfl
@[simp] theorem State.setSyn_chv (s : State) (x : Syn) : (s.setSyn x).chv = s.chv := rfl
@[simp] theorem State.setSyn_mem (s : State) (x : Syn) : (s.setSyn x).mem = s.mem := rfl
@[simp] theorem State.setSyn_frm (s : State) (x : Syn) : (s.setSyn x).frm = s.frm := rfl
@[simp] theorem State.setSyn_mmu (s : State) (x : Syn) : (s.setSyn x).mmu = s.mmu := rfl
@[simp] theorem State.setSyn_jrn (s : State) (x : Syn) : (s.setSyn x).jrn = s.jrn := rfl
@[simp] theorem State.setSyn_ctx (s : State) (x : Syn) : (s.setSyn x).ctx = s.ctx := rfl
@[simp] theorem State.setSyn_clu (s : State) (x : Syn) : (s.setSyn x).clu = s.clu := rfl
@[simp] theorem State.setSyn_slot (s : State) (x : Syn) : (s.setSyn x).slot = s.slot := rfl
@[simp] theorem State.setSyn_que (s : State) (x : Syn) : (s.setSyn x).que = s.que := rfl
@[simp] theorem State.setSyn_led (s : State) (x : Syn) : (s.setSyn x).led = s.led := rfl
@[simp] theorem State.setSyn_syn (s : State) (x : Syn) : (s.setSyn x).syn = x := rfl
@[simp] theorem State.setSyn_dma (s : State) (x : Syn) : (s.setSyn x).dma = s.dma := rfl
@[simp] theorem State.setSyn_upd (s : State) (x : Syn) : (s.setSyn x).upd = s.upd := rfl
@[simp] theorem State.setSyn_col (s : State) (x : Syn) : (s.setSyn x).col = s.col := rfl
@[simp] theorem State.setSyn_fab (s : State) (x : Syn) : (s.setSyn x).fab = s.fab := rfl
@[simp] theorem State.setSyn_sx (s : State) (x : Syn) : (s.setSyn x).sx = s.sx := rfl
@[simp] theorem State.setSyn_mir (s : State) (x : Syn) : (s.setSyn x).mir = s.mir := rfl
@[simp] theorem State.setSyn_err (s : State) (x : Syn) : (s.setSyn x).err = s.err := rfl
@[simp] theorem State.setSyn_lead (s : State) (x : Syn) : (s.setSyn x).lead = s.lead := rfl
@[simp] theorem State.setDma_pending (s : State) (x : DmaS) : (s.setDma x).pending = s.pending := rfl
@[simp] theorem State.setDma_held (s : State) (x : DmaS) : (s.setDma x).held = s.held := rfl
@[simp] theorem State.setDma_link (s : State) (x : DmaS) : (s.setDma x).link = s.link := rfl
@[simp] theorem State.setDma_free (s : State) (x : DmaS) : (s.setDma x).free = s.free := rfl
@[simp] theorem State.setDma_fuse (s : State) (x : DmaS) : (s.setDma x).fuse = s.fuse := rfl
@[simp] theorem State.setDma_fuseE (s : State) (x : DmaS) : (s.setDma x).fuseE = s.fuseE := rfl
@[simp] theorem State.setDma_pwr (s : State) (x : DmaS) : (s.setDma x).pwr = s.pwr := rfl
@[simp] theorem State.setDma_time (s : State) (x : DmaS) : (s.setDma x).time = s.time := rfl
@[simp] theorem State.setDma_dev (s : State) (x : DmaS) : (s.setDma x).dev = s.dev := rfl
@[simp] theorem State.setDma_regs (s : State) (x : DmaS) : (s.setDma x).regs = s.regs := rfl
@[simp] theorem State.setDma_blk (s : State) (x : DmaS) : (s.setDma x).blk = s.blk := rfl
@[simp] theorem State.setDma_boot (s : State) (x : DmaS) : (s.setDma x).boot = s.boot := rfl
@[simp] theorem State.setDma_sec (s : State) (x : DmaS) : (s.setDma x).sec = s.sec := rfl
@[simp] theorem State.setDma_chv (s : State) (x : DmaS) : (s.setDma x).chv = s.chv := rfl
@[simp] theorem State.setDma_mem (s : State) (x : DmaS) : (s.setDma x).mem = s.mem := rfl
@[simp] theorem State.setDma_frm (s : State) (x : DmaS) : (s.setDma x).frm = s.frm := rfl
@[simp] theorem State.setDma_mmu (s : State) (x : DmaS) : (s.setDma x).mmu = s.mmu := rfl
@[simp] theorem State.setDma_jrn (s : State) (x : DmaS) : (s.setDma x).jrn = s.jrn := rfl
@[simp] theorem State.setDma_ctx (s : State) (x : DmaS) : (s.setDma x).ctx = s.ctx := rfl
@[simp] theorem State.setDma_clu (s : State) (x : DmaS) : (s.setDma x).clu = s.clu := rfl
@[simp] theorem State.setDma_slot (s : State) (x : DmaS) : (s.setDma x).slot = s.slot := rfl
@[simp] theorem State.setDma_que (s : State) (x : DmaS) : (s.setDma x).que = s.que := rfl
@[simp] theorem State.setDma_led (s : State) (x : DmaS) : (s.setDma x).led = s.led := rfl
@[simp] theorem State.setDma_syn (s : State) (x : DmaS) : (s.setDma x).syn = s.syn := rfl
@[simp] theorem State.setDma_dma (s : State) (x : DmaS) : (s.setDma x).dma = x := rfl
@[simp] theorem State.setDma_upd (s : State) (x : DmaS) : (s.setDma x).upd = s.upd := rfl
@[simp] theorem State.setDma_col (s : State) (x : DmaS) : (s.setDma x).col = s.col := rfl
@[simp] theorem State.setDma_fab (s : State) (x : DmaS) : (s.setDma x).fab = s.fab := rfl
@[simp] theorem State.setDma_sx (s : State) (x : DmaS) : (s.setDma x).sx = s.sx := rfl
@[simp] theorem State.setDma_mir (s : State) (x : DmaS) : (s.setDma x).mir = s.mir := rfl
@[simp] theorem State.setDma_err (s : State) (x : DmaS) : (s.setDma x).err = s.err := rfl
@[simp] theorem State.setDma_lead (s : State) (x : DmaS) : (s.setDma x).lead = s.lead := rfl
@[simp] theorem State.setUpd_pending (s : State) (x : Upd) : (s.setUpd x).pending = s.pending := rfl
@[simp] theorem State.setUpd_held (s : State) (x : Upd) : (s.setUpd x).held = s.held := rfl
@[simp] theorem State.setUpd_link (s : State) (x : Upd) : (s.setUpd x).link = s.link := rfl
@[simp] theorem State.setUpd_free (s : State) (x : Upd) : (s.setUpd x).free = s.free := rfl
@[simp] theorem State.setUpd_fuse (s : State) (x : Upd) : (s.setUpd x).fuse = s.fuse := rfl
@[simp] theorem State.setUpd_fuseE (s : State) (x : Upd) : (s.setUpd x).fuseE = s.fuseE := rfl
@[simp] theorem State.setUpd_pwr (s : State) (x : Upd) : (s.setUpd x).pwr = s.pwr := rfl
@[simp] theorem State.setUpd_time (s : State) (x : Upd) : (s.setUpd x).time = s.time := rfl
@[simp] theorem State.setUpd_dev (s : State) (x : Upd) : (s.setUpd x).dev = s.dev := rfl
@[simp] theorem State.setUpd_regs (s : State) (x : Upd) : (s.setUpd x).regs = s.regs := rfl
@[simp] theorem State.setUpd_blk (s : State) (x : Upd) : (s.setUpd x).blk = s.blk := rfl
@[simp] theorem State.setUpd_boot (s : State) (x : Upd) : (s.setUpd x).boot = s.boot := rfl
@[simp] theorem State.setUpd_sec (s : State) (x : Upd) : (s.setUpd x).sec = s.sec := rfl
@[simp] theorem State.setUpd_chv (s : State) (x : Upd) : (s.setUpd x).chv = s.chv := rfl
@[simp] theorem State.setUpd_mem (s : State) (x : Upd) : (s.setUpd x).mem = s.mem := rfl
@[simp] theorem State.setUpd_frm (s : State) (x : Upd) : (s.setUpd x).frm = s.frm := rfl
@[simp] theorem State.setUpd_mmu (s : State) (x : Upd) : (s.setUpd x).mmu = s.mmu := rfl
@[simp] theorem State.setUpd_jrn (s : State) (x : Upd) : (s.setUpd x).jrn = s.jrn := rfl
@[simp] theorem State.setUpd_ctx (s : State) (x : Upd) : (s.setUpd x).ctx = s.ctx := rfl
@[simp] theorem State.setUpd_clu (s : State) (x : Upd) : (s.setUpd x).clu = s.clu := rfl
@[simp] theorem State.setUpd_slot (s : State) (x : Upd) : (s.setUpd x).slot = s.slot := rfl
@[simp] theorem State.setUpd_que (s : State) (x : Upd) : (s.setUpd x).que = s.que := rfl
@[simp] theorem State.setUpd_led (s : State) (x : Upd) : (s.setUpd x).led = s.led := rfl
@[simp] theorem State.setUpd_syn (s : State) (x : Upd) : (s.setUpd x).syn = s.syn := rfl
@[simp] theorem State.setUpd_dma (s : State) (x : Upd) : (s.setUpd x).dma = s.dma := rfl
@[simp] theorem State.setUpd_upd (s : State) (x : Upd) : (s.setUpd x).upd = x := rfl
@[simp] theorem State.setUpd_col (s : State) (x : Upd) : (s.setUpd x).col = s.col := rfl
@[simp] theorem State.setUpd_fab (s : State) (x : Upd) : (s.setUpd x).fab = s.fab := rfl
@[simp] theorem State.setUpd_sx (s : State) (x : Upd) : (s.setUpd x).sx = s.sx := rfl
@[simp] theorem State.setUpd_mir (s : State) (x : Upd) : (s.setUpd x).mir = s.mir := rfl
@[simp] theorem State.setUpd_err (s : State) (x : Upd) : (s.setUpd x).err = s.err := rfl
@[simp] theorem State.setUpd_lead (s : State) (x : Upd) : (s.setUpd x).lead = s.lead := rfl
@[simp] theorem State.setCol_pending (s : State) (x : Col) : (s.setCol x).pending = s.pending := rfl
@[simp] theorem State.setCol_held (s : State) (x : Col) : (s.setCol x).held = s.held := rfl
@[simp] theorem State.setCol_link (s : State) (x : Col) : (s.setCol x).link = s.link := rfl
@[simp] theorem State.setCol_free (s : State) (x : Col) : (s.setCol x).free = s.free := rfl
@[simp] theorem State.setCol_fuse (s : State) (x : Col) : (s.setCol x).fuse = s.fuse := rfl
@[simp] theorem State.setCol_fuseE (s : State) (x : Col) : (s.setCol x).fuseE = s.fuseE := rfl
@[simp] theorem State.setCol_pwr (s : State) (x : Col) : (s.setCol x).pwr = s.pwr := rfl
@[simp] theorem State.setCol_time (s : State) (x : Col) : (s.setCol x).time = s.time := rfl
@[simp] theorem State.setCol_dev (s : State) (x : Col) : (s.setCol x).dev = s.dev := rfl
@[simp] theorem State.setCol_regs (s : State) (x : Col) : (s.setCol x).regs = s.regs := rfl
@[simp] theorem State.setCol_blk (s : State) (x : Col) : (s.setCol x).blk = s.blk := rfl
@[simp] theorem State.setCol_boot (s : State) (x : Col) : (s.setCol x).boot = s.boot := rfl
@[simp] theorem State.setCol_sec (s : State) (x : Col) : (s.setCol x).sec = s.sec := rfl
@[simp] theorem State.setCol_chv (s : State) (x : Col) : (s.setCol x).chv = s.chv := rfl
@[simp] theorem State.setCol_mem (s : State) (x : Col) : (s.setCol x).mem = s.mem := rfl
@[simp] theorem State.setCol_frm (s : State) (x : Col) : (s.setCol x).frm = s.frm := rfl
@[simp] theorem State.setCol_mmu (s : State) (x : Col) : (s.setCol x).mmu = s.mmu := rfl
@[simp] theorem State.setCol_jrn (s : State) (x : Col) : (s.setCol x).jrn = s.jrn := rfl
@[simp] theorem State.setCol_ctx (s : State) (x : Col) : (s.setCol x).ctx = s.ctx := rfl
@[simp] theorem State.setCol_clu (s : State) (x : Col) : (s.setCol x).clu = s.clu := rfl
@[simp] theorem State.setCol_slot (s : State) (x : Col) : (s.setCol x).slot = s.slot := rfl
@[simp] theorem State.setCol_que (s : State) (x : Col) : (s.setCol x).que = s.que := rfl
@[simp] theorem State.setCol_led (s : State) (x : Col) : (s.setCol x).led = s.led := rfl
@[simp] theorem State.setCol_syn (s : State) (x : Col) : (s.setCol x).syn = s.syn := rfl
@[simp] theorem State.setCol_dma (s : State) (x : Col) : (s.setCol x).dma = s.dma := rfl
@[simp] theorem State.setCol_upd (s : State) (x : Col) : (s.setCol x).upd = s.upd := rfl
@[simp] theorem State.setCol_col (s : State) (x : Col) : (s.setCol x).col = x := rfl
@[simp] theorem State.setCol_fab (s : State) (x : Col) : (s.setCol x).fab = s.fab := rfl
@[simp] theorem State.setCol_sx (s : State) (x : Col) : (s.setCol x).sx = s.sx := rfl
@[simp] theorem State.setCol_mir (s : State) (x : Col) : (s.setCol x).mir = s.mir := rfl
@[simp] theorem State.setCol_err (s : State) (x : Col) : (s.setCol x).err = s.err := rfl
@[simp] theorem State.setCol_lead (s : State) (x : Col) : (s.setCol x).lead = s.lead := rfl
@[simp] theorem State.setFab_pending (s : State) (x : Fab) : (s.setFab x).pending = s.pending := rfl
@[simp] theorem State.setFab_held (s : State) (x : Fab) : (s.setFab x).held = s.held := rfl
@[simp] theorem State.setFab_link (s : State) (x : Fab) : (s.setFab x).link = s.link := rfl
@[simp] theorem State.setFab_free (s : State) (x : Fab) : (s.setFab x).free = s.free := rfl
@[simp] theorem State.setFab_fuse (s : State) (x : Fab) : (s.setFab x).fuse = s.fuse := rfl
@[simp] theorem State.setFab_fuseE (s : State) (x : Fab) : (s.setFab x).fuseE = s.fuseE := rfl
@[simp] theorem State.setFab_pwr (s : State) (x : Fab) : (s.setFab x).pwr = s.pwr := rfl
@[simp] theorem State.setFab_time (s : State) (x : Fab) : (s.setFab x).time = s.time := rfl
@[simp] theorem State.setFab_dev (s : State) (x : Fab) : (s.setFab x).dev = s.dev := rfl
@[simp] theorem State.setFab_regs (s : State) (x : Fab) : (s.setFab x).regs = s.regs := rfl
@[simp] theorem State.setFab_blk (s : State) (x : Fab) : (s.setFab x).blk = s.blk := rfl
@[simp] theorem State.setFab_boot (s : State) (x : Fab) : (s.setFab x).boot = s.boot := rfl
@[simp] theorem State.setFab_sec (s : State) (x : Fab) : (s.setFab x).sec = s.sec := rfl
@[simp] theorem State.setFab_chv (s : State) (x : Fab) : (s.setFab x).chv = s.chv := rfl
@[simp] theorem State.setFab_mem (s : State) (x : Fab) : (s.setFab x).mem = s.mem := rfl
@[simp] theorem State.setFab_frm (s : State) (x : Fab) : (s.setFab x).frm = s.frm := rfl
@[simp] theorem State.setFab_mmu (s : State) (x : Fab) : (s.setFab x).mmu = s.mmu := rfl
@[simp] theorem State.setFab_jrn (s : State) (x : Fab) : (s.setFab x).jrn = s.jrn := rfl
@[simp] theorem State.setFab_ctx (s : State) (x : Fab) : (s.setFab x).ctx = s.ctx := rfl
@[simp] theorem State.setFab_clu (s : State) (x : Fab) : (s.setFab x).clu = s.clu := rfl
@[simp] theorem State.setFab_slot (s : State) (x : Fab) : (s.setFab x).slot = s.slot := rfl
@[simp] theorem State.setFab_que (s : State) (x : Fab) : (s.setFab x).que = s.que := rfl
@[simp] theorem State.setFab_led (s : State) (x : Fab) : (s.setFab x).led = s.led := rfl
@[simp] theorem State.setFab_syn (s : State) (x : Fab) : (s.setFab x).syn = s.syn := rfl
@[simp] theorem State.setFab_dma (s : State) (x : Fab) : (s.setFab x).dma = s.dma := rfl
@[simp] theorem State.setFab_upd (s : State) (x : Fab) : (s.setFab x).upd = s.upd := rfl
@[simp] theorem State.setFab_col (s : State) (x : Fab) : (s.setFab x).col = s.col := rfl
@[simp] theorem State.setFab_fab (s : State) (x : Fab) : (s.setFab x).fab = x := rfl
@[simp] theorem State.setFab_sx (s : State) (x : Fab) : (s.setFab x).sx = s.sx := rfl
@[simp] theorem State.setFab_mir (s : State) (x : Fab) : (s.setFab x).mir = s.mir := rfl
@[simp] theorem State.setFab_err (s : State) (x : Fab) : (s.setFab x).err = s.err := rfl
@[simp] theorem State.setFab_lead (s : State) (x : Fab) : (s.setFab x).lead = s.lead := rfl
@[simp] theorem State.setSx_pending (s : State) (x : Sx) : (s.setSx x).pending = s.pending := rfl
@[simp] theorem State.setSx_held (s : State) (x : Sx) : (s.setSx x).held = s.held := rfl
@[simp] theorem State.setSx_link (s : State) (x : Sx) : (s.setSx x).link = s.link := rfl
@[simp] theorem State.setSx_free (s : State) (x : Sx) : (s.setSx x).free = s.free := rfl
@[simp] theorem State.setSx_fuse (s : State) (x : Sx) : (s.setSx x).fuse = s.fuse := rfl
@[simp] theorem State.setSx_fuseE (s : State) (x : Sx) : (s.setSx x).fuseE = s.fuseE := rfl
@[simp] theorem State.setSx_pwr (s : State) (x : Sx) : (s.setSx x).pwr = s.pwr := rfl
@[simp] theorem State.setSx_time (s : State) (x : Sx) : (s.setSx x).time = s.time := rfl
@[simp] theorem State.setSx_dev (s : State) (x : Sx) : (s.setSx x).dev = s.dev := rfl
@[simp] theorem State.setSx_regs (s : State) (x : Sx) : (s.setSx x).regs = s.regs := rfl
@[simp] theorem State.setSx_blk (s : State) (x : Sx) : (s.setSx x).blk = s.blk := rfl
@[simp] theorem State.setSx_boot (s : State) (x : Sx) : (s.setSx x).boot = s.boot := rfl
@[simp] theorem State.setSx_sec (s : State) (x : Sx) : (s.setSx x).sec = s.sec := rfl
@[simp] theorem State.setSx_chv (s : State) (x : Sx) : (s.setSx x).chv = s.chv := rfl
@[simp] theorem State.setSx_mem (s : State) (x : Sx) : (s.setSx x).mem = s.mem := rfl
@[simp] theorem State.setSx_frm (s : State) (x : Sx) : (s.setSx x).frm = s.frm := rfl
@[simp] theorem State.setSx_mmu (s : State) (x : Sx) : (s.setSx x).mmu = s.mmu := rfl
@[simp] theorem State.setSx_jrn (s : State) (x : Sx) : (s.setSx x).jrn = s.jrn := rfl
@[simp] theorem State.setSx_ctx (s : State) (x : Sx) : (s.setSx x).ctx = s.ctx := rfl
@[simp] theorem State.setSx_clu (s : State) (x : Sx) : (s.setSx x).clu = s.clu := rfl
@[simp] theorem State.setSx_slot (s : State) (x : Sx) : (s.setSx x).slot = s.slot := rfl
@[simp] theorem State.setSx_que (s : State) (x : Sx) : (s.setSx x).que = s.que := rfl
@[simp] theorem State.setSx_led (s : State) (x : Sx) : (s.setSx x).led = s.led := rfl
@[simp] theorem State.setSx_syn (s : State) (x : Sx) : (s.setSx x).syn = s.syn := rfl
@[simp] theorem State.setSx_dma (s : State) (x : Sx) : (s.setSx x).dma = s.dma := rfl
@[simp] theorem State.setSx_upd (s : State) (x : Sx) : (s.setSx x).upd = s.upd := rfl
@[simp] theorem State.setSx_col (s : State) (x : Sx) : (s.setSx x).col = s.col := rfl
@[simp] theorem State.setSx_fab (s : State) (x : Sx) : (s.setSx x).fab = s.fab := rfl
@[simp] theorem State.setSx_sx (s : State) (x : Sx) : (s.setSx x).sx = x := rfl
@[simp] theorem State.setSx_mir (s : State) (x : Sx) : (s.setSx x).mir = s.mir := rfl
@[simp] theorem State.setSx_err (s : State) (x : Sx) : (s.setSx x).err = s.err := rfl
@[simp] theorem State.setSx_lead (s : State) (x : Sx) : (s.setSx x).lead = s.lead := rfl
@[simp] theorem State.setMir_pending (s : State) (x : Mir) : (s.setMir x).pending = s.pending := rfl
@[simp] theorem State.setMir_held (s : State) (x : Mir) : (s.setMir x).held = s.held := rfl
@[simp] theorem State.setMir_link (s : State) (x : Mir) : (s.setMir x).link = s.link := rfl
@[simp] theorem State.setMir_free (s : State) (x : Mir) : (s.setMir x).free = s.free := rfl
@[simp] theorem State.setMir_fuse (s : State) (x : Mir) : (s.setMir x).fuse = s.fuse := rfl
@[simp] theorem State.setMir_fuseE (s : State) (x : Mir) : (s.setMir x).fuseE = s.fuseE := rfl
@[simp] theorem State.setMir_pwr (s : State) (x : Mir) : (s.setMir x).pwr = s.pwr := rfl
@[simp] theorem State.setMir_time (s : State) (x : Mir) : (s.setMir x).time = s.time := rfl
@[simp] theorem State.setMir_dev (s : State) (x : Mir) : (s.setMir x).dev = s.dev := rfl
@[simp] theorem State.setMir_regs (s : State) (x : Mir) : (s.setMir x).regs = s.regs := rfl
@[simp] theorem State.setMir_blk (s : State) (x : Mir) : (s.setMir x).blk = s.blk := rfl
@[simp] theorem State.setMir_boot (s : State) (x : Mir) : (s.setMir x).boot = s.boot := rfl
@[simp] theorem State.setMir_sec (s : State) (x : Mir) : (s.setMir x).sec = s.sec := rfl
@[simp] theorem State.setMir_chv (s : State) (x : Mir) : (s.setMir x).chv = s.chv := rfl
@[simp] theorem State.setMir_mem (s : State) (x : Mir) : (s.setMir x).mem = s.mem := rfl
@[simp] theorem State.setMir_frm (s : State) (x : Mir) : (s.setMir x).frm = s.frm := rfl
@[simp] theorem State.setMir_mmu (s : State) (x : Mir) : (s.setMir x).mmu = s.mmu := rfl
@[simp] theorem State.setMir_jrn (s : State) (x : Mir) : (s.setMir x).jrn = s.jrn := rfl
@[simp] theorem State.setMir_ctx (s : State) (x : Mir) : (s.setMir x).ctx = s.ctx := rfl
@[simp] theorem State.setMir_clu (s : State) (x : Mir) : (s.setMir x).clu = s.clu := rfl
@[simp] theorem State.setMir_slot (s : State) (x : Mir) : (s.setMir x).slot = s.slot := rfl
@[simp] theorem State.setMir_que (s : State) (x : Mir) : (s.setMir x).que = s.que := rfl
@[simp] theorem State.setMir_led (s : State) (x : Mir) : (s.setMir x).led = s.led := rfl
@[simp] theorem State.setMir_syn (s : State) (x : Mir) : (s.setMir x).syn = s.syn := rfl
@[simp] theorem State.setMir_dma (s : State) (x : Mir) : (s.setMir x).dma = s.dma := rfl
@[simp] theorem State.setMir_upd (s : State) (x : Mir) : (s.setMir x).upd = s.upd := rfl
@[simp] theorem State.setMir_col (s : State) (x : Mir) : (s.setMir x).col = s.col := rfl
@[simp] theorem State.setMir_fab (s : State) (x : Mir) : (s.setMir x).fab = s.fab := rfl
@[simp] theorem State.setMir_sx (s : State) (x : Mir) : (s.setMir x).sx = s.sx := rfl
@[simp] theorem State.setMir_mir (s : State) (x : Mir) : (s.setMir x).mir = x := rfl
@[simp] theorem State.setMir_err (s : State) (x : Mir) : (s.setMir x).err = s.err := rfl
@[simp] theorem State.setMir_lead (s : State) (x : Mir) : (s.setMir x).lead = s.lead := rfl
@[simp] theorem State.setErr_pending (s : State) (x : Err) : (s.setErr x).pending = s.pending := rfl
@[simp] theorem State.setErr_held (s : State) (x : Err) : (s.setErr x).held = s.held := rfl
@[simp] theorem State.setErr_link (s : State) (x : Err) : (s.setErr x).link = s.link := rfl
@[simp] theorem State.setErr_free (s : State) (x : Err) : (s.setErr x).free = s.free := rfl
@[simp] theorem State.setErr_fuse (s : State) (x : Err) : (s.setErr x).fuse = s.fuse := rfl
@[simp] theorem State.setErr_fuseE (s : State) (x : Err) : (s.setErr x).fuseE = s.fuseE := rfl
@[simp] theorem State.setErr_pwr (s : State) (x : Err) : (s.setErr x).pwr = s.pwr := rfl
@[simp] theorem State.setErr_time (s : State) (x : Err) : (s.setErr x).time = s.time := rfl
@[simp] theorem State.setErr_dev (s : State) (x : Err) : (s.setErr x).dev = s.dev := rfl
@[simp] theorem State.setErr_regs (s : State) (x : Err) : (s.setErr x).regs = s.regs := rfl
@[simp] theorem State.setErr_blk (s : State) (x : Err) : (s.setErr x).blk = s.blk := rfl
@[simp] theorem State.setErr_boot (s : State) (x : Err) : (s.setErr x).boot = s.boot := rfl
@[simp] theorem State.setErr_sec (s : State) (x : Err) : (s.setErr x).sec = s.sec := rfl
@[simp] theorem State.setErr_chv (s : State) (x : Err) : (s.setErr x).chv = s.chv := rfl
@[simp] theorem State.setErr_mem (s : State) (x : Err) : (s.setErr x).mem = s.mem := rfl
@[simp] theorem State.setErr_frm (s : State) (x : Err) : (s.setErr x).frm = s.frm := rfl
@[simp] theorem State.setErr_mmu (s : State) (x : Err) : (s.setErr x).mmu = s.mmu := rfl
@[simp] theorem State.setErr_jrn (s : State) (x : Err) : (s.setErr x).jrn = s.jrn := rfl
@[simp] theorem State.setErr_ctx (s : State) (x : Err) : (s.setErr x).ctx = s.ctx := rfl
@[simp] theorem State.setErr_clu (s : State) (x : Err) : (s.setErr x).clu = s.clu := rfl
@[simp] theorem State.setErr_slot (s : State) (x : Err) : (s.setErr x).slot = s.slot := rfl
@[simp] theorem State.setErr_que (s : State) (x : Err) : (s.setErr x).que = s.que := rfl
@[simp] theorem State.setErr_led (s : State) (x : Err) : (s.setErr x).led = s.led := rfl
@[simp] theorem State.setErr_syn (s : State) (x : Err) : (s.setErr x).syn = s.syn := rfl
@[simp] theorem State.setErr_dma (s : State) (x : Err) : (s.setErr x).dma = s.dma := rfl
@[simp] theorem State.setErr_upd (s : State) (x : Err) : (s.setErr x).upd = s.upd := rfl
@[simp] theorem State.setErr_col (s : State) (x : Err) : (s.setErr x).col = s.col := rfl
@[simp] theorem State.setErr_fab (s : State) (x : Err) : (s.setErr x).fab = s.fab := rfl
@[simp] theorem State.setErr_sx (s : State) (x : Err) : (s.setErr x).sx = s.sx := rfl
@[simp] theorem State.setErr_mir (s : State) (x : Err) : (s.setErr x).mir = s.mir := rfl
@[simp] theorem State.setErr_err (s : State) (x : Err) : (s.setErr x).err = x := rfl
@[simp] theorem State.setErr_lead (s : State) (x : Err) : (s.setErr x).lead = s.lead := rfl
@[simp] theorem State.setLead_pending (s : State) (x : Lead) : (s.setLead x).pending = s.pending := rfl
@[simp] theorem State.setLead_held (s : State) (x : Lead) : (s.setLead x).held = s.held := rfl
@[simp] theorem State.setLead_link (s : State) (x : Lead) : (s.setLead x).link = s.link := rfl
@[simp] theorem State.setLead_free (s : State) (x : Lead) : (s.setLead x).free = s.free := rfl
@[simp] theorem State.setLead_fuse (s : State) (x : Lead) : (s.setLead x).fuse = s.fuse := rfl
@[simp] theorem State.setLead_fuseE (s : State) (x : Lead) : (s.setLead x).fuseE = s.fuseE := rfl
@[simp] theorem State.setLead_pwr (s : State) (x : Lead) : (s.setLead x).pwr = s.pwr := rfl
@[simp] theorem State.setLead_time (s : State) (x : Lead) : (s.setLead x).time = s.time := rfl
@[simp] theorem State.setLead_dev (s : State) (x : Lead) : (s.setLead x).dev = s.dev := rfl
@[simp] theorem State.setLead_regs (s : State) (x : Lead) : (s.setLead x).regs = s.regs := rfl
@[simp] theorem State.setLead_blk (s : State) (x : Lead) : (s.setLead x).blk = s.blk := rfl
@[simp] theorem State.setLead_boot (s : State) (x : Lead) : (s.setLead x).boot = s.boot := rfl
@[simp] theorem State.setLead_sec (s : State) (x : Lead) : (s.setLead x).sec = s.sec := rfl
@[simp] theorem State.setLead_chv (s : State) (x : Lead) : (s.setLead x).chv = s.chv := rfl
@[simp] theorem State.setLead_mem (s : State) (x : Lead) : (s.setLead x).mem = s.mem := rfl
@[simp] theorem State.setLead_frm (s : State) (x : Lead) : (s.setLead x).frm = s.frm := rfl
@[simp] theorem State.setLead_mmu (s : State) (x : Lead) : (s.setLead x).mmu = s.mmu := rfl
@[simp] theorem State.setLead_jrn (s : State) (x : Lead) : (s.setLead x).jrn = s.jrn := rfl
@[simp] theorem State.setLead_ctx (s : State) (x : Lead) : (s.setLead x).ctx = s.ctx := rfl
@[simp] theorem State.setLead_clu (s : State) (x : Lead) : (s.setLead x).clu = s.clu := rfl
@[simp] theorem State.setLead_slot (s : State) (x : Lead) : (s.setLead x).slot = s.slot := rfl
@[simp] theorem State.setLead_que (s : State) (x : Lead) : (s.setLead x).que = s.que := rfl
@[simp] theorem State.setLead_led (s : State) (x : Lead) : (s.setLead x).led = s.led := rfl
@[simp] theorem State.setLead_syn (s : State) (x : Lead) : (s.setLead x).syn = s.syn := rfl
@[simp] theorem State.setLead_dma (s : State) (x : Lead) : (s.setLead x).dma = s.dma := rfl
@[simp] theorem State.setLead_upd (s : State) (x : Lead) : (s.setLead x).upd = s.upd := rfl
@[simp] theorem State.setLead_col (s : State) (x : Lead) : (s.setLead x).col = s.col := rfl
@[simp] theorem State.setLead_fab (s : State) (x : Lead) : (s.setLead x).fab = s.fab := rfl
@[simp] theorem State.setLead_sx (s : State) (x : Lead) : (s.setLead x).sx = s.sx := rfl
@[simp] theorem State.setLead_mir (s : State) (x : Lead) : (s.setLead x).mir = s.mir := rfl
@[simp] theorem State.setLead_err (s : State) (x : Lead) : (s.setLead x).err = s.err := rfl
@[simp] theorem State.setLead_lead (s : State) (x : Lead) : (s.setLead x).lead = x := rfl

end Sys2Proof.Machine
end

