-- ==== Sys2Proof/Laws/Tab.lean ====
section
/-!
SUPPORT. Laws of the keyed stores: a read after a write, at the key written and at any other, and that every operation
keeps the canonical form.
-/

namespace Sys2Proof.Tab

variable {β : Type}

theorem get_ins_self (d : Nat → β) (t : Tab β) (k : Nat) (v : β) : get d (ins k v (del t k)) k = v := by
  induction t with
  | nil => simp [del, ins, get]
  | cons e t ih =>
    by_cases h : e.1 = k
    · simpa [del, h] using ih
    · by_cases h2 : k < e.1
      · simp [del, h, ins, h2, get]
      · simpa [del, h, ins, h2, get] using ih

theorem get_ins_ne (d : Nat → β) (t : Tab β) (k k' : Nat) (v : β) (h : k' ≠ k) :
    get d (ins k v t) k' = get d t k' := by
  induction t with
  | nil => simp [ins, get, Ne.symm h]
  | cons e t ih =>
    by_cases h2 : k < e.1
    · simp [ins, h2, get, Ne.symm h]
    · simp [ins, h2, get, ih]

theorem get_filter (d : Nat → β) (t : Tab β) (p : Nat → Bool) (k : Nat) :
    get d (t.filter fun e => p e.1) k = if p k then get d t k else d k := by
  induction t with
  | nil => simp [get]
  | cons e t ih =>
    by_cases hp : p e.1
    · by_cases hk : e.1 = k
      · subst hk; simp [hp, get]
      · simp [hp, get, hk, ih]
    · by_cases hk : e.1 = k
      · subst hk; simp [hp, ih]
      · simp [hp, get, hk, ih]

theorem get_del (d : Nat → β) (t : Tab β) (k k' : Nat) : get d (del t k) k' = if k' = k then d k else get d t k' := by
  have h := get_filter d t (fun x => decide (x ≠ k)) k'
  by_cases hk : k' = k
  · subst hk; simpa [del] using h
  · simpa [del, hk] using h

theorem get_clear (d : Nat → β) (t : Tab β) (a n k : Nat) :
    get d (clear t a n) k = if k < a ∨ a + n ≤ k then get d t k else d k := by
  have h := get_filter d t (fun x => decide (x < a ∨ a + n ≤ x)) k
  simpa [clear] using h

/-- Keys strictly rising, as a relation of the list. -/
theorem rising_iff (t : Tab β) : rising t = true ↔ t.Pairwise fun e f => e.1 < f.1 := by
  induction t with
  | nil => simp [rising]
  | cons e t ih =>
    cases t with
    | nil => simp [rising]
    | cons f t =>
      simp only [rising, Bool.and_eq_true, decide_eq_true_eq, ih, List.pairwise_cons]
      constructor
      · rintro ⟨h, hf, ht⟩
        refine ⟨?_, hf, ht⟩
        intro x hx
        rcases List.mem_cons.mp hx with rfl | hx
        · exact h
        · exact Nat.lt_trans h (hf x hx)
      · rintro ⟨h, hf, ht⟩
        exact ⟨h f (by simp), hf, ht⟩

theorem mem_ins (k : Nat) (v : β) (t : Tab β) (e : Nat × β) : e ∈ ins k v t ↔ e = (k, v) ∨ e ∈ t := by
  induction t with
  | nil => simp [ins]
  | cons f t ih =>
    by_cases h : k < f.1
    · simp [ins, h]
    · simp only [ins, h, if_false, List.mem_cons, ih]
      tauto

theorem pairwise_ins (k : Nat) (v : β) (t : Tab β) (h : t.Pairwise fun e f => e.1 < f.1) (hk : ∀ e ∈ t, e.1 ≠ k) :
    (ins k v t).Pairwise fun e f => e.1 < f.1 := by
  induction t with
  | nil => simp [ins]
  | cons f t ih =>
    rw [List.pairwise_cons] at h
    by_cases hf : k < f.1
    · simp only [ins, hf, if_true, List.pairwise_cons, List.mem_cons]
      refine ⟨?_, h⟩
      rintro e (rfl | he)
      · exact hf
      · exact Nat.lt_trans hf (h.1 e he)
    · simp only [ins, hf, if_false, List.pairwise_cons]
      refine ⟨?_, ih h.2 fun e he => hk e (List.mem_cons_of_mem f he)⟩
      intro e he
      rcases (mem_ins k v t e).mp he with rfl | he
      · have := hk f (by simp); simp only; omega
      · exact h.1 e he

theorem get_append (d : Nat → β) (t u : Tab β) (k : Nat) :
    get d (t ++ u) k = if t.any (fun e => decide (e.1 = k)) then get d t k else get d u k := by
  induction t with
  | nil => simp
  | cons e t ih =>
    by_cases h : e.1 = k
    · simp [get, h]
    · simp only [List.cons_append, get, h, if_false, ih, List.any_cons, decide_false, Bool.false_or]

/-- A key that a store does not list reads the unlisted value. -/
theorem get_unlisted (d : Nat → β) (t : Tab β) (k : Nat) (h : ∀ e ∈ t, e.1 ≠ k) : get d t k = d k := by
  induction t with
  | nil => rfl
  | cons e t ih => rw [get, if_neg (h e (by simp)), ih fun f hf => h f (List.mem_cons_of_mem e hf)]

theorem get_append_left (d : Nat → β) (t u : Tab β) (k : Nat) (h : ∀ e ∈ u, e.1 ≠ k) :
    get d (t ++ u) k = get d t k := by
  rw [get_append]
  split
  · rfl
  · next hn =>
    rw [get_unlisted d u k h, get_unlisted d t k]
    intro e he hk
    exact hn (List.any_eq_true.mpr ⟨e, he, by simpa using hk⟩)

theorem get_append_right (d : Nat → β) (t u : Tab β) (k : Nat) (h : ∀ e ∈ t, e.1 ≠ k) :
    get d (t ++ u) k = get d u k := by
  rw [get_append, if_neg]
  intro hn
  obtain ⟨e, he, hk⟩ := List.any_eq_true.mp hn
  exact h e he (by simpa using hk)

/-- The keys of a run of values. -/
theorem run_keys (vs : List β) : ∀ a, ∀ e ∈ run a vs, a ≤ e.1 ∧ e.1 < a + vs.length := by
  induction vs with
  | nil => intro a e he; simp [run] at he
  | cons v vs ih =>
    intro a e he
    rcases List.mem_cons.mp he with rfl | he
    · simp
    · have := ih (a + 1) e he
      simp only [List.length_cons]; omega

theorem get_run (d : Nat → β) (vs : List β) : ∀ (a i : Nat) (h : i < vs.length), get d (run a vs) (a + i) = vs[i] := by
  induction vs with
  | nil => intro a i h; simp at h
  | cons v vs ih =>
    intro a i h
    cases i with
    | zero => simp [run, get]
    | succ i =>
      have := ih (a + 1) i (by simpa using h)
      rw [run, get, if_neg (by simp)]
      simpa [Nat.add_assoc, Nat.add_comm 1] using this

theorem run_pairwise (vs : List β) : ∀ a, (run a vs).Pairwise fun e f => e.1 < f.1 := by
  induction vs with
  | nil => intro a; exact List.Pairwise.nil
  | cons v vs ih =>
    intro a
    rw [run, List.pairwise_cons]
    exact ⟨fun f hf => by have := run_keys vs (a + 1) f hf; simp only; omega, ih (a + 1)⟩

/-- Reading a range is reading each of its keys. -/
theorem getMany_eq (d : Nat → β) (t : Tab β) (a n : Nat) : getMany d t a n = (List.range n).map fun i => get d t (a + i) := by
  unfold getMany
  apply List.map_congr_left
  intro i hi
  have := List.mem_range.mp hi
  rw [get_filter d t (fun x => decide (a ≤ x ∧ x < a + n)), if_pos (by simpa using this)]

variable [DecidableEq β]

/-- The key written reads the value written. -/
@[simp] theorem get_put_self (d : Nat → β) (t : Tab β) (k : Nat) (v : β) : get d (put d t k v) k = v := by
  by_cases h : v = d k
  · simp [put, h, get_del]
  · simp [put, h, get_ins_self]

/-- Any other key reads as before. -/
theorem get_put_ne (d : Nat → β) (t : Tab β) (k k' : Nat) (v : β) (h : k' ≠ k) :
    get d (put d t k v) k' = get d t k' := by
  by_cases hv : v = d k
  · simp [put, hv, get_del, h]
  · simp [put, hv, get_ins_ne d _ k k' v h, get_del, h]

theorem get_put (d : Nat → β) (t : Tab β) (k k' : Nat) (v : β) :
    get d (put d t k v) k' = if k' = k then v else get d t k' := by
  by_cases h : k' = k
  · subst h; simp
  · simp [h, get_put_ne d t k k' v h]

theorem get_nondefault (d : Nat → β) (t : Tab β) (k : Nat) (h : t.Pairwise fun e f => e.1 < f.1) :
    get d (t.filter fun e => decide (e.2 ≠ d e.1)) k = get d t k := by
  induction t with
  | nil => rfl
  | cons e t ih =>
    rw [List.pairwise_cons] at h
    by_cases hv : e.2 = d e.1
    · rw [List.filter_cons_of_neg (by simpa using hv), ih h.2]
      by_cases hk : e.1 = k
      · rw [get, if_pos hk, get_unlisted d t, hv, hk]
        intro f hf; have := h.1 f hf; omega
      · rw [get, if_neg hk]
    · rw [List.filter_cons_of_pos (by simpa using hv)]
      by_cases hk : e.1 = k
      · rw [get, if_pos hk, get, if_pos hk]
      · rw [get, if_neg hk, get, if_neg hk, ih h.2]

/-- A key outside the range written reads as before. -/
theorem get_putMany_out (d : Nat → β) (vs : List β) (t : Tab β) (a k : Nat) (h : k < a ∨ a + vs.length ≤ k) :
    get d (putMany d t a vs) k = get d t k := by
  have hmid : ∀ e ∈ (run a vs).filter fun e => decide (e.2 ≠ d e.1), e.1 ≠ k := by
    intro e he hk
    have := run_keys vs a e (List.mem_filter.mp he).1
    omega
  rcases h with h | h
  · rw [putMany, get_append_left, get_filter d t (fun x => decide (x < a)), if_pos (by simpa using h)]
    intro e he hk
    rcases List.mem_append.mp he with he | he
    · exact hmid e he hk
    · have := (List.mem_filter.mp he).2
      simp only [decide_eq_true_eq] at this; omega
  · rw [putMany, get_append_right, get_append_right _ _ _ _ hmid,
      get_filter d t (fun x => decide (a + vs.length ≤ x)), if_pos (by simpa using h)]
    intro e he hk
    have := (List.mem_filter.mp he).2
    simp only [decide_eq_true_eq] at this; omega

/-- A key inside reads its value. -/
theorem get_putMany_in (d : Nat → β) (vs : List β) (t : Tab β) (a i : Nat) (h : i < vs.length) :
    get d (putMany d t a vs) (a + i) = vs[i] := by
  rw [putMany, get_append_right, get_append_left, get_nondefault _ _ _ (run_pairwise vs a), get_run d vs a i h]
  · intro e he hk
    have := (List.mem_filter.mp he).2
    simp only [decide_eq_true_eq] at this; omega
  · intro e he hk
    have := (List.mem_filter.mp he).2
    simp only [decide_eq_true_eq] at this; omega

/-- A range reads back what was written. -/
theorem getMany_putMany (d : Nat → β) (t : Tab β) (a : Nat) (vs : List β) :
    getMany d (putMany d t a vs) a vs.length = vs := by
  rw [getMany_eq]
  apply List.ext_getElem
  · simp
  · intro i h1 h2
    simpa using get_putMany_in d vs t a i h2

/-- A range that does not meet the one written reads as before. -/
theorem getMany_putMany_out (d : Nat → β) (t : Tab β) (a b n : Nat) (vs : List β)
    (h : b + n ≤ a ∨ a + vs.length ≤ b) : getMany d (putMany d t a vs) b n = getMany d t b n := by
  rw [getMany_eq, getMany_eq]
  apply List.map_congr_left
  intro i hi
  have := List.mem_range.mp hi
  exact get_putMany_out d vs t a (b + i) (by omega)

/-! ### The canonical form -/

theorem wf_iff (d : Nat → β) (t : Tab β) :
    wf d t = true ↔ (t.Pairwise fun e f => e.1 < f.1) ∧ ∀ e ∈ t, e.2 ≠ d e.1 := by
  simp [wf, rising_iff]

@[simp] theorem wf_nil (d : Nat → β) : wf d ([] : Tab β) = true := rfl

/-- Leaving entries out keeps the form. -/
theorem wf_filter (d : Nat → β) (t : Tab β) (p : Nat × β → Bool) (h : wf d t = true) : wf d (t.filter p) = true := by
  rw [wf_iff] at h ⊢
  exact ⟨h.1.filter p, fun e he => h.2 e (List.mem_filter.mp he).1⟩

/-- A write keeps the form. -/
theorem wf_put (d : Nat → β) (t : Tab β) (k : Nat) (v : β) (h : wf d t = true) : wf d (put d t k v) = true := by
  by_cases hv : v = d k
  · simpa [put, hv, del] using wf_filter d t (fun e => decide (e.1 ≠ k)) h
  · have hd : wf d (del t k) = true := wf_filter d t (fun e => decide (e.1 ≠ k)) h
    rw [wf_iff] at hd ⊢
    simp only [put, hv, if_false]
    refine ⟨pairwise_ins k v _ hd.1 ?_, ?_⟩
    · intro e he
      have := (List.mem_filter.mp he).2
      simpa using this
    · intro e he
      rcases (mem_ins k v _ e).mp he with rfl | he
      · exact hv
      · exact hd.2 e he

theorem wf_upd (d : Nat → β) (t : Tab β) (k : Nat) (f : β → β) (h : wf d t = true) : wf d (upd d t k f) = true :=
  wf_put d t k _ h

theorem wf_clear (d : Nat → β) (t : Tab β) (a n : Nat) (h : wf d t = true) : wf d (clear t a n) = true :=
  wf_filter d t _ h

theorem wf_putMany (d : Nat → β) (vs : List β) (t : Tab β) (a : Nat) (h : wf d t = true) : wf d (putMany d t a vs) = true := by
  rw [wf_iff] at h ⊢
  refine ⟨?_, ?_⟩
  · rw [putMany, List.pairwise_append, List.pairwise_append]
    refine ⟨h.1.filter _, ⟨(run_pairwise vs a).filter _, h.1.filter _, ?_⟩, ?_⟩
    · intro e he f hf
      have h1 := run_keys vs a e (List.mem_filter.mp he).1
      have h2 := (List.mem_filter.mp hf).2
      simp only [decide_eq_true_eq] at h2; omega
    · intro e he f hf
      have h1 := (List.mem_filter.mp he).2
      simp only [decide_eq_true_eq] at h1
      rcases List.mem_append.mp hf with hf | hf
      · have h2 := run_keys vs a f (List.mem_filter.mp hf).1; omega
      · have h2 := (List.mem_filter.mp hf).2
        simp only [decide_eq_true_eq] at h2; omega
  · intro e he
    rcases List.mem_append.mp he with he | he
    · exact h.2 e (List.mem_filter.mp he).1
    · rcases List.mem_append.mp he with he | he
      · simpa using (List.mem_filter.mp he).2
      · exact h.2 e (List.mem_filter.mp he).1

/-- A chain of writes keeps the form. -/
theorem wf_foldl (d : Nat → β) {γ : Type} (g : Tab β → γ → Tab β) (hg : ∀ t x, wf d t = true → wf d (g t x) = true)
    (xs : List γ) : ∀ t, wf d t = true → wf d (xs.foldl g t) = true := by
  induction xs with
  | nil => intro t h; exact h
  | cons x xs ih => intro t h; exact ih _ (hg t x h)

/-- Stores in canonical form that read alike are equal. -/
theorem eq_of_get (d : Nat → β) (t u : Tab β) (ht : wf d t = true) (hu : wf d u = true)
    (h : ∀ k, get d t k = get d u k) : t = u := by
  have key : ∀ (t : Tab β) (k : Nat), (∀ e ∈ t, k < e.1) → get d t k = d k := by
    intro t k hk
    induction t with
    | nil => rfl
    | cons e t ih =>
      have := hk e (by simp)
      rw [get, if_neg (by omega), ih fun f hf => hk f (List.mem_cons_of_mem e hf)]
  rw [wf_iff] at ht hu
  induction t generalizing u with
  | nil =>
    cases u with
    | nil => rfl
    | cons f u => exact absurd (by simpa [get] using (h f.1).symm) (hu.2 f (by simp))
  | cons e t ih =>
    cases u with
    | nil => exact absurd (by simpa [get] using h e.1) (ht.2 e (by simp))
    | cons f u =>
      obtain ⟨ht1, ht2⟩ := ht
      obtain ⟨hu1, hu2⟩ := hu
      rw [List.pairwise_cons] at ht1 hu1
      have hk : e.1 = f.1 := by
        by_contra hne
        rcases Nat.lt_or_gt_of_ne hne with hlt | hlt
        · have h1 := h e.1
          rw [get, if_pos rfl, key (f :: u) e.1 ?_] at h1
          · exact ht2 e (by simp) h1
          · intro x hx
            rcases List.mem_cons.mp hx with rfl | hx
            · exact hlt
            · exact Nat.lt_trans hlt (hu1.1 x hx)
        · have h1 := (h f.1).symm
          rw [get, if_pos rfl, key (e :: t) f.1 ?_] at h1
          · exact hu2 f (by simp) h1
          · intro x hx
            rcases List.mem_cons.mp hx with rfl | hx
            · exact hlt
            · exact Nat.lt_trans hlt (ht1.1 x hx)
      have hv : e.2 = f.2 := by
        have h1 := h e.1
        rwa [get, if_pos rfl, get, if_pos hk.symm] at h1
      have hef : e = f := Prod.ext hk hv
      subst hef
      congr 1
      refine ih u ⟨ht1.2, fun x hx => ht2 x (List.mem_cons_of_mem e hx)⟩ ⟨hu1.2, fun x hx => hu2 x (List.mem_cons_of_mem e hx)⟩ ?_
      intro k
      by_cases hke : e.1 = k
      · subst hke
        rw [key t _ fun x hx => ht1.1 x hx, key u _ fun x hx => hu1.1 x hx]
      · have h1 := h k
        rwa [get, if_neg hke, get, if_neg hke] at h1

end Sys2Proof.Tab
end

