-- ==== Sys2Proof/Laws/Ops.lean ====
section
/-!
SUPPORT. The shared operations, each with one lemma that says everything it can change; keyed parts of the state read back
what was written; a register of a slot reads back, S0 reads 0.
-/

namespace Sys2Proof.Machine

/-! ### Halves -/

@[simp] theorem Two.get_set_self {α : Type} (t : Two α) (h : Half) (x : α) : (t.set h x).get h = x := by cases h <;> rfl
theorem Two.get_set_ne {α : Type} (t : Two α) (h k : Half) (x : α) (n : k ≠ h) : (t.set h x).get k = t.get k := by
  cases h <;> cases k <;> first | rfl | exact absurd rfl n
@[simp] theorem Two.get_upd_self {α : Type} (t : Two α) (h : Half) (f : α → α) : (t.upd h f).get h = f (t.get h) :=
  Two.get_set_self _ _ _

/-! ### Keyed parts of the state -/

theorem slotKey_inj {a b : Nat} {f g : Bool} : slotKey a f = slotKey b g ↔ a = b ∧ f = g := by
  cases f <;> cases g <;> simp [slotKey, b2n] <;> omega

@[simp] theorem getSlot_setSlot (s : State) (cl : Nat) (fil : Bool) (x : SlotSt) :
    getSlot (setSlot s cl fil x) cl fil = x := Tab.get_put_self _ _ _ _
theorem getSlot_setSlot_ne (s : State) (cl c : Nat) (fil f : Bool) (x : SlotSt) (h : (c, f) ≠ (cl, fil)) :
    getSlot (setSlot s cl fil x) c f = getSlot s c f :=
  Tab.get_put_ne _ _ _ _ _ fun e => h (by rw [slotKey_inj] at e; rw [e.1, e.2])
@[simp] theorem getSlot_updSlot (s : State) (cl : Nat) (fil : Bool) (f : SlotSt → SlotSt) :
    getSlot (updSlot s cl fil f) cl fil = f (getSlot s cl fil) := getSlot_setSlot _ _ _ _

@[simp] theorem getCtx_setCtx (s : State) (i : Nat) (x : Ctx) : getCtx (setCtx s i x) i = x := Tab.get_put_self _ _ _ _
theorem getCtx_setCtx_ne (s : State) (i j : Nat) (x : Ctx) (h : j ≠ i) : getCtx (setCtx s i x) j = getCtx s j :=
  Tab.get_put_ne _ _ _ _ _ h
@[simp] theorem getQ_setQ (s : State) (i : Nat) (x : Q) : getQ (setQ s i x) i = x := Tab.get_put_self _ _ _ _
theorem getQ_setQ_ne (s : State) (i j : Nat) (x : Q) (h : j ≠ i) : getQ (setQ s i x) j = getQ s j :=
  Tab.get_put_ne _ _ _ _ _ h
@[simp] theorem getObj_setObj (s : State) (i : Nat) (x : SObj) : getObj (setObj s i x) i = x := Tab.get_put_self _ _ _ _
theorem getObj_setObj_ne (s : State) (i j : Nat) (x : SObj) (h : j ≠ i) : getObj (setObj s i x) j = getObj s j :=
  Tab.get_put_ne _ _ _ _ _ h
@[simp] theorem getGrp_setGrp (s : State) (i : Nat) (x : Grp) : getGrp (setGrp s i x) i = x := Tab.get_put_self _ _ _ _
theorem getGrp_setGrp_ne (s : State) (i j : Nat) (x : Grp) (h : j ≠ i) : getGrp (setGrp s i x) j = getGrp s j :=
  Tab.get_put_ne _ _ _ _ _ h
@[simp] theorem getPort_setPort (s : State) (i : Nat) (x : Port) : getPort (setPort s i x) i = x := Tab.get_put_self _ _ _ _
theorem getPort_setPort_ne (s : State) (i j : Nat) (x : Port) (h : j ≠ i) : getPort (setPort s i x) j = getPort s j :=
  Tab.get_put_ne _ _ _ _ _ h
@[simp] theorem getClu_setClu (s : State) (i : Nat) (x : Clu) : getClu (setClu s i x) i = x := Tab.get_put_self _ _ _ _
theorem getClu_setClu_ne (s : State) (i j : Nat) (x : Clu) (h : j ≠ i) : getClu (setClu s i x) j = getClu s j :=
  Tab.get_put_ne _ _ _ _ _ h
@[simp] theorem getChv_setChv (s : State) (i : Nat) (x : ChvU) : getChv (setChv s i x) i = x := Tab.get_put_self _ _ _ _
theorem getChv_setChv_ne (s : State) (i j : Nat) (x : ChvU) (h : j ≠ i) : getChv (setChv s i x) j = getChv s j :=
  Tab.get_put_ne _ _ _ _ _ h

theorem blkIdx_inj {a b : Blk} : a.idx = b.idx ↔ a = b := by cases a <;> cases b <;> decide
@[simp] theorem getBlk_setBlk (s : State) (b : Blk) (x : BlkStat) : getBlk (setBlk s b x) b = x := Tab.get_put_self _ _ _ _
theorem getBlk_setBlk_ne (s : State) (a b : Blk) (x : BlkStat) (h : b ≠ a) : getBlk (setBlk s a x) b = getBlk s b :=
  Tab.get_put_ne _ _ _ _ _ fun e => h (blkIdx_inj.mp e)

/-! ### Registers held as words -/

@[simp] theorem rd32_wr32 (s : State) (o : Nat) (v : B32) : rd32 (wr32 s o v) o = v := Tab.get_put_self _ _ _ _
theorem rd32_wr32_ne (s : State) (o p : Nat) (v : B32) (h : p ≠ o) : rd32 (wr32 s o v) p = rd32 s p :=
  Tab.get_put_ne _ _ _ _ _ h

/-- A register write changes the words alone. -/
theorem wr32_only (s : State) (o : Nat) (v : B32) : ∃ r, wr32 s o v = s.setRegs r := ⟨_, rfl⟩
theorem wr64_only (s : State) (o : Nat) (v : B64) : ∃ r, wr64 s o v = s.setRegs r := ⟨_, rfl⟩
theorem wrWords_only (vs : List B32) : ∀ (s : State) (o : Nat), ∃ r, wrWords s o vs = s.setRegs r := by
  induction vs with
  | nil => intro s o; exact ⟨s.regs, rfl⟩
  | cons v vs ih =>
    intro s o
    obtain ⟨r, h⟩ := ih (wr32 s o v) (o + 4)
    exact ⟨r, by rw [wrWords, h]; rfl⟩
theorem wrBytes_only (s : State) (o : Nat) (bs : List Byte) : ∃ r, wrBytes s o bs = s.setRegs r := wrWords_only _ _ _

@[simp] theorem rd64_wr64 (s : State) (o : Nat) (v : B64) : rd64 (wr64 s o v) o = v := by
  have h : rd32 (wr64 s o v) o = v.extractLsb' 0 32 := by
    rw [wr64, rd32_wr32_ne _ _ _ _ (by omega), rd32_wr32]
  have h2 : rd32 (wr64 s o v) (o + 4) = v.extractLsb' 32 32 := rd32_wr32 _ _ _
  rw [rd64, h, h2]
  ext i hi
  simp only [BitVec.getElem_append, BitVec.getElem_extractLsb']
  split
  · simp [BitVec.getElem_eq_testBit_toNat, BitVec.getLsbD]
  · rename_i hn
    have : 32 + (i - 32) = i := by omega
    rw [this, BitVec.getLsbD_eq_getElem (by omega)]

/-! ### Interrupts, records and readiness -/

@[simp] theorem State.setDev_setDev (s : State) (a b : Dev) : (s.setDev a).setDev b = s.setDev b := rfl
@[simp] theorem State.setErr_setErr (s : State) (a b : Err) : (s.setErr a).setErr b = s.setErr b := rfl
@[simp] theorem State.setDev_setErr (s : State) (d : Dev) (e : Err) : (s.setDev d).setErr e = (s.setErr e).setDev d := rfl

theorem msiSignal_only (s : State) (n : Nat) : ∃ d, msiSignal s n = s.setDev d := by
  unfold msiSignal
  split
  · exact ⟨_, rfl⟩
  · exact ⟨s.dev, rfl⟩

/-- A signalled vector changes the device's interrupt state alone. -/
theorem irq_only (s : State) (n : Nat) : ∃ d, irq s n = s.setDev d := by
  unfold irq
  split
  · exact ⟨s.dev, rfl⟩
  · dsimp only
    split
    · obtain ⟨d, h⟩ := msiSignal_only (s.setDev { s.dev with irqStat := s.dev.irqStat ||| bv 16 (2 ^ n) }) n
      exact ⟨d, h⟩
    · exact ⟨_, rfl⟩

/-- A record changes the rings and the interrupt state alone; keep-alive mode stands. -/
theorem logRec_only (s : State) (h : Half) (x : Rec) :
    ∃ e d, logRec s h x = (s.setErr e).setDev d ∧ e.ka = s.err.ka := by
  unfold logRec
  split
  · exact ⟨s.err, s.dev, rfl, rfl⟩
  · split
    · exact ⟨{ s.err with ring := s.err.ring.upd h fun r => { r with ovf := sat32 (r.ovf + 1) } }, s.dev, rfl, rfl⟩
    · generalize hy : stamp s h x = y
      dsimp only
      generalize he : ({ s.err with
          ring := s.err.ring.upd h fun r => ringPut r y
          lastFatal := if x.sev = 3 then some y else s.err.lastFatal } : Err) = e
      have hk : e.ka = s.err.ka := by rw [← he]
      split
      · obtain ⟨d, hd⟩ := irq_only (s.setErr e) (halfNo h)
        exact ⟨e, d, hd, hk⟩
      · exact ⟨e, s.dev, rfl, hk⟩

theorem logSpine_only (s : State) (x : Rec) : ∃ e d, logSpine s x = (s.setErr e).setDev d ∧ e.ka = s.err.ka := by
  unfold logSpine
  split
  · exact logRec_only s _ x
  · obtain ⟨e, d, h, hk⟩ := logRec_only s .west x
    obtain ⟨e2, d2, h2, hk2⟩ := logRec_only (logRec s .west x) .east x
    exact ⟨e2, d2, by rw [h2, h]; rfl, by rw [hk2, h]; exact hk⟩

/-- A chain of records changes the rings and the interrupt state alone. -/
theorem logSpines_only {α : Type} (r : α → Rec) (xs : List α) : ∀ s : State,
    ∃ e d, xs.foldl (fun t x => logSpine t (r x)) s = (s.setErr e).setDev d ∧ e.ka = s.err.ka := by
  induction xs with
  | nil => intro s; exact ⟨s.err, s.dev, rfl, rfl⟩
  | cons x xs ih =>
    intro s
    obtain ⟨e, d, h, hk⟩ := logSpine_only s (r x)
    obtain ⟨e2, d2, h2, hk2⟩ := ih (logSpine s (r x))
    exact ⟨e2, d2, by rw [List.foldl_cons, h2, h]; rfl, by rw [hk2, h]; exact hk⟩

/-- RDY_MAP brought up to date changes the rings and the device's part alone. -/
theorem refreshRdy_only (s : State) : ∃ e d, refreshRdy s = (s.setErr e).setDev d ∧ e.ka = s.err.ka := by
  unfold refreshRdy
  generalize rdyBits s = new
  dsimp only
  split
  · exact ⟨s.err, s.dev, rfl, rfl⟩
  · generalize (List.range 64).filter (fun n => bit s.dev.rdy n && !bit new n) = gone
    obtain ⟨d, hd⟩ := irq_only (s.setDev { s.dev with rdy := new, rdyChg := sat32 (s.dev.rdyChg + 1) }) 2
    rw [hd]
    obtain ⟨e2, d2, h2, hk2⟩ := logSpines_only (fun n => { code := 0x0C05, data0 := bv 64 n }) gone
      ((s.setDev { s.dev with rdy := new, rdyChg := sat32 (s.dev.rdyChg + 1) }).setDev d)
    exact ⟨e2, d2, by rw [h2, State.setDev_setDev, State.setDev_setErr, State.setDev_setDev],
      by rw [hk2, State.setDev_err, State.setDev_err]⟩

/-! ### Command blocks -/

theorem report_only (b : Blk) (c : Nat) (s : State) : ∃ k, report b c s = s.setBlk k := ⟨_, rfl⟩
theorem busy_only (b : Blk) (s : State) : ∃ k, busy b s = s.setBlk k := ⟨_, rfl⟩

/-- A command that completes changes its block's status and the interrupt state alone. -/
theorem finish_only (b : Blk) (c : Nat) (s : State) : ∃ k d, finish b c s = (s.setBlk k).setDev d := by
  unfold finish
  dsimp only
  split
  · obtain ⟨d, hd⟩ := irq_only (setBlk s b { getBlk s b with busy := false, result := c, img := none }) (8 + b.idx)
    exact ⟨_, d, hd⟩
  · exact ⟨(setBlk s b { getBlk s b with busy := false, result := c, img := none }).blk, s.dev, rfl⟩

/-- A command that waits for a leader changes its block's status and the waiting commands alone. -/
theorem hold_only (b : Blk) (c : Instr) (s : State) : ∃ k, hold b c s = (s.setHeld (s.held ++ [c])).setBlk k := ⟨_, rfl⟩

@[simp] theorem getBlk_busy (b : Blk) (s : State) : getBlk (busy b s) b = { getBlk s b with busy := true } :=
  getBlk_setBlk _ _ _

@[simp] theorem getBlk_hold (b : Blk) (c : Instr) (s : State) :
    getBlk (hold b c s) b = { getBlk s b with busy := true, img := some (imgOf s b) } := getBlk_setBlk _ _ _

/-- The block is free again and shows the result. -/
theorem getBlk_finish (b : Blk) (c : Nat) (s : State) :
    getBlk (finish b c s) b = { getBlk s b with busy := false, result := c, img := none } := by
  unfold finish
  dsimp only
  split
  · obtain ⟨d, hd⟩ := irq_only (setBlk s b { getBlk s b with busy := false, result := c, img := none }) (8 + b.idx)
    rw [hd]
    exact getBlk_setBlk _ _ _
  · exact getBlk_setBlk _ _ _

/-- Everything that a register command can meet: it does not decode, is reported, is held, or takes its effect. -/
theorem blockCmd_cases (b : Blk) (ka : Bool) (c : Instr) (s : State) (body : State → State) :
    (regsOn s = false ∧ blockCmd b ka c s body = .next s) ∨
    (regsOn s = true ∧ ∃ n, blockCmd b ka c s body = .next (report b n s)) ∨
    (regsOn s = true ∧ mayLead s = false ∧ blockCmd b ka c s body = .next (hold b c s)) ∨
    (regsOn s = true ∧ mayLead s = true ∧ (getBlk s b).busy = false ∧ blockCmd b ka c s body = .next (body s)) := by
  unfold blockCmd
  cases h1 : regsOn s
  · exact .inl ⟨rfl, by simp⟩
  · refine .inr ?_
    cases h2 : (getBlk s b).busy
    · by_cases h3 : (s.err.ka && !ka) = true
      · exact .inl ⟨rfl, 0xFD, by simp [h3]⟩
      · by_cases h4 : (!s.err.ka && !rdyBit s b.rdy && !createEarly s c) = true
        · exact .inl ⟨rfl, 0xFC, by simp only [h3, h4, Bool.not_true, Bool.false_eq_true, ↓reduceIte]⟩
        · cases h5 : mayLead s
          · exact .inr (.inl ⟨rfl, rfl, by simp [h3, h4]⟩)
          · exact .inr (.inr ⟨rfl, rfl, rfl, by simp [h3, h4]⟩)
    · exact .inl ⟨rfl, 5, by simp⟩

/-- With the block ready, a half leading and the device outside keep-alive mode, the command takes its effect. -/
theorem blockCmd_ready (b : Blk) (ka : Bool) (c : Instr) (s : State) (body : State → State) (h1 : regsOn s = true)
    (h2 : (getBlk s b).busy = false) (h3 : s.err.ka = false) (h4 : rdyBit s b.rdy = true) (h5 : mayLead s = true) :
    blockCmd b ka c s body = .next (body s) := by
  simp [blockCmd, h1, h2, h3, h4, h5]

/-! ### Queues and waits -/

/-- A halted queue changes that queue, the rings and the interrupt state alone. -/
theorem haltQueue_only (s : State) (q cause : Nat) (byCmd : Bool) (addr : Nat) :
    ∃ u e d, haltQueue s q cause byCmd addr = ((s.setQue u).setErr e).setDev d ∧ e.ka = s.err.ka := by
  unfold haltQueue
  dsimp only
  split
  · exact ⟨s.que, s.err, s.dev, rfl, rfl⟩
  · obtain ⟨e, d, h, hk⟩ := logSpine_only (setQ s q { getQ s q with st := .halted, cause := cause, byCmd := byCmd })
      { code := 0x0301, sev := haltSev cause, scope := 4
        who := mkWho none q 0 (getCtx s (getQ s q).ctx).tenant (getQ s q).ctx, step := ctxStep s (getQ s q).ctx
        job := (getCtx s (getQ s q).ctx).job, addr := bv 64 addr, data0 := bv 64 cause }
    exact ⟨_, e, d, by rw [h]; rfl, hk⟩

theorem dropWaits_only (s : State) (p : WaitBy → Bool) : ∃ y, dropWaits s p = s.setSyn y := ⟨_, rfl⟩
theorem cancelColls_only (s : State) (p : Coll → Bool) : ∃ c, cancelColls s p = s.setCol c := ⟨_, rfl⟩

/-- A waiter that resumes changes its slot or its queue alone. -/
theorem resume_only (s : State) (w : WaitBy) : ∃ a q, resume s w = (s.setSlot a).setQue q := by
  cases w with
  | slot cl fil => exact ⟨(resume s (.slot cl fil)).slot, s.que, rfl⟩
  | queue q =>
    unfold resume
    dsimp only
    split
    · exact ⟨s.slot, (setQ s q { getQ s q with rd := (getQ s q).rd + 1, head := none, waitDl := none }).que, rfl⟩
    · exact ⟨s.slot, (setQ s q { getQ s q with waitDl := none }).que, rfl⟩

/-! ### Registers of a slot -/

@[simp] theorem sget_zero (x : SlotSt) : sget x 0 = 0 := rfl
@[simp] theorem sset_zero (x : SlotSt) (v : B64) : sset x 0 v = x := rfl
theorem sget_sset (x : SlotSt) (r : BitVec 6) (v : B64) (h : r ≠ 0) : sget (sset x r v) r = v := by
  rw [sget, sset, if_neg h, if_neg h]
  exact Tab.get_put_self _ _ _ _
theorem sget_sset_ne (x : SlotSt) (r q : BitVec 6) (v : B64) (h : q ≠ r) : sget (sset x r v) q = sget x q := by
  unfold sset
  split
  · rfl
  · have hq : q.toNat ≠ r.toNat := fun e => h (BitVec.eq_of_toNat_eq e)
    simp only [sget, Tab.get_put_ne _ _ _ _ _ hq]
@[simp] theorem vget_vset (x : SlotSt) (r : Nat) (v : Lanes) : vget (vset x r v) r = v := Tab.get_put_self _ _ _ _
theorem vget_vset_ne (x : SlotSt) (r q : Nat) (v : Lanes) (h : q ≠ r) : vget (vset x r v) q = vget x q :=
  Tab.get_put_ne _ _ _ _ _ h
@[simp] theorem pget_pset (x : SlotSt) (r : Nat) (v : B128) : pget (pset x r v) r = v := Tab.get_put_self _ _ _ _
theorem pget_pset_ne (x : SlotSt) (r q : Nat) (v : B128) (h : q ≠ r) : pget (pset x r v) q = pget x q :=
  Tab.get_put_ne _ _ _ _ _ h
@[simp] theorem tget_tset (x : SlotSt) (r : Nat) (v : BitVec 256) : tget (tset x r v) r = v := Tab.get_put_self _ _ _ _
theorem tget_tset_ne (x : SlotSt) (r q : Nat) (v : BitVec 256) (h : q ≠ r) : tget (tset x r v) q = tget x q :=
  Tab.get_put_ne _ _ _ _ _ h

/-! ### Issue -/

/-- The conditions of an instruction in their order: the first one met is reported, else it has its effect. -/
@[simp] theorem checks_nil (e : Eff) : Machine.guard [] e = e := rfl
@[simp] theorem checks_no (c a : Nat) (l : List (Bool × Nat × Nat)) (e : Eff) :
    Machine.guard ((false, c, a) :: l) e = Machine.guard l e := rfl
@[simp] theorem checks_yes (c a : Nat) (l : List (Bool × Nat × Nat)) (e : Eff) :
    Machine.guard ((true, c, a) :: l) e = .fault c a := rfl

/-- An instruction that issues and takes its effect: the PC moves behind it. -/
theorem issue_done (sl : Slot) (cls : Nat) (f : Fld) (s t : State) (body : State → Eff) (h : sl.cl < 512)
    (hi : canIssue s sl.cl sl.fil = true) (hb : body s = .done t) :
    issue sl cls f s body = .next (goOn t sl ((getSlot s sl.cl sl.fil).pc + insLen f)) := by
  simp [issue, Nat.not_le.mpr h, hi, hb]

/-- One that does not issue changes nothing. -/
theorem issue_idle (sl : Slot) (cls : Nat) (f : Fld) (s : State) (body : State → Eff) (h : sl.cl < 512)
    (hi : canIssue s sl.cl sl.fil = false) : issue sl cls f s body = .next s := by
  simp [issue, Nat.not_le.mpr h, hi]

end Sys2Proof.Machine
end

