-- ==== Sys2Proof/Laws/Effects.lean ====
section
/-!
SUPPORT. What the shared operations of the instructions and of the register commands can do, each said once: the answer
of an instruction that issues, the answer of a command whose block is ready, and what a statistics record changes.
-/

namespace Sys2Proof.Machine

/-- Writing through the tables changes memory alone. -/
theorem writeVaGo_only (via : Option (Nat × Bool)) (id : Nat) (ps : List (Nat × Nat)) : ∀ (bs : List Byte) (s : State),
    ∃ m, (writeVaGo via id ps bs s).1 = s.setMem m := by
  induction ps with
  | nil => intro bs s; exact ⟨s.mem, rfl⟩
  | cons p ps ih =>
    intro bs s
    obtain ⟨va, n⟩ := p
    unfold writeVaGo
    split
    · exact ⟨s.mem, rfl⟩
    · rename_i pa _
      obtain ⟨m, h⟩ := ih (bs.drop n) (writeMem s pa (bs.take n))
      exact ⟨m, by rw [h]; rfl⟩

/-- Writing through the tables changes memory alone. -/
theorem writeVa_only (s : State) (via : Option (Nat × Bool)) (id va : Nat) (bs : List Byte) :
    ∃ m, (writeVa s via id va bs).1 = s.setMem m := writeVaGo_only _ _ _ _ _

/-! ### Reads that meet errors -/

/-- The state with the four parts that the reading of lines can change put in. -/
def State.met (s : State) (m : Mem) (f : Frm) (e : Err) (d : Dev) : State := (((s.setMem m).setFrm f).setErr e).setDev d

theorem State.met_met (s : State) (m n : Mem) (f g : Frm) (e x : Err) (d y : Dev) :
    (s.met m f e d).met n g x y = s.met n g x y := by
  simp only [State.met, State.setMem, State.setFrm, State.setErr, State.setDev]
theorem State.met_err (s : State) (m : Mem) (f : Frm) (e : Err) (d : Dev) : (s.met m f e d).err = e := rfl

/-- What the reading of lines can change: memory, the frames' counts, the rings and the interrupt state; keep-alive mode
stands. -/
def OnlyMet (s t : State) : Prop := ∃ m f e d, t = s.met m f e d ∧ e.ka = s.err.ka

theorem OnlyMet.refl (s : State) : OnlyMet s s := ⟨s.mem, s.frm, s.err, s.dev, rfl, rfl⟩
theorem OnlyMet.trans {s t u : State} (h : OnlyMet s t) (k : OnlyMet t u) : OnlyMet s u := by
  obtain ⟨m, f, e, d, ht, hk⟩ := h
  obtain ⟨n, g, x, y, hu, kk⟩ := k
  rw [ht] at hu kk
  rw [State.met_met] at hu
  rw [State.met_err] at kk
  exact ⟨n, g, x, y, hu, kk.trans hk⟩
theorem OnlyMet.mem (s : State) (m : Mem) : OnlyMet s (s.setMem m) := ⟨m, s.frm, s.err, s.dev, rfl, rfl⟩
theorem OnlyMet.frm (s : State) (f : Frm) : OnlyMet s (s.setFrm f) := ⟨s.mem, f, s.err, s.dev, rfl, rfl⟩
theorem OnlyMet.log (s : State) (h : Half) (x : Rec) : OnlyMet s (logRec s h x) := by
  obtain ⟨e, d, hs, hk⟩ := logRec_only s h x
  exact ⟨s.mem, s.frm, e, d, hs, hk⟩

/-- A chain of steps that each only meet errors. -/
theorem OnlyMet.foldl {α : Type} (g : State → α → State) (hg : ∀ s a, OnlyMet s (g s a)) (xs : List α) :
    ∀ s, OnlyMet s (xs.foldl g s) := by
  induction xs with
  | nil => exact OnlyMet.refl
  | cons x xs ih => intro s; exact (hg s x).trans (ih _)

theorem frameCount_met (s : State) (pa : Nat) : OnlyMet s (frameCount s pa) := by
  have hr : OnlyMet s (patRoll s) := by
    unfold patRoll
    split
    · exact OnlyMet.frm _ _
    · exact OnlyMet.refl _
  unfold frameCount
  generalize patRoll s = r at hr
  dsimp only
  split
  · exact hr
  · split
    · exact hr.trans ((OnlyMet.frm _ _).trans (OnlyMet.log _ _ _))
    · exact hr.trans (OnlyMet.frm _ _)

theorem lineRec_met (s : State) (code sev pa u : Nat) : OnlyMet s (lineRec s code sev pa u) := by
  unfold lineRec
  dsimp only
  split <;> exact OnlyMet.log _ _ _

theorem meetLine_met (s : State) (l : LineRead) : OnlyMet s (meetLine s l) := by
  cases l with
  | clean => exact OnlyMet.refl _
  | corrected pa u =>
    have h1 := OnlyMet.frm s { s.frm with eccCe := sat32 (s.frm.eccCe + 1) }
    unfold meetLine
    dsimp only
    generalize s.setFrm { s.frm with eccCe := sat32 (s.frm.eccCe + 1) } = s1 at h1 ⊢
    have h2 := h1.trans (OnlyMet.frm s1 { s1.frm with ceBeat := Tab.put (fun _ => 0) s1.frm.ceBeat (lineUnit pa u).1 (beat s + 1) })
    generalize s1.setFrm { s1.frm with ceBeat := Tab.put (fun _ => 0) s1.frm.ceBeat (lineUnit pa u).1 (beat s + 1) } = s2 at h2 ⊢
    split
    · exact h2.trans (frameCount_met _ _)
    · exact (h2.trans (lineRec_met _ _ _ _ _)).trans (frameCount_met _ _)
  | bad pa u => exact (OnlyMet.frm _ _).trans ((OnlyMet.mem _ _).trans (lineRec_met _ _ _ _ _))

theorem readLine_met (s : State) (l : Nat) : OnlyMet s (readLine s l) := by
  unfold readLine
  dsimp only
  split
  · exact OnlyMet.refl _
  · exact (OnlyMet.mem _ _).trans (meetLine_met _ _)

theorem meetRange_met (s : State) (pa n : Nat) : OnlyMet s (meetRange s pa n) := by
  unfold meetRange
  split
  · exact OnlyMet.refl _
  · exact OnlyMet.foldl _ readLine_met _ _

theorem meetVa_met (s : State) (via : Option (Nat × Bool)) (id va n : Nat) : OnlyMet s (meetVa s via id va n) := by
  unfold meetVa
  split
  · exact OnlyMet.refl _
  · refine OnlyMet.foldl _ (fun t p => ?_) _ _
    split
    · exact meetRange_met _ _ _
    · exact OnlyMet.refl _

/-- A read that failed records what it met and nothing else. -/
theorem logPt_met (s : State) (id : Nat) (e : VErr) : OnlyMet s (logPt s id e) := by
  unfold logPt
  split
  · exact (readLine_met _ _).trans (OnlyMet.log _ _ _)
  · exact readLine_met _ _
  · exact OnlyMet.refl _

/-- A statistics record written, or its fault recorded, changes what reads and writes of memory can change. -/
theorem statAdd_met (s : State) (id va : Nat) (c : Ctr) (clip elem fmt mode : Nat) :
    OnlyMet s (statAdd s id va c clip elem fmt mode).1 := by
  have h0 := meetVa_met s none id va 64
  unfold statAdd loadVa
  generalize meetVa s none id va 64 = s0 at h0 ⊢
  dsimp only
  generalize readVa s0 none id va 64 = r
  obtain ⟨bs, o⟩ := r
  cases o with
  | some e => exact h0.trans (logPt_met _ _ _)
  | none =>
    change OnlyMet s (match writeVa s0 none id va (statBytes bs c clip elem fmt mode) with
      | (s1, none) => (s1, true)
      | (_, some e) => (logPt s0 id e, false)).1
    generalize statBytes bs c clip elem fmt mode = out
    obtain ⟨m, hm⟩ := writeVa_only s0 none id va out
    generalize writeVa s0 none id va out = w at hm
    obtain ⟨w1, w2⟩ := w
    simp only at hm
    cases w2 with
    | none => exact h0.trans (hm ▸ OnlyMet.mem _ _)
    | some e => exact h0.trans (logPt_met _ _ _)

/-- A slot that issues exists, and no earlier wait holds its instruction. -/
theorem issues_iff {s : State} {sl : Slot} (h : issues s sl = true) : sl.cl < 512 ∧ canIssue s sl.cl sl.fil = true := by
  simpa [issues] using h

/-- The answer of an instruction that issues is that of its effect. -/
theorem issue_eq {sl : Slot} {cls : Nat} {f : Fld} {s : State} {body : State → Eff} (h : issues s sl = true) :
    issue sl cls f s body = match body s with
    | .done t => .next (goOn t sl ((getSlot s sl.cl sl.fil).pc + insLen f))
    | .jump t p => .next (goOn t sl p)
    | .fault code addr =>
      if inFlight s sl then .next s
      else .next (progFault s sl.cl sl.fil (slotCtx s sl.cl sl.fil) code cls addr (getSlot s sl.cl sl.fil).pc)
    | .trap t addr =>
      if inFlight s sl then .next s
      else .next (progFault t sl.cl sl.fil (slotCtx s sl.cl sl.fil) cTRANS cls addr (getSlot s sl.cl sl.fil).pc)
    | .hold t => .next t := by
  obtain ⟨h1, h2⟩ := issues_iff h
  cases hb : body s <;>
    simp only [issue, Nat.not_le.mpr h1, h2, hb, if_false, Bool.not_true, Bool.false_eq_true]

/-- A slot that may issue runs. -/
theorem canIssue_runs {s : State} {cl : Nat} {fil : Bool} (h : canIssue s cl fil = true) : slotRuns s cl fil = true := by
  revert h
  unfold canIssue slotRuns
  simp
  try tauto

/-- A command that finds its block ready has its effect. -/
theorem cmd_eq {b : Blk} {ka : Bool} {c : Instr} {s : State} {body : State → State} (h : cmdReady b s = true) :
    blockCmd b ka c s body = .next (body s) := by
  simp only [cmdReady, Bool.and_eq_true, Bool.not_eq_true'] at h
  obtain ⟨⟨⟨⟨h1, h2⟩, h3⟩, h4⟩, h5⟩ := h
  exact blockCmd_ready b ka c s body h1 h2 h3 h4 h5

/-- What `headReady` says of the head of a queue. -/
theorem headReady_elim {s : State} {q : Nat} {c : QCmd} (h : headReady s q c = true) : (getQ s q).head = some c ∧
    c.bad = false ∧ queueRuns s (getQ s q) = true ∧ ¬ ((c.barrier = true ∨ c.typ = 4) ∧ running s q = true) := by
  simp [headReady] at h; grind

/-- Ranges that meet nothing: the instruction goes on in the same state. -/
theorem readRanges_clean {sl : Slot} {rs : List (Nat × Nat)} {s : State} (k : State → Eff) (h : rangesClean s sl rs = true) :
    readRanges sl rs s k = k s := by
  simp only [rangesClean, Bool.and_eq_true, Option.isNone_iff_eq_none, List.all_eq_true, decide_eq_true_eq] at h
  obtain ⟨h1, h2⟩ := h
  have go : ∀ ws : List Nat, (∀ w ∈ ws, Tab.get (fun _ => 0) s.mem.scrErr (sl.cl * 2 ^ 20 + w) = 0) →
      ws.foldl (readWord sl.cl sl.fil) (s, false) = (s, false) := by
    intro ws
    induction ws with
    | nil => intro _; rfl
    | cons w ws ih =>
      intro hw
      have hz := hw w (List.mem_cons_self ..)
      have hr : readWord sl.cl sl.fil (s, false) w = (s, false) := if_pos (.inr hz)
      rw [List.foldl_cons, hr]
      exact ih fun v hv => hw v (List.mem_cons_of_mem _ hv)
  unfold readRanges meetWords
  rw [h1]
  dsimp only
  split
  · rfl
  · rw [go _ h2]; rfl

end Sys2Proof.Machine
end

