-- ==== Sys2Proof/Laws/Exec.lean ====
section
/-!
SUPPORT. `exec` at each constructor is the meaning that its arm calls: a later proof rewrites with these and never unfolds
the dispatch.
-/

namespace Sys2Proof.Machine

@[simp] theorem exec_ctxCreate (w : BitVec 56) (s : State) : exec (.ctxCreate w) s = execCtxCreate w s := rfl
@[simp] theorem exec_ctxDestroy (w : BitVec 56) (s : State) : exec (.ctxDestroy w) s = execCtxDestroy w s := rfl
@[simp] theorem exec_bind (w : BitVec 56) (u : Upset) (s : State) : exec (.bind w u) s = execBind w u s := rfl
@[simp] theorem exec_bindComplete (s : State) : exec .bindComplete s = execBindComplete s := rfl
@[simp] theorem exec_unbind (w : BitVec 56) (s : State) : exec (.unbind w) s = execUnbind w s := rfl
@[simp] theorem exec_unbindComplete (s : State) : exec .unbindComplete s = execUnbindComplete s := rfl
@[simp] theorem exec_ctxStop (w : BitVec 56) (s : State) : exec (.ctxStop w) s = execCtxStop w s := rfl
@[simp] theorem exec_ctxResume (w : BitVec 56) (s : State) : exec (.ctxResume w) s = execCtxResume w s := rfl
@[simp] theorem exec_ctxRead (w : BitVec 56) (s : State) : exec (.ctxRead w) s = execCtxRead w s := rfl
@[simp] theorem exec_qCreate (w : BitVec 56) (s : State) : exec (.qCreate w) s = execQCreate w s := rfl
@[simp] theorem exec_qDestroy (w : BitVec 56) (s : State) : exec (.qDestroy w) s = execQDestroy w s := rfl
@[simp] theorem exec_queueQuarantineEnd (q : Nat) (s : State) : exec (.queueQuarantineEnd q) s = execQueueQuarantineEnd q s := rfl
@[simp] theorem exec_qCmdHalt (w : BitVec 56) (s : State) : exec (.qCmdHalt w) s = execQCmdHalt w s := rfl
@[simp] theorem exec_qResume (w : BitVec 56) (s : State) : exec (.qResume w) s = execQResume w s := rfl
@[simp] theorem exec_qRead (w : BitVec 56) (s : State) : exec (.qRead w) s = execQRead w s := rfl
@[simp] theorem exec_doorbell (off len : Nat) (d : B128) (s : State) :
    exec (.doorbell off len d) s = execDoorbell off len d s := rfl
@[simp] theorem exec_queueFetch (q : Nat) (s : State) : exec (.queueFetch q) s = execQueueFetch q s := rfl
@[simp] theorem exec_kernel (q : Nat) (s : State) : exec (.kernel q) s = execKernel q s := rfl
@[simp] theorem exec_kernelComplete (n : Nat) (s : State) : exec (.kernelComplete n) s = execKernelComplete n s := rfl
@[simp] theorem exec_batchRef (q : Nat) (s : State) : exec (.batchRef q) s = execBatchRef q s := rfl
@[simp] theorem exec_batchRefRecorded (n : Nat) (s : State) : exec (.batchRefRecorded n) s = execBatchRefRecorded n s := rfl
@[simp] theorem exec_cmdWait (q : Nat) (s : State) : exec (.cmdWait q) s = execCmdWait q s := rfl
@[simp] theorem exec_signal (q : Nat) (s : State) : exec (.signal q) s = execSignal q s := rfl
@[simp] theorem exec_ring (q : Nat) (s : State) : exec (.ring q) s = execRing q s := rfl
@[simp] theorem exec_cmdNop (q : Nat) (s : State) : exec (.cmdNop q) s = execCmdNop q s := rfl
@[simp] theorem exec_governorDebtCleared (g : Gov) (s : State) :
    exec (.governorDebtCleared g) s = execGovernorDebtCleared g s := rfl
@[simp] theorem exec_priUnitsTick (s : State) : exec .priUnitsTick s = execPriUnitsTick s := rfl
@[simp] theorem exec_filUnitsTick (cl : Nat) (s : State) : exec (.filUnitsTick cl) s = execFilUnitsTick cl s := rfl
@[simp] theorem exec_frameBeatTick (s : State) : exec .frameBeatTick s = execFrameBeatTick s := rfl
@[simp] theorem exec_intervalClose (s : State) : exec .intervalClose s = execIntervalClose s := rfl
@[simp] theorem exec_snapshotWritten (s : State) : exec .snapshotWritten s = execSnapshotWritten s := rfl
@[simp] theorem exec_ledBase (v : B64) (s : State) : exec (.ledBase v) s = execLedBase v s := rfl
@[simp] theorem exec_ledSlots (v : B32) (s : State) : exec (.ledSlots v) s = execLedSlots v s := rfl
@[simp] theorem exec_ledTail (v : B32) (s : State) : exec (.ledTail v) s = execLedTail v s := rfl
@[simp] theorem exec_ledCtrl (v : B32) (s : State) : exec (.ledCtrl v) s = execLedCtrl v s := rfl
@[simp] theorem exec_syncCreate (w : BitVec 56) (s : State) : exec (.syncCreate w) s = execSyncCreate w s := rfl
@[simp] theorem exec_syncDestroy (w : BitVec 56) (s : State) : exec (.syncDestroy w) s = execSyncDestroy w s := rfl
@[simp] theorem exec_syncQuarantineEnd (i1 : Nat) (s : State) : exec (.syncQuarantineEnd i1) s = execSyncQuarantineEnd i1 s := rfl
@[simp] theorem exec_syncReset (w : BitVec 56) (s : State) : exec (.syncReset w) s = execSyncReset w s := rfl
@[simp] theorem exec_syncRead (w : BitVec 56) (s : State) : exec (.syncRead w) s = execSyncRead w s := rfl
@[simp] theorem exec_readWaiters (w : BitVec 56) (s : State) : exec (.readWaiters w) s = execReadWaiters w s := rfl
@[simp] theorem exec_clearOvr (w : BitVec 56) (s : State) : exec (.clearOvr w) s = execClearOvr w s := rfl
@[simp] theorem exec_counterSignal (n : Nat) (s : State) : exec (.counterSignal n) s = execCounterSignal n s := rfl
@[simp] theorem exec_flagSignal (n : Nat) (s : State) : exec (.flagSignal n) s = execFlagSignal n s := rfl
@[simp] theorem exec_barrierArrival (n : Nat) (s : State) : exec (.barrierArrival n) s = execBarrierArrival n s := rfl
@[simp] theorem exec_remoteSignal (m : SyncMsg) (s : State) : exec (.remoteSignal m) s = execRemoteSignal m s := rfl
@[simp] theorem exec_barrierRejection (who : B64) (s : State) : exec (.barrierRejection who) s = execBarrierRejection who s := rfl
@[simp] theorem exec_watchdogExpiry (i1 : Nat) (who : B64) (s : State) :
    exec (.watchdogExpiry i1 who) s = execWatchdogExpiry i1 who s := rfl
@[simp] theorem exec_lendStart (cl : Nat) (s : State) : exec (.lendStart cl) s = execLendStart cl s := rfl
@[simp] theorem exec_lendGrant (h : Half) (s : State) : exec (.lendGrant h) s = execLendGrant h s := rfl
@[simp] theorem exec_lendWake (cl : Nat) (s : State) : exec (.lendWake cl) s = execLendWake cl s := rfl
@[simp] theorem exec_lendRevoke (h : Half) (s : State) : exec (.lendRevoke h) s = execLendRevoke h s := rfl
@[simp] theorem exec_assign (w : BitVec 56) (s : State) : exec (.assign w) s = execAssign w s := rfl
@[simp] theorem exec_release (w : BitVec 56) (s : State) : exec (.release w) s = execRelease w s := rfl
@[simp] theorem exec_retire (w : BitVec 56) (s : State) : exec (.retire w) s = execRetire w s := rfl
@[simp] theorem exec_frameScrubbed (frame : Nat) (s : State) : exec (.frameScrubbed frame) s = execFrameScrubbed frame s := rfl
@[simp] theorem exec_invalCtx (w : BitVec 56) (s : State) : exec (.invalCtx w) s = execInvalCtx w s := rfl
@[simp] theorem exec_invalRange (w : BitVec 56) (s : State) : exec (.invalRange w) s = execInvalRange w s := rfl
@[simp] theorem exec_invalAll (w : BitVec 56) (s : State) : exec (.invalAll w) s = execInvalAll w s := rfl
@[simp] theorem exec_invalidationComplete (s : State) : exec .invalidationComplete s = execInvalidationComplete s := rfl
@[simp] theorem exec_tableWalk (sl : Slot) (va : Nat) (a : Acc) (l : LineRead) (s : State) :
    exec (.tableWalk sl va a l) s = execTableWalk sl va a l s := rfl
@[simp] theorem exec_patrolRead (pa : Nat) (l : LineRead) (unit : Nat) (last : Bool) (s : State) :
    exec (.patrolRead pa l unit last) s = execPatrolRead pa l unit last s := rfl
@[simp] theorem exec_patrolCtrl (v : B32) (s : State) : exec (.patrolCtrl v) s = execPatrolCtrl v s := rfl
@[simp] theorem exec_jrnCtrl (v : B64) (s : State) : exec (.jrnCtrl v) s = execJrnCtrl v s := rfl
@[simp] theorem exec_undoCopyComplete (fil outer : Bool) (step : Late Nat) (bad : Bool) (s : State) :
    exec (.undoCopyComplete fil outer step bad) s = execUndoCopyComplete fil outer step bad s := rfl
@[simp] theorem exec_batchRecheck (fil : Bool) (step : Nat) (s : State) :
    exec (.batchRecheck fil step) s = execBatchRecheck fil step s := rfl
@[simp] theorem exec_restoreComplete (n : Late Nat) (bad : Bool) (s : State) :
    exec (.restoreComplete n bad) s = execRestoreComplete n bad s := rfl
@[simp] theorem exec_register (w : BitVec 56) (s : State) : exec (.register w) s = execRegister w s := rfl
@[simp] theorem exec_deregister (w : BitVec 56) (s : State) : exec (.deregister w) s = execDeregister w s := rfl
@[simp] theorem exec_rollback (w : BitVec 56) (s : State) : exec (.rollback w) s = execRollback w s := rfl
@[simp] theorem exec_updRead (w : BitVec 56) (s : State) : exec (.updRead w) s = execUpdRead w s := rfl
@[simp] theorem exec_phaseAStart (n : PhaseIn) (s : State) : exec (.phaseAStart n) s = execPhaseAStart n s := rfl
@[simp] theorem exec_phaseAComplete (n : Nat) (s : State) : exec (.phaseAComplete n) s = execPhaseAComplete n s := rfl
@[simp] theorem exec_phaseBStart (n : PhaseIn) (s : State) : exec (.phaseBStart n) s = execPhaseBStart n s := rfl
@[simp] theorem exec_phaseBComplete (n : Nat) (s : State) : exec (.phaseBComplete n) s = execPhaseBComplete n s := rfl
@[simp] theorem exec_outerEncodeComplete (n : Nat) (s : State) :
    exec (.outerEncodeComplete n) s = execOuterEncodeComplete n s := rfl
@[simp] theorem exec_outerMergeComplete (n : Nat) (s : State) : exec (.outerMergeComplete n) s = execOuterMergeComplete n s := rfl
@[simp] theorem exec_groupCreate (w : BitVec 56) (s : State) : exec (.groupCreate w) s = execGroupCreate w s := rfl
@[simp] theorem exec_groupDestroy (w : BitVec 56) (s : State) : exec (.groupDestroy w) s = execGroupDestroy w s := rfl
@[simp] theorem exec_groupQuarantineEnd (g : Nat) (s : State) : exec (.groupQuarantineEnd g) s = execGroupQuarantineEnd g s := rfl
@[simp] theorem exec_groupRead (w : BitVec 56) (s : State) : exec (.groupRead w) s = execGroupRead w s := rfl
@[simp] theorem exec_voteRead (w : BitVec 56) (s : State) : exec (.voteRead w) s = execVoteRead w s := rfl
@[simp] theorem exec_collectiveStart (n : Late Nat) (s : State) : exec (.collectiveStart n) s = execCollectiveStart n s := rfl
@[simp] theorem exec_borageMessage (m : BMsg) (s : State) : exec (.borageMessage m) s = execBorageMessage m s := rfl
@[simp] theorem exec_mirrorDelivery (m : MDel) (s : State) : exec (.mirrorDelivery m) s = execMirrorDelivery m s := rfl
@[simp] theorem exec_collectiveComplete (n : Nat) (s : State) : exec (.collectiveComplete n) s = execCollectiveComplete n s := rfl
@[simp] theorem exec_voteOpen (job : B32) (s : State) : exec (.voteOpen job) s = execVoteOpen job s := rfl
@[simp] theorem exec_voteWord (src : Peer) (w : VWord) (s : State) : exec (.voteWord src w) s = execVoteWord src w s := rfl
@[simp] theorem exec_voteDeadline (job : B32) (s : State) : exec (.voteDeadline job) s = execVoteDeadline job s := rfl
@[simp] theorem exec_absenceNotice (job : B32) (step : Nat) (src : Peer) (s : State) :
    exec (.absenceNotice job step src) s = execAbsenceNotice job step src s := rfl
@[simp] theorem exec_voteOutcome (m : OutMsg) (s : State) : exec (.voteOutcome m) s = execVoteOutcome m s := rfl
@[simp] theorem exec_recoveryRootWait (job : B32) (s : State) : exec (.recoveryRootWait job) s = execRecoveryRootWait job s := rfl
@[simp] theorem exec_pctrl (p : Nat) (v : B32) (s : State) : exec (.pctrl p v) s = execPctrl p v s := rfl
@[simp] theorem exec_portTrained (p : Nat) (rtt : Nat) (s : State) : exec (.portTrained p rtt) s = execPortTrained p rtt s := rfl
@[simp] theorem exec_wavelengthFail (p : Nat) (light : Byte) (s : State) :
    exec (.wavelengthFail p light) s = execWavelengthFail p light s := rfl
@[simp] theorem exec_linkFrame (p : Nat) (fr : LineIn) (s : State) : exec (.linkFrame p fr) s = execLinkFrame p fr s := rfl
@[simp] theorem exec_nak (p : Nat) (lseq : Nat) (s : State) : exec (.nak p lseq) s = execNak p lseq s := rfl
@[simp] theorem exec_retrain (p : Nat) (s : State) : exec (.retrain p) s = execRetrain p s := rfl
@[simp] theorem exec_retrainEnd (p : Nat) (ok : Bool) (s : State) : exec (.retrainEnd p ok) s = execRetrainEnd p ok s := rfl
@[simp] theorem exec_lossOfLight (p : Nat) (s : State) : exec (.lossOfLight p) s = execLossOfLight p s := rfl
@[simp] theorem exec_relayFlit (p : Nat) (dst : Peer) (seq : Nat) (fr : Frame) (s : State) :
    exec (.relayFlit p dst seq fr) s = execRelayFlit p dst seq fr s := rfl
@[simp] theorem exec_transportMessage (m : Msg) (s : State) : exec (.transportMessage m) s = execTransportMessage m s := rfl
@[simp] theorem exec_ackTimer (c : Nat) (s : State) : exec (.ackTimer c) s = execAckTimer c s := rfl
@[simp] theorem exec_ack (src : Peer) (cls seq : Nat) (s : State) : exec (.ack src cls seq) s = execAck src cls seq s := rfl
@[simp] theorem exec_retransmitTimer (c : Nat) (s : State) : exec (.retransmitTimer c) s = execRetransmitTimer c s := rfl
@[simp] theorem exec_messageAgeExpiry (c seq : Nat) (s : State) :
    exec (.messageAgeExpiry c seq) s = execMessageAgeExpiry c seq s := rfl
@[simp] theorem exec_connectionRelease (c : Nat) (s : State) : exec (.connectionRelease c) s = execConnectionRelease c s := rfl
@[simp] theorem exec_resync (src : Peer) (cls epoch next : Nat) (s : State) :
    exec (.resync src cls epoch next) s = execResync src cls epoch next s := rfl
@[simp] theorem exec_sessionWaitExpiry (k : Nat) (s : State) : exec (.sessionWaitExpiry k) s = execSessionWaitExpiry k s := rfl
@[simp] theorem exec_heartbeatSend (s : State) : exec .heartbeatSend s = execHeartbeatSend s := rfl
@[simp] theorem exec_heartbeat (src : Peer) (beat : Nat) (status numRev : Nat) (s : State) :
    exec (.heartbeat src beat status numRev) s = execHeartbeat src beat status numRev s := rfl
@[simp] theorem exec_absenceCheck (k : Nat) (s : State) : exec (.absenceCheck k) s = execAbsenceCheck k s := rfl
@[simp] theorem exec_timeExchange (p hops t1 t2 t3 t4 : Nat) (s : State) :
    exec (.timeExchange p hops t1 t2 t3 t4) s = execTimeExchange p hops t1 t2 t3 t4 s := rfl
@[simp] theorem exec_firstLock (s : State) : exec .firstLock s = execFirstLock s := rfl
@[simp] theorem exec_ppsEdge (s : State) : exec .ppsEdge s = execPpsEdge s := rfl
@[simp] theorem exec_holdoverEntry (s : State) : exec .holdoverEntry s = execHoldoverEntry s := rfl
@[simp] theorem exec_holdoverExit (s : State) : exec .holdoverExit s = execHoldoverExit s := rfl
@[simp] theorem exec_timeDrift (s : State) : exec .timeDrift s = execTimeDrift s := rfl
@[simp] theorem exec_epochChange (s : State) : exec .epochChange s = execEpochChange s := rfl
@[simp] theorem exec_epochKeyForm (s : State) : exec .epochKeyForm s = execEpochKeyForm s := rfl
@[simp] theorem exec_epochKeyRetire (s : State) : exec .epochKeyRetire s = execEpochKeyRetire s := rfl
@[simp] theorem exec_sInit (m : SInitIn) (s : State) : exec (.sInit m) s = execSInit m s := rfl
@[simp] theorem exec_sResp (src : Peer) (eph : BitVec 256) (ct : List Byte) (nonce : BitVec 256) (cert : SignedChain) (s : State) :
    exec (.sResp src eph ct nonce cert) s = execSResp src eph ct nonce cert s := rfl
@[simp] theorem exec_sFin (src : Peer) (firstEpoch : Nat) (head : B128) (keyId ed : B512) (ml : BitVec 26472) (s : State) :
    exec (.sFin src firstEpoch head keyId ed ml) s = execSFin src firstEpoch head keyId ed ml s := rfl
@[simp] theorem exec_sessionRetry (dst : Peer) (s : State) : exec (.sessionRetry dst) s = execSessionRetry dst s := rfl
@[simp] theorem exec_sessionReplace (dst : Peer) (s : State) : exec (.sessionReplace dst) s = execSessionReplace dst s := rfl
@[simp] theorem exec_outerRoundBegin (s : State) : exec .outerRoundBegin s = execOuterRoundBegin s := rfl
@[simp] theorem exec_sxData (src : Peer) (site round shard first : Nat) (tags : List Byte) (blocks : List (List Byte)) (s : State) :
    exec (.sxData src site round shard first tags blocks) s = execSxData src site round shard first tags blocks s := rfl
@[simp] theorem exec_sxScale (src : Peer) (site round shard first : Nat) (tags : List Byte) (scales : List Byte) (s : State) :
    exec (.sxScale src site round shard first tags scales) s = execSxScale src site round shard first tags scales s := rfl
@[simp] theorem exec_sxRetransmitReq (src : Peer) (round shard : Nat) (s : State) :
    exec (.sxRetransmitReq src round shard) s = execSxRetransmitReq src round shard s := rfl
@[simp] theorem exec_sxReport (src : Peer) (partner round : Nat) (mask : B64) (s : State) :
    exec (.sxReport src partner round mask) s = execSxReport src partner round mask s := rfl
@[simp] theorem exec_sxReceipt (r : Receipt) (s : State) : exec (.sxReceipt r) s = execSxReceipt r s := rfl
@[simp] theorem exec_dataWaitExpiry (s : State) : exec .dataWaitExpiry s = execDataWaitExpiry s := rfl
@[simp] theorem exec_decWaitExpiry (s : State) : exec .decWaitExpiry s = execDecWaitExpiry s := rfl
@[simp] theorem exec_sxDecision (s : State) : exec .sxDecision s = execSxDecision s := rfl
@[simp] theorem exec_sxApply (d : DecisionIn) (s : State) : exec (.sxApply d) s = execSxApply d s := rfl
@[simp] theorem exec_sxDecisionTimeout (s : State) : exec .sxDecisionTimeout s = execSxDecisionTimeout s := rfl
@[simp] theorem exec_sxState (src : Peer) (site shard kind : Nat) (data : List Byte) (crc : B64) (s : State) :
    exec (.sxState src site shard kind data crc) s = execSxState src site shard kind data crc s := rfl
@[simp] theorem exec_join (m : JoinIn) (s : State) : exec (.join m) s = execJoin m s := rfl
@[simp] theorem exec_loadRoutes (w : BitVec 56) (s : State) : exec (.loadRoutes w) s = execLoadRoutes w s := rfl
@[simp] theorem exec_loadSites (w : BitVec 56) (s : State) : exec (.loadSites w) s = execLoadSites w s := rfl
@[simp] theorem exec_loadWatch (w : BitVec 56) (s : State) : exec (.loadWatch w) s = execLoadWatch w s := rfl
@[simp] theorem exec_loadEnc (w : BitVec 56) (s : State) : exec (.loadEnc w) s = execLoadEnc w s := rfl
@[simp] theorem exec_readRoute (w : BitVec 56) (s : State) : exec (.readRoute w) s = execReadRoute w s := rfl
@[simp] theorem exec_fabId (v : B32) (s : State) : exec (.fabId v) s = execFabId v s := rfl
@[simp] theorem exec_fabLat (v : B32) (s : State) : exec (.fabLat v) s = execFabLat v s := rfl
@[simp] theorem exec_fabLatLowerEffect (s : State) : exec .fabLatLowerEffect s = execFabLatLowerEffect s := rfl
@[simp] theorem exec_encCtrl (v : B32) (s : State) : exec (.encCtrl v) s = execEncCtrl v s := rfl
@[simp] theorem exec_sxCtrl (v : B32) (s : State) : exec (.sxCtrl v) s = execSxCtrl v s := rfl
@[simp] theorem exec_sxH (v : B32) (s : State) : exec (.sxH v) s = execSxH v s := rfl
@[simp] theorem exec_pair (w : BitVec 56) (s : State) : exec (.pair w) s = execPair w s := rfl
@[simp] theorem exec_unpair (w : BitVec 56) (s : State) : exec (.unpair w) s = execUnpair w s := rfl
@[simp] theorem exec_substitute (w : BitVec 56) (s : State) : exec (.substitute w) s = execSubstitute w s := rfl
@[simp] theorem exec_promote (w : BitVec 56) (s : State) : exec (.promote w) s = execPromote w s := rfl
@[simp] theorem exec_pairReq (m : PairMsg) (s : State) : exec (.pairReq m) s = execPairReq m s := rfl
@[simp] theorem exec_pairAck (m : PairMsg) (s : State) : exec (.pairAck m) s = execPairAck m s := rfl
@[simp] theorem exec_digest (d : DigList) (s : State) : exec (.digest d) s = execDigest d s := rfl
@[simp] theorem exec_verdict (src : Peer) (job : B32) (step shard : Nat) (ofMirror agree : Bool) (first count : Nat) (s : State) :
    exec (.verdict src job step shard ofMirror agree first count) s = execVerdict src job step shard ofMirror agree first count s := rfl
@[simp] theorem exec_divergenceEnd (job : B32) (shard : Nat) (s : State) :
    exec (.divergenceEnd job shard) s = execDivergenceEnd job shard s := rfl
@[simp] theorem exec_undoReq (src : Peer) (job : B32) (step : Nat) (shard : ShardRef) (s : State) :
    exec (.undoReq src job step shard) s = execUndoReq src job step shard s := rfl
@[simp] theorem exec_undoData (b : Blocks) (step : Nat) (s : State) : exec (.undoData b step) s = execUndoData b step s := rfl
@[simp] theorem exec_fetchReq (src : Peer) (job : B32) (shard : Nat) (ofMirror : Bool) (blk : Option BlkRef) (s : State) :
    exec (.fetchReq src job shard ofMirror blk) s = execFetchReq src job shard ofMirror blk s := rfl
@[simp] theorem exec_fetchData (b : Blocks) (s : State) : exec (.fetchData b) s = execFetchData b s := rfl
@[simp] theorem exec_recordHandlingEnd (h : Half) (s : State) : exec (.recordHandlingEnd h) s = execRecordHandlingEnd h s := rfl
@[simp] theorem exec_errTail (h : Half) (v : B32) (s : State) : exec (.errTail h v) s = execErrTail h v s := rfl
@[simp] theorem exec_leaseClaim (h : Half) (s : State) : exec (.leaseClaim h) s = execLeaseClaim h s := rfl
@[simp] theorem exec_leaseRenew (h : Half) (s : State) : exec (.leaseRenew h) s = execLeaseRenew h s := rfl
@[simp] theorem exec_leaseExpiry (s : State) : exec .leaseExpiry s = execLeaseExpiry s := rfl
@[simp] theorem exec_spineUnreachableStop (h : Half) (s : State) :
    exec (.spineUnreachableStop h) s = execSpineUnreachableStop h s := rfl
@[simp] theorem exec_leadForce (v : B32) (s : State) : exec (.leadForce v) s = execLeadForce v s := rfl
@[simp] theorem exec_bootLoad (w : BitVec 24) (s : State) : exec (.bootLoad w) s = execBootLoad w s := rfl
@[simp] theorem exec_imageVerifyComplete (rw re : Byte) (s : State) :
    exec (.imageVerifyComplete rw re) s = execImageVerifyComplete rw re s := rfl
@[simp] theorem exec_memoryTrainingComplete (s : State) : exec .memoryTrainingComplete s = execMemoryTrainingComplete s := rfl
@[simp] theorem exec_getVersion (s : State) : exec .getVersion s = execGetVersion s := rfl
@[simp] theorem exec_getCapabilities (version : Byte) (s : State) :
    exec (.getCapabilities version) s = execGetCapabilities version s := rfl
@[simp] theorem exec_negotiateAlgorithms (algs : Algs) (hash512 : Bool) (s : State) :
    exec (.negotiateAlgorithms algs hash512) s = execNegotiateAlgorithms algs hash512 s := rfl
@[simp] theorem exec_getDigests (s : State) : exec .getDigests s = execGetDigests s := rfl
@[simp] theorem exec_getCertificate (sel : Byte) (off len : Nat) (s : State) :
    exec (.getCertificate sel off len) s = execGetCertificate sel off len s := rfl
@[simp] theorem exec_challenge (sel : Byte) (nonce : BitVec 256) (s : State) :
    exec (.challenge sel nonce) s = execChallenge sel nonce s := rfl
@[simp] theorem exec_getMeasurements (index : Byte) (signed : Bool) (nonce : BitVec 256) (s : State) :
    exec (.getMeasurements index signed nonce) s = execGetMeasurements index signed nonce s := rfl
@[simp] theorem exec_keyExchange (dhe : Kex) (s : State) : exec (.keyExchange dhe) s = execKeyExchange dhe s := rfl
@[simp] theorem exec_finish (hmac : B512) (s : State) : exec (.finish hmac) s = execFinish hmac s := rfl
@[simp] theorem exec_endSession (s : State) : exec .endSession s = execEndSession s := rfl
@[simp] theorem exec_spdmHeartbeat (s : State) : exec .spdmHeartbeat s = execSpdmHeartbeat s := rfl
@[simp] theorem exec_keyUpdate (s : State) : exec .keyUpdate s = execKeyUpdate s := rfl
@[simp] theorem exec_drbgReseed (h : Half) (s : State) : exec (.drbgReseed h) s = execDrbgReseed h s := rfl
@[simp] theorem exec_maskReseed (h : Half) (s : State) : exec (.maskReseed h) s = execMaskReseed h s := rfl
@[simp] theorem exec_healthTestFail (h : Half) (s : State) : exec (.healthTestFail h) s = execHealthTestFail h s := rfl
@[simp] theorem exec_hkeyLoad (w : BitVec 24) (s : State) : exec (.hkeyLoad w) s = execHkeyLoad w s := rfl
@[simp] theorem exec_hkeyErase (w : BitVec 24) (s : State) : exec (.hkeyErase w) s = execHkeyErase w s := rfl
@[simp] theorem exec_slotErase (k : Nat) (s : State) : exec (.slotErase k) s = execSlotErase k s := rfl
@[simp] theorem exec_cqrWr (v : B32) (s : State) : exec (.cqrWr v) s = execCqrWr v s := rfl
@[simp] theorem exec_cipherRequestComplete (i1 : Nat) (s : State) :
    exec (.cipherRequestComplete i1) s = execCipherRequestComplete i1 s := rfl
@[simp] theorem exec_run (u : Nat) (w : BitVec 24) (s : State) : exec (.run u w) s = execRun u w s := rfl
@[simp] theorem exec_chiveRunComplete (u : Nat) (s : State) : exec (.chiveRunComplete u) s = execChiveRunComplete u s := rfl
@[simp] theorem exec_resetAlive (u : Nat) (w : BitVec 24) (s : State) : exec (.resetAlive u w) s = execResetAlive u w s := rfl
@[simp] theorem exec_rstCmd (v : B32) (s : State) : exec (.rstCmd v) s = execRstCmd v s := rfl
@[simp] theorem exec_cxlReset (s : State) : exec .cxlReset s = execCxlReset s := rfl
@[simp] theorem exec_flr (s : State) : exec .flr s = execFlr s := rfl
@[simp] theorem exec_hotReset (s : State) : exec .hotReset s = execHotReset s := rfl
@[simp] theorem exec_resetInputAssert (s : State) : exec .resetInputAssert s = execResetInputAssert s := rfl
@[simp] theorem exec_resetInputRelease (s : State) : exec .resetInputRelease s = execResetInputRelease s := rfl
@[simp] theorem exec_cxlLinkTrain (rate width : BitVec 2) (s : State) :
    exec (.cxlLinkTrain rate width) s = execCxlLinkTrain rate width s := rfl
@[simp] theorem exec_cxlLinkLoss (s : State) : exec .cxlLinkLoss s = execCxlLinkLoss s := rfl
@[simp] theorem exec_cxlLinkReturn (rate width : BitVec 2) (s : State) :
    exec (.cxlLinkReturn rate width) s = execCxlLinkReturn rate width s := rfl
@[simp] theorem exec_cxlCacheTimeout (pa : Nat) (blk : Option Nat) (dmaN : Option Nat) (s : State) :
    exec (.cxlCacheTimeout pa blk dmaN) s = execCxlCacheTimeout pa blk dmaN s := rfl
@[simp] theorem exec_ideFail (s : State) : exec .ideFail s = execIdeFail s := rfl
@[simp] theorem exec_hdmAccess (a : HostAcc) (s : State) : exec (.hdmAccess a) s = execHdmAccess a s := rfl
@[simp] theorem exec_bar2Sel (v : B32) (s : State) : exec (.bar2Sel v) s = execBar2Sel v s := rfl
@[simp] theorem exec_irqStat (v : B32) (s : State) : exec (.irqStat v) s = execIrqStat v s := rfl
@[simp] theorem exec_irqEn (v : B32) (s : State) : exec (.irqEn v) s = execIrqEn v s := rfl
@[simp] theorem exec_getStatus (s : State) : exec .getStatus s = execGetStatus s := rfl
@[simp] theorem exec_getIdent (s : State) : exec .getIdent s = execGetIdent s := rfl
@[simp] theorem exec_getRecord (h : Half) (slot : Nat) (s : State) : exec (.getRecord h slot) s = execGetRecord h slot s := rfl
@[simp] theorem exec_resetReq (key : B16) (s : State) : exec (.resetReq key) s = execResetReq key s := rfl
@[simp] theorem exec_mctpLeadForce (v : B32) (s : State) : exec (.mctpLeadForce v) s = execMctpLeadForce v s := rfl
@[simp] theorem exec_mctpControl (m : MctpIn) (s : State) : exec (.mctpControl m) s = execMctpControl m s := rfl
@[simp] theorem exec_pldmRequest (sensor : Nat) (s : State) : exec (.pldmRequest sensor) s = execPldmRequest sensor s := rfl
@[simp] theorem exec_powerStageStart (s : State) : exec .powerStageStart s = execPowerStageStart s := rfl
@[simp] theorem exec_pwrgdAssert (s : State) : exec .pwrgdAssert s = execPwrgdAssert s := rfl
@[simp] theorem exec_overvoltage (vin : Nat) (s : State) : exec (.overvoltage vin) s = execOvervoltage vin s := rfl
@[simp] theorem exec_undervoltage (vin : Fall) (s : State) : exec (.undervoltage vin) s = execUndervoltage vin s := rfl
@[simp] theorem exec_overcurrent (iin : Nat) (s : State) : exec (.overcurrent iin) s = execOvercurrent iin s := rfl
@[simp] theorem exec_inputLowEntry (vin : Nat) (s : State) : exec (.inputLowEntry vin) s = execInputLowEntry vin s := rfl
@[simp] theorem exec_budgetPeriod (avg other : Nat) (s : State) :
    exec (.budgetPeriod avg other) s = execBudgetPeriod avg other s := rfl
@[simp] theorem exec_pwrLimit (v : B32) (s : State) : exec (.pwrLimit v) s = execPwrLimit v s := rfl
@[simp] theorem exec_throttleTick (projW projE fillW fillE : Nat) (s : State) :
    exec (.throttleTick projW projE fillW fillE) s = execThrottleTick projW projE fillW fillE s := rfl
@[simp] theorem exec_fastLoopTrip (avg : Nat) (s : State) : exec (.fastLoopTrip avg) s = execFastLoopTrip avg s := rfl
@[simp] theorem exec_fastLoopRelease (s : State) : exec .fastLoopRelease s = execFastLoopRelease s := rfl
@[simp] theorem exec_thermalSample (t : Temps) (s : State) : exec (.thermalSample t) s = execThermalSample t s := rfl
@[simp] theorem exec_thermalCapStep (h : Half) (above : Bool) (sensor : Nat) (s : State) :
    exec (.thermalCapStep h above sensor) s = execThermalCapStep h above sensor s := rfl
@[simp] theorem exec_thermalTrip (sensor : Trip) (s : State) : exec (.thermalTrip sensor) s = execThermalTrip sensor s := rfl
@[simp] theorem exec_sensorFault (sensor : Nat) (s : State) : exec (.sensorFault sensor) s = execSensorFault sensor s := rfl
@[simp] theorem exec_plainRegisterWrite (off size : Nat) (v : B64) (s : State) :
    exec (.plainRegisterWrite off size v) s = execPlainRegisterWrite off size v s := rfl
@[simp] theorem exec_lightReturn (p : Nat) (s : State) : exec (.lightReturn p) s = execLightReturn p s := rfl
@[simp] theorem exec_overvoltageRestart (vin : Nat) (s : State) :
    exec (.overvoltageRestart vin) s = execOvervoltageRestart vin s := rfl
@[simp] theorem exec_resetReleaseHoldEnd (s : State) : exec .resetReleaseHoldEnd s = execResetReleaseHoldEnd s := rfl
@[simp] theorem exec_ideKeyProgram (s : State) : exec .ideKeyProgram s = execIdeKeyProgram s := rfl
@[simp] theorem exec_bar2Access (a : HostAcc) (s : State) : exec (.bar2Access a) s = execBar2Access a s := rfl
@[simp] theorem exec_digestListComputed (job : B32) (shard : Nat) (mirror : Bool) (s : State) :
    exec (.digestListComputed job shard mirror) s = execDigestListComputed job shard mirror s := rfl
@[simp] theorem exec_undoRecordReport (src : Peer) (job : B32) (step : Nat) (outer : Bool) (s : State) :
    exec (.undoRecordReport src job step outer) s = execUndoRecordReport src job step outer s := rfl
@[simp] theorem exec_ref10mLockLoss (s : State) : exec .ref10mLockLoss s = execRef10mLockLoss s := rfl
@[simp] theorem exec_ppsEdgesMissed (s : State) : exec .ppsEdgesMissed s = execPpsEdgesMissed s := rfl
@[simp] theorem exec_add (sl : Slot) (f : Fld) (s : State) : exec (.add sl f) s = execAdd sl f s := rfl
@[simp] theorem exec_sub (sl : Slot) (f : Fld) (s : State) : exec (.sub sl f) s = execSub sl f s := rfl
@[simp] theorem exec_mul (sl : Slot) (f : Fld) (s : State) : exec (.mul sl f) s = execMul sl f s := rfl
@[simp] theorem exec_mulh (sl : Slot) (f : Fld) (s : State) : exec (.mulh sl f) s = execMulh sl f s := rfl
@[simp] theorem exec_and (sl : Slot) (f : Fld) (s : State) : exec (.and sl f) s = execAnd sl f s := rfl
@[simp] theorem exec_or (sl : Slot) (f : Fld) (s : State) : exec (.or sl f) s = execOr sl f s := rfl
@[simp] theorem exec_xor (sl : Slot) (f : Fld) (s : State) : exec (.xor sl f) s = execXor sl f s := rfl
@[simp] theorem exec_shl (sl : Slot) (f : Fld) (s : State) : exec (.shl sl f) s = execShl sl f s := rfl
@[simp] theorem exec_shr (sl : Slot) (f : Fld) (s : State) : exec (.shr sl f) s = execShr sl f s := rfl
@[simp] theorem exec_sar (sl : Slot) (f : Fld) (s : State) : exec (.sar sl f) s = execSar sl f s := rfl
@[simp] theorem exec_slt (sl : Slot) (f : Fld) (s : State) : exec (.slt sl f) s = execSlt sl f s := rfl
@[simp] theorem exec_sltu (sl : Slot) (f : Fld) (s : State) : exec (.sltu sl f) s = execSltu sl f s := rfl
@[simp] theorem exec_li (sl : Slot) (f : Fld) (s : State) : exec (.li sl f) s = execLi sl f s := rfl
@[simp] theorem exec_lih (sl : Slot) (f : Fld) (s : State) : exec (.lih sl f) s = execLih sl f s := rfl
@[simp] theorem exec_ld (sl : Slot) (f : Fld) (u : Upset) (s : State) : exec (.ld sl f u) s = execLd sl f u s := rfl
@[simp] theorem exec_st (sl : Slot) (f : Fld) (s : State) : exec (.st sl f) s = execSt sl f s := rfl
@[simp] theorem exec_ldw (sl : Slot) (f : Fld) (s : State) : exec (.ldw sl f) s = execLdw sl f s := rfl
@[simp] theorem exec_stw (sl : Slot) (f : Fld) (s : State) : exec (.stw sl f) s = execStw sl f s := rfl
@[simp] theorem exec_csrr (sl : Slot) (f : Fld) (s : State) : exec (.csrr sl f) s = execCsrr sl f s := rfl
@[simp] theorem exec_csrw (sl : Slot) (f : Fld) (s : State) : exec (.csrw sl f) s = execCsrw sl f s := rfl
@[simp] theorem exec_capr (sl : Slot) (f : Fld) (s : State) : exec (.capr sl f) s = execCapr sl f s := rfl
@[simp] theorem exec_caprd (sl : Slot) (f : Fld) (s : State) : exec (.caprd sl f) s = execCaprd sl f s := rfl
@[simp] theorem exec_j (sl : Slot) (f : Fld) (s : State) : exec (.j sl f) s = execJ sl f s := rfl
@[simp] theorem exec_beq (sl : Slot) (f : Fld) (s : State) : exec (.beq sl f) s = execBeq sl f s := rfl
@[simp] theorem exec_bne (sl : Slot) (f : Fld) (s : State) : exec (.bne sl f) s = execBne sl f s := rfl
@[simp] theorem exec_blt (sl : Slot) (f : Fld) (s : State) : exec (.blt sl f) s = execBlt sl f s := rfl
@[simp] theorem exec_bge (sl : Slot) (f : Fld) (s : State) : exec (.bge sl f) s = execBge sl f s := rfl
@[simp] theorem exec_bltu (sl : Slot) (f : Fld) (s : State) : exec (.bltu sl f) s = execBltu sl f s := rfl
@[simp] theorem exec_call (sl : Slot) (f : Fld) (s : State) : exec (.call sl f) s = execCall sl f s := rfl
@[simp] theorem exec_jr (sl : Slot) (f : Fld) (s : State) : exec (.jr sl f) s = execJr sl f s := rfl
@[simp] theorem exec_halt (sl : Slot) (f : Fld) (s : State) : exec (.halt sl f) s = execHalt sl f s := rfl
@[simp] theorem exec_cfence (sl : Slot) (f : Fld) (s : State) : exec (.cfence sl f) s = execCfence sl f s := rfl
@[simp] theorem exec_nop (sl : Slot) (f : Fld) (s : State) : exec (.nop sl f) s = execNop sl f s := rfl
@[simp] theorem exec_vadd (sl : Slot) (f : Fld) (s : State) : exec (.vadd sl f) s = execVadd sl f s := rfl
@[simp] theorem exec_vsub (sl : Slot) (f : Fld) (s : State) : exec (.vsub sl f) s = execVsub sl f s := rfl
@[simp] theorem exec_vmul (sl : Slot) (f : Fld) (s : State) : exec (.vmul sl f) s = execVmul sl f s := rfl
@[simp] theorem exec_vfma (sl : Slot) (f : Fld) (s : State) : exec (.vfma sl f) s = execVfma sl f s := rfl
@[simp] theorem exec_vfnma (sl : Slot) (f : Fld) (s : State) : exec (.vfnma sl f) s = execVfnma sl f s := rfl
@[simp] theorem exec_vmin (sl : Slot) (f : Fld) (s : State) : exec (.vmin sl f) s = execVmin sl f s := rfl
@[simp] theorem exec_vmax (sl : Slot) (f : Fld) (s : State) : exec (.vmax sl f) s = execVmax sl f s := rfl
@[simp] theorem exec_vabs (sl : Slot) (f : Fld) (s : State) : exec (.vabs sl f) s = execVabs sl f s := rfl
@[simp] theorem exec_vneg (sl : Slot) (f : Fld) (s : State) : exec (.vneg sl f) s = execVneg sl f s := rfl
@[simp] theorem exec_vcmpeq (sl : Slot) (f : Fld) (s : State) : exec (.vcmpeq sl f) s = execVcmpeq sl f s := rfl
@[simp] theorem exec_vcmplt (sl : Slot) (f : Fld) (s : State) : exec (.vcmplt sl f) s = execVcmplt sl f s := rfl
@[simp] theorem exec_vcmple (sl : Slot) (f : Fld) (s : State) : exec (.vcmple sl f) s = execVcmple sl f s := rfl
@[simp] theorem exec_vcmpun (sl : Slot) (f : Fld) (s : State) : exec (.vcmpun sl f) s = execVcmpun sl f s := rfl
@[simp] theorem exec_vsel (sl : Slot) (f : Fld) (s : State) : exec (.vsel sl f) s = execVsel sl f s := rfl
@[simp] theorem exec_vand (sl : Slot) (f : Fld) (s : State) : exec (.vand sl f) s = execVand sl f s := rfl
@[simp] theorem exec_vor (sl : Slot) (f : Fld) (s : State) : exec (.vor sl f) s = execVor sl f s := rfl
@[simp] theorem exec_vxor (sl : Slot) (f : Fld) (s : State) : exec (.vxor sl f) s = execVxor sl f s := rfl
@[simp] theorem exec_vshl (sl : Slot) (f : Fld) (s : State) : exec (.vshl sl f) s = execVshl sl f s := rfl
@[simp] theorem exec_vshr (sl : Slot) (f : Fld) (s : State) : exec (.vshr sl f) s = execVshr sl f s := rfl
@[simp] theorem exec_vsar (sl : Slot) (f : Fld) (s : State) : exec (.vsar sl f) s = execVsar sl f s := rfl
@[simp] theorem exec_vrsum (sl : Slot) (f : Fld) (s : State) : exec (.vrsum sl f) s = execVrsum sl f s := rfl
@[simp] theorem exec_vrmax (sl : Slot) (f : Fld) (s : State) : exec (.vrmax sl f) s = execVrmax sl f s := rfl
@[simp] theorem exec_vrmin (sl : Slot) (f : Fld) (s : State) : exec (.vrmin sl f) s = execVrmin sl f s := rfl
@[simp] theorem exec_vmov (sl : Slot) (f : Fld) (s : State) : exec (.vmov sl f) s = execVmov sl f s := rfl
@[simp] theorem exec_vbcast (sl : Slot) (f : Fld) (s : State) : exec (.vbcast sl f) s = execVbcast sl f s := rfl
@[simp] theorem exec_viota (sl : Slot) (f : Fld) (s : State) : exec (.viota sl f) s = execViota sl f s := rfl
@[simp] theorem exec_vcvtF2i (sl : Slot) (f : Fld) (s : State) : exec (.vcvtF2i sl f) s = execVcvtF2i sl f s := rfl
@[simp] theorem exec_vcvtI2f (sl : Slot) (f : Fld) (s : State) : exec (.vcvtI2f sl f) s = execVcvtI2f sl f s := rfl
@[simp] theorem exec_vld (sl : Slot) (f : Fld) (u : Upset) (s : State) : exec (.vld sl f u) s = execVld sl f u s := rfl
@[simp] theorem exec_vst (sl : Slot) (f : Fld) (s : State) : exec (.vst sl f) s = execVst sl f s := rfl
@[simp] theorem exec_vlda (sl : Slot) (f : Fld) (u : Upset) (s : State) : exec (.vlda sl f u) s = execVlda sl f u s := rfl
@[simp] theorem exec_vsta (sl : Slot) (f : Fld) (s : State) : exec (.vsta sl f) s = execVsta sl f s := rfl
@[simp] theorem exec_vunpk (sl : Slot) (f : Fld) (s : State) : exec (.vunpk sl f) s = execVunpk sl f s := rfl
@[simp] theorem exec_vpk (sl : Slot) (f : Fld) (s : State) : exec (.vpk sl f) s = execVpk sl f s := rfl
@[simp] theorem exec_vpkSt (sl : Slot) (f : Fld) (s : State) : exec (.vpkSt sl f) s = execVpkSt sl f s := rfl
@[simp] theorem exec_vdraw (sl : Slot) (f : Fld) (s : State) : exec (.vdraw sl f) s = execVdraw sl f s := rfl
@[simp] theorem exec_pset (sl : Slot) (f : Fld) (s : State) : exec (.pset sl f) s = execPset sl f s := rfl
@[simp] theorem exec_pand (sl : Slot) (f : Fld) (s : State) : exec (.pand sl f) s = execPand sl f s := rfl
@[simp] theorem exec_por (sl : Slot) (f : Fld) (s : State) : exec (.por sl f) s = execPor sl f s := rfl
@[simp] theorem exec_pxor (sl : Slot) (f : Fld) (s : State) : exec (.pxor sl f) s = execPxor sl f s := rfl
@[simp] theorem exec_pnot (sl : Slot) (f : Fld) (s : State) : exec (.pnot sl f) s = execPnot sl f s := rfl
@[simp] theorem exec_pcnt (sl : Slot) (f : Fld) (s : State) : exec (.pcnt sl f) s = execPcnt sl f s := rfl
@[simp] theorem exec_pmask (sl : Slot) (f : Fld) (s : State) : exec (.pmask sl f) s = execPmask sl f s := rfl
@[simp] theorem exec_vext (sl : Slot) (f : Fld) (s : State) : exec (.vext sl f) s = execVext sl f s := rfl
@[simp] theorem exec_vins (sl : Slot) (f : Fld) (s : State) : exec (.vins sl f) s = execVins sl f s := rfl
@[simp] theorem exec_fsetp (sl : Slot) (f : Fld) (s : State) : exec (.fsetp sl f) s = execFsetp sl f s := rfl
@[simp] theorem exec_mmaR (sl : Slot) (f : Fld) (w : Nat) (s : State) : exec (.mmaR sl f w) s = execMmaR sl f w s := rfl
@[simp] theorem exec_mmaS (sl : Slot) (f : Late Fld) (s : State) : exec (.mmaS sl f) s = execMmaS sl f s := rfl
@[simp] theorem exec_matrixPassComplete (sl : Slot) (k : Nat) (u : Upset) (s : State) :
    exec (.matrixPassComplete sl k u) s = execMatrixPassComplete sl k u s := rfl
@[simp] theorem exec_mout (sl : Slot) (f : Late Fld) (s : State) : exec (.mout sl f) s = execMout sl f s := rfl
@[simp] theorem exec_mlda (sl : Slot) (f : Late Fld) (s : State) : exec (.mlda sl f) s = execMlda sl f s := rfl
@[simp] theorem exec_mamax (sl : Slot) (f : Late Fld) (s : State) : exec (.mamax sl f) s = execMamax sl f s := rfl
@[simp] theorem exec_tld (sl : Slot) (f : Fld) (s : State) : exec (.tld sl f) s = execTld sl f s := rfl
@[simp] theorem exec_tst (sl : Slot) (f : Fld) (s : State) : exec (.tst sl f) s = execTst sl f s := rfl
@[simp] theorem exec_torg (sl : Slot) (f : Fld) (s : State) : exec (.torg sl f) s = execTorg sl f s := rfl
@[simp] theorem exec_toff (sl : Slot) (f : Fld) (s : State) : exec (.toff sl f) s = execToff sl f s := rfl
@[simp] theorem exec_dmaGo (sl : Slot) (f : Fld) (w : Nat) (s : State) : exec (.dmaGo sl f w) s = execDmaGo sl f w s := rfl
@[simp] theorem exec_dmaCnt (sl : Slot) (f : Fld) (s : State) : exec (.dmaCnt sl f) s = execDmaCnt sl f s := rfl
@[simp] theorem exec_dmaDrain (sl : Slot) (f : Fld) (s : State) : exec (.dmaDrain sl f) s = execDmaDrain sl f s := rfl
@[simp] theorem exec_dmaComplete (n : Nat) (u : Upset) (l : LineRead) (s : State) :
    exec (.dmaComplete n u l) s = execDmaComplete n u l s := rfl
@[simp] theorem exec_sig (sl : Slot) (f : Fld) (s : State) : exec (.sig sl f) s = execSig sl f s := rfl
@[simp] theorem exec_wait (sl : Slot) (f : Fld) (s : State) : exec (.wait sl f) s = execWait sl f s := rfl
@[simp] theorem exec_arrive (sl : Slot) (f : Fld) (s : State) : exec (.arrive sl f) s = execArrive sl f s := rfl
@[simp] theorem exec_cons (sl : Slot) (f : Fld) (s : State) : exec (.cons sl f) s = execCons sl f s := rfl
@[simp] theorem exec_sread (sl : Slot) (f : Fld) (s : State) : exec (.sread sl f) s = execSread sl f s := rfl
@[simp] theorem exec_creg (sl : Slot) (f : Fld) (s : State) : exec (.creg sl f) s = execCreg sl f s := rfl
@[simp] theorem exec_collGo (sl : Slot) (f : Fld) (s : State) : exec (.collGo sl f) s = execCollGo sl f s := rfl
@[simp] theorem exec_collNf (sl : Slot) (f : Fld) (s : State) : exec (.collNf sl f) s = execCollNf sl f s := rfl
@[simp] theorem exec_collQ (sl : Slot) (f : Fld) (s : State) : exec (.collQ sl f) s = execCollQ sl f s := rfl
@[simp] theorem exec_updA (sl : Slot) (f : Fld) (s : State) : exec (.updA sl f) s = execUpdA sl f s := rfl
@[simp] theorem exec_updB (sl : Slot) (f : Fld) (s : State) : exec (.updB sl f) s = execUpdB sl f s := rfl
@[simp] theorem exec_updAb (sl : Slot) (f : Fld) (s : State) : exec (.updAb sl f) s = execUpdAb sl f s := rfl
@[simp] theorem exec_updOut (sl : Slot) (f : Fld) (s : State) : exec (.updOut sl f) s = execUpdOut sl f s := rfl
@[simp] theorem exec_updExp (sl : Slot) (f : Fld) (s : State) : exec (.updExp sl f) s = execUpdExp sl f s := rfl
@[simp] theorem exec_updExpComplete (n : Nat) (s : State) : exec (.updExpComplete n) s = execUpdExpComplete n s := rfl

/-- On an empty queue the clock ticks. -/
theorem step_nil (s : State) (h : s.pending = []) : step s = .next (tick s) := by
  simp only [step, h]

end Sys2Proof.Machine
end

