-- ==== Sys2Proof/Laws/Memory.lean ====
section
/-!
SUPPORT. Memory: what a byte reads as after a write, and that every operation over memory keeps its canonical form.
-/

namespace Sys2Proof.Machine

/-! ### Reads after writes -/

/-- A byte outside the range written reads as before. -/
theorem memByte_writeMem_out (s : State) (pa : Nat) (bs : List Byte) (a : Nat) (h : a < pa ∨ pa + bs.length ≤ a) :
    memByte (writeMem s pa bs) a = memByte s a := Tab.get_putMany_out _ _ _ _ _ h

/-- The range written reads back. -/
theorem readMem_writeMem (s : State) (pa : Nat) (bs : List Byte) : readMem (writeMem s pa bs) pa bs.length = bs :=
  Tab.getMany_putMany _ _ _ _

/-- A range that does not meet the one written reads as before. -/
theorem readMem_writeMem_out (s : State) (pa a n : Nat) (bs : List Byte) (h : a + n ≤ pa ∨ pa + bs.length ≤ a) :
    readMem (writeMem s pa bs) a n = readMem s a n := Tab.getMany_putMany_out _ _ _ _ _ _ h

/-- A part of the range written reads back. -/
theorem readMem_writeMem_part (s : State) (pa i n : Nat) (bs : List Byte) (h : i + n ≤ bs.length) :
    readMem (writeMem s pa bs) (pa + i) n = slice bs i n := by
  show Tab.getMany _ _ _ _ = _
  rw [Tab.getMany_eq]
  apply List.ext_getElem
  · simp [slice]; omega
  · intro k h1 h2
    have hk : k < n := by simpa using h1
    have := Tab.get_putMany_in (fun _ => (0 : Byte)) bs s.mem.phys pa (i + k) (by omega)
    simpa [slice, Nat.add_assoc, writeMem] using this

@[simp] theorem leBytes_length (n x : Nat) : (leBytes n x).length = n := by
  induction n generalizing x with
  | zero => rfl
  | succ n ih => simp [leBytes, ih]

/-- Little-endian bytes spell the number modulo their size. -/
theorem leNat_leBytes (n x : Nat) : leNat (leBytes n x) = x % 256 ^ n := by
  induction n generalizing x with
  | zero => simp [leBytes, leNat, Nat.mod_one]
  | succ n ih =>
    have h : (256 : Nat) ^ (n + 1) = 256 * 256 ^ n := by rw [Nat.pow_succ, Nat.mul_comm]
    have e : (bv 8 (x % 256)).toNat = x % 256 := by simp [bv]
    rw [leBytes, leNat, ih, e, h, Nat.mod_mul]

/-- Zeroing gives 0 inside its range and changes nothing outside. -/
theorem memByte_zeroMem (s : State) (pa n a : Nat) :
    memByte (zeroMem s pa n) a = if a < pa ∨ pa + n ≤ a then memByte s a else 0 := Tab.get_clear _ _ _ _ _

@[simp] theorem memByte_poisonLine (s : State) (pa a : Nat) : memByte (poisonLine s pa) a = memByte s a := rfl
@[simp] theorem memByte_scrWrite (s : State) (cl off : Nat) (bs : List Byte) (a : Nat) :
    memByte (scrWrite s cl off bs) a = memByte s a := rfl

/-- Scratch written reads back. -/
theorem scrRead_scrWrite (s : State) (cl off : Nat) (bs : List Byte) :
    scrRead (scrWrite s cl off bs) cl off bs.length = bs := Tab.getMany_putMany _ _ _ _

/-- Scratch that does not meet the range written reads as before. -/
theorem scrRead_scrWrite_out (s : State) (cl off c o n : Nat) (bs : List Byte)
    (h : c * scrBytes + o + n ≤ cl * scrBytes + off ∨ cl * scrBytes + off + bs.length ≤ c * scrBytes + o) :
    scrRead (scrWrite s cl off bs) c o n = scrRead s c o n := Tab.getMany_putMany_out _ _ _ _ _ _ h

/-! ### The canonical form -/

theorem memory_wf_iff (m : Mem) : Memory.wf m = true ↔
    Tab.wf (fun _ => 0) m.phys = true ∧ Tab.wf (fun _ => false) m.poison = true ∧ Tab.wf (fun _ => 0) m.scr = true ∧
      Tab.wf (fun _ => false) m.scrPoison = true ∧ Tab.wf (fun _ => {}) m.lineErr = true ∧
      Tab.wf (fun _ => 0) m.scrErr = true := by
  simp [Memory.wf, and_assoc]

theorem writeMem_wf (s : State) (pa : Nat) (bs : List Byte) (h : Memory.wf s.mem = true) :
    Memory.wf (writeMem s pa bs).mem = true := by
  obtain ⟨h1, h2, h3, h4, h5, h6⟩ := (memory_wf_iff _).mp h
  exact (memory_wf_iff _).mpr ⟨Tab.wf_putMany _ _ _ _ h1, Tab.wf_clear _ _ _ _ h2, h3, h4, Tab.wf_clear _ _ _ _ h5, h6⟩

theorem poisonLine_wf (s : State) (pa : Nat) (h : Memory.wf s.mem = true) : Memory.wf (poisonLine s pa).mem = true := by
  obtain ⟨h1, h2, h3⟩ := (memory_wf_iff _).mp h
  exact (memory_wf_iff _).mpr ⟨h1, Tab.wf_put _ _ (pa / 64) true h2, h3⟩

theorem zeroMem_wf (s : State) (pa n : Nat) (h : Memory.wf s.mem = true) : Memory.wf (zeroMem s pa n).mem = true := by
  obtain ⟨h1, h2, h3, h4, h5, h6⟩ := (memory_wf_iff _).mp h
  exact (memory_wf_iff _).mpr ⟨Tab.wf_clear _ _ _ _ h1, Tab.wf_clear _ _ _ _ h2, h3, h4, Tab.wf_clear _ _ _ _ h5, h6⟩

/-- An error that shows in a line, one taken away, and scratch errors keep the form. -/
theorem lineErr_wf (m : Mem) (l : Nat) (e : LineErr) (h : Memory.wf m = true) :
    Memory.wf { m with lineErr := Tab.put (fun _ => {}) m.lineErr l e } = true := by
  obtain ⟨h1, h2, h3, h4, h5, h6⟩ := (memory_wf_iff _).mp h
  exact (memory_wf_iff _).mpr ⟨h1, h2, h3, h4, Tab.wf_put _ _ l e h5, h6⟩

theorem scrErr_wf (m : Mem) (w n : Nat) (h : Memory.wf m = true) :
    Memory.wf { m with scrErr := Tab.put (fun _ => 0) m.scrErr w n } = true := by
  obtain ⟨h1, h2, h3, h4, h5, h6⟩ := (memory_wf_iff _).mp h
  exact (memory_wf_iff _).mpr ⟨h1, h2, h3, h4, h5, Tab.wf_put _ _ w n h6⟩

theorem injectLine_wf (s : State) (l : LineRead) (h : Memory.wf s.mem = true) : Memory.wf (injectLine s l).mem = true := by
  cases l with
  | clean => exact h
  | corrected pa u => exact lineErr_wf _ _ _ h
  | bad pa u => exact lineErr_wf _ _ _ h

theorem scrWrite_wf (s : State) (cl off : Nat) (bs : List Byte) (h : Memory.wf s.mem = true) :
    Memory.wf (scrWrite s cl off bs).mem = true := by
  obtain ⟨h1, h2, h3, h4, h5, h6⟩ := (memory_wf_iff _).mp h
  refine (memory_wf_iff _).mpr ⟨h1, h2, Tab.wf_putMany _ _ _ _ h3, Tab.wf_foldl _ _ (fun t w ht => ?_) _ _ h4, h5,
    Tab.wf_foldl _ _ (fun t w ht => ?_) _ _ h6⟩
  · split
    · exact ht
    · exact Tab.wf_put _ t _ false ht
  · split
    · exact ht
    · exact Tab.wf_put _ t _ 0 ht

theorem scrZero_wf (s : State) (cl : Nat) (fil : Bool) (h : Memory.wf s.mem = true) :
    Memory.wf (scrZero s cl fil).mem = true := by
  obtain ⟨h1, h2, h3, h4, h5, h6⟩ := (memory_wf_iff _).mp h
  exact (memory_wf_iff _).mpr ⟨h1, h2, Tab.wf_clear _ _ _ _ h3, Tab.wf_clear _ _ _ _ h4, h5, Tab.wf_clear _ _ _ _ h6⟩

theorem scrSpoil_wf (s : State) (cl w : Nat) (h : Memory.wf s.mem = true) : Memory.wf (scrSpoil s cl w).mem = true := by
  obtain ⟨h1, h2, h3, h4, h5⟩ := (memory_wf_iff _).mp h
  exact (memory_wf_iff _).mpr ⟨h1, h2, h3, Tab.wf_put _ _ (cl * 2 ^ 20 + w) true h4, h5⟩

theorem hostMem_wf (m : Mem) (h : Memory.wf m = true) : Memory.wf (hostMem m) = true := by
  obtain ⟨h1, h2, _, _, h5, _⟩ := (memory_wf_iff _).mp h
  exact (memory_wf_iff _).mpr ⟨Tab.wf_filter _ _ _ h1, Tab.wf_filter _ _ _ h2, rfl, rfl, Tab.wf_filter _ _ _ h5, rfl⟩

theorem hostWrite_wf (s : State) (off : Nat) (bs : List Byte) (h : Memory.wf s.mem = true) :
    Memory.wf (hostWrite s off bs).mem = true := by
  have go : ∀ (ps : List (Nat × Nat)) (x : State × List Byte), Memory.wf x.1.mem = true →
      Memory.wf (ps.foldl (fun (x : State × List Byte) p =>
        (writeMem x.1 p.1 (x.2.take p.2), x.2.drop p.2)) x).1.mem = true := by
    intro ps
    induction ps with
    | nil => intro x hx; exact hx
    | cons p ps ih => intro x hx; exact ih _ (writeMem_wf _ _ _ hx)
  exact go _ _ h

end Sys2Proof.Machine
end

