-- ==== Sys2Proof/WellFormed.lean ====
section
/-!
DEFINITION. Which commands can exist at all: slots, ports, units, objects and addresses that the
device has (R2, R17, R188, R213, R269, R310), and operands that agree with their own lengths.
-/

namespace Sys2Proof

/-- A slot of one of the 512 clusters. -/
def Slot.wf (x : Slot) : Bool := decide (x.cl < 512)
/-- A 6-bit site and a 17-bit address (R310). -/
def Peer.wf (p : Peer) : Bool := decide (p.site < 64) && decide (p.addr < 131072)
/-- A one-word instruction has no second word (R122). -/
def Fld.wf (f : Fld) : Bool := f.form || (f.imm32 == 0 && f.ext == 0)
def Upset.wf : Upset → Bool
  | .scrCe w => decide (w < 1048576)
  | .scrUe w => decide (w < 1048576)
  | _ => true
def LineRead.wf : LineRead → Bool
  | .clean => true
  | .corrected pa u => decide (pa < 2 ^ 48) && decide (u < 22)
  | .bad pa u => decide (pa < 2 ^ 48) && decide (u < 22)
/-- Fields within the widths of Table 10-3. -/
def Msg.wf (m : Msg) : Bool :=
  decide (m.ver < 16) && decide (m.cls < 4) && decide (m.typ < 256) && m.dst.wf && m.src.wf &&
  decide (m.seq < 2 ^ 64)
/-- A 256-byte flit at most, with its link word's widths (Table 10-2). -/
def Frame.wf (f : Frame) : Bool :=
  decide (f.lseq < 2 ^ 20) && decide (f.ack < 2 ^ 20) && decide (f.kind < 8) && decide (f.flit.length ≤ 256)
def SyncMsg.wf (m : SyncMsg) : Bool := m.src.wf
def BMsg.wf (m : BMsg) : Bool := decide (m.group < 4096) && decide (m.gen < 16384)
def MDel.wf (m : MDel) : Bool := m.src.wf
def PairMsg.wf (m : PairMsg) : Bool := m.src.wf
def DigList.wf (d : DigList) : Bool := d.src.wf
def Blocks.wf (b : Blocks) : Bool :=
  b.src.wf && decide (b.data.length % 4096 = 0) && (b.hdr.isEmpty || decide (b.hdr.length = 32))
def Receipt.wf (r : Receipt) : Bool := decide (r.site < 64)
def Decision.wf (d : Decision) : Bool := decide (d.proposer < 64)
def Gov.wf : Gov → Bool
  | .cluster n => decide (n < 512)
  | .slice n => decide (n < 8)
  | _ => true
/-- A read of `len` bytes, or a write of its data. -/
def HostAcc.wf (a : HostAcc) : Bool := if a.wr then decide (a.data.length = a.len) else a.data.isEmpty

/-- Is the command one that the device can be given? -/
def Instr.wf : Instr → Bool
  | .ctxCreate _ => true
  | .ctxDestroy _ => true
  | .bind _ u => u.wf
  | .bindComplete => true
  | .unbind _ => true
  | .unbindComplete => true
  | .ctxStop _ => true
  | .ctxResume _ => true
  | .ctxRead _ => true
  | .qCreate _ => true
  | .qDestroy _ => true
  | .queueQuarantineEnd q => decide (q < 1048576)
  | .qCmdHalt _ => true
  | .qResume _ => true
  | .qRead _ => true
  | .doorbell _ len _ => decide (len ≤ 16)
  | .queueFetch q => decide (q < 1048576)
  | .kernel q => decide (q < 1048576)
  | .kernelComplete _ => true
  | .batchRef q => decide (q < 1048576)
  | .batchRefRecorded _ => true
  | .cmdWait q => decide (q < 1048576)
  | .signal q => decide (q < 1048576)
  | .ring q => decide (q < 1048576)
  | .cmdNop q => decide (q < 1048576)
  | .governorDebtCleared g => g.wf
  | .priUnitsTick => true
  | .filUnitsTick cl => decide (cl < 512)
  | .frameBeatTick => true
  | .intervalClose => true
  | .snapshotWritten => true
  | .ledBase _ => true
  | .ledSlots _ => true
  | .ledTail _ => true
  | .ledCtrl _ => true
  | .syncCreate _ => true
  | .syncDestroy _ => true
  | .syncQuarantineEnd i => decide (i < 262144)
  | .syncReset _ => true
  | .syncRead _ => true
  | .readWaiters _ => true
  | .clearOvr _ => true
  | .counterSignal _ => true
  | .flagSignal _ => true
  | .barrierArrival _ => true
  | .remoteSignal m => m.wf
  | .barrierRejection _ => true
  | .watchdogExpiry i _ => decide (i < 262144)
  | .lendStart cl => decide (cl < 512)
  | .lendGrant _ => true
  | .lendWake cl => decide (cl < 512)
  | .lendRevoke _ => true
  | .assign _ => true
  | .release _ => true
  | .retire _ => true
  | .frameScrubbed frame => decide (frame < 944960)
  | .invalCtx _ => true
  | .invalRange _ => true
  | .invalAll _ => true
  | .invalidationComplete => true
  | .tableWalk sl _ _ l => sl.wf && l.wf
  | .patrolRead _ l _ _ => l.wf
  | .patrolCtrl _ => true
  | .jrnCtrl _ => true
  | .undoCopyComplete _ _ _ _ => true
  | .batchRecheck _ _ => true
  | .restoreComplete _ _ => true
  | .register _ => true
  | .deregister _ => true
  | .rollback _ => true
  | .updRead _ => true
  | .phaseAStart _ => true
  | .phaseAComplete _ => true
  | .phaseBStart _ => true
  | .phaseBComplete _ => true
  | .outerEncodeComplete _ => true
  | .outerMergeComplete _ => true
  | .groupCreate _ => true
  | .groupDestroy _ => true
  | .groupQuarantineEnd g => decide (g < 4096)
  | .groupRead _ => true
  | .voteRead _ => true
  | .collectiveStart _ => true
  | .borageMessage m => m.wf
  | .mirrorDelivery m => m.wf
  | .collectiveComplete _ => true
  | .voteOpen _ => true
  | .voteWord src _ => src.wf
  | .voteDeadline _ => true
  | .absenceNotice _ _ src => src.wf
  | .voteOutcome _ => true
  | .recoveryRootWait _ => true
  | .pctrl p _ => decide (p < 8)
  | .portTrained p _ => decide (p < 8)
  | .wavelengthFail p _ => decide (p < 8)
  | .linkFrame p fr => decide (p < 8) && fr.frame.wf && (fr.touch ++ fr.ended).all (decide <| · ≤ 544)
  | .nak p _ => decide (p < 8)
  | .retrain p => decide (p < 8)
  | .retrainEnd p _ => decide (p < 8)
  | .lossOfLight p => decide (p < 8)
  | .relayFlit p dst _ fr => decide (p < 8) && dst.wf && fr.wf
  | .transportMessage m => m.wf
  | .ackTimer _ => true
  | .ack src _ _ => src.wf
  | .retransmitTimer _ => true
  | .messageAgeExpiry _ _ => true
  | .connectionRelease _ => true
  | .resync src _ _ _ => src.wf
  | .sessionWaitExpiry _ => true
  | .heartbeatSend => true
  | .heartbeat src _ _ _ => src.wf
  | .absenceCheck _ => true
  | .timeExchange p _ _ _ _ _ => decide (p < 8)
  | .firstLock => true
  | .ppsEdge => true
  | .holdoverEntry => true
  | .holdoverExit => true
  | .timeDrift => true
  | .epochChange => true
  | .epochKeyForm => true
  | .epochKeyRetire => true
  | .sInit m => m.src.wf && decide (m.kem.length = 1184) && decide (m.chain.length ≤ 2 ^ 14)
  | .sResp src _ _ _ _ => src.wf
  | .sFin src _ _ _ _ _ => src.wf
  | .sessionRetry dst => dst.wf
  | .sessionReplace dst => dst.wf
  | .outerRoundBegin => true
  | .sxData src _ _ _ _ _ _ => src.wf
  | .sxScale src _ _ _ _ _ _ => src.wf
  | .sxRetransmitReq src _ _ => src.wf
  | .sxReport src _ _ _ => src.wf
  | .sxReceipt r => r.wf
  | .dataWaitExpiry => true
  | .decWaitExpiry => true
  | .sxDecision => true
  | .sxApply d => d.src.wf && d.d.wf
  | .sxDecisionTimeout => true
  | .sxState src _ _ _ _ _ => src.wf
  | .join m => m.src.wf
  | .loadRoutes _ => true
  | .loadSites _ => true
  | .loadWatch _ => true
  | .loadEnc _ => true
  | .readRoute _ => true
  | .fabId _ => true
  | .fabLat _ => true
  | .fabLatLowerEffect => true
  | .encCtrl _ => true
  | .sxCtrl _ => true
  | .sxH _ => true
  | .pair _ => true
  | .unpair _ => true
  | .substitute _ => true
  | .promote _ => true
  | .pairReq m => m.wf
  | .pairAck m => m.wf
  | .digest d => d.wf
  | .verdict src _ _ _ _ _ _ _ => src.wf
  | .divergenceEnd _ _ => true
  | .undoReq src _ _ _ => src.wf
  | .undoData b _ => b.wf
  | .fetchReq src _ _ _ _ => src.wf
  | .fetchData b => b.wf
  | .recordHandlingEnd _ => true
  | .errTail _ _ => true
  | .leaseClaim _ => true
  | .leaseRenew _ => true
  | .leaseExpiry => true
  | .spineUnreachableStop _ => true
  | .leadForce _ => true
  | .bootLoad _ => true
  | .imageVerifyComplete _ _ => true
  | .memoryTrainingComplete => true
  | .getVersion => true
  | .getCapabilities _ => true
  | .negotiateAlgorithms _ _ => true
  | .getDigests => true
  | .getCertificate _ _ _ => true
  | .challenge _ _ => true
  | .getMeasurements _ _ _ => true
  | .keyExchange _ => true
  | .finish _ => true
  | .endSession => true
  | .spdmHeartbeat => true
  | .keyUpdate => true
  | .drbgReseed _ => true
  | .maskReseed _ => true
  | .healthTestFail _ => true
  | .hkeyLoad _ => true
  | .hkeyErase _ => true
  | .slotErase _ => true
  | .cqrWr _ => true
  | .cipherRequestComplete _ => true
  | .run u _ => decide (u < 32)
  | .chiveRunComplete u => decide (u < 32)
  | .resetAlive u _ => decide (u < 32)
  | .rstCmd _ => true
  | .cxlReset => true
  | .flr => true
  | .hotReset => true
  | .resetInputAssert => true
  | .resetInputRelease => true
  | .cxlLinkTrain _ _ => true
  | .cxlLinkLoss => true
  | .cxlLinkReturn _ _ => true
  | .cxlCacheTimeout _ _ _ => true
  | .ideFail => true
  | .hdmAccess a => a.wf
  | .bar2Sel _ => true
  | .irqStat _ => true
  | .irqEn _ => true
  | .getStatus => true
  | .getIdent => true
  | .getRecord _ slot => decide (slot < 64)
  | .resetReq _ => true
  | .mctpLeadForce _ => true
  | .mctpControl _ => true
  | .pldmRequest _ => true
  | .powerStageStart => true
  | .pwrgdAssert => true
  | .overvoltage _ => true
  | .undervoltage _ => true
  | .overcurrent _ => true
  | .inputLowEntry _ => true
  | .budgetPeriod _ _ => true
  | .pwrLimit _ => true
  | .throttleTick _ _ _ _ => true
  | .fastLoopTrip _ => true
  | .fastLoopRelease => true
  | .thermalSample _ => true
  | .thermalCapStep _ _ _ => true
  | .thermalTrip _ => true
  | .sensorFault _ => true
  | .plainRegisterWrite _ size _ => (size == 1 || size == 2 || size == 4 || size == 8)
  | .lightReturn p => decide (p < 8)
  | .overvoltageRestart _ => true
  | .resetReleaseHoldEnd => true
  | .ideKeyProgram => true
  | .bar2Access a => a.wf
  | .digestListComputed _ _ _ => true
  | .undoRecordReport src _ _ _ => src.wf
  | .ref10mLockLoss => true
  | .ppsEdgesMissed => true
  | .add sl f => sl.wf && f.wf
  | .sub sl f => sl.wf && f.wf
  | .mul sl f => sl.wf && f.wf
  | .mulh sl f => sl.wf && f.wf
  | .and sl f => sl.wf && f.wf
  | .or sl f => sl.wf && f.wf
  | .xor sl f => sl.wf && f.wf
  | .shl sl f => sl.wf && f.wf
  | .shr sl f => sl.wf && f.wf
  | .sar sl f => sl.wf && f.wf
  | .slt sl f => sl.wf && f.wf
  | .sltu sl f => sl.wf && f.wf
  | .li sl f => sl.wf && f.wf
  | .lih sl f => sl.wf && f.wf
  | .ld sl f u => sl.wf && f.wf && u.wf
  | .st sl f => sl.wf && f.wf
  | .ldw sl f => sl.wf && f.wf
  | .stw sl f => sl.wf && f.wf
  | .csrr sl f => sl.wf && f.wf
  | .csrw sl f => sl.wf && f.wf
  | .capr sl f => sl.wf && f.wf
  | .caprd sl f => sl.wf && f.wf
  | .j sl f => sl.wf && f.wf
  | .beq sl f => sl.wf && f.wf
  | .bne sl f => sl.wf && f.wf
  | .blt sl f => sl.wf && f.wf
  | .bge sl f => sl.wf && f.wf
  | .bltu sl f => sl.wf && f.wf
  | .call sl f => sl.wf && f.wf
  | .jr sl f => sl.wf && f.wf
  | .halt sl f => sl.wf && f.wf
  | .cfence sl f => sl.wf && f.wf
  | .nop sl f => sl.wf && f.wf
  | .vadd sl f => sl.wf && f.wf
  | .vsub sl f => sl.wf && f.wf
  | .vmul sl f => sl.wf && f.wf
  | .vfma sl f => sl.wf && f.wf
  | .vfnma sl f => sl.wf && f.wf
  | .vmin sl f => sl.wf && f.wf
  | .vmax sl f => sl.wf && f.wf
  | .vabs sl f => sl.wf && f.wf
  | .vneg sl f => sl.wf && f.wf
  | .vcmpeq sl f => sl.wf && f.wf
  | .vcmplt sl f => sl.wf && f.wf
  | .vcmple sl f => sl.wf && f.wf
  | .vcmpun sl f => sl.wf && f.wf
  | .vsel sl f => sl.wf && f.wf
  | .vand sl f => sl.wf && f.wf
  | .vor sl f => sl.wf && f.wf
  | .vxor sl f => sl.wf && f.wf
  | .vshl sl f => sl.wf && f.wf
  | .vshr sl f => sl.wf && f.wf
  | .vsar sl f => sl.wf && f.wf
  | .vrsum sl f => sl.wf && f.wf
  | .vrmax sl f => sl.wf && f.wf
  | .vrmin sl f => sl.wf && f.wf
  | .vmov sl f => sl.wf && f.wf
  | .vbcast sl f => sl.wf && f.wf
  | .viota sl f => sl.wf && f.wf
  | .vcvtF2i sl f => sl.wf && f.wf
  | .vcvtI2f sl f => sl.wf && f.wf
  | .vld sl f u => sl.wf && f.wf && u.wf
  | .vst sl f => sl.wf && f.wf
  | .vlda sl f u => sl.wf && f.wf && u.wf
  | .vsta sl f => sl.wf && f.wf
  | .vunpk sl f => sl.wf && f.wf
  | .vpk sl f => sl.wf && f.wf
  | .vpkSt sl f => sl.wf && f.wf
  | .vdraw sl f => sl.wf && f.wf
  | .pset sl f => sl.wf && f.wf
  | .pand sl f => sl.wf && f.wf
  | .por sl f => sl.wf && f.wf
  | .pxor sl f => sl.wf && f.wf
  | .pnot sl f => sl.wf && f.wf
  | .pcnt sl f => sl.wf && f.wf
  | .pmask sl f => sl.wf && f.wf
  | .vext sl f => sl.wf && f.wf
  | .vins sl f => sl.wf && f.wf
  | .fsetp sl f => sl.wf && f.wf
  | .mmaR sl f _ => sl.wf && f.wf
  | .mmaS sl f => sl.wf && f.op.wf
  | .matrixPassComplete sl _ u => sl.wf && u.wf
  | .mout sl f => sl.wf && f.op.wf
  | .mlda sl f => sl.wf && f.op.wf
  | .mamax sl f => sl.wf && f.op.wf
  | .tld sl f => sl.wf && f.wf
  | .tst sl f => sl.wf && f.wf
  | .torg sl f => sl.wf && f.wf
  | .toff sl f => sl.wf && f.wf
  | .dmaGo sl f _ => sl.wf && f.wf
  | .dmaCnt sl f => sl.wf && f.wf
  | .dmaDrain sl f => sl.wf && f.wf
  | .dmaComplete _ u l => u.wf && l.wf
  | .sig sl f => sl.wf && f.wf
  | .wait sl f => sl.wf && f.wf
  | .arrive sl f => sl.wf && f.wf
  | .cons sl f => sl.wf && f.wf
  | .sread sl f => sl.wf && f.wf
  | .creg sl f => sl.wf && f.wf
  | .collGo sl f => sl.wf && f.wf
  | .collNf sl f => sl.wf && f.wf
  | .collQ sl f => sl.wf && f.wf
  | .updA sl f => sl.wf && f.wf
  | .updB sl f => sl.wf && f.wf
  | .updAb sl f => sl.wf && f.wf
  | .updOut sl f => sl.wf && f.wf
  | .updExp sl f => sl.wf && f.wf
  | .updExpComplete _ => true

end Sys2Proof
end

