-- ==== Sys2Proof/Tests/Slice0.lean ====
section
/-!
SUPPORT. Tests: ill-formed commands refused, steps on small states whose results come from the spec, and for every
statement a state and operands that meet its hypotheses.
-/

namespace Sys2Proof.Tests
open Sys2Proof.Machine

set_option maxRecDepth 100000
set_option Elab.async false

/-! ### Small states -/

/-- A device that is up: all images accepted, memory trained and scrubbed, time locked, West leads. -/
def up : State := { State.reset with
  pwr := { Pwr.reset with perst := false, started := true }
  time := { Time.reset with run := true, locked := true, ft := 10 * 2 ^ 20 + 5 }
  dev := { Dev.reset with linkUp := true, rate := 2, width := 2, rdy := 0xFFFFFFFFFFFFFFFF, ide := true }
  boot := { State.reset.boot with opened := true, done := true, next := 7, sage := ⟨true, true⟩, acc := [1, 2, 3, 4, 5, 6],
                                  trained := true }
  sec := { State.reset.sec with rngOk := ⟨true, true⟩ }
  frm := { State.reset.frm with scrub := ⟨472480, 472480⟩ }
  led := { State.reset.led with counting := true }
  fab := { State.reset.fab with id := 0x80000005 }
  lead := { holder := some .west, epoch := 1, expiry := 100, forced := false
            half := ⟨{ readBeat := 10, mine := true, expiry := 100 }, { readBeat := 10, expiry := 100 }⟩ } }

/-- Context 9 of tenant 3, job 77, ready; its tables map the first 2 MiB to frame 1. -/
def withCtx (s : State) : State :=
  let s1 := setCtx s 9 { st := .ready, tenant := 3, job := 77, root := 0 }
  let s2 := setFrm (setFrm s1 0 (mkEntry .ptable 3)) 1 (mkEntry .tenant 3)
  s2.setMem { s2.mem with phys := [(0, 1), (2, 1), (0x10000, 1), (0x10001, 0x10), (0x10002, 1), (0x11000, 0x3D),
                                   (0x11002, 0x20)] }

def sl : Slot := { cl := 0, fil := false }

/-- A page of context 9 in the TLB of tile 0. -/
def page : TlbE := ⟨9, false, 0, 0, 2 ^ 21, 2 ^ 21, true, true, true⟩

/-- Slot 0 of cluster 0 runs KERNEL command 7 in context 9. -/
def running : State :=
  let s := withCtx up
  let s1 := setSlot s 0 false { ctx := some 9, run := some 7, prep := .ready, stepNo := 5 }
  s1.setMmu { s1.mmu with tlb := [page] }

/-! ### The hypotheses of the statements are met: instructions of a slot -/

/-- Fields of instructions: registers 1, 2, 3; none; an immediate. -/
def f123 : Fld := { rd := 1, ra := 2, rb := 3 }
def f0 : Fld := {}
def fLong : Fld := { form := true }

theorem witness_ScalarArithmetic : issues running sl = true ∧ fldAlu f123 = true ∧ fldAlu { f123 with rc := 1 } = false ∧
    (slotOf running sl).passes = [] ∧
    fldAlu { rd := 0, ra := 2, bsrc := 2, imm18 := 0x3FFFF } = true := by decide +kernel

theorem witness_ScalarImmediateAndCsr : issues running sl = true ∧
    badFld { f64 := false, f128 := true, rd := 64, imm32 := true } { form := true, rd := 63, imm32 := 0x80000000 } = false ∧
    badFld { rd := 64, imm := true } { rd := 1, imm18 := 0xC } = false ∧ csrRead running 0 false 0xC = some 0 ∧
    badFld { ra := 64, imm := true } { ra := 2, imm18 := 0 } = false ∧
    badFld { ra := 64, imm := true } { ra := 2, imm18 := 1 } = false ∧
    badFld { rd := 64, ra := 64, imm := true } { rd := 1, imm18 := 4092 } = false ∧
    scrAddr (slotOf running sl) { rd := 1, imm18 := 4092 } = 4092 ∧ 4092 % 4 = 0 ∧ 4092 + 4 ≤ 4096 ∧
    badFld { rd := 64, ra := 64, imm := true } { rd := 1, imm18 := 4088 } = false ∧
    scrAddr (slotOf running sl) { rd := 1, imm18 := 4088 } = 4088 ∧ 4088 % 8 = 0 ∧ 4088 + 8 ≤ 4096 := by decide +kernel

/-- The last 8 bytes of a primary slot's default part are reached from S2. -/
def atEnd : State := updSlot running 0 false fun x => sset x 2 (bv 64 (8 * 2 ^ 20 - 8))

theorem witness_ScalarLoadsAndStores : issues atEnd sl = true ∧
    badFld { rd := 64, ra := 64, imm := true } { rd := 1, ra := 2 } = false ∧
    badFld { ra := 64, rb := 64, imm := true } { ra := 2, rb := 3, imm18 := 4 } = false ∧
    scrAddr (slotOf atEnd sl) { rd := 1, ra := 2 } = 8388600 ∧ scrAddr (slotOf atEnd sl) { ra := 2, rb := 3, imm18 := 4 } = 8388604 ∧
    scrFits atEnd sl 8388600 8 8 = true ∧ scrClean (inject atEnd 0 false .none) sl 8388600 8 = true ∧
    scrFits atEnd sl 8388604 4 4 = true ∧ scrClean atEnd sl 8388604 4 = true ∧
    rangesClean atEnd sl (partRanges 8388604 4) = true ∧
    scrFits atEnd sl 8388608 8 8 = false := by decide +kernel

/-- A slot with matrix passes in flight. -/
def aPass : Pass := ⟨0, 0, false, f0, 0, [0, 0], [], 0, 0, 5, 0⟩
def passing : State := updSlot running 0 false fun x => { x with passes := [aPass], nextPass := 1 }

theorem witness_ControlFlow : issues running sl = true ∧ issues passing sl = true ∧
    badFld { ra := 64, rb := 64, imm := true } { ra := 1, rb := 2, imm18 := 0x20000 } = false ∧
    badFld { f128 := true, imm := true, imm32 := true } { form := true, imm32 := 64 } = false ∧
    badFld { f128 := true, rd := 64, imm := true, imm32 := true } { rd := 1, imm18 := 8 } = false ∧
    badFld { ra := 64 } { ra := 1 } = false ∧ (sget (slotOf running sl) 1).toNat % 8 = 0 ∧ badFld {} f0 = false ∧
    (slotOf running sl).passes = [] ∧ (slotOf passing sl).passes ≠ [] := by decide +kernel

/-- One predicate-governed field word serves every vector instruction of three operands. -/
def fV (ty : BitVec 2) : Fld := { rd := 1, ra := 2, rb := 3, ty := ty, pen := true, pred := 4 }

theorem witness_VectorArithmetic : issues running sl = true ∧
    fldVec (useVab (fV 0) true) [0, 1, 2, 3] (fV 0) = true ∧ fldVec (useVab (fV 3) true) [0, 1, 2, 3] (fV 3) = true ∧
    fldVec (useVabc { fV 2 with rc := 4 }) [0, 1, 2] { fV 2 with rc := 4 } = true ∧
    fldVec (useVab (fV 1) false) [0, 1, 2, 3] (fV 1) = true ∧
    fldVec (useVa false { ra := 2 }) [0, 1, 2, 3] { ra := 2 } = true ∧ fldVec (useVa true { ra := 2 }) [0, 1, 2, 3] { ra := 2 } = true ∧
    fldVec (useCmp (fV 3)) [0, 3] (fV 3) = true ∧ fldVec (useCmp (fV 0)) [0] (fV 0) = true ∧
    fldVec { useVab (fV 3) false with rc := 8 } [3] { fV 3 with rc := 7 } = true ∧
    fldVec (useVab (fV 3) false) [3] (fV 3) = true ∧
    fldVec { useVab { fV 3 with ra := 0 } false with ra := 0 } [3] { fV 3 with ra := 0 } = true ∧
    fldVec { rd := 32, ra := 32, rnd := true } [3] { rd := 1, ra := 2, ty := 3, rnd := 1 } = true := by decide +kernel

/-- VCVT.F2I and VPK fields whose statistics record is at the address in S0, that is 0. -/
def fExt (ext : B32) : Fld := { form := true, rd := 1, ra := 2, rb := 3, ext := ext }

theorem witness_VectorBroadcastAndConvert : issues running sl = true ∧
    fldVec { useVa false { rd := 1, ra := 2, ty := 3, imm18 := 127 } with imm := true } [3]
      { rd := 1, ra := 2, ty := 3, imm18 := 127 } = true ∧
    badFld useF2i { fExt 0xA000 with rb := 0 } = false ∧ extEsc (fExt 0xA000) = 0 ∧ extAbsent (fExt 0xA000) = false ∧
    extFmt (fExt 0xA000) = 0xA ∧ (sget (slotOf running sl) (extRe (fExt 0xA000))).toNat = 0 ∧ 0 % 64 = 0 ∧
    slotCtx running 0 false = 9 ∧ clTile running 0 = 0 ∧
    xlate running (some (0, false)) 9 0 .write = .ok (2 ^ 21) := by decide +kernel

/-- A slot with a pass of accumulator tile 7 in flight. -/
def tileUsed : State := updSlot running 0 false fun x => { x with passes := [{ aPass with tile := 7 }] }

theorem witness_VectorLoadsAndStores : issues running sl = true ∧
    badFld { rd := 32, ra := 64, imm := true, pred := true } { rd := 31, ra := 1, imm18 := 64, pen := true } = false ∧
    scrAddr (slotOf running sl) { rd := 31, ra := 1, imm18 := 64, pen := true } = 64 ∧ scrFits running sl 64 512 64 = true ∧
    rangesClean (inject running 0 false .none) sl
      (laneRanges (slotOf running sl) { rd := 31, ra := 1, imm18 := 64, pen := true } 64) = true ∧
    badFld { ra := 64, rb := 32, imm := true, pred := true } { ra := 1, rb := 31, imm18 := 64 } = false ∧
    rangesClean running sl (halfRanges (slotOf running sl) { ra := 1, rb := 31, imm18 := 64 } 64) = true ∧
    badFld { rd := 32, ra := 8, rb := 64, pred := true } { rd := 31, ra := 7, rb := 63 } = false ∧
    tileBusy (slotOf running sl) 7 = false ∧ (slotOf (inject running 0 false .none) sl).accErr = [] ∧
    issues tileUsed sl = true ∧ tileBusy (slotOf tileUsed sl) 7 = true ∧
    badFld { ra := 8, rb := 32, rc := 64, pred := true } { ra := 7, rb := 31, rc := 63 } = false := by decide +kernel

theorem witness_VectorUnpackPackAndDraw_1 : issues running sl = true ∧
    xlate running (some (0, false)) 9 0 .write = .ok (2 ^ 21) := by
  decide +kernel

/-- A slot whose tile register 2 is a BFloat16 tile of one element. -/
def tiled : State := updSlot running 0 false fun x => tset x 2 (bv 256 (2 * 2 ^ 46))

theorem witness_VectorUnpackPackAndDraw_2 : issues tiled sl = true ∧
    badFld { f64 := false, f128 := true, rd := 32, ra := 16, rb := 64, ext := true, pred := true } (fExt 0) = false ∧
    bits (0 : B32) 31 7 = 0 ∧ badAbsent (fExt 0) (parseTile (tget (slotOf tiled sl) 2)) = false ∧
    (parseTile (tget (slotOf tiled sl) 2)).bad (slotPart tiled 0 false).2 = false ∧
    (parseTile (tget (slotOf tiled sl) 2)).fmt = 2 ∧
    (rowCol (sget (slotOf tiled sl) 3)) = (0, 0, false) ∧ 0 < (parseTile (tget (slotOf tiled sl) 2)).lrows ∧
    0 < (parseTile (tget (slotOf tiled sl) 2)).lcols ∧ (sget (slotOf tiled sl) (extRe (fExt 0))).toNat = 0 ∧
    xlate tiled (some (0, false)) 9 0 .write = .ok (2 ^ 21) ∧
    rangesClean tiled sl (unpackRanges (slotOf tiled sl) (fExt 0) (parseTile (tget (slotOf tiled sl) 2)) 0 0) = true := by
  decide +kernel

theorem witness_VectorUnpackPackAndDraw_3 : badFld useVpk (fExt 0x1000) = false ∧ extFmt (fExt 0x1000) = 1 ∧
    extEsc (fExt 0x1000) = 0 ∧ extAbsent (fExt 0x1000) = false := by decide +kernel

/-- VPK.ST of one element of that tile, from V3, at the row and column in S0. -/
def fPst : Fld := { form := true, ra := 2, rb := 3, ext := 0x2000 }

theorem witness_VectorUnpackPackAndDraw_4 :
    badFld { f64 := false, f128 := true, ra := 16, rb := 32, rc := 64, imm32 := true, ext := true, pred := true } fPst = false ∧
    extRe fPst ≠ 63 ∧ badAbsent fPst (parseTile (tget (slotOf tiled sl) 2)) = false ∧
    extFmt fPst = (parseTile (tget (slotOf tiled sl) 2)).fmt ∧ extEsc fPst = 0 ∧
    (let d := parseTile (tget (slotOf tiled sl) 2)
     let c := getCtx tiled 9
     rangesClean tiled sl (wrsPart (gridWrs d (service c 5) 0 0 0 [packEls c (slotOf tiled sl) fPst d 0 0]).1) = true) := by
  decide +kernel

theorem witness_VectorUnpackPackAndDraw_5 :
    badFld { f64 := false, f128 := true, rd := 32, rc := 64, imm32 := true, ext := true, pred := true }
      { form := true, rd := 28, rc := 1, imm32 := 9, ext := 0x00014000 } = false ∧
    extFmt { form := true, rd := 28, rc := 1, imm32 := 9, ext := 0x00014000 } = 4 ∧ 28 + 4 ≤ 32 ∧
    bits (0x00014000 : B32) 11 0 = 0 := by decide +kernel

theorem witness_PredicateAndLane : issues running sl = true ∧
    badFld { rd := 8, imm := true, pred := true, nf := true } { rd := 7, imm18 := 1 } = false ∧
    badFld { rd := 8, ra := 8, rb := 8, pred := true, nf := true } { rd := 1, ra := 2, rb := 3 } = false ∧
    badFld { rd := 8, ra := 8, pred := true, nf := true } { rd := 1, ra := 2 } = false ∧
    badFld { rd := 64, ra := 8, pred := true, nf := true } { rd := 63, ra := 7 } = false ∧
    badFld { rd := 8, ra := 64, pred := true, nf := true } { rd := 7, ra := 63 } = false ∧
    badFld { rd := 64, ra := 32, imm := true, pred := true, nf := true } { rd := 63, ra := 31, imm18 := 127 } = false ∧
    badFld { rd := 32, ra := 64, imm := true, pred := true, nf := true } { rd := 31, ra := 63, imm18 := 127 } = false ∧
    badFld { ra := 8, imm := true, pred := true, nf := true } { ra := 7, imm18 := 31 } = false ∧ 0 < 2 ^ 18 := by decide +kernel

/-- A slot with a pass of MMA.S whose output of one element lies at scratch 0. -/
def streaming : State :=
  updSlot running 0 false fun x => { x with passes := [⟨0, 0, true, f0, 0, [0, 0, 0, 0, 0], List.replicate 64 0, 0, 8, 5, 0⟩] }

theorem witness_TileRegisters : issues running sl = true ∧
    badFld { rd := 16, ra := 64, imm := true } { rd := 15, ra := 1, imm18 := 32 } = false ∧
    scrAddr (slotOf running sl) { rd := 15, ra := 1, imm18 := 32 } = 32 ∧ scrFits running sl 32 32 32 = true ∧
    mustWait (slotOf running sl) [(32, 32)] [] 0 0 = false ∧ scrClean running sl 32 32 = true ∧
    badFld { ra := 64, rb := 16, imm := true } { ra := 1, rb := 15, imm18 := 32 } = false ∧
    mustWait (slotOf running sl) [] [(32, 32)] 0 0 = false ∧
    badFld { rd := 16, ra := 64, rb := 64 } { rd := 15, ra := 1, rb := 2 } = false ∧
    (sget (slotOf running sl) 1).toNat < 2 ^ 23 ∧ issues passing sl = true ∧
    mustWait (slotOf passing sl) [] [(0, 32)] 0 0 = true ∧ mustWait (slotOf streaming sl) [(0, 32)] [] 0 0 = true := by
  decide +kernel

/-- Two passes of accumulator tile 0. -/
def twoPasses : State :=
  updSlot running 0 false fun x => { x with passes := [aPass, { aPass with k := 1 }], nextPass := 2 }

/-- A slot whose tile registers 1 and 2 are binary32 tiles of 16 by 16 elements with rows of 64 bytes. -/
def t16 : BitVec 256 := bv 256 (64 * 2 ^ 96 + 15 * 2 ^ 80 + 15 * 2 ^ 64)
def square : State := updSlot running 0 false fun x => tset (tset x 1 t16) 2 t16

theorem witness_MatrixIssueAndPasses_1 : issues square sl = true ∧
    badFld { rd := 8, ra := 16, rb := 16, imm := true } { rd := 7, ra := 1, rb := 2, imm18 := 1 } = false ∧
    badFld { rd := 8, ra := 16, rb := 16, imm := true } { rd := 7, ra := 1, rb := 2, imm18 := 0 } = false ∧
    tget (slotOf square sl) 1 = t16 ∧ tget (slotOf square sl) 2 = t16 ∧
    mmaExtents (parseTile t16) (parseTile t16) false (slotPart square 0 false).2 = (16, 16, 16, false) ∧
    passCount 16 16 = 1 ∧ 7 + 1 ≤ 8 ∧ tileMode (slotOf square sl) 7 = b2n false := by decide +kernel

theorem witness_MatrixIssueAndPasses_2 : tget (slotOf square sl) 1 = t16 ∧
    badFld { f64 := false, f128 := true, rd := 16, ra := 16, rb := 16, rc := 16, ext := true }
      { form := true, rd := 1, ra := 1, rb := 2, rc := 2 } = false ∧ bits (0 : B32) 31 7 = 0 ∧
    (parseTile t16).bad (slotPart square 0 false).2 = false ∧ (parseTile t16).fmt = 0 ∧ (parseTile t16).lrows = 16 ∧
    (parseTile t16).lcols = 16 ∧ (peekOcb square sl 0).map (·.int) = some false ∧
    ocbAt square 0 false 9 false 0 (parseTile t16) 16 16 = .ok (List.replicate 64 0, parseTile 0, 0) := by decide +kernel

theorem witness_MatrixIssueAndPasses_3 : issues passing sl = true ∧
    (slotOf passing sl).passes.find? (fun p => p.k == 0) = some aPass ∧ (slotOf passing sl).accErr = [] ∧
    (aPass.reads ++ aPass.writes).all (fun r => inPart passing 0 false r.1 r.2) = true ∧
    aPass.behind ((slotOf passing sl).passes.takeWhile fun q => q.k != 0) = false ∧
    rangesClean (setSlot passing 0 false { slotOf passing sl with passes := [] }) sl aPass.reads = true ∧
    issues twoPasses sl = true ∧ (slotOf twoPasses sl).passes.find? (fun p => p.k == 1) = some { aPass with k := 1 } ∧
    ({ aPass with k := 1 } : Pass).behind ((slotOf twoPasses sl).passes.takeWhile fun q => q.k != 1) = true ∧
    ocbMeet square sl 0 = (square, false) ∧ mustWait (slotOf square sl) [(0, 64)] [] 0 0 = false := by decide +kernel

/-- A pass whose A tile ends beyond the slot's part. -/
def farPass : Pass := { aPass with desc := [bv 256 (2 ^ 23 - 1), 0] }
def farOff : State := updSlot running 0 false fun x => { x with passes := [farPass] }

theorem witness_MatrixIssueAndPasses_4 : issues farOff sl = true ∧
    (slotOf farOff sl).passes.find? (fun p => p.k == 0) = some farPass ∧
    farPass.behind ((slotOf farOff sl).passes.takeWhile fun q => q.k != 0) = false ∧
    ((farPass.reads ++ farPass.writes).all fun r => inPart farOff 0 false r.1 r.2) = false := by decide +kernel

theorem witness_MatrixOutputAndLoads_1 : issues square sl = true ∧ (slotOf square sl).passes = [] ∧
    badFld { rd := 16, ra := 8, rb := 64 } { rd := 1, ra := 7, rb := 1 } = false ∧ (pow2In 16 && pow2In 16) = true ∧
    7 + passCount 16 16 ≤ 8 ∧ badFld { rd := 8, ra := 16 } { rd := 7, ra := 1 } = false ∧
    rangesClean square sl ((parseTile t16).rowsAt 0 16) = true ∧ badFld { ra := 16, rb := 64 } { ra := 1, rb := 1 } = false ∧
    (slotOf square sl).accErr = [] ∧ rangesClean square sl (vecRanges (parseOcb (List.replicate 64 0)) 0 16) = true ∧
    issues passing sl = true ∧ badFld { rd := 8, ra := 16 } { rd := 0, ra := 1 } = false ∧
    mustWait (slotOf passing sl) ((parseTile 0).rowsAt 0 1) [] 0 1 = true := by decide +kernel

theorem witness_MatrixOutputAndLoads_2 : ((moutGo sl 9
    (outParOf square 0 false 9 5 (parseOcb (List.replicate 64 0)) (parseTile t16) (parseTile 0) 0 16) 7 16 16 [0] square).2).isNone =
    true := by decide +kernel

theorem witness_MatrixOutputAndLoads_3 : (loadVa square 9 0 64).2.2.isNone = true ∧
    xlate square (some (0, false)) 9 0 .write = .ok (2 ^ 21) := by decide +kernel

/-! ### Transfers, synchronisation, collectives and updates of a slot -/

/-- The scratch of cluster 0 holds at 0 the descriptor of a transfer of 64 bytes from scratch 64 to scratch 128. -/
def dmaOne : DmaX := ⟨4, 0, false, 9, [0x300, 64, 64, 128, 0, 0, 0, 0], 5, none, 0, 0⟩
def dmaState : State := { running with
  mem := { running.mem with scr := [(1, 3), (8, 64), (16, 64), (24, 128)] }
  dma := { xfers := [dmaOne], next := 5 } }

theorem witness_DmaTransfers : issues dmaState sl = true ∧ issues running sl = true ∧ badFld { ra := 64 } { ra := 1 } = false ∧
    scrFits dmaState sl 0 64 64 = true ∧ scrClean dmaState sl 0 64 = true ∧
    ((List.range 8).map fun i => bv 64 (leNat (scrRead dmaState 0 (0 + 8 * i) 8))) = dmaOne.desc ∧
    (parseDma dmaOne.desc).bad = false ∧ (parseDma dmaOne.desc).beyond (slotPart dmaState 0 false).2 = none ∧
    badFld { rd := 64 } { rd := 1 } = false ∧ badFld {} f0 = false ∧
    (running.dma.xfers.filter fun v => v.cl == 0 && v.fil == false).length = 0 ∧
    (dmaState.dma.xfers.filter fun v => v.cl == 0 && v.fil == false).length ≠ 0 ∧
    dmaState.dma.xfers.find? (fun y => y.n == dmaOne.n) = some dmaOne ∧ slotRuns dmaState 0 false = true ∧
    dmaState.dev.linkUp = true ∧
    (dmaMove dmaOne (parseDma dmaOne.desc) (parseDma dmaOne.desc).pieces
      (injectLine (inject (dmaState.setDma { dmaState.dma with xfers := [] }) 0 false .none) .clean)).2.isNone = true := by
  decide +kernel

/-- Objects of context 9: counter 1 at 7, flag 2 clear, barrier 3 of four in round 2, flag 4 set. -/
def cnt7 : SObj := { st := .active, ty := .counter, gen := 1, ctx := 9, value := 7 }
def flag0 : SObj := { st := .active, ty := .flag, gen := 1, ctx := 9 }
def bar4 : SObj := { st := .active, ty := .barrier, gen := 1, ctx := 9, parts := 4, round := 2 }
def flag1 : SObj := { flag0 with set := true }
def withObjs (s : State) : State := setObj (setObj (setObj (setObj s 1 cnt7) 2 flag0) 3 bar4) 4 flag1
/-- S2 holds the handle of object `i`. -/
def naming (i : Nat) : State :=
  updSlot (withObjs running) 0 false fun x => sset (sset x 2 (bv 64 (i * 2 ^ 14 + 1))) 3 7

theorem witness_SyncInstructions : issues (naming 1) sl = true ∧ bits (sget (slotOf (naming 1) sl) 2) 63 32 = 0 ∧
    objFor (naming 1) ((sget (slotOf (naming 1) sl) 2).extractLsb' 0 32) = some cnt7 ∧ mayUse (naming 1) sl cnt7 = true ∧
    objFor (naming 2) ((sget (slotOf (naming 2) sl) 2).extractLsb' 0 32) = some flag0 ∧
    objFor (naming 3) ((sget (slotOf (naming 3) sl) 2).extractLsb' 0 32) = some bar4 ∧ mayUse (naming 3) sl bar4 = true ∧
    objFor (naming 4) ((sget (slotOf (naming 4) sl) 2).extractLsb' 0 32) = some flag1 ∧ mayUse (naming 4) sl flag1 = true ∧
    badFld (useB { ra := 64 } 64 { ra := 2, rb := 3 }) { ra := 2, rb := 3 } = false ∧ (slotOf (naming 1) sl).passes = [] ∧
    badFld { ra := 64, rb := 64 } { ra := 2, rb := 3 } = false ∧ bar4.ty = .barrier ∧
    badFld { ra := 64, rb := 64, imm := true } { ra := 2, rb := 3, imm18 := 2 } = false ∧ condFits cnt7 0 = true ∧
    condFits flag0 1 = true ∧ condFits bar4 2 = true ∧
    condMet cnt7 0 7 = true ∧ condMet cnt7 0 8 = false ∧ condMet flag0 1 0 = false ∧ condMet flag1 1 0 = true ∧
    condMet bar4 2 1 = true ∧ condMet bar4 2 2 = false ∧ condMet bar4 2 (2 - 32768) = true ∧ condMet bar4 2 (2 - 32769) = false ∧
    badFld { ra := 64 } { ra := 2 } = false ∧ badFld { rd := 64, ra := 64 } { rd := 1, ra := 2 } = false ∧
    flag0.reg = false ∧ lastDecided (naming 2) 77 = none ∧ decidedAs (naming 2) 77 7 = none ∧
    (∀ i ∈ [1, 2, 3, 4], onWay (naming i) (srcOf (slotWho (naming i) sl)) (bv 32 (i * 2 ^ 14 + 1)) = false) ∧
    (let s := emit (naming 1) (slotSig (naming 1) sl (bv 32 (2 ^ 14 + 1)) 1 false)
     issues s sl = true ∧ onWay s (srcOf (slotWho s sl)) (bv 32 (2 ^ 14 + 1)) = true) ∧
    (let s := (naming 2).setCol { (naming 2).col with outs := [⟨77, 7, 0, .commit, false, 0, 0, 1⟩] }
     decidedAs s 77 7 ≠ none ∧ lastDecided s 77 = some 7) := by decide +kernel

/-- Group 5 of context 9 of two devices, this one with rank 0; the descriptor of a SHIFT by 1 stands at virtual address 4096. -/
def grp5 : Grp := { st := .active, ctx := 9, gen := 1, size := 2, rank := 0, list := [⟨0, 5⟩, ⟨0, 6⟩] }
def coll0 : Coll :=
  ⟨0, 5, 1, 77, 5, 0, 0, 0, false, 9, none, [bv 64 (0x10000000 + 81921 * 2 ^ 32), 0, 0, 0, 0, 0, 0, bv 64 (2 ^ 32), 0, 0, 0,
    0, 0, 0, 0, 0], .queued, [], [], [], false, [], [], 0, 0, false, 0⟩
def grouped : State := updSlot (setGrp { running with mem := { running.mem with
    phys := Tab.putMany (fun _ => 0) running.mem.phys (2 ^ 21 + 4096) (coll0.desc.flatMap fun w => leBytes 8 w.toNat) } } 5 grp5) 0 false
  fun x => sset (sset x 1 4096) 2 (bv 64 (5 * 2 ^ 14 + 1))

theorem witness_CollectiveAndUpdateInstructions_1 : issues grouped sl = true ∧ badFld { ra := 64 } { ra := 1 } = false ∧
    badFld {} f0 = false ∧ badFld { rd := 64, ra := 64 } { rd := 1, ra := 2 } = false ∧ activeColls grouped < 1024 ∧
    (sget (slotOf grouped sl) 1).toNat = 4096 ∧ (loadVa grouped 9 4096 128).2.2.isNone = true ∧
    ((groupsOf 8 (loadVa grouped 9 4096 128).2.1).map fun b => bv 64 (leNat b)) = coll0.desc ∧ coll0.badForm = false ∧
    activeColls (grouped.setCol { grouped.col with colls := List.replicate 1024 coll0 }) = 1024 ∧
    grpFor grouped (bv 32 ((coll0.desc.getD 0 0).toNat / 2 ^ 32)) = some (5, grp5) ∧
    checkColl grouped (newColl grouped sl coll0.desc 5 grp5) grp5 = .ok coll0 ∧
    grpFor grouped ((sget (slotOf grouped sl) 2).extractLsb' 0 32) = some (5, grp5) ∧
    (sget (slotOf grouped sl) 1).toNat % 256 = 0 ∧ badFld { ra := 64, rb := 64 } { ra := 1, rb := 3 } = false ∧
    (sget (slotOf grouped sl) 3).toNat % 4096 = 0 := by decide +kernel

theorem witness_CollectiveAndUpdateInstructions_2 :
    (let s := grouped.setCol { grouped.col with colls := [coll0] }
     (s.col.colls.filter fun c => c.grp == 5 && c.gen = grp5.gen && c.step == 5 && c.seq == 0).getLast? = some coll0) := by decide +kernel

/-! ### Contexts and queues -/

/-- Context 9's image: tenant 3, primary, root 0, job 78. -/
def ctxImage : State := wrBytes (withCtx up) 0x11008 (leBytes 4 (3 * 2 ^ 12) ++ leBytes 28 0 ++ leBytes 4 78 ++ leBytes 28 0)
def stopped : State := setCtx up 9 { st := .stopped, tenant := 3 }

theorem witness_ContextCommands : readReady .context (up.setErr { up.err with ka := true }) = true ∧ cmdReady .context up = true ∧ cmdReady .context ctxImage = true ∧
    bits (8 : BitVec 56) 55 40 = 0 ∧ bits (8 : BitVec 56) 25 22 = 0 ∧ bits (8 : BitVec 56) 11 0 = 8 ∧
    (getCtx ctxImage 8).st = .free ∧ imgBad (ctxImg ctxImage) = false ∧
    ownedBy ctxImage (imgCtx (ctxImg ctxImage)).root .ptable (imgCtx (ctxImg ctxImage)).tenant = true ∧
    jobConflict ctxImage (imgCtx (ctxImg ctxImage)) = false ∧ ledgerOn ctxImage = true ∧
    cmdReady .context (withCtx up) = true ∧ (getCtx (withCtx up) 9).st = .ready ∧ slotsOfCtx (withCtx up) 9 = [] ∧
    queueBound (withCtx up) 9 = false ∧ cmdReady .context stopped = true ∧ (getCtx stopped 9).st = .stopped := by decide +kernel

/-- BIND of context 9 to clusters 510 and 511, 4 MiB for the primary slot; slots that a BIND or an UNBIND names. -/
def bindW : BitVec 56 := bv 56 (4 * 2 ^ 36 + 1 * 2 ^ 26 + 510 * 2 ^ 12 + 9)
def binding : State := setSlot (withCtx up) 3 false { ctx := some 9, prep := .bind }
def toZero : State := setSlot (withCtx up) 3 false { ctx := some 9, prep := .zero }
def freeing : State := setSlot (withCtx up) 3 false { ctx := some 9, prep := .unbind }
def bound : State := setSlot (withCtx up) 3 false { ctx := some 9 }

theorem witness_ContextBinding : cmdReady .context (withCtx up) = true ∧ bits bindW 55 40 = 0 ∧ bits bindW 25 22 = 0 ∧
    bits bindW 11 0 = 9 ∧ firstCl bindW + countCl bindW = (withCtx up).fuse.grade ∧ 4 ≤ bits bindW 39 36 ∧
    (namedCl bindW).all (slotFree (withCtx up) false) = true ∧
    cmdReady .context bound = true ∧
    ((namedCl (bv 56 (3 * 2 ^ 12 + 9))).all fun cl => (getSlot bound cl false).ctx = some 9 &&
      (false || (getSlot bound cl true).ctx.isNone)) = true ∧
    slotsWhere binding (·.prep = .bind) ≠ [] ∧ slotsWhere toZero (·.prep = .zero) ≠ [] ∧ unbinding freeing ≠ [] ∧
    ((unbinding freeing).any fun c => (getSlot freeing c.1 c.2).run.isSome) = false := by decide +kernel

/-- Queue 4 of context 9, ring at 4096 of 64 entries, with command `c` at its head. -/
def queue (c : Option QCmd) : Q := { st := .enabled, ring := 4096, log2 := 6, ctx := 9, gen := 1, rd := 0, wr := 1, head := c }
def queued (c : Option QCmd) : State := setQ (withObjs (withCtx up)) 4 (queue c)
def halted4 : State := setQ (withCtx up) 4 { queue none with st := .halted }
def ending4 : State := setQ (withCtx up) 4 { st := .quarantine, gen := 1, qend := 0 }

theorem witness_QueueCommands :
    (let s := wrBytes (withCtx up) 0x12008 (leBytes 8 (4096 + 6) ++ leBytes 4 9)
     cmdReady .queue s = true ∧ bits (4 : BitVec 56) 54 20 = 0 ∧ (getQ s 4).st = .free ∧ bits (rd64 s 0x12008) 63 52 = 0 ∧
     bits (rd64 s 0x12008) 11 5 = 0 ∧ bits (rd64 s 0x12008) 4 0 = 6 ∧ bits (rd32 s 0x12010) 29 26 = 0 ∧
     (getCtx s (bits (rd32 s 0x12010) 11 0)).st ≠ .free) ∧
    cmdReady .queue (queued none) = true ∧ (getQ (queued none) 4).st = .enabled ∧ cmdReady .queue halted4 = true ∧
    (getQ halted4 4).st = .halted ∧ (getQ ending4 4).st = .quarantine ∧ (getQ ending4 4).qend ≤ ns ending4 := by decide +kernel

/-- Queue commands: KERNEL on cluster 3, BATCH_REF, WAIT, SIGNAL, RING, NOP. -/
def cmd (typ : Nat) (sync a0 a1 : Nat) : QCmd := ⟨typ, false, false, bv 32 sync, 0, 3, 1, 7, bv 64 a0, bv 64 a1, 0, false⟩
def kernelQ : State := setQ bound 4 (queue (some (cmd 1 0 0 0)))

theorem witness_QueueWork_1 : 64 < 2 ^ 24 ∧ 64 % 16 = 0 ∧ rdyBit (queued none) 14 = true ∧
    bits (bv 128 (1 * 2 ^ 32 + 64)) 127 46 = 0 ∧ (getQ (queued none) (64 / 16)).st = .enabled ∧
    (getQ (queued none) (64 / 16)).gen = bv 14 (bits (bv 128 (1 * 2 ^ 32 + 64)) 45 32) ∧
    ((64 : B32) - (getQ (queued none) (64 / 16)).wr).toNat < 2 ^ 31 ∧
    ((64 : B32) - (getQ (queued none) (64 / 16)).rd).toNat = 2 ^ (getQ (queued none) (64 / 16)).log2 := by decide +kernel

theorem witness_QueueWork_2 : (let s := (queued none).setMem { (queued none).mem with
      phys := Tab.put (fun _ => 0) (queued none).mem.phys (2 ^ 21 + 4099) 6 }
    queueRuns s (getQ s 4) = true ∧ (getQ s 4).head = none ∧ s.dev.linkUp = true ∧ (loadVa s 9 4096 64).2.2.isNone = true ∧
    (parseQ (loadVa s 9 4096 64).2.1).bad = false ∧ (parseQ (loadVa s 9 4096 64).2.1).typ = 6) := by decide +kernel

theorem witness_QueueWork_3 : headReady kernelQ 4 (cmd 1 0 0 0) = true ∧ kernelBad kernelQ (cmd 1 0 0 0) = false ∧
    kernelReady kernelQ (queue (some (cmd 1 0 0 0))) (cmd 1 0 0 0) = true ∧ mustRecheck kernelQ 77 7 = false ∧
    rivals kernelQ 4 (queue (some (cmd 1 0 0 0))) (cmd 1 0 0 0) = [] := by decide +kernel

/-- A journal of depth 2 with the inner entry of step 7 OPEN. -/
def ent7 : JEnt := { step := 7, outer := false, fil := false, tenant := 3, ctx := 9, st := .open_, back := .open_, mode := 1, lscale := 0
                     k := 2, place := 0, frames := ⟨0, 0⟩, tOpen := 0, tCheck := 0, segs := [], refs := [], todo := []
                     grad := false, reported := false, merged := [], recheck := false, rerun := false, hcrc := ⟨0, 0⟩ }
def journalled (s : State) : State :=
  (s.setJrn { s.jrn with en := true, depthP := 2, entries := [ent7] }).setUpd { s.upd with jobP := some ⟨77, false, 0⟩ }

theorem witness_QueueWork_4 :
    (let c := cmd 2 0 64 1
     headReady (queued (some c)) 4 c = true ∧ c.a0.toNat < 2 ^ 52 ∧ c.a0.toNat % 64 = 0 ∧ c.a1.toNat < 2 ^ 32 ∧ c.a2 = 0 ∧
     batchState (queued (some c)) 77 7 = .off ∧
     headReady (journalled (queued (some c))) 4 c = true ∧ batchState (journalled (queued (some c))) 77 7 = .go false ∧
     (let s1 := firstCommand (journalled (queued (some c))) 77 7
      findEnt s1 false false 7 = some ent7 ∧ (ent7.rerun && hasRef ent7 (queue (some c)) c) = false ∧
      refCount s1 77 7 ent7 < 4096 ∧ (refBytes s1 9 c).2.2.isNone = true) ∧
     ({ ent7 with rerun := true, refs := [⟨64, 1, 9, 0⟩] } : JEnt).rerun = true ∧
     hasRef { ent7 with rerun := true, refs := [⟨64, 1, 9, 0⟩] } (queue (some c)) c = true) := by decide +kernel

theorem witness_QueueWork_5 :
    (let met := cmd 3 (1 * 2 ^ 14 + 1) 0 7
     let unmet := cmd 3 (3 * 2 ^ 14 + 1) 2 2
     let flag := cmd 3 (4 * 2 ^ 14 + 1) 1 0
     headReady (queued (some met)) 4 met = true ∧ headReady (queued (some unmet)) 4 unmet = true ∧
     headReady (queued (some flag)) 4 flag = true ∧ objFor (queued (some flag)) flag.sync = some flag1 ∧
     condFits flag1 1 = true ∧ condMet flag1 1 0 = true ∧
     objFor (queued (some met)) met.sync = some cnt7 ∧ condFits cnt7 0 = true ∧ sameJob (queued (some met)) 9 9 = true ∧
     condMet cnt7 0 7 = true ∧ objFor (queued (some unmet)) unmet.sync = some bar4 ∧ condFits bar4 2 = true ∧
     condMet bar4 2 2 = false ∧ (bar4.waiters.any fun v => v.src == .queue 4) = false ∧
     onWay (queued (some met)) (srcOf (mkSig (queued (some met)) 2 0 false 4 9)) met.sync = false) := by decide +kernel

theorem witness_QueueWork_6 :
    (let c := { cmd 4 (1 * 2 ^ 14 + 1) 0 0 with sigVal := 2 }
     let s := queued (some c)
     headReady s 4 c = true ∧ objFor s c.sync = some cnt7 ∧ sameJob s 9 9 = true ∧
     onWay s (srcOf (mkSig s 2 0 false 4 9)) c.sync = false ∧
     (getQ (applySig s ⟨0, c.sync, bv 64 c.sigVal.toNat, mkSig s 2 0 false 4 9, false, none, some 4, true, none⟩) 4).st =
       .enabled) := by decide +kernel

theorem witness_QueueWork_7 :
    (let r := cmd 5 0 (1 * 2 ^ 20 + 4) 2
     let n := cmd 6 0 0 0
     headReady (queued (some r)) 4 r = true ∧ r.a0.toNat < 2 ^ 34 ∧ r.a1.toNat < 2 ^ 32 ∧ bits r.a0 19 0 = 4 ∧
     headReady (queued (some n)) 4 n = true) := by decide +kernel

theorem witness_QueueWork_8 :
    (let k : RunCmd := ⟨0, 4, cmd 1 0 0 0, 9, [], 0⟩
     let b : RunCmd := ⟨1, 4, cmd 2 0 64 1, 9, [], 5⟩
     let s := (queued none).setQue { (queued none).que with run := [k, b], next := 2 }
     (s.que.run.find? fun r => r.n == 0) = some k ∧ (s.que.run.find? fun r => r.n == 1) = some b ∧ live s = true ∧
     s.err.ka = false) := by decide +kernel

/-! ### The ledger and the governors -/

/-- A filler slot is bound on cluster 3; the interval of 4,096 beats ends now; one snapshot waits. -/
def snap0 : Snap := ⟨1, 0, 4095, false, false, [], 0⟩
def ledState : State := { setSlot (withCtx up) 3 true { ctx := some 9 } with
  time := { up.time with ft := 4096 * 2 ^ 20 }
  led := { up.led with counting := true, slots := 2, snaps := [snap0], priNext := 4096 * 2 ^ 20, frmNext := 4096 } }
/-- The samples of a beat, once its close has been looked at. -/
def ledSample : State := { ledState with
  time := { ledState.time with cycle := 1792 }, led := { ledState.led with looked := 4097 } }
def ledRoom : State := ledState.setLed { ledState.led with slots := 4, base := 0x100000, snaps := [] }

theorem witness_LedgerAndGovernors : mayCount ledSample = true ∧ (getSlot ledSample 3 true).ctx = some 9 ∧
    (getSlot ledSample 3 true).filFrom + 1792 ≤ ledSample.time.cycle ∧ ledSample.led.priNext ≤ ns ledSample ∧
    ledSample.led.frmNext ≤ beat ledSample ∧ ledRoom.led.looked ≠ beat ledRoom + 1 ∧ sampled ledRoom = true ∧
    hasImage ledState 5 = true ∧ counts ledRoom = true ∧ ledRoom.led.first ≠ beat ledRoom ∧ beat ledRoom % ledRoom.led.int = 0 ∧ ringFull ledRoom = false ∧
    (let full := ledState.setLed { ledState.led with head := 2, snaps := [] }
     counts full = true ∧ sampled full = true ∧ full.led.looked ≠ beat full + 1 ∧ full.led.first ≠ beat full ∧ beat full % full.led.int = 0 ∧ ringFull full = true) ∧
    (let s := ledState.setLed { ledState.led with base := 0x100000 }
     s.led.snaps = snap0 :: [] ∧ ledgerOn s = true ∧ s.dev.linkUp = true ∧ s.led.slots ≠ 0 ∧ s.led.base ≠ 0 ∧ vaultOk s = true ∧
     hasImage s 5 = true) ∧
    regsOn up = true ∧ ledEmpty up = true ∧ (0x100000 : B64).toNat % 2 ^ 20 = 0 ∧ 2 ≤ (2 : B32).toNat ∧
    (4096 : B32).toNat ≤ 4096 ∧ bits (0x100000 : B32) 20 0 = 2 ^ 20 ∧
    live up = true ∧ govDebt up (.cluster 3) ≤ bits (rd32 up 0x1104C) 3 0 := by decide +kernel

/-! ### Sync objects, signals, the watchdog, lending -/

def syncArgs (s : State) (a b : B64) : State := wr64 (wr64 s 0x14008 a) 0x14010 b
def handleW (ty i gen : Nat) : BitVec 56 := bv 56 (ty * 2 ^ 54 + i * 2 ^ 14 + gen)
def ended1 : State := setObj up 1 { st := .quarantine, gen := 1, qend := 0 }

theorem witness_SyncObjectCommands_1 :
    (let s := syncArgs (withObjs (withCtx up)) (bv 64 (2 ^ 40 + 4 * 2 ^ 24 + 9)) 0
     cmdReady .sync s = true ∧ (getObj s 7).st = .free ∧ bits (syncArg0 s) 23 12 = 0 ∧ bits (syncArg0 s) 39 24 ≠ 0 ∧
     (getCtx s (bits (syncArg0 s) 11 0)).st ≠ .free ∧
     ∀ ty ∈ [0, 1, 2], bits (handleW ty 7 0) 53 32 = 0 ∧ bits (handleW ty 7 0) 55 54 = ty ∧ bits (handleW ty 7 0) 31 14 = 7) := by
  decide +kernel

theorem witness_SyncObjectCommands_2 :
    (let s := syncArgs (withObjs (withCtx up)) 3 64
     cmdReady .sync s = true ∧ s.dev.linkUp = true ∧ bits (syncArg0 s) 63 16 = 0 ∧ bits (syncArg1 s) 63 52 = 0 ∧
     (syncArg1 s).toNat % 32 = 0 ∧ hostBase + 64 + 32 * 3 ≤ 2 ^ 48 ∧
     ∀ e ∈ [(1, SoTy.counter), (2, .flag), (3, .barrier)], bits (handleW 0 e.1 1) 53 32 = 0 ∧ bits (handleW 0 e.1 1) 55 54 = 0 ∧
       bits (handleW 0 e.1 1) 31 14 = e.1 ∧ (getObj s e.1).st = .active ∧ (getObj s e.1).gen = bv 14 (bits (handleW 0 e.1 1) 13 0) ∧
       (getObj s e.1).ty = e.2 ∧ (getObj s e.1).waiters = [] ∧ (getObj s e.1).reg = false) := by decide +kernel

theorem witness_SyncObjectCommands_3 : (getObj ended1 1).st = .quarantine ∧ (getObj ended1 1).qend ≤ ns ended1 := by decide +kernel

/-- A signal of 1, or an arrival, on its way to object `i`. -/
def fly (i amount : Nat) (arr : Bool) : SigFly := ⟨0, bv 32 (i * 2 ^ 14 + 1), bv 64 amount, 5, arr, none, none, false, none⟩
def flying (i amount : Nat) (arr : Bool) (o : SObj) : State :=
  let s := setObj (withObjs (withCtx up)) i o
  s.setSyn { s.syn with sigs := [fly i amount arr], next := 1 }
def delivers (s : State) (g : SigFly) (o : SObj) : Bool :=
  decide ((s.syn.sigs.find? fun g => g.n == 0) = some g) && live s &&
  !(s.syn.sigs.any fun h => decide (h.n < 0) && srcOf h.who = srcOf g.who && h.obj = g.obj) && decide (objFor s g.obj = some o) &&
  decide (g.ctx = none) && o.waiters.isEmpty

theorem witness_SignalsAtTheirHome_1 :
    delivers (flying 1 1 false { cnt7 with value := 2 ^ 64 - 1 }) (fly 1 1 false) { cnt7 with value := 2 ^ 64 - 1 } = true ∧
    delivers (flying 2 1 false flag0) (fly 2 1 false) flag0 = true ∧
    delivers (flying 4 1 false { flag1 with overrun := true, ovrCnt := 0xFFFF }) (fly 4 1 false)
      { flag1 with overrun := true, ovrCnt := 0xFFFF } = true ∧
    delivers (flying 3 2 true { bar4 with count := 2 }) (fly 3 2 true) { bar4 with count := 2 } = true ∧
    (fly 3 2 true).amount.toNat % 65536 = bar4.round ∧ 2 + 1 < bar4.parts ∧
    delivers (flying 3 0 true { bar4 with round := 65535, next := 3 }) (fly 3 0 true) { bar4 with round := 65535, next := 3 } = true ∧
    (fly 3 0 true).amount.toNat % 65536 = (65535 + 1) % 65536 ∧ 3 < bar4.parts := by decide +kernel

theorem witness_SignalsAtTheirHome_2 : transportOn up = true ∧ objFor (withObjs (withCtx up)) 0x4001 = some cnt7 ∧
    (getCtx (withObjs (withCtx up)) 9).tenant = 3 ∧ (getCtx (withObjs (withCtx up)) 9).job = 77 ∧
    transportOn (withObjs (withCtx up)) = true ∧ (getCtx (withObjs (withCtx up)) 9).job ≠ 78 ∧
    bits (bv 64 (4 * 2 ^ 12)) 31 12 = 4 ∧ (getQ (queued none) 4).st = .enabled := by decide +kernel

/-- Slot 0 and queue 4 wait at counter 1 since a deadline that has passed. -/
def waiter (by_ : WaitBy) (who : B64) : Waiter := ⟨by_, who, 0, 100, some 10, 5⟩
def waiting : State := setObj (queued none) 1 { cnt7 with waiters := [waiter (.slot 0 false) 5, waiter (.queue 4) 6] }

theorem witness_WatchdogAndLending_1 : beat waiting = 10 ∧
    ((getObj waiting 1).waiters.filter fun v => v.who = 5) = [waiter (.slot 0 false) 5] ∧
    ((getObj waiting 1).waiters.filter fun v => v.who = 6) = [waiter (.queue 4) 6] ∧
    (waiter (.slot 0 false) 5) ∈ (getObj waiting 1).waiters ∧ (waiter (.queue 4) 6) ∈ (getObj waiting 1).waiters ∧
    (getQ waiting 4).st = .enabled := by decide +kernel

/-- The primary slot of cluster 0 has waited for 8,192 ns, the default of LEND. -/
def lender : State := setSlot (withCtx up) 0 false { ctx := some 9, run := some 7, wait := some ⟨0x4001, 8, 10 * 2 ^ 20 + 5 - 8192⟩ }
def lending : State := setClu lender 0 { lending := true }

theorem witness_WatchdogAndLending_2 : live lender = true ∧ lender.err.ka = false ∧ mayLendNow lender 0 = true ∧
    lender.pwr.fast = false ∧ (getClu lending 0).lending = true ∧ clHalf lending 0 = .west ∧
    Tab.wf (fun _ => {}) lending.clu = true ∧ Tab.wf (fun _ => {}) lender.clu = true ∧ (getClu lender 0).lending = false ∧
    (let s := setClu (setSlot up 0 false { ctx := some 9, run := some 7 }) 0 { lending := true }
     (getClu s 0).lending = true ∧ (idleSlot (getSlot s 0 false) && idleSlot (getSlot s 0 true)) = false) := by decide +kernel

/-! ### Memory, the journal, shards -/

def memArgs (s : State) (a b : B64) : State := wr64 (wr64 s 0x10008 a) 0x10010 b
/-- ASSIGN of a frame to tenant 3 as TENANT. -/
def assignW : BitVec 56 := bv 56 (1 * 2 ^ 53 + 3 * 2 ^ 40)

theorem witness_FramesWalksAndPatrol_1 :
    (let free := memArgs (withCtx up) (bv 64 (2 * 2 ^ 21)) 2
     let used := memArgs (withCtx up) 0 2
     cmdReady .memory free = true ∧ bit assignW 52 = false ∧ bits assignW 39 12 = 0 ∧ namedFrames free = .ok [2, 3] ∧
     bits assignW 55 53 = 1 ∧ (free.jrn.en && [2, 3].any frameIsRs) = false ∧ (∀ k ∈ [2, 3], frmKind free k = .free) ∧
     [2, 3].any (journalHolds free) = false ∧
     cmdReady .memory used = true ∧ namedFrames used = .ok [0, 1] ∧ (frmKind used 0 = .ptable ∧ frmKind used 1 = .tenant) ∧
     [0, 1].any (journalHolds used) = false ∧ bits (memArg0 used) 63 52 = 0) := by decide +kernel

theorem witness_FramesWalksAndPatrol_2 :
    (let s := up.setMmu { up.mmu with inval := some .all }
     let boot := up.setFrm { up.frm with scrub := ⟨7, 472480⟩ }
     let rel := setFrm up 7 (mkEntry .scrub 0)
     s.mmu.inval = some .all ∧ 7 < 2 * halfFrames ∧ framesOn boot = true ∧ live boot = true ∧
     (boot.lead.half.get (frameHalf 7)).stopped = false ∧ boot.frm.scrub.get (frameHalf 7) = 7 % halfFrames ∧
     framesOn rel = true ∧ live rel = true ∧ (rel.lead.half.get (frameHalf 7)).stopped = false ∧
     7 % halfFrames < rel.frm.scrub.get (frameHalf 7) ∧ frmKind rel 7 = .scrub ∧ Tab.get (fun _ => 0) rel.frm.tab 7 ≠ 0) := by
  decide +kernel

theorem witness_FramesWalksAndPatrol_3 : (slotOf running sl).ctx = some 9 ∧ live running = true ∧ running.err.ka = false ∧
    4096 < 2 ^ 52 ∧ walk running 9 (getCtx running 9) 4096 3 (getCtx running 9).root = (.ok (2 ^ 21 + 4096), some page) ∧
    page.allows .write = true ∧ framesOn up = true ∧ bit (rd32 up 0x10028) 8 = true ∧ 21 < 22 ∧ regsOn up = true := by decide +kernel

/-- The header at virtual address 4096 of shard 0 of job 77, rule 1, one row of 32 columns, at step 4; and of its mirror. -/
def hdrAt (ctrl : Nat) : List Byte :=
  leBytes 8 0 ++ leBytes 8 4 ++ leBytes 8 4 ++ leBytes 8 0 ++ leBytes 8 0 ++ List.replicate 24 0 ++ leBytes 4 ctrl ++ leBytes 4 77 ++
  leBytes 8 0 ++ leBytes 4 6 ++ leBytes 4 1 ++ leBytes 4 0 ++ leBytes 4 1 ++ leBytes 4 32 ++ List.replicate 0x24 0 ++
  leBytes 8 0x2000 ++ leBytes 8 0x3000 ++ leBytes 8 0x6000 ++ List.replicate 32 0 ++ leBytes 8 0x4000 ++ List.replicate 16 0 ++
  leBytes 8 0x5000 ++ List.replicate 32 0
def putHdr (s : State) (b : List Byte) : State :=
  s.setMem { s.mem with phys := Tab.putMany (fun _ => 0) s.mem.phys (2 ^ 21 + 4096) b }
def own0 : Shard := ⟨4096, 9, .west, false, 77, false, 0⟩
def mir0 : Shard := { own0 with mirror := true }
def headed : State := putHdr (withCtx up) (hdrAt (2 ^ 29))
def sharded : State := addShard headed own0
def mirrored : State := addShard (putHdr (withCtx up) (hdrAt (2 ^ 29 + 2 ^ 28))) mir0

theorem witness_JournalWork_1 : regsOn up = true ∧ up.err.ka = false ∧
    findEnt (journalled (withCtx up)) false false 7 = some ent7 ∧ jobReg (journalled (withCtx up)) false = some ⟨77, false, 0⟩ ∧
    sorrelRuns (journalled (withCtx up)) false = true ∧ ent7.reported = false ∧ ent7.st = .open_ ∧
    ownShards (journalled (withCtx up)) 77 = [] := by decide +kernel

def entRe : JEnt := { ent7 with st := .undo, recheck := true, refs := [⟨0, 0, 9, crc64 []⟩] }

theorem witness_JournalWork_2 :
    (let s := (withCtx up).setJrn { up.jrn with en := true, depthP := 2, entries := [entRe] }
     findEnt s false false 7 = some entRe ∧ sorrelRuns s false = true ∧ entRe.recheck = true ∧
     let t := entRe.refs.foldl (fun st r => meetVa st none r.ctx r.va (64 * r.len)) s
     ∀ r ∈ entRe.refs, readVa t none r.ctx r.va (64 * r.len) = ([], none) ∧ crc64 [] = r.crc) := by decide +kernel

/-- A command of the shard's job for step 5, and a journal record of its weights. -/
def ucmd (k : UKind) (ph : UPh) : UCmd :=
  { n := 3, cl := 0, fil := false, ctx := 9, queue := none, kind := k, hva := 4096, arg := 1, step := 5, ph := ph, lov := false
    restore := false, asked := false, pc := 0 }
def ent5 : JEnt := JEnt.sealed { ent7 with step := 5, st := .voted, segs := [⟨0, 0x2000, 0, 0, .west, 0, westRs, crc64 []⟩,
  ⟨1, 0x6000, 0, 1, .west, 0, westRs, crc64 []⟩, ⟨5, 4096, 0, 7, .west, 0, westRs, crc64 []⟩] }
def withCmd (s : State) (c : UCmd) : State := s.setUpd { s.upd with cmds := [c], next := 4 }
def withEnt (s : State) : State := s.setJrn { s.jrn with depthP := 2, entries := [ent5] }

theorem witness_JournalWork_3 :
    (let c := { ucmd .b .wait with restore := true }
     let half := setStatus sharded own0 stA true
     let s := withEnt (withCmd half c)
     let m := withCmd (setStatus mirrored mir0 stA true) c
     let d := { m with jrn := { m.jrn with depthP := 2 } }
     findUCmd s 3 = some c ∧ cmdShard s c = some own0 ∧ sorrelRuns s false = true ∧ isFirst s own0 c = true ∧
     (restoreCmd (checkEnt (charge s (.bank own0.half) 0) false false 5) own0 c).isSome = true ∧
     owes s own0 c = true ∧ owes m mir0 c = true ∧ owes d mir0 c = true ∧
     (restoreCmd (checkEnt (charge (withCmd half c) (.bank own0.half) 0) false false 5) own0 c).isNone = true ∧
     findUCmd m 3 = some c ∧ cmdShard m c = some mir0 ∧ sorrelRuns m false = true ∧ isFirst m mir0 c = true ∧
     partnerLost m mir0 = false ∧ depthNow m false = 0 ∧
     findUCmd d 3 = some c ∧ cmdShard d c = some mir0 ∧ isFirst d mir0 c = true ∧ partnerLost d mir0 = false ∧
     depthNow d false ≠ 0) := by decide +kernel

def updArg (s : State) (a : B64) : State := wr64 s 0x15008 a

theorem witness_UpdateBlockCommands_1 :
    (let s := updArg headed 4096
     cmdReady .update s = true ∧ bits (9 : BitVec 56) 55 12 = 0 ∧ bits (updArg0 s) 63 52 = 0 ∧ bits (updArg0 s) 51 0 = 4096 ∧
     (s.upd.shards.any fun x => isShard s 9 4096 x && shardPending s x) = false ∧
     meetVa s none 9 4096 256 = s ∧
     checkReg s (bits (9 : BitVec 56) 11 0) 4096 = .ok (own0, hdrOf s own0) ∧ entryVoted s false = false) := by decide +kernel

theorem witness_UpdateBlockCommands_2 :
    (let s := withEnt (updArg headed 4096)
     cmdReady .update s = true ∧ (s.upd.shards.any fun x => isShard s 9 4096 x && shardPending s x) = false ∧
     meetVa s none 9 4096 256 = s ∧ checkReg s 9 4096 = .ok (own0, hdrOf s own0) ∧ own0.mirror = false ∧ entryVoted s false = true) := by decide +kernel

theorem witness_UpdateBlockCommands_3 :
    (let s := updArg sharded 4096
     cmdReady .update s = true ∧ readReady .update s = true ∧ namedShard s 4096 = some own0 ∧ shardPending s own0 = false ∧
     (hdrOf s own0).has stHalt = false) := by decide +kernel

theorem witness_UpdateBlockCommands_4 :
    (let s0 := withEnt (updArg sharded 77)
     let s := s0.setUpd { s0.upd with jobP := some ⟨77, true, 5⟩ }
     cmdReady .update s = true ∧ bits (updArg0 s) 63 32 = 0 ∧ (updArg0 s).extractLsb' 0 32 = 77 ∧ jobKind s 77 = some false ∧
     jobReg s false = some ⟨77, true, 5⟩ ∧ depthNow s false ≠ 0 ∧ (rollOwn 5 (ownShards s 77) s).2 = true ∧
     mirShards (rollOwn 5 (ownShards s 77) s).1 77 = []) := by decide +kernel

/-- Step 5 of the job is decided as Commit. -/
def committed (s : State) : State := s.setCol { s.col with outs := [⟨77, 5, 0, .commit, false, 0, 0, 1⟩] }
/-- The shard with the command, its header with SH_STATE_STEP as given. -/
def updating (k : UKind) (ph : UPh) (sStep : Nat) : State :=
  withCmd (setHdr (committed sharded) own0 8 8 sStep) (ucmd k ph)

theorem witness_UpdatePhases_1 :
    (let s := updating .ab .wait 4
     let c := ucmd .ab .wait
     findUCmd s 3 = some c ∧ cmdShard s c = some own0 ∧ phaseTurn s own0 c = true ∧ mayUpdate s own0 c = true ∧
     hdrOk s own0 = true ∧ (hdrOf s own0).wStep + 1 = c.step ∧ (hdrOf s own0).sStep = (hdrOf s own0).wStep ∧
     (hdrOf s own0).has stB = false) := by decide +kernel

theorem witness_UpdatePhases_2 :
    (let s := updating .b .mid 5
     let c := ucmd .b .mid
     findUCmd s 3 = some c ∧ cmdShard s c = some own0 ∧ phaseTurn s own0 c = true ∧ mayUpdate s own0 c = true ∧
     hdrOk s own0 = true ∧ (hdrOf s own0).wStep + 1 = c.step ∧ (hdrOf s own0).sStep = c.step ∧
     (hdrOf s own0).has stA = false) := by decide +kernel

theorem witness_UpdatePhases_3 :
    (let s := updating .a .inA 4
     findUCmd s 3 = some (ucmd .a .inA) ∧ cmdShard s (ucmd .a .inA) = some own0 ∧ shardRuns s own0 = true ∧
     (phaseA (meetShard s own0) own0 5 false).2.1.isNone = true) := by decide +kernel

theorem witness_UpdatePhases_4 :
    (let s := updating .b .inB 5
     findUCmd s 3 = some (ucmd .b .inB) ∧ cmdShard s (ucmd .b .inB) = some own0 ∧ shardRuns s own0 = true ∧
     (phaseB (meetShard s own0) own0 5 false).2.1.isNone = true) := by decide +kernel

/-- An empty access meets no address. -/
theorem pieces_none (va : Nat) : pieces va 0 = [] := by
  unfold pieces
  rw [List.filter_eq_nil_iff]
  intro p hp
  obtain ⟨i, -, rfl⟩ := List.mem_map.mp hp
  simp

theorem readVa_none (s : State) (tile : Option (Nat × Bool)) (id va : Nat) : readVa s tile id va 0 = ([], none) := by
  rw [readVa, pieces_none]; rfl
theorem writeVa_none (s : State) (tile : Option (Nat × Bool)) (id va : Nat) : writeVa s tile id va [] = (s, none) := by
  rw [writeVa]; simp [pieces_none, writeVaGo]

/-- The difference of a shard without elements is encoded wherever its buffers lie. -/
theorem encode_empty (s : State) (sh : Shard) (step : Nat) (h : (hdrOf s sh).rows * (hdrOf s sh).cols = 0) :
    (encodeOut s sh step).2.1 = none := by
  have g : ∀ {α : Type}, groupsOf 32 ([] : List α) = [] := rfl
  unfold encodeOut
  simp [h, g, readEls, readVa_none, halves, firstErr, outerDiff, writeAll, writeVa_none]

/-- A shard without elements, its header at virtual address 0. -/
def own9 : Shard := { own0 with hva := 0 }
def empty9 : State :=
  let s := (withCtx up).setUpd { up.upd with shards := [own9] }
  withCmd (setHdr s own9 0xF8 8 (hcrcOf s own9).toNat) { ucmd .out .wait with hva := 0 }

theorem witness_UpdatePhases_5 :
    (let s := empty9
     let c := { ucmd .out .wait with hva := 0 }
     findUCmd s 3 = some c ∧ cmdShard s c = some own9 ∧ shardRuns s own9 = true ∧ isFirst s own9 c = true ∧
     c.restore = false ∧ hdrOk s own9 = true ∧ (hdrOf s own9).has stA = false ∧ (hdrOf s own9).has stB = false ∧
     (hdrOf s own9).outJ ≠ c.arg ∧ jobHalted s 77 = false ∧ (roundOf (meetShard s own9) c).isNone = true) ∧
     (encodeOut (meetShard empty9 own9) own9 5).2.1 = none :=
  ⟨by decide +kernel, encode_empty _ _ _ (by decide +kernel)⟩

theorem witness_UpdatePhases_6 :
    (let s := withCmd sharded (ucmd .out .merge)
     let c := ucmd .out .merge
     findUCmd s 3 = some c ∧ cmdShard s c = some own0 ∧ isFirst s own0 c = true ∧ hdrOk s own0 = true ∧
     jobHalted s 77 = false ∧ undoReady s own0 true 5 = true ∧ (mergeDesc (setStatus s own0 stOut true) own0).count = 0) := by decide +kernel

theorem witness_UpdatePhases_7 :
    (let s := withCmd sharded { ucmd .exp .wait with arg := 0x10000 }
     let h := hdrOf s own0
     let s1 := meetShard (dropUCmd s 3) own0
     let r := expRead s1 9 0x10000 (expPlace 0x1000 (expSegs h))
     shardPending s own0 = false ∧ s.dev.linkUp = true ∧ r.2.isNone = true ∧
     (writeAll 9 ((expHead h).map (fun p => (0x10000 + p.1, p.2)) ++ r.1) s1).2.isNone = true) := by decide +kernel

theorem witness_UpdatePhases_8 :
    (let s := withCmd sharded (ucmd .out .merge)
     let r := mergeOut (setStatus (meetShard s own0) own0 stOut true) own0 5
     r.2.1.isNone = true ∧ nonFinite r.1 own0 5 r.2.2.1 = false) := by decide +kernel

/-! ### Groups, collectives, the vote -/

/-- The image of a group without vote of context 9, this device alone; its list at virtual address 0x8000 names device 5. -/
def imgBytes : List Byte :=
  leBytes 4 (2 ^ 25 + 9) ++ leBytes 4 0 ++ leBytes 4 1 ++ leBytes 4 0 ++ leBytes 8 0x8000 ++ leBytes 4 1 ++ leBytes 4 0 ++ List.replicate 32 0
def imaged : State :=
  let s := wrBytes (withCtx up) 0x16008 imgBytes
  s.setMem { s.mem with phys := Tab.putMany (fun _ => 0) s.mem.phys (2 ^ 21 + 0x8000) [5] }
def grpW : BitVec 56 := bv 56 (5 * 2 ^ 14 + 1)
def word7 : VWord := ⟨7, 77, 0, false, false, false, false, 1, 0, 0, 0⟩

theorem witness_GroupCommands_1 : cmdReady .collective imaged = true ∧ bits grpW 55 26 = 0 ∧ bits grpW 25 14 = 5 ∧
    (getGrp imaged 5).st = .free ∧ grpImgBad (collImg imaged) = false ∧ ctxLive imaged (imgGrp (collImg imaged)).ctx = true ∧
    (loadVa imaged 9 0x8000 (4 * (imgGrp (collImg imaged)).size)).2.2.isNone = true ∧
    listOk imaged (imgGrp (collImg imaged)) ((groupsOf 4 (loadVa imaged 9 0x8000 4).2.1).map listEntry) = true ∧
    (imgGrp (collImg imaged)).vote = false ∧ readReady .collective imaged = true := by decide +kernel

theorem witness_GroupCommands_2 :
    (let s := setGrp ((withCtx up).setCol { up.col with lastWord := some word7 }) 5 grp5
     cmdReady .collective s = true ∧ (getGrp s 5).gen = bv 14 (bits grpW 13 0) ∧ (getGrp s 5).st = .active ∧
     (s.col.votes.any fun v => v.grp == 5) = false ∧
     (s.col.colls.any fun c => c.grp == 5 && c.gen = grp5.gen && (c.st = .queued || c.st = .running)) = false ∧
     s.col.lastWord = some word7) ∧
    (let s := setGrp up 5 { st := .quarantine, gen := 1, qend := 0 }
     (getGrp s 5).st = .quarantine ∧ (getGrp s 5).qend ≤ ns s) := by decide +kernel

/-- A collective of one kind: `ctrl` its first word's low half, DIST, a length of two elements. -/
def collOf (ctrl dist : Nat) (st : CSt) : Coll :=
  { coll0 with st := st, desc := [bv 64 (ctrl + 81921 * 2 ^ 32), 0, 0x2000, 0x3000, 2, 0, 0, bv 64 (dist * 2 ^ 32), 0, 0, 0, 0, 0, 0, 0, 0] }
def starts (s : State) (c : Coll) : Bool :=
  decide (findColl s 0 = some c) && decide (c.st = .queued) && borageRuns s c.fil && decide ((collGrp s c).st = .active) &&
  decide ((collGrp s c).gen = c.gen) && lowerStarted s c && decide (runningColls s < 256) &&
  (startNorm (if c.fil then s else charge s .borage 0) { c with st := .running }).2.isOk
def collected (c : Coll) : State :=
  let s := setGrp (withCtx up) 5 grp5
  s.setCol { s.col with colls := [c], next := 1 }

theorem witness_CollectivesAndTheirMessages_1 :
    (let sum := collOf 0x30000000 0 .queued
     let gather := collOf 0x40000000 0 .queued
     let shift := collOf 0x10000000 1 .queued
     let past := collOf 0x10000000 2 .queued
     let perm := collOf 0x20000000 0 .queued
     starts (collected sum) sum = true ∧ sum.adds = true ∧ starts (collected gather) gather = true ∧ gather.op = 4 ∧
     starts (collected shift) shift = true ∧ shift.op = 1 ∧ starts (collected past) past = true ∧ past.wrap = false ∧
     grp5.size ≤ grp5.rank + past.dist ∧ starts (collected perm) perm = true ∧ perm.op = 2) := by decide +kernel

/-- A message of rank 1 about the collective: its answer to a delivery, a partial sum of chunk 1, a finished chunk 1. -/
def bmsg (final : Bool) (reply n : Nat) : BMsg :=
  ⟨5, 1, 0, 5, 0, 0, 3, 77, 1, 1, final, reply, n, List.replicate (4 * n) 0, 0⟩
def takes (s : State) (m : BMsg) (c : Coll) : Bool :=
  borageRuns s false && transportOn s && decide ((getGrp s m.group).st = .active) && decide ((getGrp s m.group).gen.toNat = m.gen) &&
  decide (attemptOf s 77 m.step ≤ m.attempt) && decide (m.fprint = (getGrp s m.group).fprint.extractLsb' 0 32) &&
  decide (m.tenant = (getCtx s (getGrp s m.group).ctx).tenant) && decide (m.job = (getCtx s (getGrp s m.group).ctx).job) &&
  decide (collFor s m = some c)

theorem witness_CollectivesAndTheirMessages_2 :
    (let sum := collOf 0x30000000 0 .running
     let gather := collOf 0x40000000 0 .running
     takes (collected sum) (bmsg true 1 0) sum = true ∧
     takes (collected sum) (bmsg false 0 1) sum = true ∧ sum.parts.contains 1 = false ∧ sum.adds = true ∧ 1 < grp5.size ∧
     sum.chunkLen 2 1 = 1 ∧ (bmsg false 0 1).data.length = 4 * 1 ∧
     (srcEls (collected sum) sum (sum.chunkOff 2 1) 1).2.2.isNone = true ∧
     takes (collected gather) (bmsg true 0 1) gather = true ∧ unitPlace gather grp5 (bmsg true 0 1) = some (1, 1, 1, 1) ∧
     gather.got.contains 1 = false ∧ (bmsg true 0 1).data.length = 1 * fmtBytes gather.outF ∧
     (writeVa (collected gather) none 9 (gather.dst + 1 * fmtBytes gather.outF) (bmsg true 0 1).data).2.isNone = true) := by decide +kernel

def mdel : MDel := ⟨⟨0, 6⟩, 3, 77, 5, 0, 0, 0, 0, 81921, 0, [1, 2], unitDigest [1, 2] 81921 0 0⟩

theorem witness_CollectivesAndTheirMessages_3 : borageRuns mirrored false = true ∧ transportOn mirrored = true ∧
    attemptOf mirrored 77 5 ≤ mdel.attempt ∧ copyFor mirrored mdel = some mir0 ∧
    (writeVa mirrored none 9 ((gSeg (hdrOf mirrored mir0)).va + 0) mdel.data).2.isNone = true ∧
    unitDigest mdel.data mdel.group mdel.seq mdel.unit = mdel.digest ∧
    (let c := { collOf 0x30000000 0 .running with own := true }
     findColl (collected c) 0 = some c ∧ live (collected c) = true ∧ (collected c).err.ka = false ∧ collDone c grp5 = true) := by
  decide +kernel

/-- Group 5 as the job's vote group, the device with rank `r` of two; an own collective that is the step's last, complete. -/
def vgrp (r : Nat) : Grp := { grp5 with vote := true, rank := r, list := if r = 0 then [⟨0, 5⟩, ⟨0, 6⟩] else [⟨0, 6⟩, ⟨0, 5⟩] }
def lastColl : Coll := { collOf 0x30000000 0 .complete with step := 0, desc := [bv 64 (0x30000000 + 2 ^ 16 + 81921 * 2 ^ 32)] }
def voting (r : Nat) : State :=
  let s := setGrp (withCtx up) 5 (vgrp r)
  setPair (s.setCol { s.col with colls := [lastColl], next := 1 }) false
    { st := .up, partner := 6, step := 0, job := 77, ctx := 9, sent := true }
def vote0 : Vote :=
  { job := 77, grp := 5, step := 0, attempt := 0, opened := true, deadline := 3, own := none, kids := [], notice := false
    sent := false, recov := none }
def deadVote (r : Nat) (v : Vote) : State := (voting r).setCol { (voting r).col with votes := [v] }
/-- Rank 0, device 6, is declared absent. -/
def rootGone (v : Vote) : State :=
  let s := deadVote 1 v
  s.setFab { s.fab with watch := [{ peer := ⟨0, 6⟩, got := [], miss := 3, absent := true, ka := false, numRev := 0 }] }

theorem witness_CommitVote_1 :
    (let s := voting 0
     let stop := setCtx s 9 { st := .stopped, tenant := 3, job := 77 }
     voteGrp s 77 = some (5, vgrp 0) ∧ live s = true ∧ stepInProgress s 77 = 0 ∧ (theVote s 77 5 0).opened = false ∧
     hasMark s.col.np 77 0 = false ∧ decidedAs s 77 0 = none ∧ s.err.ka = false ∧ wordReady s 77 0 = true ∧
     jobStopped s 77 = false ∧
     voteGrp stop 77 = some (5, vgrp 0) ∧ (theVote stop 77 5 0).opened = false ∧ wordReady stop 77 0 = true ∧
     jobStopped stop 77 = true) := by decide +kernel

theorem witness_CommitVote_2 :
    voteGrp (deadVote 0 vote0) 77 = some (5, vgrp 0) ∧ findVote (deadVote 0 vote0) 77 = some vote0 ∧ vote0.opened = true ∧
    vote0.deadline ≤ beat (deadVote 0 vote0) ∧ vote0.sent = false ∧ (vgrp 0).rank = 0 ∧
    voteGrp (deadVote 1 vote0) 77 = some (5, vgrp 1) ∧ findVote (deadVote 1 vote0) 77 = some vote0 ∧ (vgrp 1).rank ≠ 0 ∧
    rankOf (vgrp 0) ⟨0, 6⟩ = some 1 ∧ decidedAs (voting 0) 77 0 = none ∧ findVote (voting 0) 77 = none := by decide +kernel

theorem witness_CommitVote_3 :
    (let v := { vote0 with recov := some 10 }
     let s := rootGone v
     let three : Grp := { vgrp 1 with size := 3, rank := 2, list := [⟨0, 6⟩, ⟨0, 7⟩, ⟨0, 5⟩] }
     let t := setGrp s 5 three
     findVote s 77 = some v ∧ 10 ≤ beat s ∧ rootAbsent s (vgrp 1) = true ∧ isRecoveryRoot s (vgrp 1) = true ∧
     voteGrp t 77 = some (5, three) ∧ findVote t 77 = some v ∧ rootAbsent t three = true ∧ isRecoveryRoot t three = false) := by
  decide +kernel

theorem witness_CommitVote_4 :
    (let s := voting 0
     let m : OutMsg := ⟨77, 0, 0, .commit, false, 0, 0, 2⟩
     let w : VWord := { word7 with step := 0 }
     let h := s.setCol { s.col with outs := [m] }
     transportOn s = true ∧ heldFor h w = some m ∧ voteGrp h 77 = some (5, vgrp 0) ∧ live h = true ∧
     heldFor s w = none ∧ wordTimely s w = true ∧ rootAbsent s (vgrp 0) = false ∧
     decidedAs s m.job m.step = none ∧ m.attempt = attemptOf s m.job m.step ∧ isRecoveryRoot s (vgrp 0) = false) := by decide +kernel

/-! ### Ports, links, the transport -/

/-- Port 7 in a state, with its light and rates. -/
def port7 (st light : Nat) : Port := { st := st, light := bv 8 light, ctrl := 1, rtt := 100, fails := 16 }
def ported (x : Port) : State := setPort up 7 x

theorem witness_PortsAndTraining : 7 < 8 ∧ regsOn (ported {}) = true ∧ modeOf 1 ≠ 3 ∧ bit (0 : B32) 0 = false ∧
    bit (1 : B32) 0 = true ∧ bit (getPort (ported (port7 2 0xFF)) 7).ctrl 0 = true ∧ regsOn (ported (port7 2 0xFF)) = true ∧
    bit (getPort (ported {}) 7).ctrl 0 = false ∧ hasImage (ported {}) 4 = true ∧ (getPort (ported (port7 1 0)) 7).st = 1 ∧
    hasImage (ported (port7 1 0)) 4 = true ∧ (getPort (ported (port7 2 0xFF)) 7).st = 2 ∧
    (getPort (ported (port7 5 0)) 7).st = 5 ∧ mustRetrain (ported (port7 2 0xFF)) (port7 2 0xFF) = true ∧
    (getPort (ported (port7 4 0xFF)) 7).st = 4 ∧ (getPort (ported { port7 4 0xFF with badTrain := 2 }) 7).badTrain = 2 ∧
    rttLimit 0 < 24001 := by decide +kernel

/-- A routed device: address 6 goes out on port 0. -/
def routed : State :=
  let s := setPort (setPort up 0 { st := 2, light := 0xFF, hops := 0 }) 7
    { st := 2, light := 0xFF, rx := 5, relay := [⟨2, some (0, 1)⟩, ⟨3, none⟩] }
  s.setFab { s.fab with routes := Tab.put (fun _ => 0) s.fab.routes 6 0x0100 }

theorem witness_LinkFramesAndRelay_1 : (getPort routed 7).st = 2 ∧ crc32c (frameBody {}) ≠ 0 ∧
    (getPort routed 7).recvAt ≤ 10 * ns routed ∧ (∃ n ∈ [16], 15 < n) ∧ (∀ n ∈ [15, 0], n ≤ 15) ∧
    ({ lseq := 5, kind := 1 } : Frame).lseq = (getPort routed 7).rx ∧
    ({ lseq := 6, kind := 4 } : Frame).lseq ≠ (getPort routed 7).rx := by decide +kernel

theorem witness_LinkFramesAndRelay_2 : 7 < 8 ∧ transportOn routed = true ∧
    (⟨0, 6⟩ : Peer) ≠ ownPeer routed ∧ (getPort routed 7).mode ≠ 2 ∧ routePort routed 0xFF ⟨0, 6⟩ 3 = some 0 ∧
    routePort routed 0xFF ⟨0, 9⟩ 3 = none ∧ usable routed 0 = true ∧
    ((getPort routed 7).relay.find? fun r => r.chan = 2) = some ⟨2, some (0, 1)⟩ ∧
    ((getPort routed 7).relay.find? fun r => r.chan = 3) = some ⟨3, none⟩ := by decide +kernel

def msg5 (enc : Bool) (tsent : Nat) : Msg := { typ := 9, dst := ⟨0, 5⟩, src := ⟨0, 6⟩, enc := enc, tsent := tsent }
def key6 (out : Bool) : TKey := ⟨⟨0, 6⟩, 1, 0, out, 0, 0, none⟩

theorem witness_TransportMessages_1 : transportOn up = true ∧ (msg5 false 0).dst = ownPeer up ∧
    ns up ≤ (msg5 false (6 * 2 ^ 20 + 5)).tsent + latNs up ∧ (msg5 false (6 * 2 ^ 20 + 4)).tsent + latNs up < ns up ∧
    (msg5 true 0).tagOk = true ∧ aged up (msg5 false (6 * 2 ^ 20 + 5)) = false ∧ aged up (msg5 true (6 * 2 ^ 20 + 5)) = false ∧
    up.time.locked = true ∧ connsFull up (msg5 true 0) = false ∧ (msg5 true 0).payload.length ≤ 2 ^ 20 ∧
    epochRes (up.setSec { up.sec with keys := [key6 false] }) ⟨0, 6⟩ (nearEpoch up (msg5 true 0).epoch) = .ok := by decide +kernel

/-- A message beyond 1 MiB. -/
theorem witness_TransportMessages_long : 2 ^ 20 < (List.replicate (2 ^ 20 + 1) (0 : Byte)).length :=
  Nat.lt_of_lt_of_eq (Nat.lt_succ_self _) List.length_replicate.symm

/-- A connection with one message that has waited, sent at `t`. -/
def outM (t : Nat) : OutM := ⟨{ typ := 9, dst := ⟨0, 6⟩, src := ⟨0, 5⟩, seq := 3, tsent := t }, .none, t, t⟩
def conn (out : Bool) (un : List OutM) : Conn :=
  ⟨2, ⟨0, 6⟩, 2, out, 4, un, false, [], 0, [], !out⟩
def connected (c : Conn) : State := up.setFab { up.fab with conns := [c], nextConn := 3 }

theorem witness_TransportMessages_2 :
    findConnId (connected (conn false [])) 2 = some (conn false []) ∧ (conn false []).ackDue = true ∧ (conn false []).next ≠ 0 ∧
    transportOn (connected (conn false [])) = true ∧
    mustEnc (connected (conn false [])) { cls := 0, typ := 1, dst := ⟨0, 6⟩, src := ownPeer up } = false ∧
    findConnId (connected (conn true [outM (9 * 2 ^ 20)])) 2 = some (conn true [outM (9 * 2 ^ 20)]) ∧
    (outM (9 * 2 ^ 20)).last + resendAfter (connected (conn true [outM (9 * 2 ^ 20)])) (outM (9 * 2 ^ 20)) ≤ ns up ∧
    aged up (outM (9 * 2 ^ 20)).m = false ∧
    findConnId (connected (conn true [outM 0])) 2 = some (conn true [outM 0]) ∧ (outM 0).m.seq = 3 ∧
    (outM 0).m.tsent + latNs up < ns up ∧ (conn true []).rel ≤ ns up ∧ up.time.locked = true ∧
    findConn (connected (conn true [outM 0])) ⟨0, 6⟩ 2 true = some (conn true [outM 0]) := by decide +kernel

theorem witness_TransportMessages_3 :
    (let w : WaitS := ⟨{ typ := 9, dst := ⟨1, 6⟩, src := ⟨0, 5⟩ }, .none, 0⟩
     let s := { up with time := { up.time with ft := 64 * 2 ^ 20 }, fab := { up.fab with waits := [w] } }
     s.fab.waits[0]? = some w ∧ s.time.locked = true ∧ w.since + 64 ≤ beat s ∧ mustEnc s w.m = true ∧ keyOf s w.m.dst s.fab.epoch true = none) := by
  decide +kernel

def watch6 (got : List Nat) (miss : Nat) : Watch :=
  { peer := ⟨0, 6⟩, got := got, miss := miss, absent := false, ka := false, numRev := 1 }
def watching (w : Watch) : State := up.setFab { up.fab with watch := [w] }

theorem witness_HeartbeatsAndAbsence : live up = true ∧ transportOn up = true ∧ up.time.locked = true ∧ up.fab.hbSent ≤ beat up ∧
    ((watching (watch6 [] 2)).fab.watch.find? fun w => w.peer = ⟨0, 6⟩) = some (watch6 [] 2) ∧
    (watching (watch6 [9, 11] 2)).fab.watch[0]? = some (watch6 [9, 11] 2) ∧ (watch6 [9, 11] 2).seen ≤ beat up ∧
    beat up = 9 + 1 ∧ 8 + 1 ≠ beat up ∧ 10 + 1 ≠ beat up ∧ (watch6 [8] 2).miss < 3 ∧ 3 ≤ (watch6 [8, 10] 3).miss ∧
    (watch6 [8, 10] 3).absent = false ∧ live (watching (watch6 [] 2)) = true ∧
    transportOn (watching (watch6 [] 2)) = true := by decide +kernel

/-! ### Fabric time, epochs, sessions -/

def timed (t : Time) (s : State) : State := s.setTime t
def member : State := timed { up.time with locked := false, est := List.replicate 16 4 } routed
def rootDev (t : Time) : State := timed t (wr32 up 0x17020 7)

theorem witness_FabricTime_1 : live routed = true ∧ inBand routed = true ∧ usable routed 0 = true ∧ (getPort routed 0).mode ≠ 2 ∧
    upstream (setPort routed 0 { getPort routed 0 with hops := min 3 0xFF }) = some 0 ∧ routed.time.locked = true ∧
    live member = true ∧ inBand member = true ∧ usable member 0 = true ∧ member.time.locked = false ∧ member.time.est = 4 :: List.replicate 15 4 ∧
    steady member.time.est = true ∧
    upstream (setPort member 0 { getPort member 0 with hops := min 3 0xFF }) = some 0 := by decide +kernel

theorem witness_FabricTime_2 :
    (let t0 := { up.time with locked := false, setW := true }
     let h := { up.time with holdover := true, unc2 := 2001 }
     isRoot (rootDev t0) = true ∧ live (rootDev t0) = true ∧ (rootDev t0).time.ref10 = true ∧ (rootDev t0).time.setW = true ∧
     isRoot (rootDev up.time) = true ∧ (rootDev up.time).time.locked = true ∧ (rootDev h).time.holdover = true ∧
     isRoot (rootDev h) = true ∧ up.time.locked = true ∧ up.time.holdover = false ∧ inBand up = true ∧ upstream up = none ∧
     (timed h routed).time.holdover = true ∧ isRoot (timed h routed) = false ∧ upstream (timed h routed) ≠ none ∧
     (timed h routed).time.drift = false ∧ 2000 < (timed h routed).time.unc2) := by decide +kernel

theorem witness_EpochsAndRandomBits :
    (let pend := up.setFab { up.fab with latPend := some (2, 10) }
     let late := { up with time := { up.time with ft := 2 ^ 36 } }
     let near := { up with time := { up.time with ft := 2 ^ 36 - 2 ^ 21 } }
     let used := up.setSec { up.sec with drbg := ⟨2 ^ 20, 2 ^ 20⟩, mask := ⟨2 ^ 20, 2 ^ 20⟩ }
     let early := up.setBoot { up.boot with sage := ⟨false, false⟩ }
     pend.fab.latPend = some (2, 10) ∧ 10 ≤ beat pend ∧ live late = true ∧ late.time.locked = true ∧
     late.fab.epoch < ns late / 2 ^ late.fab.encLog2 ∧ late.fab.waits = [] ∧ vaultOk near = true ∧
     epochStart near (near.fab.epoch + 1) ≤ ns near + 2 * beatNs ∧
     used.sec.rngOk.get .east = true ∧ 2 ^ 20 ≤ used.sec.drbg.get .east ∧ 2 ^ 20 ≤ used.sec.mask.get .west ∧
     early.sec.rngOk.get .east = true ∧ early.pwr.on = true ∧ early.boot.sage.get .east = false) := by decide +kernel

/-- An establishment with device 6 under way; a session of device 6. -/
def att6 (init : Bool) (stage : Nat) (retry : Option Nat) : Att :=
  { peer := ⟨0, 6⟩, init := init, repl := false, stage := stage, retry := retry }
def trying (a : Att) : State := up.setSec { up.sec with atts := [a] }
def sess6 : Sess := ⟨⟨0, 6⟩, 1, 0, 0, none, 0⟩

theorem witness_SessionEstablishment : sessOn up = true ∧ findAtt up ⟨0, 6⟩ = none ∧ sessRoom up ⟨0, 6⟩ = some up ∧
    sessOn (trying (att6 true 1 none)) = true ∧ findAtt (trying (att6 true 1 none)) ⟨0, 6⟩ = some (att6 true 1 none) ∧
    findAtt (trying (att6 false 2 none)) ⟨0, 6⟩ = some (att6 false 2 none) ∧
    (att6 true 0 (some 10)).retry = some 10 ∧ 10 ≤ beat up ∧
    (sessRoom (trying (att6 true 0 (some 10))) ⟨0, 6⟩).isSome = true ∧
    (let s := up.setSec { up.sec with sess := [sess6] }
     let t := s.setFab { s.fab with epoch := 64 }
     sessOn t = true ∧ (t.sec.sess.find? fun x => x.peer = ⟨0, 6⟩ && x.stop.isNone) = some sess6 ∧
     peerLt (ownPeer t) ⟨0, 6⟩ = true ∧ findAtt t ⟨0, 6⟩ = none ∧ sess6.first + bits (rd32 t 0x1C064) 7 0 ≤ t.fab.epoch ∧
     sessRoom t ⟨0, 6⟩ = some t) := by
  decide +kernel

/-! ### The site exchange, the fabric block -/

/-- Sites 0 and 1 of job 77, each of 256 devices; this device coordinates site 0 when `coord`; rounds every 16 steps. -/
def sited (s : State) (coord : Bool) (cur : Option Round) : State :=
  let site (k c : Nat) (t : Tab SiteE) : Tab SiteE :=
    Tab.put (fun _ => {}) t k { valid := true, ndev := 256, coord := c, alt := c + 1, peer := c, route := 0x0100 }
  let t := wr32 s 0x17040 77
  { t with
    fab := { t.fab with sites := site 0 (if coord then 5 else 50) (site 1 8 []) }
    sx := { t.sx with en := true, h := 16, cur := cur } }
def round1 : Round := ⟨1, 0, false, true, [], [], [], [], true, false, [], none, false⟩
def receipt (k : Nat) : Receipt := ⟨k, 1, 3, 0, 0, []⟩
def decision1 : Decision :=
  { round := 1, proposer := 0, q := 3, p := 3, m := 0, rejoin := false, rejoinNext := false, missed := [] }

theorem witness_SiteExchangeRounds_1 :
    (let s := sited { up with col := { up.col with outs := [⟨77, 16, 0, .skip, false, 0, 0, 1⟩] } } true none
     sxOn s = true ∧ lastDecided s (sxJob s) = some 16 ∧ s.sx.h ≠ 0 ∧ 16 % s.sx.h = 0 ∧ s.sx.cur = none ∧
     s.sx.round < 16 / s.sx.h ∧ released s (sxJob s) 16 = true ∧ s.sx.rejoin = false ∧
     s.sx.stale = false) := by decide +kernel

theorem witness_SiteExchangeRounds_2 :
    (let s := sited sharded true (some round1)
     sxOn s = true ∧ openRound s 1 = some round1 ∧ streamShard s ⟨1, 8⟩ 0 = some own0 ∧ 1 ≠ ownSite s ∧
     (validSites s).contains 1 = true ∧ shardBy s (sxJob s) 0 false = some own0 ∧ round1.enc = true ∧
     streamShard (sited sharded true (some { round1 with rejoin := true })) ⟨1, 8⟩ 0 = some own0) := by decide +kernel

theorem witness_SiteExchangeRounds_3 :
    (let s := sited up true (some round1)
     let n := sited up false (some round1)
     let full := { round1 with receipts := [receipt 0, receipt 1] }
     let p := sited up true (some full)
     let late (t : State) : State := { t with time := { t.time with ft := 400 * 2 ^ 20 } }
     let later (t : State) : State := { t with time := { t.time with ft := 256 * 2 ^ 20 } }
     sxOn s = true ∧ sxOn n = true ∧ openRound s 1 = some round1 ∧ openRound n 1 = some round1 ∧ isCoord s = true ∧
     isCoord n = false ∧ ownSite s = 0 ∧ (receipt 1).round = round1.j ∧ round1.decided = false ∧
     beat s ≤ round1.t0 + s.sx.dataWait + s.sx.decWait ∧ (validSites s).contains 1 = true ∧ decision1.round = round1.j ∧
     proposerOf full = some decision1.proposer ∧ openRound p 1 = some full ∧
     s.sx.cur = some round1 ∧ round1.applied = none ∧ isCoord (later s) = true ∧ sxOn (later s) = true ∧
     round1.t0 + (later s).sx.dataWait ≤ beat (later s) ∧ round1.t0 + (late s).sx.dataWait < beat (late s) ∧
     beat s ≤ round1.t0 + s.sx.dataWait ∧ openRound (late s) 1 = some round1 ∧
     fromCoord s ⟨1, 8⟩ 1 = true ∧ fromCoord s ⟨1, 8⟩ decision1.proposer = false ∧
     (let d : DecisionIn := ⟨⟨1, 8⟩, { decision1 with proposer := 1 }⟩
      let r1 := { round1 with receipts := [receipt 1], decided := true, came := [d] }
      openRound (sited up true (some { r1 with came := [] })) 1 = some { r1 with came := [] } ∧ fromCoord s d.src d.d.proposer = true ∧
      proposerOf r1 = some d.d.proposer) ∧
     (round1.decided || allIn s round1) = false ∧
     mayPropose p full = true ∧ (∀ k ∈ validSites p, ∃ x ∈ full.receipts, x.site = k) ∧
     isCoord (late s) = true ∧ sxOn (late s) = true ∧ round1.t0 + s.sx.dataWait + s.sx.decWait ≤ beat (late s) ∧
     proposerOf round1 ≠ some (ownSite (late s)) ∧
     round1.t0 + s.sx.dataWait + 2 * s.sx.decWait ≤ beat (late s)) := by decide +kernel

theorem witness_SiteExchangeRounds_4 :
    (let s := sited up true none
     sxOn s = true ∧ s.sx.cur = none ∧ lastDecided s (sxJob s) = none ∧ (s.sx.joins.any fun x => x.1 = ⟨0, 6⟩) = false) ∧
    (let s := sited up false none
     let t := s.setSx { s.sx with asked := true }
     sxOn t = true ∧ t.sx.asked = true ∧ isCoord t = false) := by decide +kernel

/-- FAB_CMD of one entry from entry 0, and of one route from the last. -/
def fabW (first n : Nat) : BitVec 56 := bv 56 (first * 2 ^ 18 + n)

theorem witness_FabricRegisters_1 : cmdReady .fabric up = true ∧ bits (fabW 131071 1) 55 35 = 0 ∧ bits (fabArg up) 63 52 = 0 ∧
    (fabArg up).toNat % 64 = 0 ∧ bits (fabW 131071 1) 17 0 = 1 ∧ bits (fabW 131071 1) 34 18 + 1 ≤ 131072 ∧
    fabValid up = true ∧ up.dev.linkUp = true ∧ hostBase + (fabArg up).toNat + 1024 ≤ 2 ^ 48 ∧
    bits (fabW 63 1) 34 18 + 1 ≤ 64 := by decide +kernel

theorem witness_FabricRegisters_2 : (∀ e ∈ (groupsOf 16 (fabBuf up 1024)).map parseSite, e ≠ none) ∧
    (∀ x ∈ ((groupsOf 16 (fabBuf up 1024)).map parseSite).zipIdx, x.1.elim false (siteHusil up x.2) = false) ∧
    (∀ b ∈ groupsOf 4 (fabBuf up 4), leNat b / 2 ^ 23 % 2 ^ 8 = 0) := by decide +kernel

theorem witness_FabricRegisters_3 :
    (let s := up.setFab { up.fab with id := 0 }
     regsOn s = true ∧ fabValid s = false ∧ bits (4 : B32) 5 0 = up.fab.lat ∧ bits (3 : B32) 5 0 < up.fab.lat ∧
     30 ≤ bits (40 : B32) 5 0 ∧ bits (40 : B32) 5 0 ≤ 40 ∧ bits (bv 32 (1 * 2 ^ 16 + 1)) 27 16 ≠ 0 ∧
     bits (bv 32 (1 * 2 ^ 16 + 1)) 7 0 ≠ 0 ∧ bit (bv 32 (1 * 2 ^ 16 + 1)) 31 = false ∧ up.sx.en = false) ∧
    (let s := up.setSx { up.sx with h := 4096 }
     bit (bv 32 (2 ^ 31 + 2 ^ 16 + 1)) 31 = true ∧ 16 ≤ s.sx.h ∧ s.sx.h ≤ 4096 ∧ regsOn s = true) := by decide +kernel

/-! ### Pairs, mirrors, leadership -/

def mirArgs (s : State) (a b : B64) : State := wr64 (wr64 s 0x18008 a) 0x18010 b
/-- MIR_CMD for context 9 and device 6; device 6 is watched. -/
def mirW : BitVec 56 := bv 56 (9 * 2 ^ 44 + 6)
def paired (s : State) (st : PairSt) : State :=
  setPair (s.setFab { s.fab with watch := [watch6 [] 0] }) false { st := st, partner := 6, step := 4, job := 77, ctx := 9, sent := true }
def pm : PairMsg := ⟨⟨0, 6⟩, 77, 3, 1, 1, [], [], true⟩

theorem witness_PairingAndPromotion_1 :
    (let off := mirArgs (setPair (paired (withCtx up) .up) false Pair.reset) 77 0
     let on := mirArgs (paired (withCtx up) .up) 77 0
     let wait := paired (withCtx up) .pairing
     cmdReady .resilience off = true ∧ bits mirW 43 17 = 0 ∧ bits (mirArg0 off) 63 49 = 0 ∧ bits (mirArg1 off) 63 52 = 0 ∧
     bits mirW 55 44 = 9 ∧ bits mirW 16 0 = 6 ∧ (getCtx off 9).st ≠ .free ∧ (getCtx off 9).job = mirJob off ∧
     (pairOf off false).st = .off ∧ watched off (localPeer off 6) = true ∧ husilPeer off (localPeer off 6) = false ∧
     cmdReady .resilience on = true ∧ ([false, true].find? fun fil => (pairOf on fil).job = mirJob on &&
       (pairOf on fil).partner == 6 && pairServes (pairOf on fil)) = some false ∧
     (on.col.colls.any fun c => c.job = mirJob on && (c.st = .queued || c.st = .running)) = false ∧
     live wait = true ∧ transportOn wait = true ∧ wait.err.ka = false ∧ mayLead wait = true ∧ subFrom wait pm.job pm.src = none ∧
     pairFrom wait pm.job pm.src = some false ∧ (pairOf wait false).st = .pairing) := by decide +kernel

/-- A PROMOTE list at host address 64 that names the header at virtual address 4096, an own shard. -/
def promoting : State :=
  let s := mirArgs (setPair (paired headed .up) false Pair.reset) 77 64
  s.setMem { s.mem with phys := Tab.putMany (fun _ => 0) s.mem.phys (hostBase + 64) (leBytes 8 4096) }

theorem witness_PairingAndPromotion_2 : cmdReady .resilience promoting = true ∧ (getCtx promoting 9).job = mirJob promoting ∧
    (mirArg1 promoting).toNat % 64 = 0 ∧ hostBase + 64 + 8 ≤ 2 ^ 48 ∧ (pairOf promoting false).st = .off ∧
    watched promoting (localPeer promoting 6) = true ∧ promoting.dev.linkUp = true ∧
    promoList promoting 8192 (hostBase + 64) = [4096] ∧ bits (4096 : B64) 62 52 = 0 ∧
    promoShard promoting 9 (bits (4096 : B64) 51 0, bit (4096 : B64) 63) ≠ none ∧
    isAbsent promoting (localPeer promoting 6) = false := by decide +kernel

def chk (mine theirs : Option (List B64)) (got again : Bool) : Chk :=
  { job := 77, step := 4, shard := 0, mirror := false, outer := false, mine := mine, theirs := theirs
    given := if got then some (false, 0, 1) else none, got := if got then some (false, 0, 1) else none, done := false
    again := if again then some [] else none }
def checking (c : Chk) : State := let s := paired sharded .up; s.setMir { s.mir with chks := [c] }
def dvg (a b : List B64) : Dvg := ⟨77, 4, 0, false, a, b, true⟩
def diverged (c : Chk) (d : Dvg) : State := (checking c).setMir { (checking c).mir with dvg := [d] }

theorem witness_MirrorCheckAndDivergence_1 :
    (let c := chk none none false false
     let s := checking c
     shardBy s 77 0 false = some own0 ∧ (s.mir.chks.find? fun c => c.job = 77 && c.shard == 0 && c.mirror == false && !c.done &&
       c.mine.isNone) = some c ∧ live s = true ∧ s.err.ka = false ∧ pairServes (pairOf s false) = true ∧ chkDue s own0 c = true ∧
     checkErr (meetShard s own0) own0 false = none ∧
     checkErr (meetShard (poisonLine s (2 ^ 21 + 0x2000)) own0) own0 false ≠ none ∧
     transportOn s = true ∧ pairFrom s 77 ⟨0, 6⟩ = some false ∧ findChk s 77 4 0 (!true) = some c ∧ c.theirs = none ∧
     c.got = none) := by decide +kernel

theorem witness_MirrorCheckAndDivergence_2 :
    (let found (a b x y : List B64) : Bool :=
       let c := chk (some a) (some b) true true
       let d := dvg x y
       let s := diverged c d
       decide ((s.mir.dvg.find? fun d => d.job = 77 && d.shard == 0 && s.mir.chks.any fun c => c.job = 77 &&
         c.shard == 0 && c.mirror == d.mirror && c.step == d.step && c.again.isSome && c.mine.isSome &&
         c.theirs.isSome && c.given.isSome && c.got.isSome) = some d) &&
       decide (findChk s 77 4 0 false = some c) && decide (shardBy s 77 0 false = some own0) && live s && !s.err.ka
     found [1] [1] [1] [2] = true ∧ found [1] [1] [2] [1] = true ∧ ([1] : List B64) ≠ [2] ∧ found [1] [2] [1] [2] = true) := by
  decide +kernel

theorem witness_MirrorTransfers_1 :
    (let s := withEnt (paired sharded .up)
     live s = true ∧ transportOn s = true ∧ s.err.ka = false ∧ pairFrom s 77 ⟨0, 6⟩ = some false ∧
     shardBy s 77 0 false = some own0 ∧ findEnt (checkEnt s false false 5) false false 5 = some ent5 ∧
     entGood (checkEnt s false false 5) ent5 own0 = true ∧
     entGood (checkEnt s false false 5) { ent5 with segs := [] } own0 = false ∧
     s.upd.owner.contains ⟨77, 5, false, ⟨0, 6⟩⟩ = false ∧ s.mir.promo = none ∧ (pairOf s false).st = .up ∧
     (hdrOf s own0).sStep = (hdrOf s own0).wStep ∧ shardPending s own0 = false ∧
     pairFrom s 77 ⟨0, 9⟩ = none) := by decide +kernel

theorem witness_MirrorTransfers_2 :
    (let d : Dvg := ⟨77, 4, 0, true, [], [], false⟩
     let s0 := paired mirrored .up
     let s := s0.setMir { s0.mir with dvg := [d] }
     pairFrom s 77 ⟨0, 6⟩ = some false ∧ shardBy s 77 0 true = some mir0 ∧
     (s.mir.dvg.find? fun d => d.job = 77 && d.shard == 0 && d.mirror && d.step == 4 && !d.restored) = some d) ∧
    (let p : Promo := ⟨77, 6, 9, [(4096, false)], 0, false⟩
     let s := promoting.setMir { promoting.mir with promo := some p }
     live s = true ∧ transportOn s = true ∧ s.err.ka = false ∧ mayLead s = true ∧ s.mir.promo = some p ∧ localPeer s p.src = ⟨0, 6⟩ ∧
     p.todo = (4096, false) :: [] ∧ promoShard s p.ctx (4096, false) = some own0) := by decide +kernel

/-- A block for the copy: kind 1, block 0. -/
def block6 (data : List Byte) : Blocks := ⟨⟨0, 6⟩, 77, 0, 1, 0, data, [], true⟩

theorem witness_MirrorTransfers_3 :
    (let s := paired mirrored .up
     live s = true ∧ transportOn s = true ∧ s.err.ka = false ∧ pairFrom s 77 ⟨0, 6⟩ = some false ∧ promoFrom s (block6 [1, 2]) = none ∧
     (block6 [1, 2]).kind ≠ 2 ∧ awaited s (block6 [1, 2]) = some mir0 ∧ awaited s (block6 []) = some mir0 ∧ (block6 [1, 2]).kind ≠ 5 ∧
     (pairOf s false).st = .up ∧ copySettled s mir0 = true) := by decide +kernel

/-- No half leads; keep-alive mode; a record in handling. -/
def leaderless : State := up.setLead { up.lead with holder := none }
def alive : State := up.setErr { up.err with ka := true }
def handling : State := up.setErr { up.err with ring := ⟨{ head := 3, hand := [⟨2, 3, 3, 0x404, 1⟩] }, {}⟩ }

theorem witness_HandlingAndLeadership :
    (handling.err.ring.get .west).hand = ⟨2, 3, 3, 0x404, 1⟩ :: [] ∧ handling.err.ka = false ∧ handling.boot.sage.get .west = true ∧
    3 ≠ 0 ∧ regsOn handling = true ∧ ((3 : B32) - (handling.err.ring.get .west).tail).toNat ≤
      ((handling.err.ring.get .west).head - (handling.err.ring.get .west).tail).toNat ∧
    latchPath leaderless .east = true ∧ leader leaderless = none ∧ leaderless.lead.holder ≠ some .east ∧
    (leaderless.lead.half.get (otherHalf .east)).reach = true ∧
    (let s := { up with time := { up.time with ft := 12 * 2 ^ 20 } }
     latchPath s .west = true ∧ (s.lead.half.get .west).mine = true ∧ beat s % 4 = 0 ∧ s.lead.forced = false ∧
     leader s = some .west ∧ (s.lead.half.get (otherHalf .west)).reach = true) ∧
    (let s := up.setLead { up.lead with half := ⟨up.lead.half.w, { readBeat := 0, expiry := 10, reach := false }⟩ }
     let v := s.lead.half.get (otherHalf .west)
     latchPath s .west = true ∧ leader s = some .west ∧ beat s % 4 ≠ 0 ∧ s.boot.sage.get (otherHalf .west) = true ∧
     v.reach = false ∧ v.expiry ≤ beat s ∧ v.told = false) ∧
    (let s := { up with time := { up.time with ft := 100 * 2 ^ 20 } }
     s.lead.holder = some .west ∧ leader s = none) ∧
    up.pwr.on = true ∧ up.boot.sage.get .west = true ∧ (up.lead.half.get (otherHalf .west)).stopped = false ∧
    regsOn alive = true ∧ alive.err.ka = true ∧ bits (bv 32 (0x4C46 * 2 ^ 16 + 2)) 31 16 = 0x4C46 ∧
    bits (bv 32 (0x4C46 * 2 ^ 16 + 2)) 1 0 = halfNo .east + 1 := by decide +kernel

/-! ### Boot, security, Chive -/

def booting (busy : Bool) (acc : List Nat) (next : Nat) : State :=
  { up with boot := { State.reset.boot with opened := true, busy := busy, acc := acc, next := next } }
/-- An image of type `ty` at host address 0x100000, named by BOOT_ADDR and BOOT_LEN; its digest is that of its body. -/
def imgHead (ty : Nat) (body : List Byte) : List Byte :=
  (leBytes 4 0x46524C54 ++ leBytes 4 ty ++ leBytes 8 0 ++ leBytes 4 0x4230 ++ leBytes 4 body.length ++ leBytes 8 0) ++
    (leBytes 64 (Config.sha512 body).toNat ++ List.replicate 160 0)
def imgSig (body : List Byte) : List Byte :=
  leBytes 4 0x10100 ++ leBytes 4 1 ++ leBytes 4 (256 + body.length) ++ List.replicate 68 0
def offering (svn : List Nat) (body : List Byte) : State :=
  let s := wr64 (wr32 (booting true [] 1) 0x1C010 (bv 32 (256 + body.length + 4096))) 0x1C008 0x100000
  s.setFuse { s.fuse with svn := svn, keyIds := [0], keyPresent := 1, keyRev := 0 }
def offered (svn : List Nat) (ty : Nat) (body : List Byte) : State :=
  writeMem (offering svn body) (hostBase + 0x100000) (imgHead ty body ++ (body ++ imgSig body))

theorem imgHead_length (ty : Nat) (body : List Byte) : (imgHead ty body).length = 256 := by
  simp [imgHead, leBytes_length]
theorem imgSig_length (body : List Byte) : (imgSig body).length = 0x50 := by simp [imgSig, leBytes_length]

theorem writeMem_regs (s : State) (pa : Nat) (bs : List Byte) : (writeMem s pa bs).regs = s.regs := rfl
theorem rd64_of_regs {s t : State} (h : s.regs = t.regs) (o : Nat) : rd64 s o = rd64 t o := by rw [rd64, rd64, rd32, rd32, rd32, rd32, h]

theorem offered_addr (svn : List Nat) (ty : Nat) (body : List Byte) : (bootAddr (offered svn ty body)).toNat = 0x100000 := by
  rw [bootAddr, offered, rd64_of_regs (writeMem_regs _ _ _), offering, rd64_of_regs (State.setFuse_regs _ _), rd64_wr64]
  decide

theorem offered_head (svn : List Nat) (ty : Nat) (body : List Byte) : imageHead (offered svn ty body) = imgHead ty body := by
  have h := readMem_writeMem_part (offering svn body) (hostBase + 0x100000) 0 256 (imgHead ty body ++ (body ++ imgSig body))
    (by simp [imgHead_length])
  have ha := offered_addr svn ty body
  rw [imageHead, ha, offered]
  refine h.trans ?_
  simp [slice, imgHead_length]

theorem offered_len (svn : List Nat) (ty : Nat) (body : List Byte) (hb : body.length < 256) :
    imageLen (offered svn ty body) = body.length := by
  have h : slice (imgHead ty body) 0x14 4 = leBytes 4 body.length := rfl
  rw [imageLen, offered_head, h, leNat_leBytes]
  omega

theorem offered_body (svn : List Nat) (ty : Nat) (body : List Byte) (hb : body.length < 256) :
    imageBody (offered svn ty body) = body := by
  have h := readMem_writeMem_part (offering svn body) (hostBase + 0x100000) 0 (256 + body.length)
    (imgHead ty body ++ (body ++ imgSig body)) (by simp [imgHead_length, imgSig_length])
  have ha := offered_addr svn ty body
  rw [imageBody, imageBytes, ha, offered_len _ _ _ hb, offered]
  refine (congrArg (List.drop 256) h).trans ?_
  simp [slice, imgHead_length, List.take_append, List.drop_append]

theorem offered_sig (svn : List Nat) (ty : Nat) (body : List Byte) (hb : body.length < 256) :
    imageSig (offered svn ty body) = imgSig body := by
  have h := readMem_writeMem_part (offering svn body) (hostBase + 0x100000) (256 + body.length) 0x50
    (imgHead ty body ++ (body ++ imgSig body)) (by simp [imgHead_length, imgSig_length]; omega)
  have ha := offered_addr svn ty body
  rw [imageSig, ha, offered_len _ _ _ hb, offered]
  rw [Nat.add_assoc]
  refine h.trans ?_
  rw [slice, List.drop_append, List.drop_eq_nil_of_le (by simp [imgHead_length])]
  simp [imgHead_length, imgSig_length, List.take_of_length_le]

theorem offered_digest (svn : List Nat) (ty : Nat) (body : List Byte) (hb : body.length < 256) :
    digestOk (offered svn ty body) = true := by
  have h : slice (imgHead ty body) 0x20 64 = leBytes 64 (Config.sha512 body).toNat := rfl
  have hx := (Config.sha512 body).isLt
  have he : bv 512 ((Config.sha512 body).toNat % 256 ^ 64) = Config.sha512 body := by
    apply BitVec.eq_of_toNat_eq
    rw [bv, BitVec.toNat_ofNat, show (256 : Nat) ^ 64 = 2 ^ 512 from (pow_mul 2 8 64).symm, Nat.mod_mod, Nat.mod_eq_of_lt hx]
  rw [digestOk, offered_head, offered_body _ _ _ hb, h, leNat_leBytes, he]
  simp

/-- A SAGE image of 8 bytes; an SVN_RAISE that asks for 1 of types 1 and 2 where type 1's minimum is 2. -/
def sage8 : State := offered [0, 0, 0, 0, 0, 0] 1 (List.replicate 8 0)
def raise6 : State := offered [2, 0, 0, 0, 0, 0] 15 [1, 1, 0, 0, 0, 0]

/-- What the checks of an image read of one that these helpers lay out. -/
theorem offered_reads (svn : List Nat) (ty : Nat) (body : List Byte) (hb : body.length < 256) :
    imageHead (offered svn ty body) = imgHead ty body ∧ imageLen (offered svn ty body) = body.length ∧
    imageBody (offered svn ty body) = body ∧ imageSig (offered svn ty body) = imgSig body ∧
    digestOk (offered svn ty body) = true :=
  ⟨offered_head .., offered_len _ _ _ hb, offered_body _ _ _ hb, offered_sig _ _ _ hb, offered_digest _ _ _ hb⟩

theorem sage8_result (v : Byte) : imageResult sage8 v = v.toNat := by
  obtain ⟨hh, hl, hy, hg, hd⟩ := offered_reads [0, 0, 0, 0, 0, 0] 1 (List.replicate 8 0) (by decide)
  have h1 : imageBad sage8 = false := by rw [imageBad, sage8, hl, hh]; decide +kernel
  have h2 : dsFits (imgSig (List.replicate 8 0)) 1 (256 + 8) = true := by decide +kernel
  have h3 : fwKey sage8 (leNat (slice (imgSig (List.replicate 8 0)) 0x10 64)) = true := by decide +kernel
  have e0 : leNat (slice (imgHead 1 (List.replicate 8 0)) 0 4) = 0x46524C54 := by decide +kernel
  have e1 : leNat (slice (imgHead 1 (List.replicate 8 0)) 4 4) = 1 := by decide +kernel
  have e2 : leNat (slice (imgHead 1 (List.replicate 8 0)) 0x0C 4) = 0 := by decide +kernel
  have e3 : leNat (slice (imgHead 1 (List.replicate 8 0)) 0x10 4) = stepping := by decide +kernel
  have o : imageInOrder sage8 1 = true := by decide +kernel
  have e4 : svnMin sage8 1 = 0 := by decide +kernel
  rw [← sage8] at hh hl hy hg hd
  unfold imageResult
  simp only [hh, hl, hg, e0, e1, e2, e3, e4, h1, hd, o, h2, h3, List.length_replicate]
  by_cases hv : v = 0
  · simp [hv]
  · simp [show ¬ v = 0#8 from hv]

theorem raise6_result : imageResult raise6 0 = 0 ∧ leNat (slice (imageHead raise6) 4 4) = 15 ∧ svnOk raise6 = false := by
  obtain ⟨hh, hl, hy, hg, hd⟩ := offered_reads [2, 0, 0, 0, 0, 0] 15 [1, 1, 0, 0, 0, 0] (by decide)
  have h1 : imageBad raise6 = false := by rw [imageBad, raise6, hl, hh]; decide +kernel
  have h3 : fwKey raise6 (leNat (slice (imgSig [1, 1, 0, 0, 0, 0]) 0x10 64)) = true := by decide +kernel
  have e0 : leNat (slice (imgHead 15 [1, 1, 0, 0, 0, 0]) 0 4) = 0x46524C54 := by decide +kernel
  have e1 : leNat (slice (imgHead 15 [1, 1, 0, 0, 0, 0]) 4 4) = 15 := by decide +kernel
  have e3 : leNat (slice (imgHead 15 [1, 1, 0, 0, 0, 0]) 0x10 4) = stepping := by decide +kernel
  have o : imageInOrder raise6 15 = true := by decide +kernel
  rw [← raise6] at hh hl hy hg hd
  refine ⟨?_, by rw [hh, e1], ?_⟩
  · unfold imageResult
    simp only [hh, hl, hy, hg, e0, e1, e3, h1, hd, o, h3]
    decide
  · rw [svnOk, raises, raiseSvn, askedSvn, hy]; decide +kernel

theorem witness_BootChain : (booting false [] 1).pwr.on = true ∧ (booting false [] 1).boot.opened = true ∧
    (booting false [] 1).boot.done = false ∧ (booting false [] 1).boot.fuseSplit = false ∧ (booting false [] 1).boot.busy = false ∧
    sage8.boot.busy = true ∧ sage8.dev.linkUp = true ∧ imageResult sage8 0 = 0 ∧ imageResult sage8 4 = 4 ∧
    (leNat (slice (imageHead sage8) 4 4) = 15 → svnOk sage8 = true) ∧
    raise6.boot.busy = true ∧ raise6.dev.linkUp = true ∧ imageResult raise6 0 = 0 ∧
    leNat (slice (imageHead raise6) 4 4) = 15 ∧ svnOk raise6 = false ∧
    hasImage (booting false [1, 2, 3] 4) 3 = true ∧ (booting false [1, 2, 3] 4).boot.trained = false ∧
    regsOn up = true ∧ up.pwr.on = true ∧ up.pwr.perst = false ∧ up.boot.opened = true ∧ up.dev.linkUp = true := by
  have hs : leNat (slice (imageHead sage8) 4 4) = 1 := by
    rw [sage8, (offered_reads _ _ _ (by decide)).1]; decide +kernel
  refine ⟨by decide, by decide, by decide, by decide, by decide, rfl, rfl, sage8_result 0, sage8_result 4, ?_, rfl, rfl,
    raise6_result.1, raise6_result.2.1, raise6_result.2.2, by decide +kernel⟩
  rw [hs]; exact fun h => absurd h (by decide)

def spdm (x : Spdm) : State := up.setSec { up.sec with spdm := x }

theorem witness_SpdmResponder : responds up = true ∧ hasImage up 6 = true ∧ responds (spdm { ver := true }) = true ∧
    (spdm { ver := true }).sec.spdm.ver = true ∧ (0x13 : Byte) = 0x13 ∧ (spdm { caps := true }).sec.spdm.caps = true ∧
    (spdm { alg := true }).sec.spdm.alg = true ∧ 1 ≤ (11 : Byte).toNat ∧ (11 : Byte).toNat ≤ 11 ∧ (0xFF : Byte).toNat = 0xFF ∧
    (spdm { sess := true }).sec.spdm.sess = true ∧ (spdm { sess := true }).sec.spdm.secured = false ∧
    (spdm { secured := true }).sec.spdm.secured = true ∧ (spdm { secured := true }).dev.linkUp = true ∧
    vaultOk up = true ∧ (spdm { alg := true, kex := true }).sec.spdm.kex = true ∧ up.sec.spdm.mctp = false ∧
    (spdm { mctp := true }).sec.spdm.mctp = true := by decide +kernel

/-- A request ring of 16 entries at host address 0x1000; entry 0 is request 0: `op` on 16 bytes with host key slot 3. -/
def ringed (op len : Nat) (key : Option HKey) (reqs : List Nat) : State :=
  let s := wr32 (wr64 up 0x1C0A0 0x1000) 0x1C0A8 4
  let b := leBytes 4 (op * 2 ^ 28 + 3) ++ leBytes 16 0 ++ leBytes 4 len ++ leBytes 8 0 ++ leBytes 8 (hostBase + 0x2000) ++
    leBytes 8 (hostBase + 0x3000)
  { s with
    mem := { s.mem with phys := Tab.putMany (fun _ => 0) s.mem.phys (hostBase + 0x1000) b }
    sec := { s.sec with host := Tab.put (fun _ => none) [] 3 key, reqs := reqs } }
def answers (s : State) : Bool :=
  s.sec.reqs.contains 0 && s.dev.linkUp && cqBase s != 0 && s.sec.rngOk.get (halfOf ((creqOf s 0).slot / 64))

theorem witness_HostKeysAndCipherRequests_1 : cmdReady .hkey up = true ∧ bits (127 : BitVec 24) 23 7 = 0 ∧ up.dev.ide = true ∧
    slotErasing up 127 = false ∧ slotNamed up 127 = false ∧
    (let s := ringed 1 16 (some ⟨5, 0⟩) [0]
     cmdReady .hkey s = true ∧ slotErasing s 3 = false ∧ slotNamed s 3 = true) ∧
    (let s := up.setSec { up.sec with erase := [eraseOf 3 0] }
     (s.sec.erase.find? fun x => eraseSlot x == 3) = some (eraseOf 3 0) ∧
     (s.sec.reqs.any fun i => before i (eraseBound (eraseOf 3 0)) && (creqOf s i).slot == 3) = false) ∧
    (let s := ringed 1 16 none []
     regsOn s = true ∧ s.err.ka = false ∧ rdyBit s 29 = true ∧ cqBase s ≠ 0 ∧ cqLog2 s = 4 ∧
     ((16 : B32) - s.sec.cqWr).toNat + s.sec.reqs.length = 2 ^ cqLog2 s) := by decide +kernel

theorem witness_HostKeysAndCipherRequests_2 :
    (let bad := ringed 3 16 (some ⟨5, 0⟩) [0]
     let none_ := ringed 1 16 none [0]
     let enc := ringed 1 16 (some ⟨5, 0⟩) [0]
     let dec := ringed 2 16 (some ⟨5, 0⟩) [0]
     answers bad = true ∧ creqBad (creqOf bad 0) = true ∧ answers none_ = true ∧ creqBad (creqOf none_ 0) = false ∧
     slotKeyFor none_ 0 3 = none ∧ (creqOf none_ 0).slot = 3 ∧ answers enc = true ∧ creqBad (creqOf enc 0) = false ∧
     slotKeyFor enc 0 3 = some ⟨5, 0⟩ ∧ (creqOf enc 0).op = 1 ∧
     (let s1 := creqMeet (useMask enc .west 16) (creqOf enc 0)
      cleanBytes s1 (creqOf enc 0).aad 0 = 0 ∧ cleanBytes s1 (hostBase + 0x2000) 16 = 16 ∧ openBytes s1 (hostBase + 0x3000) 16 = 16) ∧
     (let bad := enc.setMem { enc.mem with poison := Tab.put (fun _ => false) [] ((hostBase + 0x3000) / 64) true }
      openBytes (creqMeet (useMask bad .west 16) (creqOf bad 0)) (hostBase + 0x3000) 16 = 0 ∧ answers bad = true ∧
      slotKeyFor bad 0 3 = some ⟨5, 0⟩ ∧ creqBad (creqOf bad 0) = false) ∧
     (creqOf enc 0).aadLen = 0 ∧ (creqOf enc 0).src = hostBase + 0x2000 ∧ (creqOf enc 0).len = 16 ∧
     answers dec = true ∧ creqBad (creqOf dec 0) = false ∧ slotKeyFor dec 0 3 = some ⟨5, 0⟩ ∧ (creqOf dec 0).op = 2) := by
  decide +kernel

/-- Unit 31 over 4 bytes at physical address 0x200000 with an 8-bit polynomial. -/
def chive (cfg : Nat) (x : ChvU) : State :=
  setChv (wr64 (wr32 (wr32 up (chvBase 31) (bv 32 (cfg + 7))) (chvBase 31 + 4) 4) (chvBase 31 + 0x20) 0x200000) 31 x
def reaches (s : State) : Bool :=
  (getChv s 31).busy && !(s.held.any fun c => match c with | .run v _ => v == 31 | _ => false) && !inHost (chvSrc s 31) &&
  chvReach (chvSrc s 31) (chvSpan s 31)

theorem witness_ChiveUnits : 31 < 32 ∧ regsOn (chive 0 {}) = true ∧ (getChv (chive 0 {}) 31).busy = false ∧
    mayLead (chive 0 {}) = true ∧ chvBad (chive 0 {}) 31 = false ∧ regsOn (chive 0 { busy := true }) = true ∧
    (getChv (chive 0 { busy := true }) 31).busy = true ∧
    (let s := chive 0 { busy := true }
     reaches s = true ∧ chvMode s 31 = 0 ∧ poisoned (meetRange s (chvSrc s 31) (chvLen s 31)) (chvSrc s 31) (chvLen s 31) = false) ∧
    (let s := chive (2 ^ 27 + 2 ^ 29) { busy := true, last := 0xFF }
     reaches s = true ∧ chvMode s 31 = 1 ∧
     poisoned (meetRange s (chvSrc s 31) (chvLen s 31)) (chvSrc s 31) (chvLen s 31) = false ∧
     chvAlive (meetRange s (chvSrc s 31) (chvLen s 31)) 31 = true) ∧
    (let s := chive (2 ^ 28) { busy := true }
     reaches s = true ∧ chvMode s 31 = 2 ∧
     poisoned (meetRange s (chvSrc s 31) (chvSpan s 31)) (chvSrc s 31) (chvSpan s 31) = false ∧
     chvAlive (meetRange s (chvSrc s 31) (chvSpan s 31)) 31 = false) := by decide +kernel

/-! ### Resets, the host, power -/

def powered (perst holdOver : Bool) : State := up.setPwr { up.pwr with perst := perst, holdOver := holdOver }

theorem witness_ResetsAndCxlLink : regsOn up = true ∧ bits (bv 32 (0x5253 * 2 ^ 16 + 1)) 31 16 = 0x5253 ∧
    bits (bv 32 (0x5253 * 2 ^ 16 + 1)) 3 0 = 1 ∧ started up = true ∧ up.dev.linkUp = true ∧
    (∀ a ∈ [true, false], ∀ b ∈ [true, false], (powered a b).pwr.on = true ∧ (powered a b).pwr.pwrgd = true ∧
      (powered a b).pwr.perst = a ∧ (powered a b).pwr.holdOver = b) ∧
    (let down := up.setDev { up.dev with linkUp := false }
     let first := up.setDev { up.dev with linkUp := false, rate := 0 }
     down.pwr.on = true ∧ down.pwr.perst = false ∧ down.dev.linkUp = false ∧ down.dev.rate ≠ 0 ∧ first.dev.rate = 0 ∧
     first.dev.linkUp = false ∧ linkFits 1 2 = true ∧ linkFits 2 1 = true) ∧ up.dev.ide = true ∧ live up = true ∧
    (∀ n ∈ [3, 6, 7], (blkOf n).isSome = true) ∧
    (let s := { up.setLink [⟨.readWaiters 0, 0⟩] with time := { up.time with ft := 2 ^ 36 } }
     live s = true ∧ (s.link.any fun x => hostHeld .sync x.c && pastHostTo s x.since) = true) ∧
    (let s := { dmaState with time := { up.time with ft := 2 ^ 36 } }
     live s = true ∧ (s.dma.xfers.find? fun v => v.n == 4) = some dmaOne ∧ pastHostTo s dmaOne.since = true) ∧
    ledState.led.snaps = snap0 :: [] ∧ pastHostTo ledState snap0.since = true ∧ live ledState = true ∧
    up.dma.xfers = [] ∧ up.led.snaps = [] ∧ up.dev.flrWait = none ∧
    (let s := ledState.setLed { ledState.led with base := 0x100000 }
     started s = true ∧ s.dev.linkUp = true ∧ snapIssued s = true ∧ s.led.snaps = snap0 :: []) := by decide +kernel

/-- The first page of context 9 lies in the host window, and an export to it waits. -/
def exporting : State :=
  let s := withCmd sharded { ucmd .exp .wait with arg := 0, since := some 0 }
  let t := setCtx s 9 { getCtx s 9 with hostMem := true }
  { t with mem := { t.mem with phys := [(0, 1), (2, 1), (0x10000, 1), (0x10001, 0x10), (0x10002, 1), (0x11000, 0x3D), (0x11005, 0x80)] }
           time := { t.time with ft := 2 ^ 36 } }

theorem witness_ResetsAndCxlLink_2 : live exporting = true ∧
    (findUCmd exporting 3).map (·.kind) = some .exp ∧ ((findUCmd exporting 3).bind (·.since)).any (pastHostTo exporting) = true ∧
    (findUCmd exporting 3).map (·.arg) = some 0 ∧ (findUCmd exporting 3).map (·.ctx) = some 9 ∧
    hostVa exporting 9 0 4096 .write = true := by decide +kernel

theorem witness_HostAccesses_1 : framesOn up = true ∧ hdmSize - 1 + 1 ≤ hdmSize ∧ 2 ^ 36 - 4 + 4 ≤ 2 ^ 36 ∧ regsOn up = true ∧
    (1424 : B32).toNat ≤ 1424 ∧ ((List.range 16).all fun n => !(bit (0xFFFF : B32) n && bit up.dev.irqStat n)) = true ∧
    (let s := { up with dev := { up.dev with irqStat := 0x8000 }, regs := [(0x300FC, 0)] }
     regsOn s = true ∧ s.dev.linkUp = true ∧ bit (0x8000 : B32) 15 = true ∧ bit s.dev.irqEn 15 = false ∧ bit s.dev.irqStat 15 = true ∧
     vecMasked s 15 = false) := by decide +kernel

theorem witness_HostAccesses_2 : 0x1D028 % 4 = 0 ∧ 0x1D028 < 0x30000 ∧ wideLow 0x1D028 = false ∧ wideLow (0x1D028 - 4) = false ∧
    plain32 0x1D028 95 = some 95 ∧ plain32 0x80 0x10001 = some 1 ∧ wideLow 0x80 = false ∧ wideLow (0x80 - 4) = false ∧
    0x17028 % 8 = 0 ∧ wideLow 0x17028 = true ∧ plain32 0x14064 0xFF = some 0xFF ∧ bit (0xFF : B32) 8 = false ∧
    timeSettable (wr32 (up.setTime { up.time with locked := false }) 0x17020 7) = true ∧
    cmdReg 0x17008 = some (.fabric, true, 3) ∧ (registerCommand 0x17008 0x0600000000000000).isNone = true ∧
    (getBlk (busy .fabric up) .fabric).busy = true := by decide +kernel

theorem witness_ManagementSideband : responds up = true ∧ hasImage up 1 = true ∧ 63 < 64 ∧ (0x5252 : B16) ≠ 0x5253 ∧
    (leadForce (bv 32 (0x4C46 * 2 ^ 16 + 1)) alive).isSome = true ∧ responds alive = true ∧ (sensor up 9).isSome = true ∧
    (sensor up 10).isNone = true := by decide +kernel

theorem witness_InputStage :
    (let off := up.setPwr { up.pwr with on := false, pwrgd := false }
     let tripped := up.setPwr { up.pwr with on := false, ovStop := true }
     off.pwr.on = false ∧ off.pwr.thermTrip = false ∧ off.pwr.ovStop = false ∧ up.pwr.on = true ∧
     (up.setPwr { up.pwr with pwrgd := false }).pwr.pwrgd = false ∧ 6200 < 6201 ∧ 4499 < 4500 ∧ 13000 < 13001 ∧ 1 ≤ 5 ∧ 5 ≤ up.pwr.rails ∧
     (up.setPwr { up.pwr with on := false, pwrgd := false, rails := 1 }).pwr.rails = 1 ∧
     tripTemp 1 = some 115 ∧ tripTemp 4 = some 120 ∧
     tripped.pwr.ovStop = true ∧ 6099 < 6100 ∧ up.pwr.vinLow = false ∧ 4500 ≤ 4999 ∧ 4999 < 5000 ∧
     5000 ≤ 5001 ∧ 5001 ≤ 6200 ∧ (up.setPwr { up.pwr with vinLow := true }).pwr.vinLow = true) := by decide +kernel

theorem witness_PowerManager : regsOn up = true ∧ 2000 ≤ bits (2000 : B32) 12 0 ∧ bits (5200 : B32) 12 0 ≤ 5200 ∧ up.pwr.on = true ∧
    up.time.run = true ∧ up.time.locked = true ∧ live up = true ∧ up.pwr.fast = false ∧ 5800 < 5801 ∧
    (up.setPwr { up.pwr with fast := true }).pwr.fast = true ∧ newCrit up.pwr.temps ⟨60, 60, 60, 60, 60, 60, 60, 40, 50⟩ = [] ∧
    tripped ⟨114, 114, 114, 114, 104, 104, 119, 40, 50⟩ = false ∧ tripped ⟨60, 115, 60, 60, 60, 60, 60, 40, 50⟩ = true ∧
    (40 ≤ 40) ∧ bit up.pwr.sensFault 9 = false ∧ up.pwr.budNext ≤ beat up ∧
    beat up < (up.setPwr { up.pwr with budNext := 11 }).pwr.budNext ∧ up.pwr.thrNext ≤ ns up ∧ up.pwr.sampNext ≤ ns up ∧
    up.pwr.capNext.get .east ≤ ns up ∧ up.pwr.fastEnd ≤ ns up ∧ (getClu lending 0).lending = true ∧
    mayLendNow lender 0 = true := by decide +kernel

/-! ### Rules of the whole block -/

theorem witness_StepRunsFrontCommand : (up.withFront .flr).pending = .flr :: [] := by decide +kernel
theorem witness_StepKeepsInvariant : Inv up = true ∧ Inv sharded = true := by decide +kernel
theorem witness_KeepAliveEndsOnlyByReset : alive.err.ka = true ∧ (match step alive with | .next _ => true | _ => false) = true := by
  decide +kernel
theorem witness_LatchNamesLeader : up.lead.forced = false ∧ leader up = some .west ∧ beat up < up.lead.expiry ∧
    leader { up with time := { up.time with ft := 100 * 2 ^ 20 } } = none ∧
    (up.setLead { up.lead with forced := true }).lead.forced = true ∧
    leader (up.setLead { up.lead with forced := true, expiry := 0 }) = some .west := by decide +kernel

theorem witness_BarrierRounds :
    (let last (next : Nat) (o : SObj) : Bool := delivers (flying 3 2 true o) (fly 3 2 true) o && decide (o.ty = .barrier) &&
       decide (o.round < 65536) && decide ((fly 3 2 true).amount.toNat % 65536 = o.round) && decide (o.count + 1 = o.parts) &&
       decide (o.next = next)
     let full := { bar4 with round := 1, next := 4 }
     last 3 { bar4 with count := 3, next := 3 } = true ∧ 3 ≠ bar4.parts ∧ last 4 { bar4 with count := 3, next := 4 } = true ∧
     delivers (flying 3 2 true full) (fly 3 2 true) full = true ∧ (fly 3 2 true).amount.toNat % 65536 = (full.round + 1) % 65536 ∧
     full.parts ≤ full.next ∧ (flying 3 2 true full).boot.sage.get (objHalf 3) = true ∧
     (flying 3 2 true full).err.ka = false ∧ (flying 3 2 true full).err.frozen = false) := by decide +kernel

theorem witness_VectorLaneValues : issues running sl = true ∧ (vget (slotOf running sl) 2).length = 128 ∧
    (vOperand (slotOf running sl) (fV 0)).length = 128 ∧ (vget (slotOf running sl) 0).length = 128 ∧
    (vget (slotOf running sl) 1).length = 128 ∧ fldVec (useVab (fV 0) true) [0] (fV 0) = true ∧
    fldVec (useVab (fV 3) false) [3] (fV 3) = true ∧ fldVec (useVabc (fV 0)) [0] (fV 0) = true := by decide +kernel

theorem witness_RoundingIsNearest : decode e2m1 15 = .fin ⟨true, 3, 1⟩ ∧ 15 < 2 ^ e2m1.w ∧ (0 : Int) < 1 := by decide +kernel

/-! ### Ill-formed commands are refused -/

theorem test_wf_wellFormed : (Instr.add sl f123).wf = true ∧ (Instr.tableWalk ⟨511, true, 0⟩ 0 .read (.corrected 0 21)).wf = true ∧
    (Instr.sig sl { f123 with form := true, imm32 := 9 }).wf = true ∧ (Instr.doorbell 0 16 0).wf = true := by decide +kernel

theorem test_wf_slot : (Instr.halt ⟨512, false, 0⟩ {}).wf = false := by decide +kernel
theorem test_wf_secondWord : (Instr.add sl { f123 with ext := 1 }).wf = false ∧
    (Instr.li sl { f123 with imm32 := 1 }).wf = false := by decide +kernel
theorem test_wf_upset : (Instr.bind 0 (.scrUe 0x100000)).wf = false ∧ (Instr.ld sl f123 (.scrCe 0x100000)).wf = false := by decide +kernel
theorem test_wf_lineRead : (Instr.patrolRead 0 (.bad (2 ^ 48) 0) 0 false).wf = false ∧
    (Instr.tableWalk sl 0 .fetch (.corrected 0 22)).wf = false := by decide +kernel
theorem test_wf_peer : (Instr.sInit ⟨⟨64, 0⟩, 0, List.replicate 1184 0, 0, []⟩).wf = false ∧ (Instr.sInit ⟨⟨0, 0⟩, 0, [0], 0, []⟩).wf = false ∧ (Instr.join ⟨⟨0, 131072⟩, 0, false⟩).wf = false := by decide +kernel
theorem test_wf_message : (Instr.transportMessage { ver := 16 }).wf = false ∧ (Instr.transportMessage { cls := 4 }).wf = false ∧
    (Instr.transportMessage { typ := 256 }).wf = false ∧ (Instr.transportMessage { seq := 2 ^ 64 }).wf = false ∧
    (Instr.transportMessage { dst := ⟨64, 0⟩ }).wf = false ∧ (Instr.transportMessage { src := ⟨0, 131072⟩ }).wf = false := by decide +kernel
theorem test_wf_frame : (Instr.linkFrame 0 ⟨{ lseq := 2 ^ 20 }, 0, [], []⟩).wf = false ∧ (Instr.linkFrame 0 ⟨{ ack := 2 ^ 20 }, 0, [], []⟩).wf = false ∧
    (Instr.linkFrame 0 ⟨{ kind := 8 }, 0, [], []⟩).wf = false ∧ (Instr.linkFrame 0 ⟨{}, 0, [545], []⟩).wf = false ∧ (Instr.linkFrame 0 ⟨{ flit := List.replicate 257 0 }, 0, [], []⟩).wf = false := by decide +kernel
theorem test_wf_port : (Instr.retrain 8).wf = false ∧ (Instr.relayFlit 8 ⟨0, 0⟩ 0 {}).wf = false := by decide +kernel
theorem test_wf_remoteSignal : (Instr.remoteSignal ⟨⟨64, 0⟩, 0, 0, 0, false, 0, 0⟩).wf = false := by decide +kernel
theorem test_wf_borage :
    (Instr.borageMessage ⟨4096, 0, 0, 0, 0, 0, 0, 0, 0, 0, false, 0, 0, [], 0⟩).wf = false ∧
    (Instr.borageMessage ⟨0, 16384, 0, 0, 0, 0, 0, 0, 0, 0, false, 0, 0, [], 0⟩).wf = false := by decide +kernel
theorem test_wf_blocks : (Instr.fetchData ⟨⟨0, 0⟩, 0, 0, 0, 0, [0], [], false⟩).wf = false ∧
    (Instr.undoData ⟨⟨0, 0⟩, 0, 0, 0, 0, [], [0], true⟩ 0).wf = false := by decide +kernel
theorem test_wf_sites : (Instr.sxReceipt ⟨64, 0, 0, 0, 0, []⟩).wf = false ∧
    (Instr.sxApply ⟨⟨64, 0⟩, ⟨0, 0, 0, 0, 0, false, false, [], 0⟩⟩).wf = false := by decide +kernel
theorem test_wf_units : (Instr.governorDebtCleared (.cluster 512)).wf = false ∧ (Instr.governorDebtCleared (.slice 8)).wf = false ∧
    (Instr.run 32 0).wf = false ∧ (Instr.lendWake 512).wf = false := by decide +kernel
theorem test_wf_objects : (Instr.kernel 1048576).wf = false ∧ (Instr.watchdogExpiry 262144 0).wf = false ∧
    (Instr.groupQuarantineEnd 4096).wf = false ∧ (Instr.frameScrubbed 944960).wf = false ∧
    (Instr.getRecord .west 64).wf = false := by decide +kernel
theorem test_wf_accesses : (Instr.doorbell 0 17 0).wf = false ∧ (Instr.plainRegisterWrite 0 3 0).wf = false ∧
    (Instr.hdmAccess ⟨0, true, [1, 2], 4⟩).wf = false ∧ (Instr.bar2Access ⟨0, false, [1], 1⟩).wf = false := by decide +kernel

/-! ### Instruction words written out (Tables 4-3 to 4-15): FORM CLASS OP RD RA RB RC PRED PEN RND BSRC NF IMM18 -/

theorem test_word_add : decodeIns sl .none 0 0b0_0000_00000000_000001_000010_000011_000000_000_0_00_00_0_000000000000000000 0 =
    some (execAdd sl { rd := 1, ra := 2, rb := 3 }) := rfl
theorem test_word_li : decodeIns sl .none 0 0b1_0000_00001100_000101_000000_000000_000000_000_0_00_00_0_000000000000000000
    0x89ABCDEF_00000000 = some (execLi sl { form := true, rd := 5, imm32 := 0x89ABCDEF }) := rfl
theorem test_word_beq : decodeIns sl .none 0 0b0_0001_00000001_000000_000001_000010_000000_000_0_00_00_0_111111111111111110 0 =
    some (execBeq sl { ra := 1, rb := 2, imm18 := 0x3FFFE }) := rfl
theorem test_word_vfma : decodeIns sl .none 0 0b0_0010_00001101_000001_000010_000011_000100_101_1_10_00_1_000000000000000000 0 =
    some (execVfma sl { ty := 1, rd := 1, ra := 2, rb := 3, rc := 4, pred := 5, pen := true, rnd := 2, nf := true }) := rfl
theorem test_word_vsta : decodeIns sl .none 0 0b0_0011_00000011_000000_000111_011111_000110_000_0_00_00_0_000000000000000000 0 =
    some (execVsta sl { ra := 7, rb := 31, rc := 6 }) := rfl
theorem test_word_mmaS : decodeIns sl .none 9 0b1_0100_00000001_000001_000010_000011_000100_000_0_00_00_0_000000000000000000
    0x00000000_00000003 = some (execMmaS sl ⟨{ form := true, rd := 1, ra := 2, rb := 3, rc := 4, ext := 3 }, 9⟩) := rfl
theorem test_word_dmaGo : decodeIns sl .none 4 0b0_0101_00000000_000000_000001_000000_000000_000_0_00_00_0_000000000000000000 0 =
    some (execDmaGo sl { ra := 1 } 4) := rfl
theorem test_word_sig : decodeIns sl .none 0 0b0_0110_00000000_000000_000010_000000_000000_000_0_00_10_0_000000000000000001 0 =
    some (execSig sl { ra := 2, bsrc := 2, imm18 := 1 }) := rfl
theorem test_word_updOut : decodeIns sl .none 0 0b0_1000_00000011_000000_000001_000000_000000_000_0_00_00_0_000000000000000000 0 =
    some (execUpdOut sl { ra := 1 }) := rfl
theorem test_word_reserved : (decodeIns sl .none 0 0b0_0000_00001110_000000_000000_000000_000000_000_0_00_00_0_000000000000000000 0).isNone ∧
    (decodeIns sl .none 0 0b0_1001_00000000_000000_000000_000000_000000_000_0_00_00_0_000000000000000000 0).isNone ∧
    (decodeIns sl .none 0 0b0_0010_01110000_000000_000000_000000_000000_000_0_00_00_0_000000000000000000 0).isNone := by decide +kernel
/-- Words written to command registers: UPD_CMD with OP ROLLBACK, CTX_CMD with OP READ of context 9, a reserved OP of
QUE_CMD, RUN of Chive unit 31. -/
theorem test_word_registers : registerCommand 0x15000 0x0300000000000000 = some (.rollback 0) ∧
    registerCommand 0x11000 0x0700000000000009 = some (.ctxRead 9) ∧ registerCommand 0x12000 0x0600000000000000 = none ∧
    registerCommand 0x1CBF0 0x01000000 = some (.run 31 0) := by decide +kernel

/-- LED_BASE written low half first, and a reserved OP of FAB_CMD. -/
theorem test_halves : (∃ t u v, exec (.plainRegisterWrite 0x13008 4 0x300000) up = .next t ∧ exec (.plainRegisterWrite 0x1300C 4 1) t = .next u ∧
    u.led.base = 0x100300000 ∧ exec (.plainRegisterWrite 0x17008 8 0x0600000000000000) up = .next v ∧
    (getBlk v .fabric).result = 3) := ⟨_, _, _, rfl, rfl, by decide +kernel, rfl, by decide +kernel⟩

/-! ### The spec's worked examples -/

/-- Conversions to bfloat16: the first example of 02_numbers, Table 2-12's section. -/
theorem test_bfloat16_example :
    [(0x3F808000, Rnd.rne), (0x3F818000, .rne), (0x3F805000, .sr 16 0x3A7C), (0x3F805000, .sr 16 0xC001),
     (0x3F8050FF, .sr 8 0x4F), (0x3F8050FF, .sr 8 0x50)].map (fun x => (cvtPlain bf16 true x.2 (decode f32 x.1)).1) =
    [0x3F80, 0x3F82, 0x3F81, 0x3F80, 0x3F81, 0x3F80] := by decide +kernel

/-- Plain E4M3 targets in SERVICE and STARTUP mode: the second example. -/
theorem test_e4m3_example :
    [(460, Rnd.rne), (470, .rne), (460, .sr 16 0), (-500, .rne)].map (fun x : Int × Rnd =>
      let v := FVal.fin ⟨decide (x.1 < 0), x.1.natAbs, 0⟩
      ((cvtPlain e4m3 true x.2 v).1, (cvtPlain e4m3 false x.2 v).1, (cvtPlain e4m3 true x.2 v).2.ovf)) =
    [(0x7E, 0x7E, 0), (0x7F, 0x7E, 1), (0x7F, 0x7E, 1), (0x7F, 0xFE, 1)] := by decide +kernel

/-- The row of the E2M1X example: elements 0 to 7 and 17 are the example's; five elements of 0.60 make it the ninth. -/
def rowX : List Nat :=
  [0x3E99999A, 0xBF400000, 0x3CA3D70A, 0x42200000, 0x3F333333, 0x80000000, 0x3E400000, 0xBEE00000,
   0x3F19999A, 0x3F19999A, 0x3F19999A, 0x3F19999A, 0x3F19999A] ++ List.replicate 4 0 ++ [0xC1580000] ++ List.replicate 14 0
theorem test_e2m1x_example :
    (let o := encodeBlock 8 true 2 (rowX.map fun x => (decode f32 x, Rnd.rne))
     o.scale = 0x7C ∧ o.codes.take 8 = [4, 15, 0, 8, 7, 0, 3, 14] ∧ o.codes.getD 17 0 = 8 ∧ o.side = [0x4220, 0xC158] ∧
       o.ctr.esc = 2 ∧ (packX o).take 4 = [0xF4, 0x80, 0x07, 0xE3] ∧ ((packX o).drop 16).take 4 = [0x20, 0x42, 0x58, 0xC1]) := by decide +kernel

/-- Chunk 2 of a ring of four is ((x3 + x0) + x1) + x2: the example of 09_collectives sums to 0. -/
theorem test_chunkSum_example : seqSum [0x4B800000, 0x3F800000, 0x3F800000, 0xCB800000] = 0 ∧
    seqSum [0x4B800000, 0xCB800000, 0x3F800000, 0x3F800000] = 0x40000000 := by decide +kernel

/-- One AdamW element at its first step: the example of 08_training_update, with nearest-even rounding. -/
def adamPar : Par :=
  { h := { parseHdr (List.replicate 256 0) with
           rule := 3, b1 := 0x3F600000, c1 := 0x3E000000, b2 := 0x3F7F0000, c2 := 0x3B800000, eps := 0x35800000, wd := 0x3C000000,
           rows := 1, cols := 1 }
    seed := 0, step := 0, svc := true, q := 0x3F800000, eta := 0x3A800000, bc1 := 0x41000000, bc2 := 0x43800000 }
theorem test_adamw_example :
    (phaseAState adamPar [0x3F00] [0] [0] []).1 = [0x3D80] ∧ (phaseAState adamPar [0x3F00] [0] [0] []).2.1 = [0x3A80] ∧
    (phaseBD adamPar 0x3F00 0x3D80 0x3A80).1 = 0x3F7FFFE0 ∧ (phaseBW adamPar [0x3F80] [0x3F00] [0x3D80] [0x3A80]).1 = [0x3F80] ∧
    cvtPlain bf16 true (.sr 16 0xD214) (decode f32 0x3F7FBF80) = (0x3F7F, {}) := by decide +kernel

/-- The votes of the loss scale example of 08_training_update. -/
theorem test_lossScale_example :
    (let h : Hdr := { parseHdr (List.replicate 256 0) with lsDyn := true, lsGrow := 1000, lsMin := 0, lsMax := 24 }
     lsNext { h with lsExp := 15, lsGood := 998 } .commit = (15, 999, false) ∧
     lsNext { h with lsExp := 15, lsGood := 999 } .commit = (16, 0, false) ∧
     lsNext { h with lsExp := 16, lsGood := 0 } .skip = (15, 0, false) ∧
     lsNext { h with lsExp := 15, lsGood := 0 } .commit = (15, 1, false)) := by decide +kernel

/-- Table 7-4, column by column. -/
def bar7 : SObj := { bar4 with round := 7 }
def arriveAll (o : SObj) : List Nat → SObj
  | [] => o
  | q :: qs => arriveAll ((arrive o q).getD o) qs
def counts (o : SObj) : Nat × Nat × Nat := (o.round, o.count, o.next)
theorem test_barrier_example :
    counts (arriveAll bar7 [7, 7, 7]) = (7, 3, 0) ∧ counts (arriveAll bar7 [7, 7, 7, 8, 8]) = (7, 3, 2) ∧
    arrive (arriveAll bar7 [7, 7, 7, 8, 8]) 9 = none ∧ counts (arriveAll bar7 [7, 7, 7, 8, 8, 7]) = (8, 2, 0) ∧
    counts (arriveAll bar7 [7, 7, 7, 8, 8, 7, 8, 8]) = (9, 0, 0) := by decide +kernel

/-! ### Single steps -/

/-- What a slot's scalar register 1 holds after an instruction with S2 = a and S3 = b. -/
def s1After (i : Instr) (a b : B64) : Option B64 :=
  let s := updSlot running 0 false fun x => sset (sset x 2 a) 3 b
  match step { s with pending := [i] } with
  | .next t => some (sget (getSlot t 0 false) 1)
  | _ => none
/-- R125: addition wraps. -/
theorem test_add_wraps : s1After (.add sl f123) 0xFFFFFFFFFFFFFFFF 2 = some 1 := by decide +kernel
/-- R125: MULH is the high half of the signed product. -/
theorem test_mulh_signed : s1After (.mulh sl f123) 0xFFFFFFFFFFFFFFFF 2 = some 0xFFFFFFFFFFFFFFFF := by decide +kernel
/-- R125: a shift uses the amount mod 64. -/
theorem test_sar_amount : s1After (.sar sl f123) 0x8000000000000000 65 = some 0xC000000000000000 := by decide +kernel
/-- R125: SLT compares signed, SLTU unsigned. -/
theorem test_slt_signed : s1After (.slt sl f123) 0xFFFFFFFFFFFFFFFF 0 = some 1 ∧
    s1After (.sltu sl f123) 0xFFFFFFFFFFFFFFFF 0 = some 0 := by decide +kernel

end Sys2Proof.Tests
end

section
/-!
SUPPORT. Rounding (R50 to R52, R74): the finite codes of the layouts of Table 2-3, exact rounding, and which
multiple each direction chooses.
-/

namespace Sys2Proof.Machine

/-! ### The multiple a rounding chooses -/

/-- A value whose exponent is at or above the quantum is a multiple of it: no direction changes it. -/
theorem roundMag_of_le {e q : Int} (h : q ≤ e) (rm : Rnd) (neg : Bool) (m : Nat) :
    roundMag rm neg m e q = (m <<< (e - q).toNat, false) := if_pos h

theorem roundMag_self (rm : Rnd) (neg : Bool) (m : Nat) (e : Int) : roundMag rm neg m e e = (m, false) := by
  simp [roundMag_of_le]

/-- Rounding down mirrors rounding up through zero. -/
theorem roundMag_rdn_eq_rup_not (neg : Bool) (m : Nat) (e q : Int) :
    roundMag .rdn neg m e q = roundMag .rup (!neg) m e q := by
  cases neg <;> rfl

/-- The quotient rounded to nearest, the even one of two: at most half a divisor away. -/
theorem nearestEvenQuotient (m : Nat) {u : Nat} (hu : 0 < u) :
    let k := if u < 2 * (m % u) ∨ 2 * (m % u) = u ∧ m / u % 2 = 1 then m / u + 1 else m / u
    2 * m ≤ 2 * (k * u) + u ∧ 2 * (k * u) ≤ 2 * m + u ∧
      (2 * m = 2 * (k * u) + u ∨ 2 * (k * u) = 2 * m + u → k % 2 = 0) := by
  have hm := Nat.div_add_mod' m u
  have hr : m % u < u := Nat.mod_lt _ hu
  have hs : (m / u + 1) * u = m / u * u + u := Nat.succ_mul _ _
  split <;> omega

/-- The quotient rounded up: at or above the value, less than one divisor away. -/
theorem ceilQuotient_above (m : Nat) {u : Nat} (hu : 0 < u) :
    let k := if m % u ≠ 0 then m / u + 1 else m / u
    m ≤ k * u ∧ k * u < m + u := by
  have hm := Nat.div_add_mod' m u
  have hr : m % u < u := Nat.mod_lt _ hu
  have hs : (m / u + 1) * u = m / u * u + u := Nat.succ_mul _ _
  split <;> omega

section Directions

variable {e q : Int} (h : e < q) (neg : Bool) (m : Nat)
include h

theorem roundMag_rne_fst : (roundMag .rne neg m e q).1 =
    if 2 ^ (q - e).toNat < 2 * (m % 2 ^ (q - e).toNat) ∨
        2 * (m % 2 ^ (q - e).toNat) = 2 ^ (q - e).toNat ∧ m / 2 ^ (q - e).toNat % 2 = 1
    then m / 2 ^ (q - e).toNat + 1 else m / 2 ^ (q - e).toNat := by
  simp [roundMag, not_le.2 h, Nat.shiftRight_eq_div_pow]

theorem roundMag_rtz_fst : (roundMag .rtz neg m e q).1 = m / 2 ^ (q - e).toNat := by
  simp [roundMag, not_le.2 h, Nat.shiftRight_eq_div_pow]

theorem roundMag_rup_fst : (roundMag .rup neg m e q).1 =
    if neg = false ∧ m % 2 ^ (q - e).toNat ≠ 0 then m / 2 ^ (q - e).toNat + 1 else m / 2 ^ (q - e).toNat := by
  simp [roundMag, not_le.2 h, Nat.shiftRight_eq_div_pow]

/-- R74: the multiple that nearest even chooses is at most half a quantum away, and even when it is exactly half. -/
theorem roundMag_rne_nearest :
    let u := 2 ^ (q - e).toNat
    let k := (roundMag .rne neg m e q).1
    2 * m ≤ 2 * (k * u) + u ∧ 2 * (k * u) ≤ 2 * m + u ∧
      (2 * m = 2 * (k * u) + u ∨ 2 * (k * u) = 2 * m + u → k % 2 = 0) := by
  rw [roundMag_rne_fst h]
  exact nearestEvenQuotient m (Nat.two_pow_pos _)

theorem roundMag_rtz_below :
    let u := 2 ^ (q - e).toNat
    let k := (roundMag .rtz neg m e q).1
    k * u ≤ m ∧ m < k * u + u := by
  rw [roundMag_rtz_fst h]
  exact ⟨Nat.div_mul_le_self _ _, Nat.lt_div_mul_add (Nat.two_pow_pos _)⟩

theorem roundMag_rup_above :
    let u := 2 ^ (q - e).toNat
    let k := (roundMag .rup false m e q).1
    m ≤ k * u ∧ k * u < m + u := by
  simpa [roundMag_rup_fst h] using ceilQuotient_above m (Nat.two_pow_pos (q - e).toNat)

/-- A directed mode that points towards zero is truncation. -/
theorem roundMag_rup_of_neg : (roundMag .rup true m e q).1 = (roundMag .rtz neg m e q).1 := by
  simp [roundMag_rup_fst h, roundMag_rtz_fst h]

end Directions

/-! ### The layouts of Table 2-3 -/

/-- The floating layouts of Table 2-3. -/
def layouts : List Fmt := [f32, f16, bf16, e4m3, e5m2, e3m2, e2m3, e2m1]

/-- The largest finite magnitude (Table 2-4), read off its code as a normal value. -/
def Fmt.maxDy (f : Fmt) : Dy :=
  ⟨false, 2 ^ f.m + f.maxCode % 2 ^ f.m, ((f.maxCode / 2 ^ f.m : Nat) : Int) - f.bias - f.m⟩

/-- What the code arithmetic needs of a layout: a sign, an exponent and a mantissa fill the word, and the code of the
largest magnitude is a finite normal value. -/
structure Fmt.Proper (f : Fmt) : Prop where
  width : f.m + f.eBits + 1 = f.w
  normal : 2 ^ f.m ≤ f.maxCode
  decode_max : decode f f.maxCode = .fin f.maxDy

theorem proper_of_mem_layouts : ∀ f ∈ layouts, f.Proper := by
  simp only [layouts, List.forall_mem_cons]
  refine ⟨?_, ?_, ?_, ?_, ?_, ?_, ?_, ?_, by simp⟩ <;> exact ⟨by decide, by decide, by decide⟩

/-- The bits below the sign, as a number. -/
def Fmt.magnitude (f : Fmt) (x : Nat) : Nat := f.expo x * 2 ^ f.m + f.mant x

theorem Fmt.mant_lt (f : Fmt) (x : Nat) : f.mant x < 2 ^ f.m := Nat.mod_lt _ (Nat.two_pow_pos _)

theorem Fmt.expo_le_eMax (f : Fmt) (x : Nat) : f.expo x ≤ f.eMax :=
  Nat.le_sub_one_of_lt (Nat.mod_lt _ (Nat.two_pow_pos _))

theorem Fmt.Proper.magnitude_eq_mod {f : Fmt} (hf : f.Proper) (x : Nat) : f.magnitude x = x % 2 ^ (f.w - 1) := by
  have hw : f.w - 1 = f.m + f.eBits := by have := hf.width; omega
  rw [hw, Nat.pow_add, Nat.mod_mul, magnitude, expo, mant, Nat.shiftRight_eq_div_pow]
  ring

theorem Fmt.Proper.sign_add_magnitude {f : Fmt} (hf : f.Proper) {x : Nat} (hx : x < 2 ^ f.w) :
    f.zeroCode (f.signBit x) + f.magnitude x = x := by
  have hw : f.w = f.w - 1 + 1 := by have := hf.width; omega
  have hs : b2n (f.signBit x) = x / 2 ^ (f.w - 1) := by
    have hq : x / 2 ^ (f.w - 1) < 2 := by
      rw [hw, Nat.pow_succ] at hx
      exact Nat.div_lt_of_lt_mul hx
    rw [signBit, Nat.testBit_eq_decide_div_mod_eq, Nat.mod_eq_of_lt hq]
    obtain h0 | h1 : x / 2 ^ (f.w - 1) = 0 ∨ x / 2 ^ (f.w - 1) = 1 := by
      generalize x / 2 ^ (f.w - 1) = n at hq
      omega
    · simp [b2n, h0]
    · simp [b2n, h1]
  rw [hf.magnitude_eq_mod, zeroCode, hs]
  exact Nat.div_add_mod' x _

/-! ### Finite codes -/

/-- R50, R51: a finite code is a zero or subnormal value, or a normal one. -/
theorem decode_fin_cases {f : Fmt} {x : Nat} {d : Dy} (h : decode f x = .fin d) :
    f.expo x = 0 ∧ d = ⟨f.signBit x, f.mant x, f.emin - f.m⟩ ∨
    f.expo x ≠ 0 ∧ d = ⟨f.signBit x, 2 ^ f.m + f.mant x, (f.expo x : Int) - f.bias - f.m⟩ := by
  simp only [decode] at h
  split_ifs at h with _ _ _ h0
  · exact .inl ⟨h0, (FVal.fin.inj h).symm⟩
  · exact .inr ⟨h0, (FVal.fin.inj h).symm⟩

/-- R51: no finite code is one of the special codes of Table 2-5. -/
theorem not_special_of_decode_fin {f : Fmt} {x : Nat} {d : Dy} (h : decode f x = .fin d) :
    ¬ (f.special = 0 ∧ f.expo x = f.eMax) ∧
    ¬ (f.special = 1 ∧ f.expo x = f.eMax ∧ f.mant x = 2 ^ f.m - 1) := by
  simp only [decode] at h
  split_ifs at h
  all_goals exact ⟨‹_›, ‹_›⟩

/-- Table 2-4: no finite code is above that of the largest finite magnitude. -/
theorem magnitude_le_maxCode {f : Fmt} {x : Nat} {d : Dy} (h : decode f x = .fin d) :
    f.magnitude x ≤ f.maxCode := by
  obtain ⟨hinf, hnan⟩ := not_special_of_decode_fin h
  have hm := f.mant_lt x
  unfold Fmt.magnitude Fmt.maxCode
  obtain hlt | heq := (f.expo_le_eMax x).lt_or_eq
  · have hle : f.expo x * 2 ^ f.m ≤ (f.eMax - 1) * 2 ^ f.m := Nat.mul_le_mul_right _ (by omega)
    have htop : f.eMax * 2 ^ f.m = (f.eMax - 1) * 2 ^ f.m + 2 ^ f.m := by
      rw [← Nat.succ_mul, Nat.succ_eq_add_one, Nat.sub_add_cancel (by omega)]
    split_ifs <;> omega
  · rw [heq] at hinf hnan ⊢
    split_ifs <;> omega

/-! ### Rounding a finite code's value -/

/-- A value in the layout's own form: a number of units of a quantum of the layout that fits the significand, and no
fewer than a normal value has unless the quantum is the smallest. -/
structure Dy.Canonical (f : Fmt) (d : Dy) : Prop where
  lt : d.m < 2 ^ (f.m + 1)
  emin_le : f.emin - f.m ≤ d.e
  normal_or : 2 ^ f.m ≤ d.m ∨ d.e = f.emin - f.m

theorem canonical_of_decode {f : Fmt} {x : Nat} {d : Dy} (h : decode f x = .fin d) : d.Canonical f := by
  have hm := f.mant_lt x
  have hp : 2 ^ (f.m + 1) = 2 ^ f.m + 2 ^ f.m := by rw [Nat.pow_succ, Nat.mul_two]
  obtain ⟨-, rfl⟩ | ⟨hn, rfl⟩ := decode_fin_cases h
  · exact ⟨by simp only; omega, le_rfl, .inr rfl⟩
  · exact ⟨by simp only; omega, by simp only [Fmt.emin]; omega, .inl (Nat.le_add_right _ _)⟩

theorem log2_le_of_canonical {f : Fmt} {d : Dy} (hc : d.Canonical f) (h0 : d.m ≠ 0) : Nat.log2 d.m ≤ f.m :=
  Nat.lt_succ_iff.1 ((Nat.log2_lt h0).2 hc.lt)

theorem quantum_of_canonical {f : Fmt} {d : Dy} (hc : d.Canonical f) (h0 : d.m ≠ 0) :
    quantum f d.m d.e = d.e := by
  have hl := log2_le_of_canonical hc h0
  have he := hc.emin_le
  obtain hn | hs := hc.normal_or
  · have := (Nat.le_log2 h0).2 hn
    simp only [quantum, topExp]
    omega
  · simp only [quantum, topExp]
    omega

/-- Packing undoes decoding (R50). -/
theorem packCode_decode {f : Fmt} (hf : f.Proper) {x : Nat} {d : Dy} (hx : x < 2 ^ f.w) (h : decode f x = .fin d) :
    packCode f d.neg d.m d.e = x := by
  have hlt : d.m ≠ 2 ^ (f.m + 1) := (canonical_of_decode h).lt.ne
  have hsum := hf.sign_add_magnitude hx
  have hm := f.mant_lt x
  rw [← hsum]
  obtain ⟨he, rfl⟩ | ⟨he, rfl⟩ := decode_fin_cases h
  · simp [packCode, hlt, hm, Fmt.magnitude, he, Fmt.zeroCode]
  · simp [packCode, hlt, Fmt.magnitude, Fmt.zeroCode, Nat.add_assoc]

/-- A multiple of a quantum at or below the code's own does not exceed it when it is at most the code's value. -/
theorem exceeds_eq_false {f : Fmt} {code k : Nat} {q : Int} {t : Dy} (ht : decode f code = .fin t) (hq : q ≤ t.e)
    (hk : k ≤ t.m * 2 ^ (t.e - q).toNat) : exceeds k q f code = false := by
  simpa [exceeds, ht, min_eq_left hq, Nat.shiftLeft_eq] using hk

theorem expo_le_of_decode_fin {f : Fmt} {x : Nat} {d : Dy} (h : decode f x = .fin d) :
    f.expo x ≤ f.maxCode / 2 ^ f.m :=
  (Nat.le_div_iff_mul_le (Nat.two_pow_pos _)).2 ((Nat.le_add_right _ _).trans (magnitude_le_maxCode h))

theorem exponent_le_max {f : Fmt} (hf : f.Proper) {x : Nat} {d : Dy} (h : decode f x = .fin d) :
    d.e ≤ f.maxDy.e := by
  have hE := expo_le_of_decode_fin h
  have hT : 1 ≤ f.maxCode / 2 ^ f.m := Nat.div_pos hf.normal (Nat.two_pow_pos _)
  obtain ⟨-, rfl⟩ | ⟨-, rfl⟩ := decode_fin_cases h <;> simp only [Fmt.maxDy, Fmt.emin] <;> omega

/-- Codes are ordered as the magnitudes they stand for: no finite one exceeds the largest. -/
theorem value_le_max {f : Fmt} {x : Nat} {d : Dy} (h : decode f x = .fin d) :
    d.m ≤ f.maxDy.m * 2 ^ (f.maxDy.e - d.e).toNat := by
  have hm := f.mant_lt x
  have htop : 2 ^ f.m ≤ f.maxDy.m := Nat.le_add_right _ _
  obtain ⟨-, rfl⟩ | ⟨-, rfl⟩ := decode_fin_cases h
  · calc f.mant x ≤ f.maxDy.m := hm.le.trans htop
      _ ≤ _ := Nat.le_mul_of_pos_right _ (Nat.two_pow_pos _)
  · obtain hlt | heq := (expo_le_of_decode_fin h).lt_or_eq
    · have hpow : 2 ^ 1 ≤ 2 ^ (f.maxDy.e - ((f.expo x : Int) - f.bias - f.m)).toNat :=
        Nat.pow_le_pow_right two_pos (by simp only [Fmt.maxDy]; omega)
      calc 2 ^ f.m + f.mant x ≤ f.maxDy.m * 2 ^ 1 := by omega
        _ ≤ _ := Nat.mul_le_mul_left _ hpow
    · have hmag := magnitude_le_maxCode h
      have hmax := Nat.div_add_mod' f.maxCode (2 ^ f.m)
      rw [Fmt.magnitude, heq] at hmag
      simp only [Fmt.maxDy, heq, sub_self, Int.toNat_zero, pow_zero, mul_one]
      omega

theorem topExp_sub_le {f : Fmt} {d : Dy} (hc : d.Canonical f) (h0 : d.m ≠ 0) : topExp d.m d.e - f.m ≤ d.e := by
  have := log2_le_of_canonical hc h0
  simp only [topExp]
  omega

/-- The overflow test passes every finite code, on whatever finer quantum its value is written. -/
theorem exceeds_decode_eq_false {f : Fmt} (hf : f.Proper) {x : Nat} {d : Dy} (h : decode f x = .fin d) {q : Int}
    (hq : q ≤ d.e) : exceeds (d.m <<< (d.e - q).toNat) q f f.maxCode = false := by
  have he := exponent_le_max hf h
  have hsum : (f.maxDy.e - q).toNat = (f.maxDy.e - d.e).toNat + (d.e - q).toNat := by omega
  refine exceeds_eq_false hf.decode_max (hq.trans he) ?_
  rw [Nat.shiftLeft_eq, hsum, Nat.pow_add, ← Nat.mul_assoc]
  exact Nat.mul_le_mul_right _ (value_le_max h)

theorem roundIeee_decode {f : Fmt} (hf : f.Proper) {x : Nat} {d : Dy} (hx : x < 2 ^ f.w) (h : decode f x = .fin d)
    (h0 : d.m ≠ 0) (rm : Rnd) : roundIeee f rm d.neg d.m d.e = (x, 0) := by
  have hc := canonical_of_decode h
  have hq := topExp_sub_le hc h0
  simp [roundIeee, roundMag_of_le hq, exceeds_decode_eq_false hf h hq, quantum_of_canonical hc h0, roundMag_self,
    packCode_decode hf hx h]

/-- A zero keeps its sign (R50): the code with no exponent and no mantissa. -/
theorem zeroCode_decode {f : Fmt} (hf : f.Proper) {x : Nat} {d : Dy} (hx : x < 2 ^ f.w) (h : decode f x = .fin d)
    (h0 : d.m = 0) : f.zeroCode d.neg = x := by
  have hsum := hf.sign_add_magnitude hx
  obtain ⟨he, rfl⟩ | ⟨-, rfl⟩ := decode_fin_cases h
  · rwa [Fmt.magnitude, he, show f.mant x = 0 from h0, Nat.zero_mul] at hsum
  · exact absurd (Nat.eq_zero_of_add_eq_zero_right h0) (Nat.two_pow_pos _).ne'

theorem roundDy_decode {f : Fmt} (hf : f.Proper) {x : Nat} {d : Dy} (hx : x < 2 ^ f.w) (h : decode f x = .fin d)
    (rm : Rnd) : roundDy f rm d = (x, 0) := by
  unfold roundDy
  split
  case isTrue h0 => rw [zeroCode_decode hf hx h h0]
  case isFalse h0 => exact roundIeee_decode hf hx h h0 rm

/-- Settles O60: a finite code is already in its layout's form, so every rounding of it is exact; and the multiple of
the quantum is the quotient, rounded as the direction says. -/
theorem roundingIsNearest : Obligations.RoundingIsNearest := by
  refine ⟨fun f hf rm x d hx h => roundDy_decode (proper_of_mem_layouts f hf) hx h rm, fun neg m e q h => ?_⟩
  obtain ⟨hle, hlt⟩ := roundMag_rup_above h m
  have hzero := roundMag_rup_of_neg h neg m
  refine ⟨roundMag_rne_nearest h neg m, roundMag_rtz_below h neg m, ?_, ?_⟩
  · rintro rfl
    simp only [roundMag_rdn_eq_rup_not, Bool.not_false]
    exact ⟨hle, hlt, hzero⟩
  · rintro rfl
    simp only [roundMag_rdn_eq_rup_not, Bool.not_true]
    exact ⟨hle, hlt, hzero⟩

end Sys2Proof.Machine
end

section
/-!
SUPPORT. MMA.R, MMA.S and their passes (R86, R96, R98, R134): what a slot holds once its instruction has moved on, the
reads of an instruction that nothing stops, what each product asks for and leaves, and which passes run.
-/

namespace Sys2Proof.Machine

/-! ### A slot whose instruction has moved on -/

/-- A governor's charge leaves every slot as it is. -/
theorem charge_slot (s : State) (g : Gov) (w : Nat) : (charge s g w).slot = s.slot := by
  have hd : ∀ d, (setDebt s g d).slot = s.slot := fun d => by cases g <;> rfl
  unfold charge
  split
  · rfl
  · dsimp only
    split
    · exact hd _
    · exact hd _

@[simp] theorem getSlot_waited (sl : Slot) (w : Nat) (s : State) (cl : Nat) (fil : Bool) :
    getSlot (waited sl w s) cl fil = getSlot s cl fil := by
  unfold waited
  split
  · rfl
  · rw [getSlot, charge_slot, getSlot]

/-- A slot written and charged reads back. -/
@[simp] theorem slotOf_waited_setSlot (s : State) (sl : Slot) (w : Nat) (y : SlotSt) :
    slotOf (waited sl w (setSlot s sl.cl sl.fil y)) sl = y := by
  simp [slotOf]

/-- Moving on sets the PC alone of the slot's registers and state. -/
theorem slotOf_movedOn (s t : State) (sl : Slot) (f : Fld) :
    slotOf (movedOn s t sl f) sl = { slotOf t sl with pc := ((slotOf s sl).pc + insLen f) % 2 ^ 52 } := by
  simp [slotOf, movedOn, goOn, setPc]

theorem issue_of_done {sl : Slot} {cls : Nat} {f : Fld} {s t : State} {body : State → Eff} (h : issues s sl = true)
    (hb : body s = .done t) : issue sl cls f s body = .next (movedOn s t sl f) := by
  rw [issue_eq h, hb]
  rfl

theorem issue_of_hold {sl : Slot} {cls : Nat} {f : Fld} {s t : State} {body : State → Eff} (h : issues s sl = true)
    (hb : body s = .hold t) : issue sl cls f s body = .next t := by
  rw [issue_eq h, hb]

/-! ### Reads that nothing stops -/

/-- Clean ranges hold no poison, and reading their words changes nothing. -/
theorem meetWords_of_rangesClean {sl : Slot} {rs : List (Nat × Nat)} {s : State} (h : rangesClean s sl rs = true) :
    rangeBad s sl.cl sl.fil rs = none ∧
      meetWords s sl.cl sl.fil (rangeWords s sl.cl sl.fil rs) = (s, false) := by
  have hbad : rangeBad s sl.cl sl.fil rs = none := by
    simp only [rangesClean, Bool.and_eq_true, Option.isNone_iff_eq_none] at h
    exact h.1
  have hread := readRanges_clean .done h
  rw [readRanges, hbad] at hread
  refine ⟨hbad, ?_⟩
  revert hread
  obtain ⟨t, stop⟩ := meetWords s sl.cl sl.fil (rangeWords s sl.cl sl.fil rs)
  cases stop <;> simp

theorem readAcc_of_accClean {sl : Slot} {p : Nat → Bool} {s : State} (k : State → Eff)
    (h : accClean (slotOf s sl) p = true) : readAcc sl p s k = k s := if_pos h

/-- A record that is aligned and can be written through the context lets the effect stand. -/
theorem withStat_of_ok {s : State} {sl : Slot} {va pa : Nat} (e : Eff) (ha : va % 64 = 0)
    (hx : xlate s (some (sl.cl, sl.fil)) (slotCtx s sl.cl sl.fil) va .write = .ok pa) : withStat s sl va e = e := by
  simp [withStat, ha, hx]

/-! ### MMA.R -/

theorem tileMode_setModes {x : SlotSt} {a n mode i : Nat} (h : i < n) :
    tileMode (setModes x a n mode) (a + i) = mode := by
  rw [tileMode, setModes, Tab.get_putMany_in _ _ _ _ _ (by simpa using h), List.getElem_replicate]

/-- The passes of a resident product of `np` passes, in the order of their accumulator tiles (R96). -/
def mmaRPasses (x : SlotSt) (f : Fld) (np : Nat) : List Pass :=
  (List.range np).map fun i =>
    { k := x.nextPass + i, ins := x.nextPass, stream := false, f := f, pi := i
      desc := [tget x f.ra.toNat, tget x f.rb.toNat], ocb := [], sexp := 0, tile := f.rd.toNat + i
      step := x.stepNo.toNat, pc := x.pc }

/-- The slot once MMA.R has issued: INIT puts the tiles in the mode of the product, the passes stand behind the others. -/
def mmaRSlot (x : SlotSt) (f : Fld) (np : Nat) : SlotSt :=
  addPasses (if bit f.imm18 0 then setModes x f.rd.toNat np (b2n (bit f.imm18 1)) else x) (mmaRPasses x f np)

theorem mmaRSlot_passes_length (x : SlotSt) (f : Fld) (np : Nat) :
    (mmaRSlot x f np).passes.length = x.passes.length + np := by
  unfold mmaRSlot
  split <;> simp [addPasses, setModes, mmaRPasses]

theorem mmaRSlot_nextPass (x : SlotSt) (f : Fld) (np : Nat) : (mmaRSlot x f np).nextPass = x.nextPass + np := by
  unfold mmaRSlot
  split <;> simp [addPasses, setModes, mmaRPasses]

theorem tileMode_mmaRSlot {x : SlotSt} {f : Fld} {np i : Nat} (hinit : bit f.imm18 0 = true) (hi : i < np) :
    tileMode (mmaRSlot x f np) (f.rd.toNat + i) = b2n (bit f.imm18 1) := by
  rw [mmaRSlot, if_pos hinit]
  exact tileMode_setModes hi

/-- What MMA.R asks of its fields, of its operand tiles in a part of `size` bytes, and of the accumulator tiles of its
M by N product (R87, R95, R96). -/
structure MmaRFits (x : SlotSt) (size : Nat) (f : Fld) (m n : Nat) : Prop where
  fields : badFld { rd := 8, ra := 16, rb := 16, imm := true } f = false
  imm_lt : f.imm18.toNat < 4
  product : ∃ k, mmaExtents (parseTile (tget x f.ra.toNat)) (parseTile (tget x f.rb.toNat)) (bit f.imm18 1) size =
    (m, n, k, false)
  room : f.rd.toNat + passCount m n ≤ 8
  mode : bit f.imm18 0 = true ∨ ∀ i < passCount m n, tileMode x (f.rd.toNat + i) = b2n (bit f.imm18 1)

theorem MmaRFits.checks {x : SlotSt} {size m n : Nat} {f : Fld} (hfit : MmaRFits x size f m n) :
    (badFld { rd := 8, ra := 16, rb := 16, imm := true } f || decide (4 ≤ f.imm18.toNat) || false ||
      decide (8 < f.rd.toNat + passCount m n) || (!bit f.imm18 0 && (List.range (passCount m n)).any fun i =>
        tileMode x (f.rd.toNat + i) != b2n (bit f.imm18 1))) = false := by
  obtain ⟨hf, hi, -, hn, hinit | hmode⟩ := hfit
  · simp [hf, hi, hn, hinit]
  · simpa [hf, hi, hn] using fun _ => hmode

/-- MMA.R puts its passes behind the slot's others and moves on (R96, R98). -/
theorem execMmaR_issues {s : State} {sl : Slot} {f : Fld} {m n : Nat} (w : Nat) (h : issues s sl = true)
    (hfit : MmaRFits (slotOf s sl) (slotPart s sl.cl sl.fil).2 f m n) :
    execMmaR sl f w s =
      .next (movedOn s (waited sl w (setSlot s sl.cl sl.fil (mmaRSlot (slotOf s sl) f (passCount m n)))) sl f) := by
  obtain ⟨k, hm⟩ := hfit.product
  have hok := hfit.checks
  refine issue_of_done h ?_
  rw [slotOf] at *
  simp only [hm, hok, checks_no, checks_nil]
  rfl

/-! ### MMA.S -/

/-- Fields that MMA.S uses; C is unused when it is zero. -/
def useMmaS (f : Fld) : Use :=
  { f64 := false, f128 := true, rd := 16, ra := 16, rb := 16, rc := if bit f.ext 0 then 0 else 16, ext := true }

/-- The passes of a streaming product with output control block `bs` (R98). -/
def mmaSPasses (x : SlotSt) (f : Fld) (bs : List Byte) (e : Int) (np : Nat) : List Pass :=
  (List.range np).map fun i =>
    { k := x.nextPass + i, ins := x.nextPass, stream := true, f := f, pi := i
      desc := [tget x f.ra.toNat, tget x f.rb.toNat, tget x f.rd.toNat, tget x f.rc.toNat, tget x (parseOcb bs).dualT]
      ocb := bs, sexp := e, tile := 8, step := x.stepNo.toNat, pc := x.pc }

theorem addPasses_mmaSPasses_length (x : SlotSt) (f : Fld) (bs : List Byte) (e : Int) (np : Nat) :
    (addPasses x (mmaSPasses x f bs e np)).passes.length = x.passes.length + np := by
  simp [addPasses, mmaSPasses]

/-- A control block that has been read lies in the slot's part, aligned and not poisoned. -/
theorem peekOcb_of_ocbAt {s : State} {sl : Slot} {id off n m : Nat} {bad : Bool} {ot du : TileD} {bs : List Byte} {e : Int}
    (h : ocbAt s sl.cl sl.fil id bad off ot n m = .ok (bs, du, e)) : peekOcb s sl off = some (parseOcb bs) := by
  by_cases hal : off % 64 = 0
  case neg =>
    simp [ocbAt, hal] at h
    split_ifs at h
  by_cases hin : off + 64 ≤ (slotPart s sl.cl sl.fil).2
  case neg =>
    simp [ocbAt, hal, hin] at h
    split_ifs at h
  cases hbad : scrBad s sl.cl (scrOff s sl.cl sl.fil off) 64
  case true =>
    simp [ocbAt, hin, hal, hbad] at h
    split_ifs at h
  have hbs : scrRead s sl.cl (scrOff s sl.cl sl.fil off) 64 = bs := by
    simp [ocbAt, hin, hal, hbad] at h
    split_ifs at h
    · split at h
      · cases h
      · split at h <;> cases h
        rfl
    · split at h <;> cases h
      rfl
  simp [peekOcb, hin, hal, hbad, hbs]

/-- What MMA.S asks of its fields, and of the tiles of its M by N product in a part of `size` bytes (R87, R108, R110). -/
structure MmaSFits (x : SlotSt) (size : Nat) (f : Fld) (int : Bool) (m n : Nat) (c o : TileD) : Prop where
  fields : badFld (useMmaS f) f = false
  ext : bits f.ext 31 7 = 0
  product : ∃ k, mmaExtents (parseTile (tget x f.ra.toNat)) (parseTile (tget x f.rb.toNat)) int size = (m, n, k, false)
  addend_eq : parseTile (tget x f.rc.toNat) = c
  addend : bit f.ext 0 = true ∨ c.bad size = false ∧ c.fmt = (if int then 10 else 0) ∧ (c.trans && int) = false ∧
    m ≤ c.lrows ∧ n ≤ c.lcols
  output_eq : parseTile (tget x f.rd.toNat) = o
  output : o.bad size = false ∧ m ≤ o.lrows ∧ n ≤ o.lcols

theorem MmaSFits.checks {x : SlotSt} {size m n : Nat} {f : Fld} {int : Bool} {c o : TileD}
    (hfit : MmaSFits x size f int m n c o) :
    (badFld (useMmaS f) f || bits f.ext 31 7 != 0 || false ||
      (!bit f.ext 0 && (c.bad size || (c.trans && int) || c.fmt != (if int then 10 else 0) ||
        decide (c.lrows < m) || decide (c.lcols < n))) ||
      (o.bad size || decide (o.lrows < m) || decide (o.lcols < n))) = false := by
  obtain ⟨hf, hext, -, -, hc, -, hoBad, horows, hocols⟩ := hfit
  obtain hzero | ⟨hcBad, hfmt, htrans, hcrows, hccols⟩ := hc
  · simp [hf, hext, hzero, hoBad, horows, hocols]
  · simp [hf, hext, hcBad, hfmt, htrans, hcrows, hccols, hoBad, horows, hocols]

/-- MMA.S puts its passes behind the slot's others and moves on (R98). -/
theorem execMmaS_issues {s : State} {sl : Slot} {f : Fld} {x : SlotSt} {int : Bool} {m n : Nat} {c o du : TileD}
    {bs : List Byte} {e : Int} (w : Nat) (h : issues s sl = true) (hx : slotOf s sl = x)
    (hint : int = (parseOcb bs).int) (hfit : MmaSFits x (slotPart s sl.cl sl.fil).2 f int m n c o)
    (hocb : ocbAt s sl.cl sl.fil (slotCtx s sl.cl sl.fil) false (ocbOff x f) o n m = .ok (bs, du, e))
    (hmeet : ocbMeet s sl (ocbOff x f) = (s, false)) (hwait : mustWait x [(ocbOff x f, 64)] [] 0 0 = false) :
    execMmaS sl ⟨f, w⟩ s = .next (movedOn s
      (waited sl w (setSlot s sl.cl sl.fil (addPasses x (mmaSPasses x f bs e (passCount m n))))) sl f) := by
  subst hint
  obtain ⟨k, hm⟩ := hfit.product
  have hok := hfit.checks
  have hpeek := peekOcb_of_ocbAt hocb
  rw [slotOf] at hx
  rw [useMmaS] at hok
  rw [execMmaS]
  refine issue_of_done (f := f) h ?_
  simp only [hx, hmeet, hwait, hpeek, hm, hfit.addend_eq, hfit.output_eq, hok, hocb, Bool.false_eq_true, if_false]
  rfl

/-! ### MATRIX_PASS_COMPLETE -/

/-- The state in which a pass runs: it has left the slot's list, and the words that it writes anew have right parity. -/
def passTaken (s : State) (sl : Slot) (p : Pass) : State :=
  setSlot s sl.cl sl.fil (clearAcc { slotOf s sl with passes := (slotOf s sl).passes.filter fun q => q.k != p.k } p.fresh)

theorem execMatrixPassComplete_behind {s : State} {sl : Slot} {k : Nat} {p : Pass} (h : issues s sl = true)
    (hp : ((slotOf s sl).passes.find? fun p => p.k == k) = some p)
    (hb : p.behind ((slotOf s sl).passes.takeWhile fun q => q.k != k) = true) :
    execMatrixPassComplete sl k .none s = .next s := by
  rw [slotOf] at hp hb
  simp [execMatrixPassComplete, Nat.not_le.mpr (issues_iff h).1, hp, hb]

/-- A pass that no earlier one holds back runs (R86, R98). -/
theorem execMatrixPassComplete_runs {s : State} {sl : Slot} {k : Nat} {p : Pass} (h : issues s sl = true)
    (hp : ((slotOf s sl).passes.find? fun p => p.k == k) = some p)
    (hb : p.behind ((slotOf s sl).passes.takeWhile fun q => q.k != k) = false) :
    execMatrixPassComplete sl k .none s = .next (runPass (passTaken s sl p) sl p) := by
  obtain ⟨hcl, hissue⟩ := issues_iff h
  have hk : p.k = k := by simpa using List.find?_some hp
  have hruns := canIssue_runs hissue
  rw [slotOf] at hp hb
  simp [execMatrixPassComplete, Nat.not_le.mpr hcl, hp, hb, hruns, passTaken, slotOf, updSlot, inject, hk]

theorem find?_beyond_eq_none_iff {s : State} {sl : Slot} {rs : List (Nat × Nat)} :
    (rs.find? fun r => !inPart s sl.cl sl.fil r.1 r.2) = none ↔
      rs.all (fun r => inPart s sl.cl sl.fil r.1 r.2) = true := by
  simp only [List.find?_eq_none, Bool.not_eq_true', Bool.not_eq_false, List.all_eq_true]

/-- A pass whose ranges lie in the slot's part and whose reads meet no error makes its product. -/
theorem runPass_of_clean {s : State} {sl : Slot} {p : Pass}
    (hin : (p.reads ++ p.writes).all (fun r => inPart s sl.cl sl.fil r.1 r.2) = true)
    (hacc : accClean (slotOf s sl) p.block = true) (hr : rangesClean s sl p.reads = true) :
    runPass s sl p = if p.stream then passS s sl p else passR s sl p := by
  have hfind := find?_beyond_eq_none_iff.mpr hin
  obtain ⟨hbad, hmeet⟩ := meetWords_of_rangesClean hr
  simp only [runPass, hfind, hbad, hmeet, readAcc_of_accClean _ hacc, Bool.false_eq_true, if_false]

/-- A pass that reaches beyond the slot's part faults with the first such range (R84). -/
theorem runPass_of_beyond {s : State} {sl : Slot} {p : Pass}
    (hin : (p.reads ++ p.writes).all (fun r => inPart s sl.cl sl.fil r.1 r.2) = false) :
    ∃ r ∈ p.reads ++ p.writes, inPart s sl.cl sl.fil r.1 r.2 = false ∧ runPass s sl p = passFault s sl p cTRANS r.1 := by
  cases hfind : (p.reads ++ p.writes).find? fun r => !inPart s sl.cl sl.fil r.1 r.2 with
  | none => simp [find?_beyond_eq_none_iff.mp hfind] at hin
  | some r =>
    exact ⟨r, List.mem_of_find?_eq_some hfind, by simpa using List.find?_some hfind, by simp only [runPass, hfind]⟩

/-- Settles O11: MMA.R and MMA.S leave the slot with their passes behind the others, and a pass that none in flight holds
back runs. -/
theorem matrixIssueAndPasses : Obligations.MatrixIssueAndPasses := by
  intro s sl f h x id size da db np
  refine ⟨?_, ?_, ?_⟩
  · intro w int init hf hi hbad hn hmode
    have hfit : MmaRFits x size f _ _ :=
      ⟨hf, hi, ⟨_, Prod.ext rfl (Prod.ext rfl (Prod.ext rfl hbad))⟩, hn, hmode⟩
    refine ⟨_, execMmaR_issues w h hfit, ?_⟩
    rw [slotOf_movedOn, slotOf_waited_setSlot]
    exact ⟨rfl, mmaRSlot_passes_length _ _ _, mmaRSlot_nextPass _ _ _, fun i hi hinit => tileMode_mmaRSlot hinit hi⟩
  · intro bs du e off int m n o c czero hf hext hbad hc ho hrows hcols hocb hmeet hwait w
    have hint : int = (parseOcb bs).int := by simp only [int, peekOcb_of_ocbAt hocb]
    have hfit : MmaSFits x size f int m n c o :=
      ⟨hf, hext, ⟨_, Prod.ext rfl (Prod.ext rfl (Prod.ext rfl hbad))⟩, rfl, hc, rfl, ho, hrows, hcols⟩
    refine ⟨_, execMmaS_issues w h rfl hint hfit hocb hmeet hwait, ?_⟩
    rw [slotOf_movedOn, slotOf_waited_setSlot]
    exact ⟨rfl, addPasses_mmaSPasses_length _ _ _ _ _, rfl⟩
  · intro k p hp s1 within
    have hk : p.k = k := by simpa using List.find?_some hp
    have hs1 : passTaken s sl p = s1 := by simp only [passTaken, hk, s1, x]
    refine ⟨execMatrixPassComplete_behind h hp, ?_, ?_⟩
    · intro hb hin hacc hr
      rw [exec_matrixPassComplete, execMatrixPassComplete_runs h hp hb, hs1, runPass_of_clean hin hacc hr]
    · intro hb hin
      rw [exec_matrixPassComplete, execMatrixPassComplete_runs h hp hb, hs1]
      obtain ⟨r, hr, hout, hfault⟩ := runPass_of_beyond hin
      exact ⟨r, hr, hout, by rw [hfault]⟩

end Sys2Proof.Machine
end

section
/-!
SUPPORT. MOUT, MLDA and MAMAX (R99, R104, R105, R134): what each answers once no pass that R86 names is in flight.
-/

namespace Sys2Proof.Machine

/-! ### MOUT -/

/-- What MOUT asks of its fields, of its output tile in a part of `size` bytes, and of the accumulator tiles it reads. -/
structure MoutFits (size : Nat) (f : Fld) (o : TileD) : Prop where
  fields : badFld { rd := 16, ra := 8, rb := 64 } f = false
  output : o.bad size = false
  extents : (pow2In o.lrows && pow2In o.lcols) = true
  room : f.ra.toNat + passCount o.lrows o.lcols ≤ 8

theorem MoutFits.checks {size : Nat} {f : Fld} {o : TileD} (hfit : MoutFits size f o) :
    (badFld { rd := 16, ra := 8, rb := 64 } f || o.bad size || !(pow2In o.lrows && pow2In o.lcols) ||
      decide (8 < f.ra.toNat + passCount o.lrows o.lcols)) = false := by
  obtain ⟨hf, ho, hpow, hn⟩ := hfit
  simp [hf, ho, hpow, hn]

/-- MOUT, once the passes that R86 names have completed and its reads meet no error, sends its accumulator tiles through
the output stage and moves on (R99). -/
theorem execMout_issues {s t : State} {sl : Slot} {f : Fld} {x : SlotSt} {o du : TileD} {off id np : Nat}
    {bs : List Byte} {e : Int} (w : Nat) (h : issues s sl = true) (hx : slotOf s sl = x)
    (hid : slotCtx s sl.cl sl.fil = id) (ho : parseTile (tget x f.rd.toNat) = o) (hoff : (sget x f.rb).toNat = off)
    (hnp : passCount o.lrows o.lcols = np) (hfit : MoutFits (slotPart s sl.cl sl.fil).2 f o)
    (hmeet : ocbMeet s sl off = (s, false))
    (hocb : ocbAt s sl.cl sl.fil id false off o o.lcols o.lrows = .ok (bs, du, e))
    (hwait : mustWait x (moutReads (parseOcb bs) off o.lcols) (outRanges (parseOcb bs) o du 0 0 o.lrows o.lcols)
      f.ra.toNat np = false)
    (hvec : rangesClean s sl (vecRanges (parseOcb bs) 0 o.lcols) = true)
    (hacc : accClean x (tileWords o.lrows o.lcols f.ra.toNat np) = true)
    (hgo : moutGo sl id (outParOf s sl.cl sl.fil id x.stepNo.toNat (parseOcb bs) o du e o.lcols) f.ra.toNat
      o.lrows o.lcols (List.range np) s = (t, none)) :
    execMout sl ⟨f, w⟩ s = .next (movedOn s (waited sl w t) sl f) := by
  subst hnp
  have hok := hfit.checks
  rw [← hx] at hacc
  rw [slotOf] at hx
  rw [execMout]
  refine issue_of_done (f := f) h ?_
  simp only [hx, hoff, hmeet, hid, ho, hok, hocb, hwait, Bool.false_eq_true, if_false, readRanges_clean _ hvec,
    readAcc_of_accClean _ hacc, hgo]

/-! ### MLDA -/

/-- The slot's tiles once MLDA has loaded a tile into them: each takes its sub-block, with ACC_SAT clear. -/
def mldaSlot (s : State) (sl : Slot) (x : SlotSt) (d : TileD) (a np : Nat) : SlotSt :=
  (List.range np).foldl (fun y i =>
    let b := subBlock d.lrows d.lcols i
    setSat (putTileRows y (a + i)
      ((initRows s sl (some d) b.1 b.2.1 b.2.2.1 b.2.2.2).map fun r => r.map (loadWord d.fmt))) (a + i) false)
    (setModes x a np (b2n (d.fmt == 10)))

/-- What MLDA asks of its fields, of its tile in a part of `size` bytes, and of the accumulator tiles it loads. -/
structure MldaFits (size : Nat) (f : Fld) (d : TileD) : Prop where
  fields : badFld { rd := 8, ra := 16 } f = false
  tile : d.bad size = false
  format : d.fmt = 0 ∨ d.fmt = 10 ∧ d.trans = false
  extents : (pow2In d.lrows && pow2In d.lcols) = true
  room : f.rd.toNat + passCount d.lrows d.lcols ≤ 8

theorem MldaFits.checks {size : Nat} {f : Fld} {d : TileD} (hfit : MldaFits size f d) :
    (badFld { rd := 8, ra := 16 } f || d.bad size || !(d.fmt == 0 || d.fmt == 10) || (d.fmt == 10 && d.trans) ||
      !(pow2In d.lrows && pow2In d.lcols) || decide (8 < f.rd.toNat + passCount d.lrows d.lcols)) = false := by
  obtain ⟨hf, hd, h0 | ⟨h10, htrans⟩, hpow, hn⟩ := hfit
  · simp [hf, hd, h0, hpow, hn]
  · simp [hf, hd, h10, htrans, hpow, hn]

section

variable {s : State} {sl : Slot} {f : Fld} {x : SlotSt} {d : TileD} {np : Nat} (w : Nat) (h : issues s sl = true)
  (hx : slotOf s sl = x) (hd : parseTile (tget x f.ra.toNat) = d) (hnp : passCount d.lrows d.lcols = np)
  (hfit : MldaFits (slotPart s sl.cl sl.fil).2 f d)

include h hx hd hnp hfit

/-- MLDA loads its tile into the accumulator tiles and moves on (R134). -/
theorem execMlda_issues (hwait : mustWait x (d.rowsAt 0 d.rows) [] f.rd.toNat np = false)
    (hr : rangesClean s sl (d.rowsAt 0 d.rows) = true) :
    execMlda sl ⟨f, w⟩ s =
      .next (movedOn s (waited sl w (setSlot s sl.cl sl.fil (mldaSlot s sl x d f.rd.toNat np))) sl f) := by
  subst hnp
  have hok := hfit.checks
  rw [slotOf] at hx
  rw [execMlda]
  refine issue_of_done (f := f) h ?_
  simp only [hx, hd, hok, checks_no, checks_nil, hwait, Bool.false_eq_true, if_false, readRanges_clean _ hr, updSlot]
  rfl

/-- MLDA behind a pass that R86 names waits. -/
theorem execMlda_waits (hwait : mustWait x (d.rowsAt 0 d.rows) [] f.rd.toNat np = true) :
    execMlda sl ⟨f, w⟩ s = .next s := by
  subst hnp
  have hok := hfit.checks
  rw [slotOf] at hx
  rw [execMlda]
  refine issue_of_hold (f := f) h ?_
  simp only [hx, hd, hok, checks_no, checks_nil, hwait, if_true]

end

/-! ### MAMAX -/

/-- What MAMAX asks of its fields and of its tile in a part of `size` bytes. -/
structure MamaxFits (size : Nat) (f : Fld) (d : TileD) : Prop where
  fields : badFld { ra := 16, rb := 64 } f = false
  tile : d.bad size = false
  format : d.fmt ≠ 8 ∧ d.fmt ≠ 10

theorem MamaxFits.checks {size : Nat} {f : Fld} {d : TileD} (hfit : MamaxFits size f d) :
    (badFld { ra := 16, rb := 64 } f || d.bad size || d.fmt == 8 || d.fmt == 10) = false := by
  obtain ⟨hf, hd, h8, h10⟩ := hfit
  simp [hf, hd, h8, h10]

/-- MAMAX, once the passes that R86 names have completed, combines the tile's absolute maximum with the record's (R104,
R105). -/
theorem execMamax_issues {s s2 : State} {sl : Slot} {f : Fld} {x : SlotSt} {d : TileD} {id va pa : Nat} {bs : List Byte}
    (w : Nat) (h : issues s sl = true) (hx : slotOf s sl = x) (hid : slotCtx s sl.cl sl.fil = id)
    (hd : parseTile (tget x f.ra.toNat) = d) (hfit : MamaxFits (slotPart s sl.cl sl.fil).2 f d)
    (hva : (sget x f.rb).toNat = va) (halign : va % 64 = 0)
    (hpa : xlate s (some (sl.cl, sl.fil)) id va .write = .ok pa)
    (hwait : mustWait x (d.rowsAt 0 d.rows) [] 0 0 = false) (hr : rangesClean s sl (d.rowsAt 0 d.rows) = true)
    (hload : loadVa s id va 64 = (s2, bs, none)) :
    execMamax sl ⟨f, w⟩ s =
      .next (movedOn s (waited sl w (writeVa s2 none id va (amaxPut bs (tileAmax s2 sl d))).1) sl f) := by
  subst hid
  have hok := hfit.checks
  rw [slotOf] at hx
  rw [execMamax]
  refine issue_of_done (f := f) h ?_
  simp only [hx, hd, hva, hok, checks_no, checks_nil, hwait, Bool.false_eq_true, if_false,
    withStat_of_ok _ halign hpa, readRanges_clean _ hr, hload]

/-- Settles O12: with the passes that R86 names gone, each of the three answers with its effect and the slot moves on. -/
theorem matrixOutputAndLoads : Obligations.MatrixOutputAndLoads := by
  intro s sl f w h x id size o d off np
  refine ⟨?_, ?_, ?_⟩
  · intro bs du e t hf ho hpow hn hmeet hocb hwait hvec hacc hgo
    exact execMout_issues w h rfl rfl rfl rfl rfl ⟨hf, ho, hpow, hn⟩ hmeet hocb hwait hvec hacc hgo
  · intro hf hd hfmt hpow hn
    have hfit : MldaFits size f d := ⟨hf, hd, hfmt, hpow, hn⟩
    exact ⟨execMlda_issues w h rfl rfl rfl hfit, execMlda_waits w h rfl rfl rfl hfit⟩
  · intro va pa bs s2 hf hd h8 h10 hva halign hpa hwait hr hload
    exact execMamax_issues w h rfl rfl rfl ⟨hf, hd, h8, h10⟩ hva.symm halign hpa hwait hr hload

end Sys2Proof.Machine
end

section
/-!
SUPPORT. The scalar and the control class (R125, R126, Tables 4-6 and 4-7): how an instruction that issues ends, what an
error that shows in a slot's storage leaves as it is, and what each instruction of the two classes answers.
-/

namespace Sys2Proof.Machine

/-! ### How an instruction that issues ends -/

section

variable {sl : Slot} {cls : Nat} {f : Fld} {s t : State} {body : State → Eff} {p c a : Nat} (h : issues s sl = true)

include h

theorem issue_of_jump (hb : body s = .jump t p) : issue sl cls f s body = .next (goOn t sl p) := by
  rw [issue_eq h, hb]

/-- A fault is taken at once when no matrix pass of the slot is in flight (R143). -/
theorem issue_of_fault (hb : body s = .fault c a) (hp : (slotOf s sl).passes = []) : issue sl cls f s body =
    .next (progFault s sl.cl sl.fil (slotCtx s sl.cl sl.fil) c cls a (slotOf s sl).pc) := by
  rw [slotOf] at *
  rw [issue_eq h, hb]
  simp [inFlight, hp]

/-- Behind a pass in flight the instruction that faults waits. -/
theorem issue_of_fault_waits (hb : body s = .fault c a) (hp : (slotOf s sl).passes ≠ []) :
    issue sl cls f s body = .next s := by
  rw [slotOf] at hp
  rw [issue_eq h, hb]
  simp [inFlight, hp]

end

/-! ### Errors that show in a slot's storage -/

/-- An upset changes the parity marks of the slot alone. -/
theorem slotOf_inject (s : State) (sl : Slot) (u : Upset) :
    ∃ e, slotOf (inject s sl.cl sl.fil u) sl = { slotOf s sl with accErr := e } := by
  cases u with
  | accPar k => exact ⟨_, getSlot_updSlot _ _ _ _⟩
  | _ => exact ⟨_, rfl⟩

/-- What does not read the parity marks of a slot is the same once an upset shows. -/
theorem reads_inject {α : Type} (s : State) (sl : Slot) (u : Upset) (g : SlotSt → α)
    (hg : ∀ x e, g { x with accErr := e } = g x) : g (slotOf (inject s sl.cl sl.fil u) sl) = g (slotOf s sl) := by
  obtain ⟨e, he⟩ := slotOf_inject s sl u
  rw [he, hg]

@[simp] theorem scrAddr_inject (s : State) (sl : Slot) (u : Upset) (f : Fld) :
    scrAddr (slotOf (inject s sl.cl sl.fil u) sl) f = scrAddr (slotOf s sl) f :=
  reads_inject s sl u (scrAddr · f) fun _ _ => rfl

@[simp] theorem scrRead_inject (s : State) (sl : Slot) (u : Upset) (off n : Nat) :
    scrRead (inject s sl.cl sl.fil u) sl.cl off n = scrRead s sl.cl off n := by cases u <;> rfl

/-- An upset moves no part of the scratch. -/
@[simp] theorem slotPart_inject (s : State) (sl : Slot) (u : Upset) :
    slotPart (inject s sl.cl sl.fil u) sl.cl sl.fil = slotPart s sl.cl sl.fil := by
  cases u with
  | accPar k =>
    have hctx : (getSlot (inject s sl.cl sl.fil (.accPar k)) sl.cl true).ctx = (getSlot s sl.cl true).ctx := by
      by_cases hf : sl.fil = true
      · rw [inject, hf, getSlot_updSlot]
      · rw [inject, updSlot, getSlot_setSlot_ne]
        simpa using Ne.symm hf
    rw [slotPart, hctx]
    rfl
  | _ => rfl

@[simp] theorem inPart_inject (s : State) (sl : Slot) (u : Upset) (a n : Nat) :
    inPart (inject s sl.cl sl.fil u) sl.cl sl.fil a n = inPart s sl.cl sl.fil a n := by simp [inPart]

@[simp] theorem scrOff_inject (s : State) (sl : Slot) (u : Upset) (a : Nat) :
    scrOff (inject s sl.cl sl.fil u) sl.cl sl.fil a = scrOff s sl.cl sl.fil a := by simp [scrOff]

/-- An upset leaves the PC, so the slot moves on from it or from the state before alike. -/
theorem slotTo_inject (s : State) (sl : Slot) (u : Upset) (f : Fld) (y : SlotSt) :
    slotTo (inject s sl.cl sl.fil u) sl f y = movedOn s (setSlot (inject s sl.cl sl.fil u) sl.cl sl.fil y) sl f := by
  have hpc := reads_inject s sl u SlotSt.pc fun _ _ => rfl
  rw [slotTo, movedOn, movedOn, hpc]

/-! ### Scratch accesses that nothing stops -/

theorem scrFits_iff {s : State} {sl : Slot} {a n al : Nat} :
    scrFits s sl a n al = true ↔ a % al = 0 ∧ inPart s sl.cl sl.fil a n = true := by simp [scrFits]

/-- A range of whole words covers no word in part. -/
theorem partRanges_aligned {a n : Nat} (ha : a % 8 = 0) (hn : n % 8 = 0) : partRanges a n = [] := by
  have hwhole : ∀ w ∈ scrWords a n, ¬ (8 * w < a ∨ a + n < 8 * w + 8) := by
    intro w hw
    unfold scrWords at hw
    split at hw
    · simp at hw
    · simp only [List.mem_map, List.mem_range] at hw
      obtain ⟨i, hi, rfl⟩ := hw
      omega
  simpa [partRanges] using hwhole

/-- A store whose words in part are clean writes its bytes. -/
theorem writeStep_of_clean {sl : Slot} {s : State} {a : Nat} {bs : List Byte}
    (hr : rangesClean s sl (partRanges a bs.length) = true) :
    writeStep sl a bs s = .done (scrWrite s sl.cl (offOf s sl a) bs) := by
  rw [writeStep, readRanges_clean _ hr, offOf]

theorem writeStep_aligned {sl : Slot} {s : State} {a : Nat} {bs : List Byte} (ha : a % 8 = 0) (hn : bs.length % 8 = 0) :
    writeStep sl a bs s = .done (scrWrite s sl.cl (offOf s sl a) bs) :=
  writeStep_of_clean (by rw [partRanges_aligned ha hn]; rfl)

/-! ### Scalar arithmetic (Table 4-6) -/

theorem mulHigh_eq (a b : B64) : mulHigh a b = BitVec.ofInt 64 (a.toInt * b.toInt / 2 ^ 64) := by
  have hprod : (a.signExtend 128 * b.signExtend 128 : B128) = BitVec.ofInt 128 (a.toInt * b.toInt) :=
    (BitVec.ofInt_mul ..).symm
  apply BitVec.eq_of_toNat_eq
  rw [mulHigh, hprod]
  simp only [BitVec.extractLsb'_toNat, BitVec.toNat_ofInt, Nat.shiftRight_eq_div_pow]
  omega

theorem boolWord_slt (a b : B64) : boolWord (a.slt b) = if a.toInt < b.toInt then 1 else 0 := by
  simp [boolWord, BitVec.slt]

theorem boolWord_ult (a b : B64) : boolWord (a.ult b) = if a.toNat < b.toNat then 1 else 0 := by
  simp [boolWord, BitVec.ult]

section

variable {s : State} {sl : Slot} {f : Fld} {op : B64 → B64 → B64} (h : issues s sl = true)

include h

theorem scalarOp_issues (hf : fldAlu f = true) : scalarOp sl f s op = .next (slotTo s sl f
    (sset (slotOf s sl) f.rd (op (sget (slotOf s sl) f.ra) (sOperand (slotOf s sl) f)))) := by
  have hok : badFld (useB { rd := 64, ra := 64 } 64 f) f = false := by simpa [fldAlu] using hf
  refine issue_of_done h ?_
  simp only [hok, checks_no, checks_nil]
  rfl

theorem scalarOp_malformed (hf : fldAlu f = false) (hp : (slotOf s sl).passes = []) : scalarOp sl f s op =
    .next (progFault s sl.cl sl.fil (slotCtx s sl.cl sl.fil) cMAL 0 0 (slotOf s sl).pc) := by
  have hbad : badFld (useB { rd := 64, ra := 64 } 64 f) f = true := by simpa [fldAlu] using hf
  refine issue_of_fault h ?_ hp
  simp only [hbad, checks_yes]

theorem scalarOp_malformed_waits (hf : fldAlu f = false) (hp : (slotOf s sl).passes ≠ []) :
    scalarOp sl f s op = .next s := by
  have hbad : badFld (useB { rd := 64, ra := 64 } 64 f) f = true := by simpa [fldAlu] using hf
  refine issue_of_fault_waits (c := cMAL) (a := 0) h ?_ hp
  simp only [hbad, checks_yes]

/-- The three answers of an instruction that computes `v` from Sa and b. -/
theorem scalarOp_answers {i : Instr} {v : B64} (hi : exec i s = scalarOp sl f s op)
    (hv : op (sget (slotOf s sl) f.ra) (sOperand (slotOf s sl) f) = v) :
    (fldAlu f = true → exec i s = .next (slotTo s sl f (sset (slotOf s sl) f.rd v))) ∧
      (fldAlu f = false → (slotOf s sl).passes = [] → exec i s =
        .next (progFault s sl.cl sl.fil (slotCtx s sl.cl sl.fil) cMAL 0 0 (slotOf s sl).pc)) ∧
      (fldAlu f = false → (slotOf s sl).passes ≠ [] → exec i s = .next s) := by
  subst hv
  rw [hi]
  exact ⟨scalarOp_issues h, scalarOp_malformed h, scalarOp_malformed_waits h⟩

end

/-- Settles O1: each of the twelve is `scalarOp` with its operation. -/
theorem scalarArithmetic : Obligations.ScalarArithmetic := by
  intro s sl f h x a b
  simp only [List.forall_mem_cons, List.not_mem_nil, false_implies, implies_true, and_true]
  exact ⟨scalarOp_answers h (exec_add sl f s) rfl, scalarOp_answers h (exec_sub sl f s) rfl,
    scalarOp_answers h (exec_mul sl f s) rfl, scalarOp_answers h (exec_mulh sl f s) (mulHigh_eq a b),
    scalarOp_answers h (exec_and sl f s) rfl, scalarOp_answers h (exec_or sl f s) rfl,
    scalarOp_answers h (exec_xor sl f s) rfl, scalarOp_answers h (exec_shl sl f s) rfl,
    scalarOp_answers h (exec_shr sl f s) rfl, scalarOp_answers h (exec_sar sl f s) rfl,
    scalarOp_answers h (exec_slt sl f s) (boolWord_slt a b), scalarOp_answers h (exec_sltu sl f s) (boolWord_ult a b)⟩

/-! ### Immediates, CSRs, the capability table -/

section

variable {s : State} {sl : Slot} {f : Fld} (h : issues s sl = true)

include h

theorem loadImm_issues {op : B64 → B32 → B64}
    (hf : badFld { f64 := false, f128 := true, rd := 64, imm32 := true } f = false) :
    loadImm sl f s op = .next (slotTo s sl f (sset (slotOf s sl) f.rd (op (sget (slotOf s sl) f.rd) f.imm32))) := by
  refine issue_of_done h ?_
  simp only [hf, checks_no, checks_nil]
  rfl

theorem execCsrr_issues {v : B64} (hf : badFld { rd := 64, imm := true } f = false)
    (hv : csrRead s sl.cl sl.fil f.imm18.toNat = some v) :
    execCsrr sl f s = .next (slotTo s sl f (sset (slotOf s sl) f.rd v)) := by
  refine issue_of_done h ?_
  simp only [hf, hv, checks_no, checks_nil, Option.isNone_some, Option.getD_some]
  rfl

/-- CSRW of a CSR that can be written leaves what `csrWrite` gives. -/
theorem execCsrw_issues {t : State} (hf : badFld { ra := 64, imm := true } f = false)
    (hw : csrWrite s sl.cl sl.fil f.imm18.toNat (sget (slotOf s sl) f.ra) = some t) :
    execCsrw sl f s = .next (movedOn s t sl f) := by
  rw [slotOf] at hw
  refine issue_of_done h ?_
  simp only [hf, hw, checks_no, checks_nil, Option.isNone_some, Option.getD_some]

/-- A read of the capability table at an aligned offset inside it. -/
theorem capRead_issues {n : Nat} (hf : badFld { rd := 64, ra := 64, imm := true } f = false)
    (hal : scrAddr (slotOf s sl) f % n = 0) (hin : scrAddr (slotOf s sl) f + n ≤ 4096) :
    capRead n sl f s = .next (slotTo s sl f (sset (slotOf s sl) f.rd (bv 64 (capWord s (scrAddr (slotOf s sl) f) +
      if n = 8 then capWord s (scrAddr (slotOf s sl) f + 4) * 2 ^ 32 else 0)))) := by
  rw [slotOf] at *
  refine issue_of_done h ?_
  simp only [hf, hal, hin, checks_no, checks_nil, bne_self_eq_false, if_true]

end

/-- Settles O2: with fields that pass, each instruction writes its one value and moves on. -/
theorem scalarImmediateAndCsr : Obligations.ScalarImmediateAndCsr := by
  intro s sl f h x
  refine ⟨fun hf => ⟨(exec_li sl f s).trans (loadImm_issues h hf), (exec_lih sl f s).trans (loadImm_issues h hf)⟩,
    fun v hf hv => execCsrr_issues h hf hv,
    fun hf hi => execCsrw_issues h hf (by rw [hi]; rfl), fun hf hi => execCsrw_issues h hf (by rw [hi]; rfl), ?_, ?_⟩
  · rintro a hf rfl hal hin
    exact capRead_issues h hf hal hin
  · rintro a hf rfl hal hin
    exact capRead_issues h hf hal hin

/-! ### Scalar loads and stores -/

section

variable {s : State} {sl : Slot} {f : Fld} {n : Nat} (h : issues s sl = true)

include h

/-- A load of a clean range of the slot's part gives its bytes. -/
theorem scalarLoad_issues {u : Upset} (hf : badFld { rd := 64, ra := 64, imm := true } f = false)
    (hfit : scrFits s sl (scrAddr (slotOf s sl) f) n n = true)
    (hr : scrClean (inject s sl.cl sl.fil u) sl (scrAddr (slotOf s sl) f) n = true) :
    scalarLoad n sl f u s = .next (slotTo (inject s sl.cl sl.fil u) sl f
      (sset (slotOf (inject s sl.cl sl.fil u) sl) f.rd
        (bv 64 (leNat (scrRead s sl.cl (offOf s sl (scrAddr (slotOf s sl) f)) n))))) := by
  rw [slotTo_inject]
  obtain ⟨hal, hin⟩ := scrFits_iff.mp hfit
  have ha := scrAddr_inject s sl u f
  simp only [slotOf] at *
  refine issue_of_done h ?_
  simp [hf, ha, hal, hin, readStep, readRanges_clean _ hr, updSlot, offOf]

/-- A store whose words in part are clean writes the low bytes of Sb. -/
theorem scalarStore_issues (hf : badFld { ra := 64, rb := 64, imm := true } f = false)
    (hfit : scrFits s sl (scrAddr (slotOf s sl) f) n n = true)
    (hr : rangesClean s sl (partRanges (scrAddr (slotOf s sl) f) n) = true) :
    scalarStore n sl f s = .next (movedOn s (scrWrite s sl.cl (offOf s sl (scrAddr (slotOf s sl) f))
      (leBytes n (sget (slotOf s sl) f.rb).toNat)) sl f) := by
  obtain ⟨hal, hin⟩ := scrFits_iff.mp hfit
  rw [← leBytes_length n (sget (slotOf s sl) f.rb).toNat] at hr
  simp only [slotOf] at *
  refine issue_of_done h ?_
  simp [hf, hal, hin, writeStep_of_clean hr]

end

/-- Settles O3: the two loads and the two stores at their widths; a whole word has no part to read. -/
theorem scalarLoadsAndStores : Obligations.ScalarLoadsAndStores := by
  intro s sl f h x a off
  refine ⟨?_, fun hf hfit hr => scalarLoad_issues (u := .none) h hf hfit hr, fun hf hfit => ?_,
    fun hf hfit hr => scalarStore_issues h hf hfit hr⟩
  · intro u t hf hfit hr
    exact scalarLoad_issues h hf hfit hr
  · have hwhole : partRanges a 8 = [] := partRanges_aligned (scrFits_iff.mp hfit).1 rfl
    exact scalarStore_issues h hf hfit (by rw [hwhole]; rfl)

/-! ### Control (Table 4-7) -/

section

variable {s : State} {sl : Slot} {f : Fld} (h : issues s sl = true)

include h

/-- A branch goes to its target when its test holds, else behind itself. -/
theorem branch_issues {i : Instr} {test : B64 → B64 → Bool} {v : Bool} (hi : exec i s = branch sl f s test)
    (hf : badFld { ra := 64, rb := 64, imm := true } f = false)
    (hv : test (sget (slotOf s sl) f.ra) (sget (slotOf s sl) f.rb) = v) : exec i s =
      .next (goOn s sl (if v then target (slotOf s sl).pc f else (slotOf s sl).pc + insLen f)) := by
  rw [slotOf] at *
  rw [hi]
  cases v with
  | false => exact issue_of_done h (by simp only [hf, hv, checks_no, checks_nil, Bool.false_eq_true, if_false])
  | true => exact issue_of_jump h (by simp only [hf, hv, checks_no, checks_nil, if_true])

theorem execJ_issues (hf : badFld { f128 := true, imm := true, imm32 := true } f = false) :
    execJ sl f s = .next (goOn s sl (target (slotOf s sl).pc f)) :=
  issue_of_jump h (by simp only [hf, checks_no, checks_nil]; rfl)

theorem execCall_issues (hf : badFld { f128 := true, rd := 64, imm := true, imm32 := true } f = false) :
    execCall sl f s = .next (goOn (setSlot s sl.cl sl.fil
      (sset (slotOf s sl) f.rd (bv 64 (((slotOf s sl).pc + insLen f) % 2 ^ 52)))) sl (target (slotOf s sl).pc f)) :=
  issue_of_jump h (by simp only [hf, checks_no, checks_nil]; rfl)

theorem execJr_issues (hf : badFld { ra := 64 } f = false) (hal : (sget (slotOf s sl) f.ra).toNat % 8 = 0) :
    execJr sl f s = .next (goOn s sl ((sget (slotOf s sl) f.ra).toNat % 2 ^ 52)) := by
  have hlow : (sget (slotOf s sl) f.ra).toNat % 2 ^ 52 % 8 = 0 := by omega
  rw [slotOf] at *
  exact issue_of_jump h (by simp only [hf, hlow, checks_no, checks_nil, bne_self_eq_false])

theorem execNop_issues (hf : badFld {} f = false) : execNop sl f s = .next (movedOn s s sl f) :=
  issue_of_done h (by simp only [hf, checks_no, checks_nil])

theorem execCfence_issues (hf : badFld {} f = false) (hp : (slotOf s sl).passes = []) :
    execCfence sl f s = .next (movedOn s s sl f) := by
  rw [slotOf] at hp
  exact issue_of_done h (by simp only [hf, hp, checks_no, checks_nil, List.isEmpty_nil, if_true])

theorem execHalt_issues (hf : badFld {} f = false) (hp : (slotOf s sl).passes = []) :
    execHalt sl f s = .next (movedOn s (let t := setSlot s sl.cl sl.fil { slotOf s sl with run := none }
      t.setQue { t.que with run := t.que.run.map (slotEnded (slotOf s sl).run (slotKey sl.cl sl.fil)) }) sl f) := by
  rw [slotOf] at *
  exact issue_of_done h (by simp only [hf, hp, checks_no, checks_nil, List.isEmpty_nil, if_true])

/-- CFENCE and HALT wait for the slot's matrix passes (R126). -/
theorem execCfence_waits (hf : badFld {} f = false) (hp : (slotOf s sl).passes ≠ []) : execCfence sl f s = .next s := by
  rw [slotOf, ← List.isEmpty_eq_false_iff] at hp
  exact issue_of_hold h (by simp only [hf, hp, checks_no, checks_nil, Bool.false_eq_true, if_false])

theorem execHalt_waits (hf : badFld {} f = false) (hp : (slotOf s sl).passes ≠ []) : execHalt sl f s = .next s := by
  rw [slotOf, ← List.isEmpty_eq_false_iff] at hp
  exact issue_of_hold h (by simp only [hf, hp, checks_no, checks_nil, Bool.false_eq_true, if_false])

end

/-- Settles O4: five branches with their tests, three jumps, and the instructions that wait for the slot's passes. -/
theorem controlFlow : Obligations.ControlFlow := by
  intro s sl f h x a b goes
  refine ⟨fun hf => ?_, fun hf => execJ_issues h hf, fun hf => execCall_issues h hf, fun hf hal => execJr_issues h hf hal,
    fun hf => execNop_issues h hf, fun hf hp => ⟨execCfence_issues h hf hp, execHalt_issues h hf hp⟩,
    fun hf hp => ⟨execCfence_waits h hf hp, execHalt_waits h hf hp⟩⟩
  have hne : (a != b) = decide (a ≠ b) := by rw [bne, decide_not]; rfl
  have hge : (!a.slt b) = decide (b.toInt ≤ a.toInt) := by
    simp only [BitVec.slt, ← decide_not, Int.not_lt]
  simp only [List.forall_mem_cons, List.not_mem_nil, false_implies, implies_true, and_true]
  exact ⟨branch_issues h (exec_beq sl f s) hf rfl, branch_issues h (exec_bne sl f s) hf hne,
    branch_issues h (exec_blt sl f s) hf rfl, branch_issues h (exec_bge sl f s) hf hge,
    branch_issues h (exec_bltu sl f s) hf rfl⟩

end Sys2Proof.Machine
end

section
/-!
SUPPORT. Vector arithmetic (R117, R127 to R129, Table 4-8): what a slot holds after an instruction of the class, and the
value that each lane takes.
-/

namespace Sys2Proof.Machine

/-! ### The class -/

/-- Fields that pass and a type that is legal let a vector arithmetic instruction change its slot. -/
theorem vecOp_issues {s : State} {sl : Slot} {f : Fld} {u : Use} {types : List Nat} {ok : Bool} {k : SlotSt → SlotSt}
    (h : issues s sl = true) (hf : fldVec u types f = true) (hok : ok = true) :
    vecOp sl f s types u ok k = .next (slotTo s sl f (k (slotOf s sl))) := by
  obtain ⟨hbad, hty⟩ : badFld { u with pred := true, nf := true } f = false ∧ types.contains f.ty.toNat = true := by
    simpa only [fldVec, Bool.and_eq_true, Bool.not_eq_true'] using hf
  refine issue_of_done h ?_
  simp only [hbad, hty, hok, Bool.not_true, Bool.or_false, checks_no, checks_nil]
  rfl

/-- Settles O5: every instruction of the table is `vecOp` with its fields, types and effect. -/
theorem vectorArithmetic : Obligations.VectorArithmetic := by
  intro s sl f h x r v b g
  simp only [List.forall_mem_cons, List.not_mem_nil, false_implies, implies_true, and_true]
  refine ⟨?_, ?_, ?_, ?_, ?_, ?_, ?_, ?_, ?_, ?_, ?_, ?_, ?_, ?_, ?_, ?_, ?_, ?_, ?_, ?_, ?_, ?_, ?_, ?_, ?_, ?_⟩
  all_goals exact fun hf => vecOp_issues h hf rfl

/-! ### One lane -/

/-- The operation of an arithmetic instruction of type `ty` on one lane: result and flags. -/
def laneOp (ty : Nat) (fop : Fmt → Nat → Nat → Nat → Nat × Nat) (iop : B32 → B32 → B32) (a b c : B32) : B32 × Nat :=
  if ty = 3 then (iop a b, 0) else floatLane ty fop a b c

theorem arith_eq_putLanes (x : SlotSt) (f : Fld) (fop : Fmt → Nat → Nat → Nat → Nat × Nat) (iop : B32 → B32 → B32) :
    arith x f fop iop = putLanes x f
      (mapLanes (laneOp f.ty.toNat fop iop) (vget x f.ra.toNat) (vOperand x f) (vget x f.rc.toNat)) := by
  have hty : f.ty = 3 ↔ f.ty.toNat = 3 := by rw [← BitVec.toNat_inj]; rfl
  unfold arith laneOp
  split <;> simp_all

@[simp] theorem mapLanes_length (op : B32 → B32 → B32 → B32 × Nat) (a b c : Lanes) :
    (mapLanes op a b c).length = min a.length (min b.length c.length) := by simp [mapLanes]

@[simp] theorem mergeLanes_length (x : SlotSt) (f : Fld) (old new : Lanes) :
    (mergeLanes x f old new).length = min old.length new.length := by simp [mergeLanes]

/-- An active lane is new, any other is old (R117). -/
theorem mergeLanes_getD (x : SlotSt) (f : Fld) {old new : Lanes} {i : Nat} (ho : i < old.length) (hn : i < new.length) :
    (mergeLanes x f old new).getD i 0 = if active x f i then new.getD i 0 else old.getD i 0 := by
  simp [mergeLanes, List.getD_eq_getElem?_getD, ho, hn]

theorem mapLanes_getD (op : B32 → B32 → B32 → B32 × Nat) {a b c : Lanes} {i : Nat} (ha : i < a.length) (hb : i < b.length)
    (hc : i < c.length) :
    ((mapLanes op a b c).map (·.1)).getD i 0 = (op (a.getD i 0) (b.getD i 0) (c.getD i 0)).1 := by
  simp [mapLanes, List.getD_eq_getElem?_getD, ha, hb, hc]

@[simp] theorem vget_setFlags (x : SlotSt) (nf : Bool) (fl k : Nat) : vget (setFlags x nf fl) k = vget x k := by
  cases nf <;> rfl

theorem vget_putLanes_self (x : SlotSt) (f : Fld) (rs : List (B32 × Nat)) :
    vget (putLanes x f rs) f.rd.toNat = mergeLanes x f (vget x f.rd.toNat) (rs.map (·.1)) := by simp [putLanes]

theorem vget_putLanes_ne (x : SlotSt) (f : Fld) (rs : List (B32 × Nat)) {k : Nat} (hk : k ≠ f.rd.toNat) :
    vget (putLanes x f rs) k = vget x k := by simp [putLanes, vget_vset_ne _ _ _ _ hk]

/-- A slot that an instruction changed to `y` holds the registers of `y`. -/
theorem vget_slotTo (s : State) (sl : Slot) (f : Fld) (y : SlotSt) (k : Nat) :
    vget (slotOf (slotTo s sl f y) sl) k = vget y k := by
  rw [slotTo, slotOf_movedOn, slotOf, getSlot_setSlot]
  rfl

/-- An instruction whose effect is `arith` gives every active lane of Vd the operation of its operands' lanes. -/
theorem arith_lanes {x : SlotSt} {f : Fld} {fop : Fmt → Nat → Nat → Nat → Nat × Nat} {iop : B32 → B32 → B32}
    (ha : (vget x f.ra.toNat).length = 128) (hb : (vOperand x f).length = 128) (hc : (vget x f.rc.toNat).length = 128)
    (hd : (vget x f.rd.toNat).length = 128) :
    (vget (arith x f fop iop) f.rd.toNat).length = 128 ∧
      (∀ i < 128, (vget (arith x f fop iop) f.rd.toNat).getD i 0 = if active x f i then
        (laneOp f.ty.toNat fop iop ((vget x f.ra.toNat).getD i 0) ((vOperand x f).getD i 0)
          ((vget x f.rc.toNat).getD i 0)).1
        else (vget x f.rd.toNat).getD i 0) ∧
      ∀ k, k ≠ f.rd.toNat → vget (arith x f fop iop) k = vget x k := by
  rw [arith_eq_putLanes, vget_putLanes_self]
  refine ⟨by simp [ha, hb, hc, hd], fun i hi => ?_, fun k hk => vget_putLanes_ne x f _ hk⟩
  rw [mergeLanes_getD x f (by omega) (by simp [ha, hb, hc, hi]), mapLanes_getD _ (by omega) (by omega) (by omega)]

theorem ite_slt_eq (a b c d : B32) : (if a.slt b then c else d) = if a.toInt < b.toInt then c else d := by
  simp [BitVec.slt]

/-- The larger of two words, however a tie is told. -/
theorem ite_slt_max (a b : B32) : (if a.slt b then b else a) = if b.toInt < a.toInt then a else b := by
  rw [ite_slt_eq]
  split_ifs with h1 h2 h2
  · omega
  · rfl
  · rfl
  · exact BitVec.eq_of_toInt_eq (by omega)

/-- Settles O59: each instruction has the effect `arith`, whose lanes are those of `laneOp`. -/
theorem vectorLaneValues : Obligations.VectorLaneValues := by
  intro s sl f h x r fl ha hb hc hd p hp hf
  have harith : ∃ fop iop types, exec p.1 s = vecOp sl f s types p.2.1 true (fun x => arith x f fop iop) ∧
      types.contains p.2.2.1 = true ∧ ∀ a b c, (laneOp p.2.2.1 fop iop a b c).1 = p.2.2.2 a b c := by
    clear hf
    revert p
    simp only [List.forall_mem_cons, List.not_mem_nil, false_implies, implies_true, and_true]
    refine ⟨?_, ?_, ?_, ?_, ?_, ?_, ?_, ?_, ?_, ?vmin, ?vmax, ?_, ?_, ?_, ?_, ?_, ?_⟩
    case vmin => exact ⟨_, _, _, rfl, rfl, fun a b _ => ite_slt_eq a b a b⟩
    case vmax => exact ⟨_, _, _, rfl, rfl, fun a b _ => ite_slt_max a b⟩
    all_goals exact ⟨_, _, _, rfl, rfl, fun _ _ _ => rfl⟩
  obtain ⟨fop, iop, types, hexec, htypes, hop⟩ := harith
  simp only [fldVec, Bool.and_eq_true, List.contains_iff_mem, List.mem_singleton] at hf
  obtain ⟨hfld, hty⟩ := hf
  have hlegal : fldVec p.2.1 types f = true := by simp only [fldVec, hfld, hty, htypes, Bool.and_self]
  obtain ⟨hlen, hlanes, hother⟩ := arith_lanes (fop := fop) (iop := iop) ha hb hc hd
  refine ⟨_, hexec.trans (vecOp_issues h hlegal rfl), ?_⟩
  simp only [vget_slotTo, ← hop, ← hty]
  exact ⟨hlen, hlanes, hother⟩

/-! ### VBCAST and VCVT.F2I -/

theorem OnlyMet.slotOf {s t : State} (h : OnlyMet s t) (sl : Slot) : slotOf t sl = slotOf s sl := by
  obtain ⟨m, f, e, d, rfl, -⟩ := h
  rfl

/-- A statistics record leaves every slot as it is. -/
theorem slotOf_statAdd (s : State) (sl : Slot) (id va : Nat) (c : Ctr) (clip elem fmt mode : Nat) :
    slotOf (statAdd s id va c clip elem fmt mode).1 sl = slotOf s sl :=
  (statAdd_met s id va c clip elem fmt mode).slotOf sl

/-- The lanes of Va converted to INT32 (R56, R60). -/
def f2iLanes (c : Ctx) (x : SlotSt) (f : Fld) : Lanes :=
  (vget x f.ra.toNat).zipIdx.map fun p => bv 32
    (cvtI32 (vecRnd c x.stepNo.toNat f (sget x f.rc).toNat p.2) (decode f32 p.1.toNat)).1

/-- VCVT.F2I whose record is reached writes the converted lanes; its record leaves the slot alone. -/
theorem execVcvtF2i_issues {s : State} {sl : Slot} {f : Fld} {x : SlotSt} {c : Ctx} {pa : Nat} (h : issues s sl = true)
    (hx : slotOf s sl = x) (hc : getCtx s (slotCtx s sl.cl sl.fil) = c) (hf : badFld useF2i f = false) (hty : f.ty = 0)
    (hesc : extEsc f = 0) (hfmt : extFmt f = 0 ∨ extFmt f = 0xA) (hal : (sget x (extRe f)).toNat % 64 = 0)
    (hpa : xlate s (some (sl.cl, sl.fil)) (slotCtx s sl.cl sl.fil) (sget x (extRe f)).toNat .write = .ok pa) :
    ∃ t, execVcvtF2i sl f s = .next (movedOn s t sl f) ∧
      slotOf t sl = vset x f.rd.toNat (mergeLanes x f (vget x f.rd.toNat) (f2iLanes c x f)) := by
  have hok : (badFld useF2i f || f.ty != 0 || extEsc f != 0 || !(extFmt f == 0 || extFmt f == 0xA)) = false := by
    obtain h0 | h10 := hfmt
    · simp [hf, hty, hesc, h0]
    · simp [hf, hty, hesc, h10]
  rw [useF2i] at hok
  rw [slotOf] at hx
  refine ⟨?t, issue_of_done h ?done, ?slot⟩
  case done =>
    simp only [hx, hc, hok, checks_no, checks_nil, withStat_of_ok _ hal hpa]
    rfl
  case slot =>
    rw [slotOf_statAdd, slotOf, getSlot_setSlot, List.map_map]
    rfl

/-- Settles O6: VBCAST is `vecOp`; VCVT.F2I writes its lanes and then its record. -/
theorem vectorBroadcastAndConvert : Obligations.VectorBroadcastAndConvert := by
  intro s sl f h x id c
  refine ⟨fun hf hlane => vecOp_issues h hf (by simpa using hlane), ?_⟩
  rintro va pa hf hty hesc hfmt rfl hal hpa
  exact execVcvtF2i_issues h rfl rfl hf hty hesc hfmt hal hpa

end Sys2Proof.Machine
end

section
/-!
SUPPORT. Vector data, predicates and tile registers (R131 to R134, Table 4-10): what each instruction answers when its
accesses meet nothing, and which wait for a pass in flight (R86).
-/

namespace Sys2Proof.Machine

/-! ### Loads and stores of lanes -/

/-- The 128 lanes that 512 bytes spell. -/
def lanesOf (bs : List Byte) : Lanes := (List.range 128).map fun i => bv 32 (leNat (slice bs (4 * i) 4))

section

variable {s t : State} {sl : Slot} {f : Fld} {u : Upset} {x : SlotSt} (h : issues s sl = true)
  (ht : inject s sl.cl sl.fil u = t) (hx : slotOf s sl = x)

include h ht hx

/-- VLD of words that are clean where a lane is active. -/
theorem execVld_issues (hf : badFld { rd := 32, ra := 64, imm := true, pred := true } f = false)
    (hfit : scrFits s sl (scrAddr x f) 512 64 = true) (hr : rangesClean t sl (laneRanges x f (scrAddr x f)) = true) :
    execVld sl f u s = .next (slotTo t sl f (vset (slotOf t sl) f.rd.toNat (mergeLanes x f (vget x f.rd.toNat)
      (lanesOf (scrRead s sl.cl (offOf s sl (scrAddr x f)) 512))))) := by
  subst ht hx
  obtain ⟨hal, hin⟩ := scrFits_iff.mp hfit
  have ha := scrAddr_inject s sl u f
  have hranges := reads_inject s sl u (laneRanges · f) fun _ _ => rfl
  have hmerge := reads_inject s sl u (fun x => mergeLanes x f (vget x f.rd.toNat)) fun _ _ => rfl
  simp only [slotTo_inject]
  simp only [slotOf] at *
  refine issue_of_done h ?_
  simp [hf, ha, hal, hin, hranges, hmerge, readRanges_clean _ hr, updSlot, offOf, lanesOf]

/-- VLDA of a row whose words have their parity right where a lane is active. -/
theorem execVlda_issues (hf : badFld { rd := 32, ra := 8, rb := 64, pred := true } f = false)
    (hbusy : tileBusy x f.ra.toNat = false)
    (hacc : accClean (slotOf t sl) (rowWords x f f.ra.toNat ((sget x f.rb).toNat % 64)) = true) :
    execVlda sl f u s = .next (slotTo t sl f (vset (slotOf t sl) f.rd.toNat (mergeLanes x f (vget x f.rd.toNat)
      (accRow x f.ra.toNat ((sget x f.rb).toNat % 64))))) := by
  subst ht hx
  have hfree := reads_inject s sl u (tileBusy · f.ra.toNat) fun _ _ => rfl
  have hwords := reads_inject s sl u (fun x => rowWords x f f.ra.toNat ((sget x f.rb).toNat % 64)) fun _ _ => rfl
  have hmerge := reads_inject s sl u (fun x => mergeLanes x f (vget x f.rd.toNat)
    (accRow x f.ra.toNat ((sget x f.rb).toNat % 64))) fun _ _ => rfl
  rw [slotTo_inject, ← hmerge]
  rw [← hwords] at hacc
  simp only [slotOf] at hfree hbusy
  refine issue_of_done h ?_
  simp only [hf, checks_no, checks_nil, hfree, hbusy, Bool.false_eq_true, if_false]
  exact readAcc_of_accClean _ hacc

/-- VLDA waits for a pass that writes its tile. -/
theorem execVlda_waits (hf : badFld { rd := 32, ra := 8, rb := 64, pred := true } f = false)
    (hbusy : tileBusy x f.ra.toNat = true) : execVlda sl f u s = .next t := by
  subst ht hx
  have hfree := reads_inject s sl u (tileBusy · f.ra.toNat) fun _ _ => rfl
  simp only [slotOf] at hfree hbusy
  refine issue_of_hold (f := f) h ?_
  simp only [hf, checks_no, checks_nil, hfree, hbusy, if_true]

end

section

variable {s : State} {sl : Slot} {f : Fld} {x : SlotSt} (h : issues s sl = true) (hx : slotOf s sl = x)

include h hx

/-- VST, the words of which it writes a half being clean. -/
theorem execVst_issues (hf : badFld { ra := 64, rb := 32, imm := true, pred := true } f = false)
    (hfit : scrFits s sl (scrAddr x f) 512 64 = true) (hr : rangesClean s sl (halfRanges x f (scrAddr x f)) = true) :
    execVst sl f s =
      .next (movedOn s (storeLanes x f sl.cl (offOf s sl (scrAddr x f)) (vget x f.rb.toNat) s) sl f) := by
  obtain ⟨hal, hin⟩ := scrFits_iff.mp hfit
  rw [slotOf] at hx
  refine issue_of_done h ?_
  simp only [hx, hf, hal, hin, bne_self_eq_false, Bool.not_true, checks_no, checks_nil, readRanges_clean _ hr]
  rfl

theorem execVsta_issues (hf : badFld { ra := 8, rb := 32, rc := 64, pred := true } f = false)
    (hbusy : tileBusy x f.ra.toNat = false) {row : Nat} (hrow : (sget x f.rc).toNat % 64 = row) :
    execVsta sl f s = .next (slotTo s sl f (clearAcc
      (setAccRow x f.ra.toNat row (mergeLanes x f (accRow x f.ra.toNat row) (vget x f.rb.toNat)))
      (rowWords x f f.ra.toNat row))) := by
  rw [slotOf] at hx
  refine issue_of_done h ?_
  simp only [hx, hf, hrow, hbusy, checks_no, checks_nil, Bool.false_eq_true, if_false]

/-- VSTA waits for a pass that writes its tile. -/
theorem execVsta_waits (hf : badFld { ra := 8, rb := 32, rc := 64, pred := true } f = false)
    (hbusy : tileBusy x f.ra.toNat = true) : execVsta sl f s = .next s := by
  rw [slotOf] at hx
  refine issue_of_hold (f := f) h ?_
  simp only [hx, hf, hbusy, checks_no, checks_nil, if_true]

end

/-- Settles O7: the four answer in their active lanes, and the two of an accumulator tile wait while it is busy. -/
theorem vectorLoadsAndStores : Obligations.VectorLoadsAndStores := by
  intro s sl f h x a off row
  refine ⟨?_, fun hf hfit hr => execVst_issues h rfl hf hfit hr,
    fun hf => ⟨fun hb => execVsta_issues h rfl hf hb rfl, execVsta_waits h rfl hf⟩⟩
  intro u t y
  exact ⟨execVld_issues h rfl rfl, fun hf => ⟨execVlda_issues h rfl rfl hf, execVlda_waits h rfl rfl hf⟩⟩

/-! ### Unpack, pack and draw -/

/-- A register that names a place inside a tile (R131). -/
theorem rowCol_eq {v : B64} (h : (rowCol v).2.2 = false) : rowCol v = ((rowCol v).1, (rowCol v).2.1, false) :=
  Prod.ext rfl (Prod.ext rfl h)

/-- A statistics record that an instruction names can be written (R105, R132). -/
structure RecordOk (s : State) (sl : Slot) (va pa : Nat) : Prop where
  aligned : va % 64 = 0
  mapped : xlate s (some (sl.cl, sl.fil)) (slotCtx s sl.cl sl.fil) va .write = .ok pa

theorem RecordOk.withStat {s : State} {sl : Slot} {va pa : Nat} (h : RecordOk s sl va pa) (e : Eff) :
    withStat s sl va e = e := withStat_of_ok e h.aligned h.mapped

/-- A tile with elements that the vector class converts, and a place in it (R131). -/
structure TilePlace (d : TileD) (size i j : Nat) : Prop where
  tile : d.bad size = false
  notF32 : d.fmt ≠ 0
  notI32 : d.fmt ≠ 10
  row : i < d.lrows
  col : j < d.lcols

theorem TilePlace.checks {d : TileD} {size i j : Nat} (h : TilePlace d size i j) :
    (d.bad size || d.fmt == 0 || d.fmt == 10 || decide (d.lrows ≤ i) || decide (d.lcols ≤ j)) = false := by
  obtain ⟨hbad, h0, h10, hi, hj⟩ := h
  simp [hbad, h0, h10, hi, hj]

section

variable {s : State} {sl : Slot} {f : Fld} {x : SlotSt} {c : Ctx} {d : TileD} {va pa i j : Nat} (h : issues s sl = true)
  (hx : slotOf s sl = x)

include h hx

/-- VUNPK writes the decoded elements as far as the row reaches, the old lanes behind them. -/
theorem execVunpk_issues (hd : parseTile (tget x f.ra.toNat) = d) (hva : (sget x (extRe f)).toNat = va)
    (hf : badFld { f64 := false, f128 := true, rd := 32, ra := 16, rb := 64, ext := true, pred := true } f = false)
    (hext : bits f.ext 31 7 = 0) (habs : badAbsent f d = false) (hplace : TilePlace d (slotPart s sl.cl sl.fil).2 i j)
    (hrc : rowCol (sget x f.rb) = (i, j, false)) (hrec : RecordOk s sl va pa)
    (hr : rangesClean s sl (unpackRanges x f d i j) = true) :
    ∃ t, execVunpk sl f s = .next (movedOn s t sl f) ∧
      slotOf t sl = vset x f.rd.toNat (mergeLanes x f (vget x f.rd.toNat)
        ((unpackRow s sl x f d i j).1 ++ (vget x f.rd.toNat).drop (unpackRow s sl x f d i j).1.length)) := by
  have hok := hplace.checks
  simp only [Bool.or_assoc] at hok
  rw [slotOf] at hx
  generalize hrow : unpackRow s sl x f d i j = row
  obtain ⟨ls, e⟩ := row
  refine ⟨?t, issue_of_done h ?done, ?slot⟩
  case done =>
    simp only [hx, hd, hva, hf, hext, habs, hrc, hok, Bool.or_assoc, Bool.false_or, bne_self_eq_false, checks_no,
      checks_nil, hrec.withStat, readRanges_clean _ hr, hrow, ← apply_ite Eff.done]
    rfl
  case slot =>
    split
    · simp [slotOf, hx]
    · rw [slotOf_statAdd]
      simp [slotOf, hx]

/-- The codes of the elements of Va and Vb in a 16-bit format (R132). -/
def vpkCodes (c : Ctx) (x : SlotSt) (f : Fld) : List Nat :=
  (vget x f.ra.toNat ++ vget x f.rb.toNat).zipIdx.map fun p =>
    (cvtPlain (tyFmt (extFmt f)) (service c x.stepNo.toNat) (vecRnd c x.stepNo.toNat f (sget x f.rc).toNat p.2)
      (decode f32 p.1.toNat)).1

/-- VPK writes the packed codes; its record leaves the slot alone. -/
theorem execVpk_issues (hc : getCtx s (slotCtx s sl.cl sl.fil) = c) (hva : (sget x (extRe f)).toNat = va)
    (hf : badFld useVpk f = false) (hfmt : extFmt f = 1 ∨ extFmt f = 2) (hesc : extEsc f = 0)
    (hrec : RecordOk s sl va pa) :
    ∃ t, execVpk sl f s = .next (movedOn s t sl f) ∧
      slotOf t sl = vset x f.rd.toNat (mergeLanes x f (vget x f.rd.toNat) ((List.range 128).map fun i =>
        packEl ((vpkCodes c x f).getD (2 * i) 0) ((vpkCodes c x f).getD (2 * i + 1) 0))) := by
  have hok : (badFld useVpk f || !(extFmt f == 1 || extFmt f == 2) || extEsc f != 0) = false := by
    obtain h1 | h2 := hfmt
    · simp [hf, hesc, h1]
    · simp [hf, hesc, h2]
  rw [useVpk] at hok
  rw [slotOf] at hx
  refine ⟨?t, issue_of_done h ?done, ?slot⟩
  case done =>
    simp only [hx, hc, hva, hok, checks_no, checks_nil, hrec.withStat]
    rfl
  case slot =>
    have hcode : ∀ (l : List (Nat × Ctr)) (k : Nat), (l.getD k (0, {})).1 = (l.map (·.1)).getD k 0 := fun l k =>
      (List.getD_map l (0, {}) Prod.fst).symm
    rw [slotOf_statAdd, slotOf, getSlot_setSlot]
    simp only [hcode, List.map_map]
    rfl

/-- VPK.ST makes its writes, those in part to clean words, and adds to its record. -/
theorem execVpkSt_issues {step : Nat} {w : List Wr × Ctr} (hc : getCtx s (slotCtx s sl.cl sl.fil) = c)
    (hd : parseTile (tget x f.ra.toNat) = d) (hva : (sget x (extRe f)).toNat = va) (hstep : x.stepNo.toNat = step)
    (hf : badFld { f64 := false, f128 := true, ra := 16, rb := 32, rc := 64, imm32 := true, ext := true, pred := true } f
      = false)
    (hre : extRe f ≠ 63) (habs : badAbsent f d = false) (hfmt : extFmt f = 0 ∨ extFmt f = d.fmt)
    (hesc : extEsc f = 0 ∨ d.fmt = 8) (hplace : TilePlace d (slotPart s sl.cl sl.fil).2 i j)
    (hrc : rowCol (sget x f.rc) = (i, j, false)) (hrec : RecordOk s sl va pa)
    (hw : gridWrs d (service c step) (extEsc f) i j [packEls c x f d j (sget x (extRe f + 1)).toNat] = w)
    (hr : rangesClean s sl (wrsPart w.1) = true) :
    execVpkSt sl f s = .next (movedOn s (statAdd (putWrs sl.cl sl.fil w.1 s).1 (slotCtx s sl.cl sl.fil) va w.2 0 0 d.fmt
      (modeFor c step)).1 sl f) := by
  have hok := hplace.checks
  have hre' : (extRe f == 63) = false := by simpa using hre
  have hfmt' : (extFmt f == 0 || extFmt f == d.fmt) = true := by simpa using hfmt
  have hesc' : (extEsc f != 0 && d.fmt != 8) = false := by
    obtain h0 | h8 := hesc
    · simp [h0]
    · simp [h8]
  simp only [Bool.or_assoc] at hok
  rw [slotOf] at hx
  refine issue_of_done h ?_
  simp only [hx, hc, hd, hva, hstep, hf, hre', habs, hfmt', hesc', hrc, hok, Bool.not_true, Bool.or_assoc, Bool.false_or,
    checks_no, checks_nil, hrec.withStat, hw, readRanges_clean _ hr]

/-- The slot after VDRAW: COUNT registers from Vd on take Dill's outputs of domain 0x05 (R133). -/
def vdrawSlot (c : Ctx) (x : SlotSt) (f : Fld) : SlotSt :=
  (List.range (extFmt f)).foldl (fun y k =>
    vset y (f.rd.toNat + k) (mergeLanes y f (vget y (f.rd.toNat + k)) ((List.range 128).map fun i =>
      bv 32 ((dill c.seed.toNat x.stepNo.toNat (extStream f) ((sget x f.rc).toNat + i) f.imm32.toNat 5).getD k 0)))) x

theorem execVdraw_issues (hc : getCtx s (slotCtx s sl.cl sl.fil) = c)
    (hf : badFld { f64 := false, f128 := true, rd := 32, rc := 64, imm32 := true, ext := true, pred := true } f = false)
    (h1 : 1 ≤ extFmt f) (h4 : extFmt f ≤ 4) (hfit : f.rd.toNat + extFmt f ≤ 32) (hext : bits f.ext 11 0 = 0) :
    execVdraw sl f s = .next (slotTo s sl f (vdrawSlot c x f)) := by
  have hcount : (extFmt f == 0) = false := by simpa using Nat.one_le_iff_ne_zero.mp h1
  rw [slotOf] at hx
  refine issue_of_done h ?_
  simp only [hx, hc, hf, hcount, hext, Nat.not_lt.mpr h4, Nat.not_lt.mpr hfit, decide_false, Bool.or_false,
    bne_self_eq_false, checks_no, checks_nil, List.map_map]
  rfl

end

/-- Settles O8: with fields, tile, place and record that pass, each of the four answers with its effect. -/
theorem vectorUnpackPackAndDraw : Obligations.VectorUnpackPackAndDraw := by
  intro s sl f va pa h x id c step d size inRow recOk
  refine ⟨?_, ?_, ?_, fun hf h1 h4 hfit hext => execVdraw_issues h rfl rfl hf h1 h4 hfit hext⟩
  · rintro hf hext habs hbad h0 h10 ⟨hrc, hi, hj⟩ ⟨hva, hal, hpa⟩ hr
    exact execVunpk_issues h rfl rfl hva.symm hf hext habs ⟨hbad, h0, h10, hi, hj⟩ (rowCol_eq hrc) ⟨hal, hpa⟩ hr
  · rintro hf hfmt hesc ⟨hva, hal, hpa⟩
    exact execVpk_issues h rfl rfl hva.symm hf hfmt hesc ⟨hal, hpa⟩
  · rintro hf hre habs hfmt hesc hbad h0 h10 ⟨hrc, hi, hj⟩ ⟨hva, hal, hpa⟩ w hr
    exact execVpkSt_issues h rfl rfl rfl hva.symm rfl hf hre habs hfmt hesc ⟨hbad, h0, h10, hi, hj⟩ (rowCol_eq hrc)
      ⟨hal, hpa⟩ rfl hr

/-! ### Predicates and lanes -/

/-- Fields that pass let an instruction of the class change its slot. -/
theorem dataOp_issues {s : State} {sl : Slot} {f : Fld} {u : Use} {ok : Bool} {k : SlotSt → SlotSt}
    (h : issues s sl = true) (hf : badFld { u with pred := true, nf := true } f = false) (hok : ok = true) :
    dataOp sl f s u ok k = .next (slotTo s sl f (k (slotOf s sl))) := by
  refine issue_of_done h ?_
  simp only [hf, hok, Bool.not_true, Bool.or_false, checks_no, checks_nil]
  rfl

/-- Settles O9: every instruction of the table is `dataOp` with its fields, bound and effect. -/
theorem predicateAndLane : Obligations.PredicateAndLane := by
  intro s sl f h x p q n old
  have hone : n = 1 ↔ f.imm18 = 1 := by rw [← BitVec.toNat_inj]; rfl
  simp only [List.forall_mem_cons, List.not_mem_nil, false_implies, implies_true, and_true, hone]
  exact ⟨fun hf hn => dataOp_issues h hf (decide_eq_true hn), fun hf _ => dataOp_issues h hf rfl,
    fun hf _ => dataOp_issues h hf rfl, fun hf _ => dataOp_issues h hf rfl, fun hf _ => dataOp_issues h hf rfl,
    fun hf _ => dataOp_issues h hf rfl, fun hf _ => dataOp_issues h hf rfl,
    fun hf hn => dataOp_issues h hf (decide_eq_true hn), fun hf hn => dataOp_issues h hf (decide_eq_true hn),
    fun hf hn => dataOp_issues h hf (decide_eq_true hn)⟩

/-! ### Tile registers -/

/-- A number with the `w` bits from `lo` on replaced. -/
def putField (w lo n v : Nat) : Nat := v / 2 ^ (lo + w) * 2 ^ (lo + w) + n * 2 ^ lo + v % 2 ^ lo

theorem testBit_putField {w lo n : Nat} (hn : n < 2 ^ w) (v i : Nat) : (putField w lo n v).testBit i =
    if lo ≤ i ∧ i < lo + w then n.testBit (i - lo) else v.testBit i := by
  have hlow : v % 2 ^ lo < 2 ^ lo := Nat.mod_lt _ (Nat.two_pow_pos lo)
  have hmid : 2 ^ lo * n + v % 2 ^ lo < 2 ^ (lo + w) :=
    calc 2 ^ lo * n + v % 2 ^ lo < 2 ^ lo * (n + 1) := by rw [Nat.mul_succ]; omega
      _ ≤ 2 ^ lo * 2 ^ w := Nat.mul_le_mul_left _ hn
      _ = 2 ^ (lo + w) := (Nat.pow_add ..).symm
  rw [putField, Nat.add_assoc, Nat.mul_comm, Nat.mul_comm n, Nat.testBit_two_pow_mul_add _ hmid,
    Nat.testBit_two_pow_mul_add _ hlow, Nat.testBit_div_two_pow, Nat.testBit_mod_two_pow]
  by_cases hlo : i < lo
  · simp [hlo, Nat.not_le.mpr hlo, Nat.lt_add_right w hlo]
  · by_cases hhi : i < lo + w
    · simp [hlo, hhi, Nat.not_lt.mp hlo]
    · simp [hhi, Nat.sub_add_cancel (Nat.not_lt.mp hhi)]

section

variable {s : State} {sl : Slot} {f : Fld} {x : SlotSt} {a : Nat} (h : issues s sl = true) (hx : slotOf s sl = x)
  (ha : scrAddr x f = a)

include h hx

/-- Two fields of Td take Sa and Sb, which must fit them. -/
theorem tilePatch_issues {w lo1 lo2 v1 v2 : Nat} (hf : badFld { rd := 16, ra := 64, rb := 64 } f = false)
    (h1 : (sget x f.ra).toNat = v1) (h2 : (sget x f.rb).toNat = v2) (hv1 : v1 < 2 ^ w) (hv2 : v2 < 2 ^ w) :
    tilePatch sl f s w lo1 lo2 = .next (slotTo s sl f (tset x f.rd.toNat (bv 256
      (putField w lo2 v2 (putField w lo1 v1 (tget x f.rd.toNat).toNat))))) := by
  rw [slotOf] at hx
  refine issue_of_done h ?_
  simp only [hx, h1, h2, hf, Nat.not_le.mpr hv1, Nat.not_le.mpr hv2, decide_false, Bool.or_false, checks_no, checks_nil]
  rfl

include ha

theorem execTld_issues (hf : badFld { rd := 16, ra := 64, imm := true } f = false) (hfit : scrFits s sl a 32 32 = true)
    (hwait : mustWait x [(a, 32)] [] 0 0 = false) (hr : scrClean s sl a 32 = true) :
    execTld sl f s = .next (slotTo s sl f (tset x f.rd.toNat (bv 256 (leNat (scrRead s sl.cl (offOf s sl a) 32))))) := by
  obtain ⟨hal, hin⟩ := scrFits_iff.mp hfit
  rw [slotOf] at hx
  refine issue_of_done h ?_
  simp only [hx, ha, hf, hal, hin, hwait, bne_self_eq_false, Bool.not_true, checks_no, checks_nil, Bool.false_eq_true,
    if_false, readStep, readRanges_clean _ hr, updSlot, offOf]

/-- TLD and TST behind a pass that R86 names wait. -/
theorem execTld_waits (hf : badFld { rd := 16, ra := 64, imm := true } f = false) (hfit : scrFits s sl a 32 32 = true)
    (hwait : mustWait x [(a, 32)] [] 0 0 = true) : execTld sl f s = .next s := by
  obtain ⟨hal, hin⟩ := scrFits_iff.mp hfit
  rw [slotOf] at hx
  refine issue_of_hold (f := f) h ?_
  simp only [hx, ha, hf, hal, hin, hwait, bne_self_eq_false, Bool.not_true, checks_no, checks_nil, if_true]

theorem execTst_issues (hf : badFld { ra := 64, rb := 16, imm := true } f = false) (hfit : scrFits s sl a 32 32 = true)
    (hwait : mustWait x [] [(a, 32)] 0 0 = false) : execTst sl f s =
      .next (movedOn s (scrWrite s sl.cl (offOf s sl a) (leBytes 32 (tget x f.rb.toNat).toNat)) sl f) := by
  obtain ⟨hal, hin⟩ := scrFits_iff.mp hfit
  rw [slotOf] at hx
  refine issue_of_done h ?_
  simp only [hx, ha, hf, hal, hin, hwait, bne_self_eq_false, Bool.not_true, checks_no, checks_nil, Bool.false_eq_true,
    if_false]
  exact writeStep_aligned (by omega) (by rw [leBytes_length])

theorem execTst_waits (hf : badFld { ra := 64, rb := 16, imm := true } f = false) (hfit : scrFits s sl a 32 32 = true)
    (hwait : mustWait x [] [(a, 32)] 0 0 = true) : execTst sl f s = .next s := by
  obtain ⟨hal, hin⟩ := scrFits_iff.mp hfit
  rw [slotOf] at hx
  refine issue_of_hold (f := f) h ?_
  simp only [hx, ha, hf, hal, hin, hwait, bne_self_eq_false, Bool.not_true, checks_no, checks_nil, if_true]

end

/-- The field put into a word of `m` bits stands in its bits. -/
theorem extract_putField {m w lo n v : Nat} (hn : n < 2 ^ w) (hm : lo + w ≤ m) :
    (bv m (putField w lo n v)).extractLsb' lo w = BitVec.ofNat w n := by
  refine BitVec.eq_of_getLsbD_eq fun i hi => ?_
  have him : lo + i < m := by omega
  simp only [bv, BitVec.getLsbD_extractLsb', BitVec.getLsbD_ofNat, testBit_putField hn]
  simp [hi, him]

/-- Bits beside the field stay. -/
theorem extract_putField_beside {m w lo n v a k : Nat} (hn : n < 2 ^ w) (hout : a + k ≤ lo ∨ lo + w ≤ a) :
    (bv m (putField w lo n v)).extractLsb' a k = (bv m v).extractLsb' a k := by
  refine BitVec.eq_of_getLsbD_eq fun i hi => ?_
  have hne : ¬ (lo ≤ a + i ∧ a + i < lo + w) := by omega
  simp [bv, BitVec.getLsbD_ofNat, testBit_putField hn, hi, hne]

/-- Settles O10: the two moves with their waits, and the two patches with the bits that they leave. -/
theorem tileRegisters : Obligations.TileRegisters := by
  intro s sl f h x a off v w old
  have hold : bv 256 old.toNat = old := by simp [bv]
  refine ⟨fun hf hfit => ⟨execTld_issues h rfl rfl hf hfit, execTld_waits h rfl rfl hf hfit⟩,
    fun hf hfit => ⟨execTst_issues h rfl rfl hf hfit, execTst_waits h rfl rfl hf hfit⟩,
    fun hf => ⟨fun hv hw => ?_, fun hv hw => ?_⟩⟩
  · refine ⟨_, tilePatch_issues h rfl hf rfl rfl hv hw, ?_, extract_putField hw (by decide), ?_, ?_⟩
    · rw [extract_putField_beside hw (.inl (by decide)), extract_putField hv (by decide)]
    · rw [extract_putField_beside hw (.inl (by decide)), extract_putField_beside hv (.inl (by decide)), hold]
    · rw [extract_putField_beside hw (.inr (by decide)), extract_putField_beside hv (.inr (by decide)), hold]
  · refine ⟨_, tilePatch_issues h rfl hf rfl rfl hv hw, ?_, extract_putField hw (by decide), ?_⟩
    · rw [extract_putField_beside hw (.inl (by decide)), extract_putField hv (by decide)]
    · rw [extract_putField_beside hw (.inr (by decide)), extract_putField_beside hv (.inr (by decide)), hold]

end Sys2Proof.Machine
end

section
/-!
SUPPORT. The DMA, sync, collective and update classes (R135 to R138): what an instruction queues, marks, reads or waits
for, and how a transfer completes.
-/

namespace Sys2Proof.Machine

/-! ### DMA -/

/-- A governor's charge changes its debts and the count of suspensions alone. -/
theorem charge_only (s : State) (g : Gov) (w : Nat) : ∃ c q, charge s g w = (s.setClu c).setQue q := by
  have hdebt : ∀ d, ∃ c q, setDebt s g d = (s.setClu c).setQue q := fun d =>
    ⟨(setDebt s g d).clu, (setDebt s g d).que, by cases g <;> rfl⟩
  obtain ⟨c, q, hd⟩ := hdebt (govDebt s g + 1024 * w)
  unfold charge
  split
  · exact ⟨s.clu, s.que, rfl⟩
  · rw [hd]
    dsimp only
    split
    · exact ⟨c, _, rfl⟩
    · exact ⟨c, q, rfl⟩

theorem waited_only (sl : Slot) (w : Nat) (s : State) : ∃ c q, waited sl w s = (s.setClu c).setQue q := by
  unfold waited
  split
  · exact ⟨s.clu, s.que, rfl⟩
  · exact charge_only _ _ _

/-- The eight words of a descriptor at offset `a` of a slot's part. -/
def descWords (s : State) (sl : Slot) (a : Nat) : List B64 :=
  (List.range 8).map fun i => bv 64 (leNat (scrRead s sl.cl (offOf s sl a + 8 * i) 8))

/-- The transfer that DMA.GO issues with descriptor `ws` (R135). -/
def newXfer (s : State) (sl : Slot) (ws : List B64) : DmaX :=
  { n := s.dma.next, cl := sl.cl, fil := sl.fil, ctx := slotCtx s sl.cl sl.fil, desc := ws, step := (slotOf s sl).stepNo
    queue := slotQueue s (slotOf s sl), pc := (slotOf s sl).pc, since := ns s }

/-- The state with a transfer behind the others. -/
def addXfer (s : State) (v : DmaX) : State :=
  s.setDma { s.dma with xfers := s.dma.xfers ++ [v], next := s.dma.next + 1 }

section

variable {s : State} {sl : Slot} {f : Fld} (h : issues s sl = true)

include h

/-- DMA.GO queues the transfer of a well-formed descriptor that it can read, inside the slot's part (R135, Table 4-13). -/
theorem execDmaGo_issues {a : Nat} {ws : List B64} (w : Nat) (ha : (sget (slotOf s sl) f.ra).toNat = a)
    (hws : descWords s sl a = ws) (hf : badFld { ra := 64 } f = false) (hfit : scrFits s sl a 64 64 = true)
    (hr : scrClean s sl a 64 = true) (hbad : (parseDma ws).bad = false)
    (hin : (parseDma ws).beyond (slotPart s sl.cl sl.fil).2 = none) :
    execDmaGo sl f w s = .next (movedOn s (waited sl w (addXfer s (newXfer s sl ws))) sl f) := by
  obtain ⟨hal, hinp⟩ := scrFits_iff.mp hfit
  have hclean := (meetWords_of_rangesClean hr).1
  rw [descWords, offOf] at hws
  rw [slotOf] at ha
  refine issue_of_done h ?_
  simp only [ha, hws, hf, hal, hinp, hclean, hbad, hin, beq_self_eq_true, bne_self_eq_false, Option.isNone_none,
    Option.isSome_none, Bool.and_true, Bool.and_false, Bool.or_false, Bool.not_true, if_true, checks_no, checks_nil,
    readRanges_clean _ hr]
  rfl

theorem execDmaCnt_issues (hf : badFld { rd := 64 } f = false) : execDmaCnt sl f s =
    .next (slotTo s sl f (sset (slotOf s sl) f.rd (bv 64 (xfersOf s sl.cl sl.fil).length))) :=
  issue_of_done h (by simp only [hf, checks_no, checks_nil]; rfl)

theorem execDmaDrain_issues (hf : badFld {} f = false) (hn : (xfersOf s sl.cl sl.fil).length = 0) :
    execDmaDrain sl f s = .next (movedOn s s sl f) :=
  issue_of_done h (by
    simp only [hf, List.length_eq_zero_iff.mp hn, List.isEmpty_nil, if_true, checks_no, checks_nil])

/-- DMA.DRAIN waits for the slot's transfers. -/
theorem execDmaDrain_waits (hf : badFld {} f = false) (hn : (xfersOf s sl.cl sl.fil).length ≠ 0) :
    execDmaDrain sl f s = .next s := by
  have hne : (xfersOf s sl.cl sl.fil).isEmpty = false := by
    rw [List.isEmpty_eq_false_iff]
    exact fun he => hn (by rw [he]; rfl)
  exact issue_of_hold h (by simp only [hf, hne, Bool.false_eq_true, if_false, checks_no, checks_nil])

end

/-- A transfer whose every piece moves signals where its descriptor asks for it (R136, R226). -/
theorem execDmaComplete_moves {s s1 : State} {v : DmaX} {u : Upset} {l : LineRead}
    (hfind : s.dma.xfers.find? (fun y => y.n == v.n) = some v) (hruns : slotRuns s v.cl v.fil = true)
    (hlink : s.dev.linkUp = true ∨ dmaHost s v (parseDma v.desc) = false)
    (hmove : dmaMove v (parseDma v.desc) (parseDma v.desc).pieces (injectLine (inject
      (s.setDma { s.dma with xfers := s.dma.xfers.filter fun y => y.n != v.n }) v.cl v.fil u) l) = (s1, none)) :
    execDmaComplete v.n u l s = .next (flrSettle (if (parseDma v.desc).sigEn then
      engineSig s1 3 (parseDma v.desc).sync (parseDma v.desc).sigVal v.cl v.fil v.ctx v.queue else s1)) := by
  have hgo : ¬ ((!slotRuns s v.cl v.fil) = true ∨
      ((!s.dev.linkUp) = true ∧ dmaHost s v (parseDma v.desc) = true)) := by
    obtain hup | hno := hlink
    · simp [hruns, hup]
    · simp [hruns, hno]
  rw [execDmaComplete, hfind]
  simp only [if_neg hgo, hmove]

/-- Settles O13: a transfer is queued behind the slot's others, counted and drained, and its completion signals. -/
theorem dmaTransfers : Obligations.DmaTransfers := by
  refine ⟨fun s sl f h => ?_, fun s s1 v u l hfind hruns hlink hmove => ?_⟩
  · intro x a off ws n
    refine ⟨fun w hf hfit hr hbad hin => ?_, fun hf => execDmaCnt_issues h hf, fun hf hn => execDmaDrain_issues h hf hn,
      fun hf hn => execDmaDrain_waits h hf hn⟩
    refine ⟨_, execDmaGo_issues (ws := ws) h w rfl rfl hf hfit hr hbad hin, ?_⟩
    obtain ⟨c, q, hw⟩ := waited_only sl w (addXfer s (newXfer s sl ws))
    rw [hw]
    exact ⟨rfl, rfl, rfl, newXfer s sl ws, rfl, rfl, rfl, rfl, rfl, rfl, rfl⟩
  · rw [exec_dmaComplete, execDmaComplete_moves hfind hruns hlink hmove, apply_ite flrSettle]

/-! ### Sync -/

/-- A handle register whose high half is 0 names an object of this device. -/
theorem local_of_high_zero {v : B64} (h : bits v 63 32 = 0) : bits v 63 50 = 0 ∧ bit v 49 = false := by
  have hlt : v.toNat < 2 ^ 32 := by
    simp only [bits, Nat.shiftRight_eq_div_pow] at h
    omega
  refine ⟨?_, ?_⟩
  · simp only [bits, Nat.shiftRight_eq_div_pow]
    omega
  · exact Nat.testBit_lt_two_pow (by omega)

section

variable {s : State} {sl : Slot} {f : Fld} {o : SObj} {v : B64} {bad : Bool} {k : SObj → Eff}

/-- A signal to an object here sets out when no matrix pass of the slot is in flight (R225). -/
theorem sendSig_of_object {amount : B64} {arr : Bool} (hbad : bad = false) (hhigh : bits v 63 32 = 0)
    (hobj : objFor s (v.extractLsb' 0 32) = some o) (huse : mayUse s sl o = true) (hty : arr = true → o.ty = .barrier)
    (hp : (slotOf s sl).passes = []) :
    sendSig s sl bad v amount arr = .done (emit s (slotSig s sl (v.extractLsb' 0 32) amount arr)) := by
  obtain ⟨hresv, hhere⟩ := local_of_high_zero hhigh
  have hwrong : (arr && o.ty != .barrier) = false := by
    cases arr with
    | false => rfl
    | true => simp [hty rfl]
  rw [slotOf] at hp
  simp only [sendSig, hbad, hresv, hhere, hobj, huse, hwrong, hp, List.isEmpty_nil, bne_self_eq_false, Bool.or_false,
    Bool.not_true, Bool.false_eq_true, if_false]
  rfl

/-- An operation on an object here follows the slot's own signals to it (R217). -/
theorem onObj_waits {fits : SObj → Bool} (hbad : bad = false) (hhigh : bits v 63 32 = 0)
    (hway : onWay s (srcOf (slotWho s sl)) (v.extractLsb' 0 32) = true) : onObj s sl bad v fits k = .hold s := by
  simp only [onObj, hbad, hhigh, hway, bne_self_eq_false, Bool.or_false, Bool.false_eq_true, if_false, if_true]

theorem onObj_of_object {fits : SObj → Bool} (hbad : bad = false) (hhigh : bits v 63 32 = 0)
    (hway : onWay s (srcOf (slotWho s sl)) (v.extractLsb' 0 32) = false)
    (hobj : objFor s (v.extractLsb' 0 32) = some o) (hfits : fits o = true) (huse : mayUse s sl o = true) :
    onObj s sl bad v fits k = k o := by
  simp only [onObj, hbad, hhigh, hway, hobj, hfits, huse, bne_self_eq_false, Bool.or_false, Bool.not_true,
    Bool.false_eq_true, if_false]

/-- The state with a slot held at an object until its condition holds (R232). -/
def heldAt (s : State) (sl : Slot) (f : Fld) (h : B32) (o : SObj) (cond : Nat) (arg : B64) : State :=
  updSlot (setObj s (hIdx h) { o with waiters := o.waiters ++
    [{ src := .slot sl.cl sl.fil, who := slotWho s sl, cond := cond, arg := arg, deadline := deadlineOf s o
       dur := waitDur s o }] })
    sl.cl sl.fil fun y => { y with wait := some ⟨h, y.pc + insLen f, ns s⟩ }

theorem issue_of_waitAt {cls cond : Nat} {h : B32} {arg : B64} {body : State → Eff} (hi : issues s sl = true)
    (hb : body s = waitAt s sl f h o cond arg) : issue sl cls f s body = if condMet o cond arg then
      .next (movedOn s (setObj s (hIdx h) (taken o ⟨.slot sl.cl sl.fil, 0, cond, arg, none, 0⟩)) sl f)
      else .next (heldAt s sl f h o cond arg) := by
  unfold waitAt at hb
  split at hb
  next hmet => rw [if_pos hmet, issue_of_done hi hb]
  next hmet => rw [if_neg hmet, issue_of_hold hi hb]; rfl

/-- A condition of WAIT takes nothing from the object. -/
theorem taken_of_wait {w : Waiter} (h : w.cond ≤ 2) : taken o w = o := by
  have hne : w.cond ≠ 3 := by omega
  rw [taken, if_neg hne]

end

section

variable {s : State} {sl : Slot} {f : Fld} {o : SObj} {v : B64} {hd : B32} (h : issues s sl = true)
  (hv : sget (slotOf s sl) f.ra = v) (hh : v.extractLsb' 0 32 = hd) (hhigh : bits v 63 32 = 0) (hobj : objFor s hd = some o)
  (huse : mayUse s sl o = true)

include h hv hh hhigh hobj huse

theorem execSig_issues (hf : badFld (useB { ra := 64 } 64 f) f = false) (hp : (slotOf s sl).passes = []) :
    execSig sl f s = .next (movedOn s (emit s (slotSig s sl hd (sOperand (slotOf s sl) f) false)) sl f) := by
  subst hv hh
  exact issue_of_done h (sendSig_of_object hf hhigh hobj huse (by simp) hp)

theorem execArrive_issues (hf : badFld { ra := 64, rb := 64 } f = false) (hp : (slotOf s sl).passes = [])
    (hty : o.ty = .barrier) : execArrive sl f s = .next (movedOn s
      (emit s (slotSig s sl hd (bv 64 ((sget (slotOf s sl) f.rb).toNat % 2 ^ 16)) true)) sl f) := by
  subst hv hh
  exact issue_of_done h (sendSig_of_object hf hhigh hobj huse (fun _ => hty) hp)

omit huse in
theorem execSread_waits (hf : badFld { rd := 64, ra := 64 } f = false)
    (hway : onWay s (srcOf (slotWho s sl)) hd = true) : execSread sl f s = .next s := by
  subst hv hh
  exact issue_of_hold h (onObj_waits hf hhigh hway)

variable (hway : onWay s (srcOf (slotWho s sl)) hd = false)

include hway

/-- WAIT goes on when its condition holds, and is held at the object when it does not (R232). -/
theorem execWait_issues {cond : Nat} {arg : B64} (hcond : f.imm18.toNat = cond) (hle : cond ≤ 2)
    (hfits : condFits o cond = true) (hf : badFld { ra := 64, rb := 64, imm := true } f = false)
    (harg : (if cond = 2 then bv 64 ((sget (slotOf s sl) f.rb).toNat % 2 ^ 16) else sget (slotOf s sl) f.rb) = arg) :
    execWait sl f s = if condMet o cond arg then .next (movedOn s (setObj s (hIdx hd) o) sl f)
      else .next (heldAt s sl f hd o cond arg) := by
  subst hv hh hcond harg
  have hok : (badFld { ra := 64, rb := 64, imm := true } f || decide (2 < f.imm18.toNat)) = false := by
    simp [hf, hle]
  refine (issue_of_waitAt h (onObj_of_object hok hhigh hway hobj hfits huse)).trans ?_
  rw [taken_of_wait hle]
  rfl

/-- CONS takes SET when it is 1, and is held at the flag when it is 0 (R223, R232). -/
theorem execCons_issues (hf : badFld { ra := 64 } f = false) (hty : o.ty = .flag) :
    execCons sl f s = if o.set then .next (movedOn s (setObj s (hIdx hd) { o with set := false }) sl f)
      else .next (heldAt s sl f hd o 3 0) := by
  subst hv hh
  have hfits : condFits o 3 = true := by simp [condFits, hty]
  exact (issue_of_waitAt h (onObj_of_object hf hhigh hway hobj hfits huse)).trans rfl

theorem execSread_issues (hf : badFld { rd := 64, ra := 64 } f = false) :
    execSread sl f s = .next (slotTo s sl f (sset (slotOf s sl) f.rd (bv 64 (match o.ty with
      | .flag => soFlags o + o.regStep % 2 ^ 32 * 2 ^ 32
      | _ => soValue o)))) := by
  subst hv hh
  exact issue_of_done h (onObj_of_object hf hhigh hway hobj rfl huse)

/-- CREG of a free flag for a step that is not past registers it, or gives the notice of a decided step (R228). -/
theorem execCreg_issues {t : State} {job : B32} {step : Nat} (hjob : (getCtx s (slotCtx s sl.cl sl.fil)).job = job)
    (hstep : (sget (slotOf s sl) f.rb).toNat = step) (hf : badFld { ra := 64, rb := 64 } f = false) (hty : o.ty = .flag)
    (hreg : o.reg = false) (hpast : ∀ n, lastDecided s job = some n → n ≤ step)
    (ht : (match decidedAs s job step with
      | none => setObj s (hIdx hd) { o with reg := true, regStep := step, regJob := (getCtx s o.ctx).job }
      | some out => applySig (setObj s (hIdx hd) { o with regStep := step, notice := noticeCode out })
        ⟨0, hd, 1, mkSig s 7 0 false 0 o.ctx, false, none, none, false, none⟩) = t) :
    execCreg sl f s = .next (movedOn s t sl f) := by
  subst hv hh hjob hstep ht
  simp only [slotOf] at *
  refine issue_of_done h ((onObj_of_object ?bad hhigh hway hobj ?fits huse).trans ?_)
  case bad =>
    cases hlast : lastDecided s (getCtx s (slotCtx s sl.cl sl.fil)).job with
    | none => simpa using hf
    | some n => simpa [hf] using hpast n hlast
  case fits => simp [hty, hreg]
  cases decidedAs s (getCtx s (slotCtx s sl.cl sl.fil)).job (sget (getSlot s sl.cl sl.fil) f.rb).toNat with
  | none => rfl
  | some out => rfl

end

/-- Settles O14: each of the six passes the checks of its object and has its effect, or waits. -/
theorem syncInstructions : Obligations.SyncInstructions := by
  intro s sl f o h x a hd who go sent held hhigh hobj huse
  refine ⟨fun hf hp => execSig_issues h rfl rfl hhigh hobj huse hf hp,
    fun hf hp hty => execArrive_issues h rfl rfl hhigh hobj huse hf hp hty, fun cond arg hcond hle hfits hf harg hway => ?_,
    fun hf hty hway => execCons_issues h rfl rfl hhigh hobj huse hway hf hty,
    fun hf hway => execSread_waits h rfl rfl hhigh hobj hf hway,
    fun hf hway => execSread_issues h rfl rfl hhigh hobj huse hway hf, ?_⟩
  · exact execWait_issues h rfl rfl hhigh hobj huse hway hcond.symm hle hfits hf harg.symm
  · intro hf hty hreg hway job step hpast
    refine ⟨fun hdec => ?_, fun out hdec => ?_⟩
    · exact execCreg_issues h rfl rfl hhigh hobj huse hway rfl rfl hf hty hreg hpast (by rw [hdec])
    · exact execCreg_issues h rfl rfl hhigh hobj huse hway rfl rfl hf hty hreg hpast (by rw [hdec])

/-! ### Collectives and updates -/

section

variable {s : State} {sl : Slot} {f : Fld} (h : issues s sl = true)

include h

/-- COLL.GO gives the descriptor that it reads to Borage (R273). -/
theorem execCollGo_issues {a : Nat} {u : State} {bs : List Byte} (ha : (sget (slotOf s sl) f.ra).toNat = a)
    (hf : badFld { ra := 64 } f = false) (hal : a % 64 = 0) (hroom : activeColls s < 1024)
    (hload : loadVa s (slotCtx s sl.cl sl.fil) a 128 = (u, bs, none)) : execCollGo sl f s =
      .next (movedOn s (goColl u sl ((groupsOf 8 bs).map fun b => bv 64 (leNat b)) a) sl f) := by
  rw [slotOf] at ha
  refine issue_of_done h ?_
  simp only [ha, hf, hal, Nat.not_le.mpr hroom, hload, bne_self_eq_false, if_false, checks_no, checks_nil]

/-- COLL.GO waits while 1,024 collectives are active (R273). -/
theorem execCollGo_waits (hf : badFld { ra := 64 } f = false) (hal : (sget (slotOf s sl) f.ra).toNat % 64 = 0)
    (hfull : 1024 ≤ activeColls s) : execCollGo sl f s = .next s := by
  rw [slotOf] at hal
  refine issue_of_hold (f := f) h ?_
  simp only [hf, hal, hfull, bne_self_eq_false, if_true, checks_no, checks_nil]

theorem execCollNf_issues (hf : badFld {} f = false) :
    execCollNf sl f s = .next (movedOn s (nfMark s (slotJob s sl) (slotOf s sl).stepNo.toNat) sl f) :=
  issue_of_done h (by simp only [hf, checks_no, checks_nil]; rfl)

/-- COLL.Q of a collective that its group knows (R276). -/
theorem execCollQ_issues {v : B64} {i : Nat} {g : Grp} {c : Coll} (hv : sget (slotOf s sl) f.ra = v)
    (hf : badFld { rd := 64, ra := 64 } f = false) (hgrp : grpFor s (v.extractLsb' 0 32) = some (i, g))
    (hlast : (s.col.colls.filter fun c => c.grp == i && c.gen = g.gen && c.step == (slotOf s sl).stepNo.toNat &&
      c.seq == bits v 63 32).getLast? = some c) : execCollQ sl f s = .next (slotTo s sl f
        (sset (slotOf s sl) f.rd (bv 64 (c.st.code * 2 ^ 60 + c.attempt % 256 * 2 ^ 52)))) := by
  rw [slotOf] at *
  refine issue_of_done h ?_
  simp only [hv, hf, hgrp, hlast, checks_no, checks_nil]

/-- An update instruction gives its command to Rosemary (R251). -/
theorem updIssue_issues {i : Instr} {u : Use} {kind : UKind} {a b : Nat} (hi : exec i s = updIssue sl f s u kind)
    (ha : (sget (slotOf s sl) f.ra).toNat = a) (hb : (if kind = .exp then (sget (slotOf s sl) f.rb).toNat else 0) = b)
    (hf : badFld u f = false) (hal : a % 256 = 0) (hbl : b % 4096 = 0) :
    exec i s = .next (movedOn s (updTake s (newUCmd s sl kind a b)) sl f) := by
  rw [slotOf] at ha hb
  refine hi.trans (issue_of_done h ?_)
  simp only [ha, hb, hf, hal, hbl, bne_self_eq_false, checks_no, checks_nil]

end

/-- A collective whose form and tables pass is queued behind those of other numbers (R273). -/
theorem goColl_queues {s s1 : State} {sl : Slot} {ws : List B64} {addr i : Nat} {g : Grp} {c : Coll}
    (hgrp : grpFor s (bv 32 ((ws.getD 0 0).toNat / 2 ^ 32)) = some (i, g)) (hform : (newColl s sl ws i g).badForm = false)
    (hs1 : meetTables s (newColl s sl ws i g) g = s1) (hok : checkColl s1 (newColl s sl ws i g) g = .ok c) :
    goColl s sl ws addr = s1.setCol { s1.col with
      colls := s1.col.colls.filter (fun d => !c.sameNumber d) ++ [c], next := s1.col.next + 1 } := by
  subst hs1
  rw [goColl, hgrp]
  simp only [hform, Bool.false_eq_true, if_false, hok]

/-- Settles O15: the collective class by instruction, the five updates as `updIssue`. -/
theorem collectiveAndUpdateInstructions : Obligations.CollectiveAndUpdateInstructions := by
  intro s sl f h x a job go
  refine ⟨?_, fun hf hal hfull => execCollGo_waits h hf hal hfull, fun hf => execCollNf_issues h hf,
    fun i g c hf hgrp hlast => execCollQ_issues h rfl hf hgrp hlast, fun hf hal => ?_,
    fun hf hal hbl => updIssue_issues h (exec_updExp sl f s) rfl rfl hf hal hbl⟩
  · intro u bs i g c hf hal hroom hload ws c0 u1 hgrp hform hok
    rw [exec_collGo, execCollGo_issues h rfl hf hal hroom hload, goColl_queues hgrp hform rfl hok]
  · simp only [List.forall_mem_cons, List.not_mem_nil, false_implies, implies_true, and_true]
    exact ⟨updIssue_issues h (exec_updA sl f s) rfl rfl hf hal rfl, updIssue_issues h (exec_updB sl f s) rfl rfl hf hal rfl,
      updIssue_issues h (exec_updAb sl f s) rfl rfl hf hal rfl, updIssue_issues h (exec_updOut sl f s) rfl rfl hf hal rfl⟩

end Sys2Proof.Machine
end

section
/-!
SUPPORT. Sending and the journal (R164 to R171, R313 to R327): what a message that is sent can change, what choosing the
depths leaves, and how an entry reads after a change and after its copies.
-/

namespace Sys2Proof.Machine

/-! ### Sending -/

/-- The state with the five parts that sending can change put in. -/
def State.sent (s : State) (n : Nat) (c : Sec) (f : Fab) (e : Err) (d : Dev) : State :=
  { s with free := n, sec := c, fab := f, err := e, dev := d }

/-- What sending can change: the free values drawn, the cryptography, the fabric, the rings and the interrupt state;
keep-alive mode stands. -/
def OnlySent (s t : State) : Prop := ∃ n c f e d, t = s.sent n c f e d ∧ e.ka = s.err.ka

theorem OnlySent.refl (s : State) : OnlySent s s := ⟨s.free, s.sec, s.fab, s.err, s.dev, rfl, rfl⟩

theorem OnlySent.trans {s t u : State} (h : OnlySent s t) (k : OnlySent t u) : OnlySent s u := by
  obtain ⟨n, c, f, e, d, rfl, hk⟩ := h
  obtain ⟨m, x, g, y, z, rfl, kk⟩ := k
  exact ⟨m, x, g, y, z, rfl, kk.trans hk⟩

theorem OnlySent.fab (s : State) (f : Fab) : OnlySent s (s.setFab f) := ⟨s.free, s.sec, f, s.err, s.dev, rfl, rfl⟩

theorem OnlySent.sec (s : State) (c : Sec) : OnlySent s (s.setSec c) := ⟨s.free, c, s.fab, s.err, s.dev, rfl, rfl⟩

theorem OnlySent.spine (s : State) (x : Rec) : OnlySent s (logSpine s x) := by
  obtain ⟨e, d, h, hk⟩ := logSpine_only s x
  exact ⟨s.free, s.sec, s.fab, e, d, h, hk⟩

/-- Sending leaves the journal as it is. -/
theorem OnlySent.jrn {s t : State} (h : OnlySent s t) : t.jrn = s.jrn := by
  obtain ⟨n, c, f, e, d, rfl, -⟩ := h
  rfl

theorem drawnAt_sent (s : State) (h : Half) : OnlySent s (drawnAt s h) :=
  ⟨s.free + 4, (drawnAt s h).sec, s.fab, s.err, s.dev, rfl, rfl⟩

theorem useMask_sent (s : State) (h : Half) (n : Nat) : OnlySent s (useMask s h n) := by
  unfold useMask
  dsimp only
  split_ifs
  · exact .refl s
  · exact .sec s _
  · exact (OnlySent.sec s _).trans ((drawnAt_sent _ h).trans (.sec _ _))

theorem pushMsg_sent (s : State) (p : Nat) (o : OutM) : OnlySent s (pushMsg s p o) :=
  ⟨s.free + 1, s.sec, (pushMsg s p o).fab, s.err, s.dev, rfl, rfl⟩

theorem transmit_sent (s : State) (o : OutM) : OnlySent s (transmit s o) := by
  have hmask : ∀ p, OnlySent s (if o.m.enc then useMask s (portHalf p) (0x38 + o.m.payload.length) else s) := by
    intro p
    split
    · exact useMask_sent s _ _
    · exact .refl s
  unfold transmit
  split
  · exact .refl s
  · split
    · exact .fab s _
    · split
      · exact .refl s
      · exact (hmask _).trans ((OnlySent.fab _ _).trans (pushMsg_sent _ _ _))

theorem useSess_sent (s : State) (p : Peer) : OnlySent s (useSess s p) := by
  unfold useSess
  split
  · exact .sec s _
  · exact .refl s

theorem putConn_sent (s : State) (c : Conn) : OnlySent s (putConn s c) := by
  unfold putConn
  split
  · exact .fab s _
  · exact .fab s _

theorem sendNow_sent (s : State) (m : Msg) (body : Body) (enc : Bool) : OnlySent s (sendNow s m body enc) := by
  have huse : OnlySent s (if enc then useSess s m.dst else s) := by
    split
    · exact useSess_sent s _
    · exact .refl s
  exact huse.trans ((putConn_sent _ _).trans (transmit_sent _ _))

theorem putAtt_sent (s : State) (a : Att) : OnlySent s (putAtt s a) := .sec s _

theorem hedged_sent (s : State) : OnlySent s (hedged s) := drawnAt_sent s _

theorem startAtt_sent (s : State) (d : Peer) : OnlySent s (startAtt s d) := by
  have hdrawn : OnlySent s (hedged (hedged (hedged (hedged s)))) :=
    (hedged_sent _).trans ((hedged_sent _).trans ((hedged_sent _).trans (hedged_sent _)))
  unfold startAtt sendSess
  exact hdrawn.trans ((putAtt_sent _ _).trans (sendNow_sent _ _ _ _))

theorem sessRoom_sent {s t : State} {d : Peer} (h : sessRoom s d = some t) : OnlySent s t := by
  unfold sessRoom at h
  split at h
  · cases h
    exact .refl s
  · split at h
    · cases h
    · cases h
      exact (OnlySent.sec s _).trans (.spine _ _)

theorem needSession_sent (s : State) (d : Peer) : OnlySent s (needSession s d) := by
  unfold needSession
  split
  · exact .refl s
  · split
    · next hroom => exact (sessRoom_sent hroom).trans (startAtt_sent _ d)
    · exact putAtt_sent s _

theorem sendOne_sent (s : State) (m : Msg) (body : Body) : OnlySent s (sendOne s m body) := by
  unfold sendOne
  split
  · exact .refl s
  · dsimp only
    split_ifs
    · exact .fab s _
    · exact (OnlySent.fab s _).trans (needSession_sent _ _)
    · exact .fab s _
    · exact sendNow_sent s m body _

/-- A message sent, in one part or several, changes what sending can change. -/
theorem send_sent (s : State) (m : Msg) (body : Body) : OnlySent s (send s m body) := by
  unfold send
  generalize msgParts m body = ps
  induction ps generalizing s with
  | nil => exact .refl s
  | cons p ps ih => exact (sendOne_sent s p.1 p.2).trans (ih _)

/-! ### Depths and the region -/

theorem trimDepth_only (s : State) (fil : Bool) (job : B32) (d : Nat) :
    ∃ l, trimDepth s fil job d = s.setJrn { s.jrn with entries := l } := ⟨_, rfl⟩

/-- A depth chosen anew changes the journal, the rings and the interrupt state; of the journal EN, MAX_DEPTH and the
other job's depth stand. -/
theorem newDepth_only (s : State) (fil : Bool) (d : Nat) :
    ∃ j e v, newDepth s fil d = ((s.setJrn j).setErr e).setDev v ∧ j.en = s.jrn.en ∧ j.maxDepth = s.jrn.maxDepth ∧
      (j.depthP, j.depthF) = if fil then (s.jrn.depthP, d) else (d, s.jrn.depthF) := by
  have hset : ∃ j, setDepth s fil d = s.setJrn j ∧ j.en = s.jrn.en ∧ j.maxDepth = s.jrn.maxDepth ∧
      (j.depthP, j.depthF) = if fil then (s.jrn.depthP, d) else (d, s.jrn.depthF) := by
    cases fil
    · exact ⟨{ s.jrn with depthP := d }, rfl, rfl, rfl, rfl⟩
    · exact ⟨{ s.jrn with depthF := d }, rfl, rfl, rfl, rfl⟩
  obtain ⟨j, hj, hen, hmax, hdepth⟩ := hset
  unfold newDepth
  split
  · next hsame =>
    refine ⟨s.jrn, s.err, s.dev, rfl, rfl, rfl, ?_⟩
    cases fil
    · exact congrArg (·, s.jrn.depthF) hsame
    · exact congrArg (s.jrn.depthP, ·) hsame
  · split
    · next r _ =>
      obtain ⟨l, hl⟩ := trimDepth_only (setDepth s fil d) fil r.job d
      rw [hl, hj, logDepth]
      obtain ⟨e, v, hlog, -⟩ := logSpine_only ((s.setJrn j).setJrn { (s.setJrn j).jrn with entries := l }) _
      exact ⟨{ j with entries := l }, e, v, hlog, hen, hmax, hdepth⟩
    · exact ⟨j, s.err, s.dev, hj, hen, hmax, hdepth⟩

/-- The depths chosen again are those of R166, and nothing but the journal, the rings and the interrupt state changes. -/
theorem rechoose_only (s : State) :
    ∃ j e v, rechoose s = ((s.setJrn j).setErr e).setDev v ∧ j.en = s.jrn.en ∧ j.maxDepth = s.jrn.maxDepth ∧
      (j.depthP, j.depthF) = newDepths s := by
  unfold rechoose
  obtain ⟨p, f⟩ := newDepths s
  obtain ⟨j, e, v, hp, hen, hmax, hdepth⟩ := newDepth_only s false p
  obtain ⟨k, x, y, hf, ken, kmax, kdepth⟩ := newDepth_only (newDepth s false p) true f
  rw [hp] at hf ken kmax kdepth
  simp only [Bool.false_eq_true, if_false, if_true, Prod.mk.injEq] at hdepth kdepth
  obtain ⟨hjp, -⟩ := hdepth
  obtain ⟨hkp, hkf⟩ := kdepth
  refine ⟨k, x, y, (congrArg (newDepth · true f) hp).trans hf, ken.trans hen, kmax.trans hmax, ?_⟩
  rw [hkp, hkf]
  exact congrArg (·, f) hjp

@[simp] theorem rechoose_mem (s : State) : (rechoose s).mem = s.mem := by
  obtain ⟨j, e, v, h, -⟩ := rechoose_only s
  rw [h, State.setDev_mem, State.setErr_mem, State.setJrn_mem]

@[simp] theorem rechoose_frm (s : State) : (rechoose s).frm = s.frm := by
  obtain ⟨j, e, v, h, -⟩ := rechoose_only s
  rw [h, State.setDev_frm, State.setErr_frm, State.setJrn_frm]

theorem leaveRegion_only (s : State) : ∃ f, leaveRegion s = s.setFrm f := by
  unfold leaveRegion
  split
  · exact ⟨s.frm, rfl⟩
  · exact ⟨_, rfl⟩

/-! ### Entries -/

/-- The state of an entry, if there is one (Table 5-7). -/
def entSt (s : State) (fil outer : Bool) (step : Nat) : Option JSt := (findEnt s fil outer step).map (·.st)

theorem findEnt_of_jrn {s t : State} (h : t.jrn = s.jrn) (fil outer : Bool) (step : Nat) :
    findEnt t fil outer step = findEnt s fil outer step := by
  rw [findEnt, h, findEnt]

theorem entSt_of_jrn {s t : State} (h : t.jrn = s.jrn) (fil outer : Bool) (step : Nat) :
    entSt t fil outer step = entSt s fil outer step := by
  rw [entSt, findEnt_of_jrn h, entSt]

/-- Sealing an entry changes its headers' JE_HCRC alone. -/
theorem JEnt.sealed_only (e : JEnt) : ∃ c, e.sealed = { e with hcrc := c } := ⟨_, rfl⟩

@[simp] theorem JEnt.is_sealed (e : JEnt) : e.sealed.is = e.is := by
  obtain ⟨c, h⟩ := e.sealed_only
  rw [h]
  rfl

@[simp] theorem JEnt.st_sealed (e : JEnt) : e.sealed.st = e.st := by
  obtain ⟨c, h⟩ := e.sealed_only
  rw [h]

@[simp] theorem JEnt.reported_sealed (e : JEnt) : e.sealed.reported = e.reported := by
  obtain ⟨c, h⟩ := e.sealed_only
  rw [h]

section

variable {fil outer : Bool} {step : Nat} {f : JEnt → JEnt} (hkey : ∀ e, (f e).is fil outer step = e.is fil outer step)

include hkey

/-- An entry changed, with its key kept, is found as changed. -/
theorem findEnt_mapEnt (s : State) :
    findEnt (mapEnt s fil outer step f) fil outer step = (findEnt s fil outer step).map fun e => (f e).sealed := by
  have hsame : (JEnt.is · fil outer step) ∘ (fun e => if e.is fil outer step then (f e).sealed else e) =
      (JEnt.is · fil outer step) := by
    funext e
    rw [Function.comp]
    split
    · rw [JEnt.is_sealed, hkey]
    · rfl
  rw [findEnt, findEnt, mapEnt, State.setJrn_jrn, List.find?_map, hsame]
  cases he : s.jrn.entries.find? (JEnt.is · fil outer step) with
  | none => rfl
  | some e => rw [Option.map_some, Option.map_some, if_pos (List.find?_some he)]

/-- A change that keeps key and state keeps the entry's state. -/
theorem entSt_mapEnt (hst : ∀ e, (f e).st = e.st) (s : State) :
    entSt (mapEnt s fil outer step f) fil outer step = entSt s fil outer step := by
  rw [entSt, findEnt_mapEnt hkey, Option.map_map, entSt]
  congr 1
  funext e
  rw [Function.comp, JEnt.st_sealed, hst]

end

/-- A copy written for an entry keeps the entry's state. -/
theorem putCopy_entSt {s t : State} {fil outer : Bool} {step : Nat} {g : Seg} {data : List Byte}
    (h : putCopy s fil outer step g data = some t) : entSt t fil outer step = entSt s fil outer step := by
  unfold putCopy at h
  dsimp only at h
  split at h
  · cases h
  · cases h
    refine (entSt_mapEnt ?_ ?_ _).trans (entSt_of_jrn rfl fil outer step)
    · exact fun _ => rfl
    · exact fun _ => rfl

/-- Reading leaves the journal as it is. -/
theorem OnlyMet.jrn {s t : State} (h : OnlyMet s t) : t.jrn = s.jrn := by
  obtain ⟨m, f, e, d, rfl, -⟩ := h
  rfl

theorem loadVa_met (s : State) (id va n : Nat) : OnlyMet s (loadVa s id va n).1 := meetVa_met s none id va n

/-- A shard's segments copied into an entry keep the entry's state. -/
theorem copySegs_entSt {fil outer : Bool} {step : Nat} {sh : Shard} {gs : List SegAt} {s t : State}
    (h : copySegs fil outer step sh gs s = .made t) : entSt t fil outer step = entSt s fil outer step := by
  induction gs generalizing s with
  | nil =>
    cases h
    rfl
  | cons g gs ih =>
    rw [copySegs] at h
    have hread := (loadVa_met s sh.ctx g.va (if g.kind = 6 then g.bytes else 4096 * blocks4k g.bytes)).jrn
    split at h
    · cases h
    · next s1 bs hload =>
      rw [hload] at hread
      split at h
      · cases h
      · next s2 hput => exact (ih h).trans ((putCopy_entSt hput).trans (entSt_of_jrn hread fil outer step))

/-- The undo copies of shards keep the entry's state. -/
theorem copyShards_entSt {fil outer : Bool} {step : Nat} {shs : List Shard} {s t : State}
    (h : copyShards fil outer step shs s = .made t) : entSt t fil outer step = entSt s fil outer step := by
  induction shs generalizing s with
  | nil =>
    cases h
    rfl
  | cons sh shs ih =>
    rw [copyShards] at h
    split at h
    · next s1 hsegs =>
      refine (ih h).trans ((entSt_mapEnt ?_ ?_ s1).trans (copySegs_entSt hsegs))
      · exact fun _ => rfl
      · exact fun _ => rfl
    · next x hnot => exact absurd h (hnot t)

end Sys2Proof.Machine
end

section
/-!
SUPPORT. The memory block and its engines (R149, R150, R152 to R157, R161): the frame commands and invalidations that pass
their checks, what an invalidation and a scrub leave, the walk that ends well, and the patrol.
-/

namespace Sys2Proof.Machine

/-! ### Frame commands -/

section

variable {s : State} {w : BitVec 56} {ks : List Nat} (h : cmdReady .memory s = true) (h52 : bit w 52 = false)
  (hzero : bits w 39 12 = 0) (hks : namedFrames s = .ok ks)

include h h52 hzero hks

theorem frameCmd_completes {c : Instr} {t : State} {body : List Nat → Except Nat State} (hbody : body ks = .ok t) :
    frameCmd c w s body = .next (finish .memory 0 t) := by
  rw [frameCmd, cmd_eq h]
  simp only [h52, hzero, hks, hbody, ne_eq, not_true, Bool.false_eq_true, or_self, if_false]

theorem execAssign_completes (hkind : bits w 55 53 = 1 ∨ bits w 55 53 = 2)
    (hregion : (s.jrn.en && ks.any frameIsRs) = false) (hfree : ∀ k ∈ ks, frmKind s k = .free) :
    execAssign w s = .next (finish .memory 0
      (ks.foldl (fun t k => setFrm t k (mkEntry (FKind.ofCode (bits w 55 53)) (bv 12 (bits w 51 40)))) s)) := by
  have hlegal : ¬ (bits w 55 53 ≠ 1 ∧ bits w 55 53 ≠ 2) := by omega
  have hall : (ks.any fun k => frmKind s k != .free) = false := by simpa using hfree
  refine frameCmd_completes h h52 hzero hks ?_
  simp only [if_neg hlegal, hregion, hall, Bool.false_eq_true, if_false]

theorem execRelease_completes (hown : ∀ k ∈ ks, frmKind s k = .tenant ∨ frmKind s k = .ptable)
    (hjrn : ks.any (journalHolds s) = false) :
    execRelease w s =
      .next (finish .memory 0 (ks.foldl (fun t k => setFrm (dropTlb t k) k (mkEntry .scrub 0)) s)) := by
  have hall : (ks.any fun k => frmKind s k != .tenant && frmKind s k != .ptable) = false := by
    simpa [or_iff_not_imp_left] using hown
  refine frameCmd_completes h h52 hzero hks ?_
  simp only [hjrn, hall, Bool.false_eq_true, if_false]

theorem execRetire_completes (hfree : ∀ k ∈ ks, frmKind s k = .free) (hjrn : ks.any (journalHolds s) = false) :
    execRetire w s = .next (finish .memory 0 (ks.foldl (fun t k => setFrm t k (mkEntry .retired 0)) s)) := by
  have hall : (ks.any fun k => frmKind s k != .free) = false := by simpa using hfree
  refine frameCmd_completes h h52 hzero hks ?_
  simp only [hjrn, hall, Bool.false_eq_true, if_false]

end

/-! ### Invalidations -/

/-- An invalidation whose reserved bits are 0 is in flight, and the block BUSY (R157). -/
theorem invalCmd_begins {s : State} {w : BitVec 56} {c : Instr} (i : Inval) (h : cmdReady .memory s = true)
    (h52 : bit w 52 = false) (hzero : bits w 39 12 = 0) (harg : bits (memArg0 s) 63 52 = 0) :
    invalCmd c w s i = .next (busy .memory (s.setMmu { s.mmu with inval := some i })) := by
  rw [invalCmd, cmd_eq h]
  simp only [h52, hzero, harg, ne_eq, not_true, Bool.false_eq_true, or_self, if_false]

theorem execInvalidationComplete_finishes {s : State} {i : Inval} (h : s.mmu.inval = some i) :
    execInvalidationComplete s = .next (finish .memory 0
      ((dropEntries s i.covers).setMmu { (dropEntries s i.covers).mmu with inval := none })) := by
  rw [execInvalidationComplete, h]

/-- No shared TLB holds an entry that is dropped. -/
theorem dropEntries_tlb {s : State} {p : TlbE → Bool} {x : TlbE} (hx : x ∈ (dropEntries s p).mmu.tlb) : p x = false := by
  have hkept := (List.mem_filter.mp hx).2
  simpa using hkept

/-- No first-level TLB holds an entry that is dropped. -/
theorem dropEntries_l1 {s : State} {p : TlbE → Bool} {e : Nat × List TlbE} {x : TlbE}
    (he : e ∈ (dropEntries s p).mmu.l1) (hx : x ∈ e.2) : p x = false := by
  obtain ⟨o, -, rfl⟩ := List.mem_map.mp (List.mem_filter.mp he).1
  have hkept := (List.mem_filter.mp hx).2
  simpa using hkept

/-! ### Scrubs -/

@[simp] theorem refreshRdy_mem (s : State) : (refreshRdy s).mem = s.mem := by
  obtain ⟨e, d, h, -⟩ := refreshRdy_only s
  rw [h, State.setDev_mem, State.setErr_mem]

@[simp] theorem refreshRdy_frm (s : State) : (refreshRdy s).frm = s.frm := by
  obtain ⟨e, d, h, -⟩ := refreshRdy_only s
  rw [h, State.setDev_frm, State.setErr_frm]

theorem frameFree_mem (s : State) (k : Nat) : (frameFree s k).mem = (zeroMem s (framePa k) frameBytes).mem := by
  unfold frameFree
  dsimp only
  split
  · rw [refreshRdy_mem, rechoose_mem, State.setFrm_mem]
  · rw [refreshRdy_mem]

@[simp] theorem tab_setFrm_self (s : State) (k : Nat) (v : B16) : Tab.get (fun _ => 0) (setFrm s k v).frm.tab k = v :=
  Tab.get_put_self _ _ _ _

/-- A frame that becomes FREE leaves the ownership table as it is. -/
theorem frameFree_tab (s : State) (k : Nat) : (frameFree s k).frm.tab = s.frm.tab := by
  unfold frameFree
  dsimp only
  split
  · rw [refreshRdy_frm, rechoose_frm, State.setFrm_frm, zeroMem, State.setMem_frm]
  · rw [refreshRdy_frm, zeroMem, State.setMem_frm]

/-- Every byte of a frame that becomes FREE reads 0, every other as before (R150). -/
theorem memByte_frameFree (s : State) (k a : Nat) : memByte (frameFree s k) a =
    if a < framePa k ∨ framePa k + frameBytes ≤ a then memByte s a else 0 := by
  rw [← memByte_zeroMem, memByte, frameFree_mem, memByte]

section

variable {s : State} {k : Nat} (hk : k < 2 * halfFrames) (hon : framesOn s = true) (hlive : live s = true)
  (hrun : (s.lead.half.get (frameHalf k)).stopped = false)

include hk hon hlive hrun

/-- The scrub after a reset goes on to the next frame (R439). -/
theorem execFrameScrubbed_reaches (hnext : s.frm.scrub.get (frameHalf k) = k % halfFrames) :
    execFrameScrubbed k s = .next (frameFree (s.setFrm { s.frm with
      scrub := s.frm.scrub.set (frameHalf k) (k % halfFrames + 1) }) k) := by
  rw [execFrameScrubbed]
  simp only [Nat.not_le.mpr hk, hon, hlive, hrun, hnext, Bool.not_true, Bool.false_eq_true, or_self, if_false, if_true]

/-- A frame in SCRUB that the scrub after a reset has passed becomes FREE, and its entry reads 0 (R150, R164). -/
theorem execFrameScrubbed_frees (hpast : k % halfFrames < s.frm.scrub.get (frameHalf k)) (hkind : frmKind s k = .scrub) :
    ∃ u, execFrameScrubbed k s = .next (frameFree u k) ∧ Tab.get (fun _ => 0) u.frm.tab k = 0 ∧ u.mem = s.mem := by
  rw [execFrameScrubbed]
  simp only [Nat.not_le.mpr hk, hon, hlive, hrun, hkind, hpast.ne', Nat.not_lt.mpr hpast.le, ne_eq, not_true,
    Bool.not_true, Bool.false_eq_true, or_self, if_false]
  by_cases hlisted : Tab.get (fun _ => 0) s.frm.tab k = 0
  · exact ⟨_, if_neg (not_not_intro hlisted), hlisted, rfl⟩
  · exact ⟨_, if_pos hlisted, tab_setFrm_self s k 0, rfl⟩

end

/-! ### Table walks -/

/-- A walk that ends at a leaf which allows the access fills both levels of TLB (R152, R155, R156, log entry 46). -/
theorem execTableWalk_fills {s s1 : State} {sl : Slot} {va id pa : Nat} {a : Acc} {l : LineRead} {e : TlbE}
    (hcl : sl.cl < 512) (hctx : (slotOf s sl).ctx = some id) (hlive : live s = true) (hka : s.err.ka = false)
    (hva : va < 2 ^ 52) (hs1 : waited sl sl.wait (injectLine s l) = s1)
    (hwalk : walk s1 id (getCtx s1 id) va 3 (getCtx s1 id).root = (.ok pa, some e)) (hallow : e.allows a = true) :
    execTableWalk sl va a l s = .next (fillTlb (meetWalk s1 id va) sl { e with tile := clTile s1 sl.cl }) := by
  rw [slotOf] at hctx
  rw [execTableWalk, if_neg (Nat.not_le.mpr hcl), hctx]
  simp only [hs1, hlive, hka, hwalk, hallow, Nat.not_le.mpr hva, Bool.not_true, Bool.false_eq_true, or_self, if_false,
    if_true]

/-! ### The patrol -/

/-- The patrol reads a line while EN is 1 (R161): `last` ends the pass over the unit. -/
theorem execPatrolRead_reads {s : State} {pa u : Nat} {l : LineRead} (last : Bool) (hu : u < 22) (hlive : live s = true)
    (hon : framesOn s = true) (hen : bit (rd32 s 0x10028) 8 = true) :
    let s1 := injectLine (patRoll s) l
    let n := (lineErr s1 (pa / 64)).syms.length
    let s2 := readLine s1 (pa / 64)
    let s3 := setPat s2 u ((getPat s2 u).meet (pa / 64) n)
    let s4 := if 2 ≤ n then patrolBad s3 pa else s3
    execPatrolRead pa l u last s = .next (if last then patEnd s4 u else s4) := by
  intro s1 n s2 s3 s4
  have hworks : ¬ ((!live s) = true ∨ (!framesOn s) = true ∨ (!bit (rd32 s 0x10028) 8) = true) := by
    simp [hlive, hon, hen]
  rw [execPatrolRead, if_neg (Nat.not_le.mpr hu), if_neg hworks]

/-- PATROL_CTRL takes EN and PERIOD_LOG2 as written (log entry 122). -/
theorem execPatrolCtrl_writes {s : State} (v : B32) (hregs : regsOn s = true) :
    execPatrolCtrl v s = .next (refreshRdy (wr32 s 0x10028 (v &&& 0x13F))) := by
  rw [execPatrolCtrl, hregs]
  rfl

/-- Settles O24: each command and engine of the memory block that its conditions let work, with what it leaves. -/
theorem framesWalksAndPatrol : Obligations.FramesWalksAndPatrol := by
  refine ⟨⟨?frames, ?begun, ?finished, ?scrubbed⟩, ?walks, ?patrol, fun s v => execPatrolCtrl_writes v⟩
  case frames =>
    intro s w ks h h52 hzero hks
    exact ⟨execAssign_completes h h52 hzero hks, execRelease_completes h h52 hzero hks,
      execRetire_completes h h52 hzero hks⟩
  case begun =>
    intro s w h h52 hzero harg
    simp only [List.forall_mem_cons, List.not_mem_nil, false_implies, implies_true, and_true]
    exact ⟨invalCmd_begins _ h h52 hzero harg, invalCmd_begins _ h h52 hzero harg, invalCmd_begins _ h h52 hzero harg⟩
  case finished =>
    intro s i h
    exact ⟨execInvalidationComplete_finishes h, fun x hx => dropEntries_tlb hx, fun e he x hx => dropEntries_l1 he hx⟩
  case scrubbed =>
    intro s k hk hon hlive hrun
    refine ⟨execFrameScrubbed_reaches hk hon hlive hrun, fun hpast hkind => ?_⟩
    obtain ⟨u, hexec, htab, hmem⟩ := execFrameScrubbed_frees hk hon hlive hrun hpast hkind
    refine ⟨frameFree u k, hexec, by rw [frameFree_tab, htab], fun a hlo hhi => ?_, fun a hout => ?_⟩
    · rw [memByte_frameFree, if_neg (by omega)]
    · rw [memByte_frameFree, if_pos hout, memByte, hmem, memByte]
  case walks =>
    intro s sl va id pa a l e hcl hctx hlive hka hva s1 hwalk hallow
    exact execTableWalk_fills hcl hctx hlive hka hva rfl hwalk hallow
  case patrol =>
    intro s pa u l hu hlive hon hen
    exact ⟨execPatrolRead_reads false hu hlive hon hen, execPatrolRead_reads true hu hlive hon hen⟩

end Sys2Proof.Machine
end

section
/-!
SUPPORT. Sorrel's rows (R164 to R173): JRN_CTRL, undo copies that are made and reported, batch references that read the
same, and restores.
-/

namespace Sys2Proof.Machine

/-! ### JRN_CTRL -/

/-- The state once JRN_CTRL has taken EN, the region and MAX_DEPTH, before the depths are chosen again (R164, R166); a
MAX_DEPTH of 3 keeps the old value (log entry 37). -/
def jrnTaken (s : State) (v : B64) : State :=
  let s1 := s.setJrn { s.jrn with
    en := bit v 0, maxDepth := if bits v 33 32 = 3 then s.jrn.maxDepth else bits v 33 32 }
  if bit v 0 then takeRegion s1 else s1

theorem jrnTaken_jrn (s : State) (v : B64) : (jrnTaken s v).jrn = { s.jrn with
    en := bit v 0, maxDepth := if bits v 33 32 = 3 then s.jrn.maxDepth else bits v 33 32 } := by
  unfold jrnTaken
  dsimp only
  split <;> rfl

theorem jrnTaken_mem (s : State) (v : B64) : (jrnTaken s v).mem = s.mem := by
  unfold jrnTaken
  dsimp only
  split <;> rfl

theorem execJrnCtrl_writes {s : State} (v : B64) (hregs : regsOn s = true) (hka : s.err.ka = false) :
    execJrnCtrl v s = .next (leaveRegion (rechoose (jrnTaken s v))) := by
  have hworks : ¬ ((!regsOn s) = true ∨ s.err.ka = true) := by simp [hregs, hka]
  rw [execJrnCtrl, if_neg hworks]
  rfl

/-- Choosing the depths and giving up the region (log entry 54) keep EN, MAX_DEPTH and memory; the depths are those of
R166. -/
theorem leaveRegion_rechoose_keeps (s : State) : let t := leaveRegion (rechoose s)
    t.jrn.en = s.jrn.en ∧ t.jrn.maxDepth = s.jrn.maxDepth ∧ (t.jrn.depthP, t.jrn.depthF) = newDepths s ∧
      t.mem = s.mem := by
  obtain ⟨f, hleave⟩ := leaveRegion_only (rechoose s)
  obtain ⟨j, e, d, hdepth, hen, hmax, hnew⟩ := rechoose_only s
  rw [hleave, hdepth]
  exact ⟨hen, hmax, hnew, rfl⟩

/-! ### Undo copies -/

theorem chargeBanks_jrn (s : State) (fil : Bool) (job : B32) (w : Nat) : (chargeBanks s fil job w).jrn = s.jrn := by
  unfold chargeBanks
  split
  · rfl
  · generalize ((ownShards s job).map (·.half)).dedup = hs
    induction hs generalizing s with
    | nil => rfl
    | cons h hs ih =>
      obtain ⟨c, q, hcharge⟩ := charge_only s (.bank h) w
      rw [List.foldl_cons, ih, hcharge]
      rfl

theorem tellUndo_jrn (s : State) (fil outer : Bool) (job : B32) (step : Nat) :
    (tellUndo s fil outer job step).jrn = s.jrn := by
  unfold tellUndo
  dsimp only
  split
  · exact (send_sent _ _ _).jrn
  · rfl

theorem execUndoCopyComplete_copies {s : State} {fil outer : Bool} {step : Nat} {e : JEnt} {j : JobReg} (w : Nat)
    (he : findEnt s fil outer step = some e) (hj : jobReg s fil = some j) (hruns : sorrelRuns s fil = true)
    (hrep : e.reported = false) :
    execUndoCopyComplete fil outer ⟨step, w⟩ false s =
      .next (undoCopy (chargeBanks s fil j.job w) fil outer j.job step) := by
  rw [execUndoCopyComplete]
  simp only [he, hj, hruns, hrep, Bool.not_true, Bool.false_eq_true, or_self, if_false]

/-- A record whose entry is not DAMAGED is copied as it stands. -/
theorem reviveEnt_of_undamaged {s : State} {fil outer : Bool} {step : Nat} {e : JEnt} (own : List Shard)
    (he : findEnt s fil outer step = some e) (hst : e.st ≠ .damaged) : reviveEnt s fil outer step own = s := by
  rw [reviveEnt, he]
  exact if_neg fun h => hst h.1

/-- The copies of an inner entry, once made, complete its undo record, which is reported (R167). -/
theorem undoCopy_reports {s s1 : State} {fil : Bool} {job : B32} {step : Nat} {e : JEnt}
    (he : findEnt s fil false step = some e) (hst : e.st ≠ .damaged)
    (hmade : copyShards fil false step ((ownShards s job).filter fun x => e.todo.contains x.idx) s = .made s1) :
    undoCopy s fil false job step = reportUndo s1 fil false job step := by
  rw [undoCopy]
  simp only [reviveEnt_of_undamaged _ he hst, he, hmade, Bool.not_false, if_true]

/-- An OPEN entry whose undo record is reported is in UNDO (Table 5-7). -/
theorem findEnt_reportUndo {s : State} {fil outer : Bool} {step : Nat} (job : B32)
    (hopen : entSt s fil outer step = some .open_) :
    ∃ e, findEnt (reportUndo s fil outer job step) fil outer step = some e ∧ e.st = .undo ∧ e.reported = true := by
  obtain ⟨e, he, hst⟩ := Option.map_eq_some_iff.mp hopen
  rw [reportUndo, findEnt_of_jrn (tellUndo_jrn _ _ _ _ _), findEnt_mapEnt, he]
  · exact ⟨_, rfl, by rw [JEnt.st_sealed, if_pos hst], JEnt.reported_sealed _⟩
  · exact fun _ => rfl

/-! ### Batch references -/

/-- References that all read as recorded release the re-run of the step (R170). -/
theorem execBatchRecheck_releases {s t : State} {fil : Bool} {step : Nat} {e : JEnt}
    (he : findEnt s fil false step = some e) (hruns : sorrelRuns s fil = true) (hre : e.recheck = true)
    (ht : e.refs.foldl (fun st r => meetVa st none r.ctx r.va (64 * r.len)) s = t)
    (hsame : ∀ r ∈ e.refs, ∃ bs, readVa t none r.ctx r.va (64 * r.len) = (bs, none) ∧ crc64 bs = r.crc) :
    execBatchRecheck fil step s = .next (mapEnt t fil false step fun e => { e with recheck := false }) := by
  have hworks : ¬ ((!sorrelRuns s fil) = true ∨ (!e.recheck) = true) := by simp [hruns, hre]
  rw [execBatchRecheck, he]
  simp only [if_neg hworks, ht]
  rw [List.find?_eq_none.mpr]
  intro r hr
  obtain ⟨bs, hread, hcrc⟩ := hsame r hr
  simp [hread, hcrc]

/-! ### Restores -/

section

variable {s : State} {n w : Nat} {c : UCmd} {sh : Shard} (hc : findUCmd s n = some c) (hsh : cmdShard s c = some sh)
  (howes : owes s sh c = true) (hask : c.asked = false) (hruns : sorrelRuns s sh.fil = true) (hfirst : isFirst s sh c = true)

include hc hsh howes hask hruns hfirst

section

variable {s1 : State} (hmir : sh.mirror = false)
  (hs1 : checkEnt (if sh.fil then s else charge s (.bank sh.half) w) sh.fil (c.kind = .out) c.step = s1)

include hmir hs1

/-- A restore of the own shard whose record supplies the segments puts them back (R172). -/
theorem execRestoreComplete_restores {s2 : State} (h2 : restoreCmd s1 sh c = some s2) :
    execRestoreComplete ⟨n, w⟩ false s = .next (putUCmd s2 { c with restore := false }) := by
  rw [execRestoreComplete]
  simp only [hc, hsh, howes, hask, hruns, hfirst, hmir, hs1, h2, Bool.not_true, Bool.false_eq_true, or_self, if_false]

/-- A restore of the own shard that no record supplies turns to the pair (R173, R253). -/
theorem execRestoreComplete_unsupplied (h2 : restoreCmd s1 sh c = none) :
    execRestoreComplete ⟨n, w⟩ false s = .next (restoreElse s1 sh c) := by
  rw [execRestoreComplete]
  simp only [hc, hsh, howes, hask, hruns, hfirst, hmir, hs1, h2, Bool.not_true, Bool.false_eq_true, or_self, if_false]

end

/-- A mirror copy whose partner is there is asked of its owner, or at depth 0 of the partner (R172, R173). -/
theorem execRestoreComplete_mirror (hmir : sh.mirror = true) (hlost : partnerLost s sh = false) :
    execRestoreComplete ⟨n, w⟩ false s = .next (if depthNow s sh.fil = 0 then restoreElse s sh c
      else putUCmd (sendUndoReq s sh c.step (c.kind = .out)) { c with asked := true }) := by
  rw [execRestoreComplete]
  simp only [hc, hsh, howes, hask, hruns, hfirst, hmir, hlost, Bool.not_true, Bool.false_eq_true, or_self, if_false, if_true]

end

/-- Settles O25: JRN_CTRL, an undo record made and reported, batch references read again, and the three restores. -/
theorem journalWork : Obligations.JournalWork := by
  refine ⟨?ctrl, ?undo, ?recheck, ?restore⟩
  case ctrl =>
    intro s v hregs hka m s1 s2 t
    obtain ⟨hen, hmax, hdepth, hmem⟩ := leaveRegion_rechoose_keeps (jrnTaken s v)
    rw [jrnTaken_jrn] at hen hmax
    exact ⟨execJrnCtrl_writes v hregs hka, hen, hmax, hdepth, hmem.trans (jrnTaken_mem s v)⟩
  case undo =>
    intro s fil outer step w e j he hj hruns hrep s0
    refine ⟨execUndoCopyComplete_copies w he hj hruns hrep, ?_⟩
    rintro rfl hopen s1 hmade
    have he0 : findEnt s0 fil false step = some e := (findEnt_of_jrn (chargeBanks_jrn _ _ _ _) _ _ _).trans he
    have hst : entSt s1 fil false step = some .open_ := by rw [copyShards_entSt hmade, entSt, he0, Option.map_some, hopen]
    rw [undoCopy_reports he0 (by rw [hopen]; decide) hmade]
    exact findEnt_reportUndo j.job hst
  case recheck =>
    intro s fil step e he hruns hre t hsame
    exact execBatchRecheck_releases he hruns hre rfl hsame
  case restore =>
    intro s n w c sh hc hsh howes hask hruns hfirst
    have hmirror := execRestoreComplete_mirror (w := w) hc hsh howes hask hruns hfirst
    refine ⟨fun hmir => ⟨fun s2 h2 => ?supplied, fun h2 => ?unsupplied⟩, fun hmir hlost hdepth => ?owner,
      fun hmir hlost hdepth => ?partner⟩
    case supplied => exact execRestoreComplete_restores hc hsh howes hask hruns hfirst hmir rfl h2
    case unsupplied => exact execRestoreComplete_unsupplied hc hsh howes hask hruns hfirst hmir rfl h2
    case owner => rw [exec_restoreComplete, hmirror hmir hlost, if_neg hdepth]
    case partner => rw [exec_restoreComplete, hmirror hmir hlost, if_pos hdepth]

end Sys2Proof.Machine
end

section
/-!
SUPPORT. The context block (R182 to R187): one change of several slots, the commands that pass their checks, and what a
BIND and an UNBIND leave of the slots that they name.
-/

namespace Sys2Proof.Machine

/-! ### One change of several slots -/

/-- The same change of each slot of a list. -/
def updSlots (f : SlotSt → SlotSt) (xs : List (Nat × Bool)) (s : State) : State :=
  xs.foldl (fun t c => updSlot t c.1 c.2 f) s

theorem updSlots_cons (f : SlotSt → SlotSt) (x : Nat × Bool) (xs : List (Nat × Bool)) (s : State) :
    updSlots f (x :: xs) s = updSlots f xs (updSlot s x.1 x.2 f) := rfl

theorem getSlot_updSlot_eq (s : State) (c d : Nat × Bool) (f : SlotSt → SlotSt) :
    getSlot (updSlot s c.1 c.2 f) d.1 d.2 = if d = c then f (getSlot s d.1 d.2) else getSlot s d.1 d.2 := by
  split
  · next h => rw [h, getSlot_updSlot]
  · next h => exact getSlot_setSlot_ne _ _ _ _ _ _ h

/-- A change of several slots is one of the slots alone. -/
theorem updSlots_only (f : SlotSt → SlotSt) (xs : List (Nat × Bool)) : ∀ s, ∃ t, updSlots f xs s = s.setSlot t := by
  induction xs with
  | nil => exact fun s => ⟨s.slot, rfl⟩
  | cons x xs ih =>
    intro s
    obtain ⟨t, h⟩ := ih (updSlot s x.1 x.2 f)
    exact ⟨t, by rw [updSlots_cons, h]; rfl⟩

/-- A change that repeats without effect reaches each slot of the list, and no other. -/
theorem getSlot_updSlots {f : SlotSt → SlotSt} (hf : ∀ x, f (f x) = f x) (xs : List (Nat × Bool)) (d : Nat × Bool) :
    ∀ s, getSlot (updSlots f xs s) d.1 d.2 = if d ∈ xs then f (getSlot s d.1 d.2) else getSlot s d.1 d.2 := by
  induction xs with
  | nil => exact fun s => rfl
  | cons x xs ih =>
    intro s
    rw [updSlots_cons, ih, getSlot_updSlot_eq]
    by_cases hx : d = x <;> by_cases hxs : d ∈ xs <;> simp [hx, hxs, hf]

/-- A chain of commands that each change one slot, in a way that the slots before do not touch, is one such change. -/
theorem foldl_eq_updSlots {α : Type} {g : State → α → State} {k : α → Nat × Bool} {f : SlotSt → SlotSt} {s : State}
    (hg : ∀ t a, g (s.setSlot t) a = updSlot (s.setSlot t) (k a).1 (k a).2 f) (xs : List α) :
    xs.foldl g s = updSlots f (xs.map k) s := by
  suffices h : ∀ t, xs.foldl g (s.setSlot t) = updSlots f (xs.map k) (s.setSlot t) from h s.slot
  induction xs with
  | nil => exact fun t => rfl
  | cons a xs ih =>
    intro t
    rw [List.foldl_cons, List.map_cons, updSlots_cons, hg]
    exact ih _

/-! ### Commands that pass their checks -/

/-- A command that keep-alive mode accepts has its effect once its block takes it. -/
theorem readCmd_eq {b : Blk} {c : Instr} {s : State} {body : State → State} (h : readReady b s = true) :
    blockCmd b true c s body = .next (body s) := by
  simp only [readReady, Bool.and_eq_true, Bool.not_eq_true', Bool.or_eq_true] at h
  obtain ⟨⟨⟨hregs, hbusy⟩, hrdy⟩, hlead⟩ := h
  rcases hrdy with hrdy | hrdy <;> simp [blockCmd, hregs, hbusy, hrdy, hlead]

@[simp] theorem getSlot_finish (b : Blk) (n : Nat) (s : State) (cl : Nat) (fil : Bool) :
    getSlot (finish b n s) cl fil = getSlot s cl fil := by
  obtain ⟨k, d, h⟩ := finish_only b n s
  rw [h]
  rfl

@[simp] theorem getClu_finish (b : Blk) (n : Nat) (s : State) (cl : Nat) : getClu (finish b n s) cl = getClu s cl := by
  obtain ⟨k, d, h⟩ := finish_only b n s
  rw [h]
  rfl

section

variable {s : State} {w : BitVec 56} (h : cmdReady .context s = true) (h40 : bits w 55 40 = 0) (h22 : bits w 25 22 = 0)

include h h40 h22

/-- A command of the context block whose reserved bits are 0 has its effect on the context it names. -/
theorem ctxCmd_eq {c : Instr} {body : Nat → Ctx → State} :
    ctxCmd c w s body = .next (body (bits w 11 0) (getCtx s (bits w 11 0))) := by
  rw [ctxCmd, ctxCmdKa, cmd_eq h, if_neg (by simp [h40, h22])]

theorem execCtxCreate_creates (hfree : (getCtx s (bits w 11 0)).st = .free) (hbad : imgBad (ctxImg s) = false)
    (hroot : ownedBy s (imgCtx (ctxImg s)).root .ptable (imgCtx (ctxImg s)).tenant = true)
    (hjob : jobConflict s (imgCtx (ctxImg s)) = false) (hled : ledgerOn s = true) :
    execCtxCreate w s = .next (finish .context 0 (setCtx s (bits w 11 0) (imgCtx (ctxImg s)))) := by
  rw [execCtxCreate, ctxCmd_eq h h40 h22]
  simp [hfree, hbad, hroot, hjob, hled]

theorem execCtxDestroy_destroys (hst : (getCtx s (bits w 11 0)).st ≠ .free) (hslots : slotsOfCtx s (bits w 11 0) = [])
    (hque : queueBound s (bits w 11 0) = false) :
    execCtxDestroy w s = .next (finish .context 0 (orphan (setCtx s (bits w 11 0) {}) (bits w 11 0))) := by
  rw [execCtxDestroy, ctxCmd_eq h h40 h22]
  simp [hst, hslots, hque]

theorem execCtxStop_stops (hst : (getCtx s (bits w 11 0)).st = .ready) :
    execCtxStop w s = .next (finish .context 0 (stopCtx s (bits w 11 0))) := by
  rw [execCtxStop, ctxCmd_eq h h40 h22, if_neg (by simp [hst])]

theorem execCtxResume_resumes (hst : (getCtx s (bits w 11 0)).st = .stopped) :
    let s1 := setCtx s (bits w 11 0) { getCtx s (bits w 11 0) with st := .ready, faultCl := 0, faultCode := 0 }
    execCtxResume w s = .next (finish .context 0 ((slotsOfCtx s1 (bits w 11 0)).foldl
      (fun t c => updSlot t c.1 c.2 fun y => { y with fault := 0, faultPc := 0 }) s1)) := by
  rw [execCtxResume, ctxCmd_eq h h40 h22, if_neg (by simp [hst])]

end

/-- READ has its effect in keep-alive mode too. -/
theorem execCtxRead_reads {s : State} {w : BitVec 56} (h : readReady .context s = true) (h40 : bits w 55 40 = 0)
    (h22 : bits w 25 22 = 0) :
    execCtxRead w s = .next (finish .context 0 (wrBytes s 0x11008 (ctxBytes s (bits w 11 0)))) := by
  rw [execCtxRead, ctxCmdKa, readCmd_eq h, if_neg (by simp [h40, h22])]

/-- Settles O16: each command of the block, its checks passed, completes with its effect. -/
theorem contextCommands : Obligations.ContextCommands := by
  refine ⟨fun s w h h40 h22 => execCtxRead_reads h h40 h22, fun s w h h40 h22 => ⟨?create, ?destroy, ?stop, ?resume⟩⟩
  case create => exact execCtxCreate_creates h h40 h22
  case destroy => exact execCtxDestroy_destroys h h40 h22
  case stop => exact execCtxStop_stops h h40 h22
  case resume => exact execCtxResume_resumes h h40 h22

/-! ### BIND and UNBIND begin -/

/-- A slot as a BIND by a context of tenant `t` marks it: to be zeroed first where it was another tenant's (R185). -/
def bindMark (id mib : Nat) (t : BitVec 12) (x : SlotSt) : SlotSt :=
  { x with ctx := some id, mib := mib
           prep := match x.prevTenant with | some p => if p ≠ t then .zero else .bind | none => .bind }

/-- The slots that a command names, as the context's kind has them. -/
def namedSlots (w : BitVec 56) (fil : Bool) : List (Nat × Bool) := (namedCl w).map (·, fil)

theorem mem_namedSlots {w : BitVec 56} {cl : Nat} (fil : Bool) (h : cl ∈ namedCl w) : (cl, fil) ∈ namedSlots w fil :=
  List.mem_map_of_mem h

/-- A slot marked by a command that goes on, as the block shows it. -/
theorem busy_updSlots {f : SlotSt → SlotSt} (hf : ∀ x, f (f x) = f x) (s : State) (w : BitVec 56) (fil : Bool) :
    let t := busy .context (updSlots f (namedSlots w fil) s)
    (getBlk t .context).busy = true ∧ t.mem = s.mem ∧ t.que = s.que ∧
      ∀ cl ∈ namedCl w, getSlot t cl fil = f (getSlot s cl fil) := by
  intro t
  have hslot (cl : Nat) (hcl : cl ∈ namedCl w) : getSlot t cl fil = f (getSlot s cl fil) := by
    have := getSlot_updSlots hf (namedSlots w fil) (cl, fil) s
    rwa [if_pos (mem_namedSlots fil hcl)] at this
  obtain ⟨u, hu⟩ := updSlots_only f (namedSlots w fil) s
  refine ⟨by rw [getBlk_busy], ?_, ?_, hslot⟩
  · show (updSlots f (namedSlots w fil) s).mem = s.mem
    rw [hu, State.setSlot_mem]
  · show (updSlots f (namedSlots w fil) s).que = s.que
    rw [hu, State.setSlot_que]

section

variable {s : State} {w : BitVec 56} (h : cmdReady .context s = true) (h40 : bits w 55 40 = 0) (h22 : bits w 25 22 = 0)
  {id : Nat} {x : Ctx} (hid : bits w 11 0 = id) (hx : getCtx s id = x) (hst : x.st ≠ .free)
  (hfit : firstCl w + countCl w ≤ s.fuse.grade)

include h h40 h22 hid hx hst hfit

theorem execBind_marks (hmib : x.fil = true ∨ (4 ≤ bits w 39 36 ∧ bits w 39 36 ≤ 8))
    (hfree : (namedCl w).all (slotFree s x.fil) = true) :
    execBind w .none s =
      .next (busy .context (updSlots (bindMark id (bits w 39 36) x.tenant) (namedSlots w x.fil) s)) := by
  have hrange : ¬ (s.fuse.grade < firstCl w + countCl w ∨ (!x.fil) = true ∧ (bits w 39 36 < 4 ∨ 8 < bits w 39 36)) := by
    rcases hmib with hfil | hmib
    · simp [hfil, hfit]
    · omega
  have hfold := foldl_eq_updSlots (s := s) (k := (·, x.fil)) (f := bindMark id (bits w 39 36) x.tenant)
    (g := fun st cl => bindSlot st id x.fil (bits w 39 36) cl) (fun t cl => by subst hx; rfl) (namedCl w)
  rw [execBind, ctxCmd_eq h h40 h22, hid, hx]
  simp only [hst, hrange, hfree, Bool.not_true, Bool.false_eq_true, if_false, meetUpset, ite_self]
  rw [hfold, namedSlots]

theorem execUnbind_marks (hall : ((namedCl w).all fun cl => (getSlot s cl x.fil).ctx = some id &&
      (x.fil || (getSlot s cl true).ctx.isNone)) = true) :
    execUnbind w s =
      .next (busy .context (updSlots (fun y => { y with prep := .unbind }) (namedSlots w x.fil) s)) := by
  have hfold := foldl_eq_updSlots (s := s) (k := (·, x.fil)) (f := fun y => { y with prep := .unbind })
    (g := fun st cl => updSlot st cl x.fil fun y => { y with prep := .unbind }) (fun _ _ => rfl) (namedCl w)
  rw [execUnbind, ctxCmd_eq h h40 h22, hid, hx]
  simp only [hst, Nat.not_lt.mpr hfit, hall, Bool.not_true, Bool.false_eq_true, if_false]
  rw [hfold, namedSlots]

end

/-! ### BIND and UNBIND complete -/

/-- What each step of a chain keeps, and the step at `x` makes true, holds once the chain has passed `x`. -/
theorem foldl_reaches {α : Type} {g : State → α → State} {p : State → Prop} {x : α} (hmake : ∀ s, p (g s x))
    (hkeep : ∀ s y, p s → p (g s y)) {xs : List α} (hx : x ∈ xs) (s : State) : p (xs.foldl g s) := by
  obtain ⟨ys, zs, rfl⟩ := List.append_of_mem hx
  rw [List.foldl_append, List.foldl_cons]
  exact List.foldlRecOn zs g (hmake _) fun t ht y _ => hkeep t y ht

/-- What no step of a chain changes reads as before the chain. -/
theorem foldl_reads {α β : Type} {g : State → α → State} (r : State → β) (hr : ∀ s a, r (g s a) = r s) (xs : List α) :
    ∀ s, r (xs.foldl g s) = r s := by
  induction xs with
  | nil => exact fun s => rfl
  | cons a xs ih => exact fun s => (ih _).trans (hr s a)

/-- What a BIND's completion settles of a slot: the kernel it runs, FSTAT, its BIND's part, and PRI_MIB of its cluster. -/
def bindView (d : Nat × Bool) (s : State) : Option Nat × B64 × Nat × Nat :=
  ((getSlot s d.1 d.2).run, (getSlot s d.1 d.2).fstat, (getSlot s d.1 d.2).mib, (getClu s d.1).priMib)

/-- A slot that runs nothing, with FSTAT 0 and, where it is a primary slot, the PRI_MIB of its BIND in force (R185). -/
structure SlotBound (d : Nat × Bool) (s : State) : Prop where
  run : (getSlot s d.1 d.2).run = none
  fstat : (getSlot s d.1 d.2).fstat = 0
  part : d.2 = false → (getClu s d.1).priMib = (getSlot s d.1 d.2).mib

theorem SlotBound.of_view {s t : State} {d : Nat × Bool} (h : SlotBound d s) (hv : bindView d t = bindView d s) :
    SlotBound d t := by
  obtain ⟨hrun, hfstat, hpart⟩ := h
  simp only [bindView, Prod.mk.injEq] at hv
  obtain ⟨hr, hf, hm, hp⟩ := hv
  exact ⟨hr.trans hrun, hf.trans hfstat, fun hpri => by rw [hp, hm, hpart hpri]⟩

/-- The slot as `bound` leaves it. -/
theorem getSlot_bound (s : State) (c d : Nat × Bool) : getSlot (bound s c) d.1 d.2 = if d = c then
    { getSlot s d.1 d.2 with
      prevTenant := some (getCtx s ((getSlot s d.1 d.2).ctx.getD 0)).tenant, run := none, wait := none, halted := false
      passes := [], fstat := 0, fault := 0, faultPc := 0, filFrom := s.time.cycle } else getSlot s d.1 d.2 := by
  obtain ⟨n, fil⟩ := c
  cases fil with
  | false => exact getSlot_updSlot_eq _ (n, false) d _
  | true => exact getSlot_updSlot_eq _ (n, true) d _

theorem getClu_bound (s : State) (c : Nat × Bool) (cl : Nat) : getClu (bound s c) cl =
    if c.2 = false ∧ cl = c.1 then { getClu s cl with priMib := (getSlot s c.1 c.2).mib } else getClu s cl := by
  obtain ⟨n, fil⟩ := c
  cases fil with
  | true => rfl
  | false =>
    by_cases hcl : cl = n
    · subst hcl
      rw [if_pos ⟨rfl, rfl⟩]
      exact getClu_setClu _ _ _
    · rw [if_neg fun h => hcl h.2]
      exact getClu_setClu_ne _ _ _ _ hcl

theorem bound_mib (s : State) (c d : Nat × Bool) : (getSlot (bound s c) d.1 d.2).mib = (getSlot s d.1 d.2).mib := by
  rw [getSlot_bound]
  split <;> rfl

theorem slotBound_bound_self (s : State) (d : Nat × Bool) : SlotBound d (bound s d) := by
  refine ⟨by rw [getSlot_bound, if_pos rfl], by rw [getSlot_bound, if_pos rfl], fun hpri => ?_⟩
  rw [getClu_bound, if_pos ⟨hpri, rfl⟩, bound_mib]

theorem slotBound_bound {s : State} {d : Nat × Bool} (h : SlotBound d s) (c : Nat × Bool) : SlotBound d (bound s c) := by
  by_cases hc : d = c
  · exact hc ▸ slotBound_bound_self s d
  · obtain ⟨hrun, hfstat, hpart⟩ := h
    refine ⟨by rw [getSlot_bound, if_neg hc, hrun], by rw [getSlot_bound, if_neg hc, hfstat], fun hpri => ?_⟩
    have hother : ¬ (c.2 = false ∧ d.1 = c.1) := fun ⟨hfil, hcl⟩ => hc (Prod.ext hcl (hpri.trans hfil.symm))
    rw [getClu_bound, if_neg hother, bound_mib, hpart hpri]

/-- `zeroSlot` of a slot given as a pair. -/
def zeroAt (s : State) (c : Nat × Bool) : State := zeroSlot s c.1 c.2

/-- The slot as zeroing leaves it: ready, its registers and accumulators 0 (R151). -/
theorem getSlot_zeroAt (s : State) (c d : Nat × Bool) : getSlot (zeroAt s c) d.1 d.2 = if d = c then
    { getSlot s d.1 d.2 with
      sreg := [], vreg := [], preg := [], treg := [], acc := [], accMode := [], accSat := 0, accErr := [], prep := .ready }
    else getSlot s d.1 d.2 := getSlot_updSlot_eq _ _ _ _

theorem bindView_zeroAt (d : Nat × Bool) (s : State) (c : Nat × Bool) :
    bindView d (zeroAt s c) = bindView d s := by
  rw [bindView, getSlot_zeroAt]
  split <;> rfl

/-- The slot is ready to issue. -/
def SlotReady (d : Nat × Bool) (s : State) : Prop := (getSlot s d.1 d.2).prep = .ready

theorem slotReady_zeroAt_self (d : Nat × Bool) (s : State) : SlotReady d (zeroAt s d) := by
  rw [SlotReady, getSlot_zeroAt, if_pos rfl]

theorem slotReady_zeroAt {d : Nat × Bool} {s : State} (h : SlotReady d s) (c : Nat × Bool) :
    SlotReady d (zeroAt s c) := by
  rw [SlotReady, getSlot_zeroAt]
  split
  · rfl
  · exact h

/-- A slot that issues again once its BIND or its release is done. -/
def readied (x : SlotSt) : SlotSt := { x with prep := .ready }

theorem bindView_readied (d : Nat × Bool) (s : State) (c : Nat × Bool) :
    bindView d (updSlot s c.1 c.2 readied) = bindView d s := by
  rw [bindView, getSlot_updSlot_eq]
  split <;> rfl

/-- The slots of `zs` zeroed. -/
def zeroSlots (zs : List (Nat × Bool)) (s : State) : State := zs.foldl zeroAt s

theorem slotReady_zeroSlots {zs : List (Nat × Bool)} {d : Nat × Bool} (hd : d ∈ zs) (s : State) :
    SlotReady d (zeroSlots zs s) :=
  foldl_reaches (slotReady_zeroAt_self d) (fun _ c h => slotReady_zeroAt h c) hd s

/-- The slots bound, those of another tenant zeroed, and all made ready: `execBindComplete` before its block's status. -/
def bindDone (zs bs : List (Nat × Bool)) (s : State) : State :=
  updSlots readied bs (zeroSlots zs ((zs ++ bs).foldl bound s))

section

variable {zs bs : List (Nat × Bool)} {d : Nat × Bool} (s : State)

theorem bindView_bindDone : bindView d (bindDone zs bs s) = bindView d ((zs ++ bs).foldl bound s) :=
  (foldl_reads (bindView d) (bindView_readied d) bs _).trans (foldl_reads (bindView d) (bindView_zeroAt d) zs _)

variable (hd : d ∈ zs ++ bs)

include hd

theorem slotBound_bindDone : SlotBound d (bindDone zs bs s) :=
  (foldl_reaches (p := SlotBound d) (slotBound_bound_self · d) (fun _ c h => slotBound_bound h c) hd s).of_view
    (bindView_bindDone s)

theorem slotReady_bindDone : SlotReady d (bindDone zs bs s) := by
  rw [SlotReady, bindDone, getSlot_updSlots (f := readied) fun _ => rfl]
  split
  · rfl
  · next hb => exact slotReady_zeroSlots ((List.mem_append.mp hd).resolve_right hb) _

end

theorem bindDone_mib {zs bs : List (Nat × Bool)} (d : Nat × Bool) (s : State) :
    (getSlot (bindDone zs bs s) d.1 d.2).mib = (getSlot s d.1 d.2).mib := by
  have hview := congrArg (fun v => v.2.2.1) (bindView_bindDone (zs := zs) (bs := bs) (d := d) s)
  exact hview.trans (foldl_reads (fun t => (getSlot t d.1 d.2).mib) (bound_mib · · d) _ s)

/-- BIND_COMPLETE leaves every slot of the BIND bound, and ends the command (R185). -/
theorem execBindComplete_finishes {s : State}
    (h : slotsWhere s (·.prep = .zero) ++ slotsWhere s (·.prep = .bind) ≠ []) : execBindComplete s =
      .next (finish .context 0 (bindDone (slotsWhere s (·.prep = .zero)) (slotsWhere s (·.prep = .bind)) s)) := by
  rw [execBindComplete, if_neg (by simpa [List.isEmpty_iff] using h)]
  rfl

/-- A slot that an UNBIND has released. -/
def unbound (x : SlotSt) : SlotSt := { x with ctx := none, prep := .ready }

/-- The slots of an UNBIND are released once none of them runs a kernel (R186). -/
theorem execUnbindComplete_finishes {s : State} (h : unbinding s ≠ [])
    (hrun : ((unbinding s).any fun c => (getSlot s c.1 c.2).run.isSome) = false) : execUnbindComplete s =
      .next (finish .context 0 (updSlots unbound (unbinding s) s)) := by
  rw [execUnbindComplete, if_neg (by simp [List.isEmpty_iff, h, hrun])]
  rfl

/-- Settles O17: BIND and UNBIND mark the slots they name and stay BUSY; their completions bind and release them. -/
theorem contextBinding : Obligations.ContextBinding := by
  refine ⟨?marks, fun s => ⟨?bound, ?released⟩⟩
  case marks =>
    intro s w h h40 h22 id x hst hfit
    refine ⟨fun hmib hfree => ?bind, fun hall => ?unbind⟩
    case bind =>
      obtain ⟨hbusy, hmem, hque, hslot⟩ :=
        busy_updSlots (f := bindMark id (bits w 39 36) x.tenant) (fun _ => rfl) s w x.fil
      refine ⟨_, execBind_marks h h40 h22 rfl rfl hst hfit hmib hfree, hbusy, hmem, hque, fun cl hcl => ?_⟩
      rw [hslot cl hcl]
      exact ⟨rfl, rfl, rfl⟩
    case unbind =>
      obtain ⟨hbusy, hmem, -, hslot⟩ := busy_updSlots (f := fun y => { y with prep := .unbind }) (fun _ => rfl) s w x.fil
      exact ⟨_, execUnbind_marks h h40 h22 rfl rfl hst hfit hall, hbusy, hmem, hslot⟩
  case bound =>
    intro hne
    refine ⟨_, execBindComplete_finishes hne, by rw [getBlk_finish], by rw [getBlk_finish], fun c hc => ?_⟩
    obtain ⟨hrun, hfstat, hpart⟩ := slotBound_bindDone s hc
    simp only [getSlot_finish, getClu_finish]
    exact ⟨slotReady_bindDone s hc, hrun, hfstat, fun hpri => (hpart hpri).trans (bindDone_mib c s)⟩
  case released =>
    intro hne hrun
    refine ⟨_, execUnbindComplete_finishes hne hrun, by rw [getBlk_finish], by rw [getBlk_finish], fun c hc => ?_⟩
    rw [getSlot_finish, getSlot_updSlots (f := unbound) fun _ => rfl, if_pos hc]
    exact ⟨rfl, rfl⟩

end Sys2Proof.Machine
end

section
/-!
SUPPORT. The queue block (R188 to R190, R199), doorbells and fetches (R191, R192), and the commands of queues (R193 to
R197): what each leaves once its checks pass.
-/

namespace Sys2Proof.Machine

/-! ### Commands of the block -/

section

variable {s : State} {w : BitVec 56} (h : cmdReady .queue s = true) (h54 : bits w 54 20 = 0)

include h h54

/-- A command of the queue block whose reserved bits are 0 has its effect on the queue it names. -/
theorem qCmd_eq {c : Instr} {body : Nat → Q → State} :
    qCmd c w s body = .next (body (bits w 19 0) (getQ s (bits w 19 0))) := by
  rw [qCmd, qCmdKa, cmd_eq h, if_neg (not_not.mpr h54)]

theorem execQCreate_creates {r : B64} {b : B32} (hr : rd64 s 0x12008 = r) (hb : rd32 s 0x12010 = b)
    (hst : (getQ s (bits w 19 0)).st = .free) (hring : bits r 63 52 = 0) (hresv : bits r 11 5 = 0)
    (hmin : 6 ≤ bits r 4 0) (hmax : bits r 4 0 ≤ 20) (hbind : bits b 29 26 = 0)
    (hctx : (getCtx s (bits b 11 0)).st ≠ .free) :
    execQCreate w s = .next (finish .queue 0 (setQ s (bits w 19 0)
      { st := .enabled, gen := (getQ s (bits w 19 0)).gen + 1, ring := bits r 51 12 * 4096, log2 := bits r 4 0
        prio := bits b 31 30, ctx := bits b 11 0 })) := by
  rw [execQCreate, qCmd_eq h h54]
  simp [hr, hb, hst, hring, hresv, Nat.not_lt.mpr hmin, Nat.not_lt.mpr hmax, hbind, hctx]

theorem execQDestroy_destroys {q : Nat} {x : Q} (hq : bits w 19 0 = q) (hx : getQ s q = x)
    (hst : x.st = .enabled ∨ x.st = .halted) :
    let s1 := dropWaits s fun v => v == .queue q
    execQDestroy w s = .next (finish .queue 0 (setQ
      (s1.setQue { s1.que with run := s1.que.run.map fun r => if r.q = q then { r with q := q + 2 ^ 20 } else r })
      q { x with st := .quarantine, head := none, waitDl := none, qend := quarEnd s })) := by
  subst hq hx
  rw [execQDestroy, qCmd_eq h h54, if_neg (by tauto)]

theorem execQCmdHalt_halts (hst : (getQ s (bits w 19 0)).st = .enabled) :
    execQCmdHalt w s = .next (finish .queue 0 (haltQueue s (bits w 19 0) 7 false 0)) := by
  rw [execQCmdHalt, qCmd_eq h h54, if_neg (not_not.mpr hst)]

theorem execQResume_resumes {x : Q} (hx : getQ s (bits w 19 0) = x) (hst : x.st = .halted) :
    execQResume w s = .next (finish .queue 0 (setQ s (bits w 19 0) { x with
      st := .enabled, byCmd := false, head := none, rd := if bit w 55 && x.byCmd then x.rd + 1 else x.rd })) := by
  subst hx
  rw [execQResume, qCmd_eq h h54, if_neg (not_not.mpr hst)]

end

/-- READ has its effect in keep-alive mode too. -/
theorem execQRead_reads {s : State} {w : BitVec 56} (h : readReady .queue s = true) (h54 : bits w 54 20 = 0) :
    execQRead w s = .next (finish .queue 0 (wrBytes s 0x12008 (qBytes (getQ s (bits w 19 0))))) := by
  rw [execQRead, qCmdKa, readCmd_eq h, if_neg (not_not.mpr h54)]

theorem execQueueQuarantineEnd_frees {s : State} {q : Nat} (hst : (getQ s q).st = .quarantine)
    (hend : (getQ s q).qend ≤ ns s) :
    execQueueQuarantineEnd q s = .next (setQ s q { gen := (getQ s q).gen }) := by
  rw [execQueueQuarantineEnd, if_neg (by simp [hst, hend])]

/-- Settles O18: each command of the block, its checks passed, completes with its effect; the quarantine ends when due. -/
theorem queueCommands : Obligations.QueueCommands := by
  refine ⟨fun s w h h54 => ⟨?create, ?destroy, ?halt, ?resume⟩, fun s w h h54 => execQRead_reads h h54,
    fun s q hst hend => execQueueQuarantineEnd_frees hst hend⟩
  case create => exact execQCreate_creates h h54 rfl rfl
  case destroy => exact execQDestroy_destroys h h54 rfl rfl
  case halt => exact execQCmdHalt_halts h h54
  case resume => exact execQResume_resumes h h54 rfl

/-! ### Doorbells and fetches -/

/-- A doorbell that passes tests 2 to 5 moves the queue's write index (R191). -/
theorem ringDoorbell_moves {s : State} {q : Nat} {x : Q} {wr : B32} (hx : getQ s q = x)
    (hst : x.st = .enabled ∨ x.st = .halted) (hstep : (wr - x.wr).toNat < 2 ^ 31) (hroom : (wr - x.rd).toNat ≤ 2 ^ x.log2) :
    ringDoorbell s q x.gen wr = setQ s q { x with wr := wr } := by
  subst hx
  have hlive : ¬ (((getQ s q).st ≠ .enabled ∧ (getQ s q).st ≠ .halted) ∨ (getQ s q).gen ≠ (getQ s q).gen) := by tauto
  rw [ringDoorbell]
  simp only [hlive, Nat.not_le.mpr hstep, Nat.not_lt.mpr hroom, if_false]

theorem execDoorbell_rings {s : State} {off : Nat} {d : B128} (hoff : off < 2 ^ 24) (hal : off % 16 = 0)
    (hon : rdyBit s 14 = true ∨ s.err.ka = true) (hzero : bits d 127 46 = 0) :
    execDoorbell off 16 d s =
      .next (ringDoorbell s (off / 16) (bv 14 (bits d 45 32)) (bv 32 (bits d 31 0))) := by
  have hready : ¬ ((!rdyBit s 14 && !s.err.ka) = true) := by
    rcases hon with hon | hon <;> simp [hon]
  rw [execDoorbell, if_neg (Nat.not_le.mpr hoff), if_neg hready, if_neg (by simp [hal, hzero])]

theorem execQueueFetch_fetches {s t : State} {q : Nat} {x : Q} {bs : List Byte} (hx : getQ s q = x)
    (hruns : queueRuns s x = true) (hhead : x.head = none)
    (hlink : s.dev.linkUp = true ∨ hostVa s x.ctx (x.ring + x.rd.toNat % 2 ^ x.log2 * 64) 64 .read = false)
    (hload : loadVa s x.ctx (x.ring + x.rd.toNat % 2 ^ x.log2 * 64) 64 = (t, bs, none)) (hbad : (parseQ bs).bad = false)
    (hmin : 1 ≤ (parseQ bs).typ) (hmax : (parseQ bs).typ ≤ 6) :
    execQueueFetch q s = .next (setQ t q { x with head := some (parseQ bs) }) := by
  subst hx
  have hwaits : ¬ ((!s.dev.linkUp) = true ∧
      hostVa s (getQ s q).ctx ((getQ s q).ring + (getQ s q).rd.toNat % 2 ^ (getQ s q).log2 * 64) 64 .read = true) := by
    rcases hlink with hlink | hlink <;> simp [hlink]
  have htyp : ¬ ((parseQ bs).bad = true ∨ (parseQ bs).typ = 0 ∨ 6 < (parseQ bs).typ) := by
    simp only [hbad, Bool.false_eq_true, false_or]
    omega
  rw [execQueueFetch]
  simp only [hruns, hhead, hwaits, hload, htyp, Option.isSome_none, Bool.not_true, Bool.false_eq_true, or_self, if_false]

/-! ### The head command -/

/-- A well-formed head command that its queue and BARRIER let start has its effect (R193, R194). -/
theorem onHead_eq {s : State} {q typ : Nat} {c : QCmd} {bad : QCmd → Bool} {k : Q → QCmd → State}
    (h : headReady s q c = true) (htyp : c.typ = typ) (hbad : bad c = false) :
    onHead s q typ bad k = .next (k (getQ s q) c) := by
  obtain ⟨hhead, hbit, hruns, hbar⟩ := headReady_elim h
  have hstarts : ¬ (c.typ ≠ typ ∨ (!queueRuns s (getQ s q)) = true ∨
      ((c.barrier = true ∨ typ = 4) ∧ running s q = true)) := by
    rw [hruns, ← htyp]
    simp only [ne_eq, not_true, Bool.not_true, Bool.false_eq_true, false_or]
    exact hbar
  have hfine : ¬ ((c.bad || bad c) = true) := by simp [hbit, hbad]
  rw [onHead]
  simp only [hhead]
  rw [if_neg hstarts, if_neg hfine]

/-- The queue whose head command has started. -/
theorem getQ_advance (s : State) (q : Nat) :
    getQ (advance s q) q = { getQ s q with rd := (getQ s q).rd + 1, head := none, waitDl := none } := getQ_setQ _ _ _

/-! ### KERNEL -/

/-- What the opening of a journal entry leaves: slots, queues and the bytes of memory. -/
structure Undisturbed (s t : State) : Prop where
  slot : t.slot = s.slot
  que : t.que = s.que
  phys : t.mem.phys = s.mem.phys

theorem Undisturbed.refl (s : State) : Undisturbed s s := ⟨rfl, rfl, rfl⟩

theorem OnlySent.undisturbed {s t : State} (h : OnlySent s t) : Undisturbed s t := by
  obtain ⟨n, c, f, e, d, rfl, -⟩ := h
  exact ⟨rfl, rfl, rfl⟩

theorem tellUndo_sent (s : State) (fil outer : Bool) (job : B32) (step : Nat) :
    OnlySent s (tellUndo s fil outer job step) := by
  unfold tellUndo
  dsimp only
  split
  · exact send_sent _ _ _
  · exact .refl s

/-- A change of the journal followed by a report to the pair. -/
theorem tellNoEnt_undisturbed (s : State) (fil outer : Bool) (job : B32) (step : Nat) :
    Undisturbed s (tellNoEnt s fil outer job step) := by
  unfold tellNoEnt
  split
  · exact .refl s
  · obtain ⟨hslot, hque, hphys⟩ := (tellUndo_sent (setTold s fil outer (step + 1)) fil outer job step).undisturbed
    exact ⟨hslot, hque, hphys⟩

/-- An entry that opens changes the journal, what a message changes, and the marks on its index's lines. -/
theorem openEnt_undisturbed (s : State) (fil outer : Bool) (job : B32) (step : Nat) :
    Undisturbed s (openEnt s fil outer job step) := by
  have hbegun : Undisturbed s (if outer then s else setBegun s fil true) := by
    split
    · exact .refl s
    · exact ⟨rfl, rfl, rfl⟩
  unfold openEnt
  generalize (if outer then s else setBegun s fil true) = s1 at hbegun
  obtain ⟨hslot, hque, hphys⟩ := hbegun
  dsimp only
  split
  · obtain ⟨hs, hq, hp⟩ := tellNoEnt_undisturbed s1 fil outer job step
    exact ⟨hs.trans hslot, hq.trans hque, hp.trans hphys⟩
  · split <;> exact ⟨hslot, hque, hphys⟩

theorem firstCommand_undisturbed (s : State) (job : B32) (step : Nat) : Undisturbed s (firstCommand s job step) := by
  unfold firstCommand
  split
  · split
    · exact openEnt_undisturbed _ _ _ _ _
    · exact .refl s
  · exact .refl s

/-- A slot as the start of KERNEL command `n` sets it, with the memory that its fetch sees (R196, R120). -/
def kernelMark (n : Nat) (c : QCmd) (code : Tab Byte) (x : SlotSt) : SlotSt :=
  { x with run := some n, pc := c.a0.toNat, karg := c.a1, stepNo := c.step, wait := none, code := code }

theorem startSlots_eq (n : Nat) (c : QCmd) (xs : List (Nat × Bool)) (s : State) :
    xs.foldl (startSlot n c) s = updSlots (kernelMark n c s.mem.phys) xs s := by
  have h := foldl_eq_updSlots (s := s) (g := startSlot n c) (k := id) (f := kernelMark n c s.mem.phys) (fun _ _ => rfl) xs
  rwa [List.map_id] at h

/-- The start of a KERNEL leaves memory, moves its queue on, lists the command and sets every slot that it names (R195,
R196). -/
theorem startKernel_starts (s : State) (q : Nat) (x : Q) (c : QCmd) : let t := startKernel s q x c
    t.mem.phys = s.mem.phys ∧ getQ t q = { getQ s q with rd := (getQ s q).rd + 1, head := none, waitDl := none } ∧
      t.que.run = s.que.run ++ [⟨s.que.next, q, c, x.ctx, (kernelSlots s x c).map fun p => slotKey p.1 p.2, 0⟩] ∧
      ∀ p ∈ kernelSlots s x c, getSlot t p.1 p.2 = kernelMark s.que.next c s.mem.phys (getSlot s p.1 p.2) := by
  unfold startKernel
  dsimp only
  generalize kernelSlots s x c = ps
  have hfirst := firstCommand_undisturbed s (getCtx s x.ctx).job c.step.toNat
  generalize firstCommand s (getCtx s x.ctx).job c.step.toNat = s1 at hfirst ⊢
  have hsame : Undisturbed s (setCtx s1 x.ctx (runStep (getCtx s1 x.ctx) c.step.toNat)) := by
    obtain ⟨hslot, hque, hphys⟩ := hfirst
    exact ⟨hslot, hque, hphys⟩
  generalize setCtx s1 x.ctx (runStep (getCtx s1 x.ctx) c.step.toNat) = s2 at hsame ⊢
  obtain ⟨hslot, hque, hphys⟩ := hsame
  rw [startSlots_eq, hque, hphys]
  have hmark (p : Nat × Bool) (hp : p ∈ ps) :
      getSlot (updSlots (kernelMark s.que.next c s.mem.phys) ps s2) p.1 p.2 =
        kernelMark s.que.next c s.mem.phys (getSlot s p.1 p.2) := by
    rw [getSlot_updSlots (f := kernelMark s.que.next c s.mem.phys) (fun _ => rfl), if_pos hp, getSlot, hslot, getSlot]
  obtain ⟨u, hu⟩ := updSlots_only (kernelMark s.que.next c s.mem.phys) ps s2
  rw [hu] at hmark ⊢
  refine ⟨hphys, ?_, ?_, hmark⟩
  · rw [getQ_advance, getQ, getQ, ← hque]
    rfl
  · rw [← hque]
    rfl

/-- A KERNEL whose slots are free, whose batch references stand and that no rival precedes starts. -/
theorem execKernel_starts {s : State} {q : Nat} {c : QCmd} (h : headReady s q c = true) (htyp : c.typ = 1)
    (hbad : kernelBad s c = false) (hready : kernelReady s (getQ s q) c = true)
    (hrecheck : mustRecheck s (getCtx s (getQ s q).ctx).job c.step.toNat = false)
    (hrivals : rivals s q (getQ s q) c = []) : execKernel q s = .next (startKernel s q (getQ s q) c) := by
  rw [execKernel, onHead_eq h htyp hbad, if_neg (by simp [hready, hrecheck, hrivals])]

/-! ### BATCH_REF -/

section

variable {s : State} {q : Nat} {c : QCmd} (h : headReady s q c = true) (htyp : c.typ = 2) (hva : c.a0.toNat < 2 ^ 52)
  (hal : c.a0.toNat % 64 = 0) (hlen : c.a1.toNat < 2 ^ 32) (hzero : c.a2 = 0)

include h htyp hva hal hlen hzero

theorem execBatchRef_atOnce (hst : batchState s (getCtx s (getQ s q).ctx).job c.step.toNat = .off) :
    execBatchRef q s = .next (cmdSignal (advance s q) q (getQ s q).ctx c) := by
  rw [execBatchRef, onHead_eq h htyp (by simpa [hal, hzero] using ⟨hva, hlen⟩), hst]

theorem execBatchRef_takes {fil : Bool} (hst : batchState s (getCtx s (getQ s q).ctx).job c.step.toNat = .go fil) :
    execBatchRef q s = .next (takeRef s q (getQ s q) c fil) := by
  rw [execBatchRef, onHead_eq h htyp (by simpa [hal, hzero] using ⟨hva, hlen⟩), hst]

end

section

variable {s s1 : State} {q : Nat} {x : Q} {c : QCmd} {fil : Bool} {e : JEnt}
  (hfirst : firstCommand s (getCtx s x.ctx).job c.step.toNat = s1) (hent : findEnt s1 fil false c.step.toNat = some e)

include hfirst hent

theorem takeRef_recorded (hrec : (e.rerun && hasRef e x c) = true) :
    takeRef s q x c fil = cmdSignal (advance s1 q) q x.ctx c := by
  subst hfirst
  rw [takeRef]
  simp only [hent, hrec, if_true]

theorem takeRef_reads {s2 : State} {bs : List Byte} (hnew : (e.rerun && hasRef e x c) = false)
    (hroom : refCount s1 (getCtx s x.ctx).job c.step.toNat e < 4096) (hread : refBytes s1 x.ctx c = (s2, bs, none)) :
    takeRef s q x c fil = advance (addRun s2 q x c [] (crc64 bs)) q := by
  subst hfirst
  rw [takeRef]
  simp only [hent, hnew, Nat.not_le.mpr hroom, hread, Bool.false_eq_true, if_false]

end

/-! ### WAIT, SIGNAL, RING, NOP -/

/-- A WAIT on an object of the job goes past it when the condition holds, else it is held there once (R194, R231). -/
theorem waitHead_of_object {s : State} {q : Nat} {x : Q} {c : QCmd} {o : SObj} {arg : B64}
    (hway : onWay s (srcOf (mkSig s 2 0 false q x.ctx)) c.sync = false) (hobj : objFor s c.sync = some o)
    (hjob : sameJob s x.ctx o.ctx = true) (hfits : condFits o c.a0.toNat = true)
    (harg : arg = if c.a0.toNat = 2 then bv 64 (c.a1.toNat % 2 ^ 16) else c.a1) :
    waitHead s q x c = if condMet o c.a0.toNat arg then advance (dropWaits s fun v => v == .queue q) q
      else if o.waiters.any fun v => v.src == .queue q then s
      else setQ (setObj s (hIdx c.sync) { o with waiters := o.waiters ++
        [⟨.queue q, mkSig s 2 0 false q x.ctx, c.a0.toNat, arg, deadlineOf s o, waitDur s o⟩] }) q
          { x with waitDl := deadlineOf s o } := by
  subst harg
  rw [waitHead]
  simp only [hway, hobj, hjob, hfits, Bool.not_true, Bool.false_eq_true, or_self, if_false]

theorem execCmdWait_eq {s : State} {q : Nat} {c : QCmd} (h : headReady s q c = true) (htyp : c.typ = 3)
    (hcond : c.a0.toNat ≤ 2) (hzero : c.a2 = 0) : execCmdWait q s = .next (waitHead s q (getQ s q) c) :=
  onHead_eq h htyp (by simp [Nat.not_lt.mpr hcond, hzero])

/-- A SIGNAL to an object of the job, behind none of the queue's own to it, is applied and its queue moves on (R194). -/
theorem execSignal_applies {s t : State} {q : Nat} {x : Q} {c : QCmd} {o : SObj} (h : headReady s q c = true)
    (hx : getQ s q = x) (htyp : c.typ = 4) (h0 : c.a0 = 0) (h1 : c.a1 = 0) (h2 : c.a2 = 0)
    (hobj : objFor s c.sync = some o) (hjob : sameJob s x.ctx o.ctx = true)
    (hway : onWay s (srcOf (mkSig s 2 0 false q x.ctx)) c.sync = false)
    (ht : applySig s ⟨0, c.sync, bv 64 c.sigVal.toNat, mkSig s 2 0 false q x.ctx, false, none, some q, true, none⟩ = t)
    (hst : (getQ t q).st = .enabled) : execSignal q s = .next (advance t q) := by
  subst hx
  rw [execSignal, onHead_eq h htyp (by simp [h0, h1, h2])]
  simp only [hway, hobj, hjob, ht, hst, Bool.not_true, Bool.false_eq_true, if_false, if_true]

/-- A RING to a queue of the same tenant rings it as a doorbell does, and signals. -/
theorem execRing_rings {s : State} {q r : Nat} {x : Q} {c : QCmd} (h : headReady s q c = true) (hx : getQ s q = x)
    (htyp : c.typ = 5) (h0 : c.a0.toNat < 2 ^ 34) (h1 : c.a1.toNat < 2 ^ 32) (h2 : c.a2 = 0) (hr : bits c.a0 19 0 = r)
    (hten : (getCtx s (getQ s r).ctx).tenant = (getCtx s x.ctx).tenant) :
    execRing q s = .next (cmdSignal (ringDoorbell (advance s q) r (bv 14 (bits c.a0 33 20)) (c.a1.extractLsb' 0 32))
      q x.ctx c) := by
  subst hx hr
  rw [execRing, onHead_eq h htyp (by simpa [h2] using ⟨h0, h1⟩), if_neg fun hne => hne.2 hten]

theorem execCmdNop_signals {s : State} {q : Nat} {c : QCmd} (h : headReady s q c = true) (htyp : c.typ = 6) (h0 : c.a0 = 0)
    (h1 : c.a1 = 0) (h2 : c.a2 = 0) : execCmdNop q s = .next (cmdSignal (advance s q) q (getQ s q).ctx c) :=
  onHead_eq h htyp (by simp [h0, h1, h2])

/-! ### Commands that complete -/

section

variable {s : State} {n : Nat} {r : RunCmd} (hrun : (s.que.run.find? fun r => r.n == n) = some r)

include hrun

/-- A KERNEL all of whose slots have executed HALT signals. -/
theorem execKernelComplete_signals (htyp : r.cmd.typ = 1) (hleft : r.left = []) :
    execKernelComplete n s = .next (cmdSignal (dropRun s n) r.q r.ctx r.cmd) := by
  rw [execKernelComplete]
  simp [hrun, htyp, hleft]

/-- The digest of a BATCH_REF joins its entry's references (R197). -/
theorem execBatchRefRecorded_records (htyp : r.cmd.typ = 2) (hlive : live s = true) (hka : s.err.ka = false) :
    execBatchRefRecorded n s = .next (cmdSignal (mapEnt (dropRun s n) (getCtx s r.ctx).fil false r.cmd.step.toNat
      fun e => { e with refs := e.refs ++ [⟨r.cmd.a0.toNat, r.cmd.a1.toNat, r.ctx, r.crc⟩] }) r.q r.ctx r.cmd) := by
  rw [execBatchRefRecorded]
  simp [hrun, htyp, hlive, hka]

end

/-- Settles O19: a doorbell, a fetch, each command at the head of its queue, and the commands that complete. -/
theorem queueWork : Obligations.QueueWork := by
  refine ⟨?doorbell, ?fetch, ?head, ?complete⟩
  case doorbell =>
    intro s off d hoff hal hon hzero x wr hst hgen hstep hroom
    rw [exec_doorbell, execDoorbell_rings hoff hal hon hzero, ← hgen]
    exact congrArg _ (ringDoorbell_moves rfl hst hstep hroom)
  case fetch =>
    intro s t q bs x hruns hhead hlink hload hbad hmin hmax
    exact execQueueFetch_fetches rfl hruns hhead hlink hload hbad hmin hmax
  case head =>
    intro s q c x job h
    refine ⟨?kernel, ?batchRef, ?wait, ?signal, ?ring, ?nop⟩
    case kernel =>
      intro htyp hbad hready hrecheck hrivals
      obtain ⟨hphys, hq, hrun, hslots⟩ := startKernel_starts s q x c
      exact ⟨_, execKernel_starts h htyp hbad hready hrecheck hrivals, hphys, by rw [hq], by rw [hq], hrun, hslots⟩
    case batchRef =>
      intro htyp hva hal hlen hzero
      refine ⟨execBatchRef_atOnce h htyp hva hal hlen hzero, ?taken⟩
      intro fil e hst s1 hent
      have htake : exec (.batchRef q) s = .next (takeRef s q x c fil) := execBatchRef_takes h htyp hva hal hlen hzero hst
      refine ⟨fun hrec => ?recorded, fun s2 bs hnew hroom hread => ?reads⟩
      case recorded => rw [htake, takeRef_recorded rfl hent hrec]
      case reads => rw [htake, takeRef_reads rfl hent hnew hroom hread]
    case wait =>
      intro o arg htyp hcond hzero hobj hfits hjob harg hway
      have heq := (execCmdWait_eq h htyp hcond hzero).trans (congrArg _ (waitHead_of_object hway hobj hjob hfits harg))
      refine ⟨fun hmet => ?met, fun hmet hnone => ?held⟩
      case met => rw [exec_cmdWait, heq, if_pos hmet]
      case held => rw [exec_cmdWait, heq, hmet, hnone]; rfl
    case signal =>
      intro o htyp h0 h1 h2 hobj hjob who hway t hst
      exact execSignal_applies h rfl htyp h0 h1 h2 hobj hjob hway rfl hst
    case ring =>
      intro htyp h0 h1 h2 r hten
      exact execRing_rings h rfl htyp h0 h1 h2 rfl hten
    case nop => exact execCmdNop_signals h
  case complete =>
    intro s n r hrun
    exact ⟨execKernelComplete_signals hrun, execBatchRefRecorded_records hrun⟩

end Sys2Proof.Machine
end

section
/-!
SUPPORT. Marjoram before its first whole beat (R206, R207): the beat in which fabric time locks may look like one whose
samples are due, but nothing counts in it.
-/

namespace Sys2Proof.Machine

/-- Before the first whole beat nothing counts (R206). -/
theorem count_before_first {s : State} (h : beat s < s.led.first) (k : Nat) (f : Cnt → Cnt) : count s k f = s := by
  rw [count, if_neg (by simp [h])]

/-- A filler slot's 1,792 cycles that end before the first whole beat pass uncounted. -/
theorem execFilUnitsTick_before_first {s : State} {cl id : Nat} (hcl : cl < 512) (hctx : (getSlot s cl true).ctx = some id)
    (hmay : mayCount s = true) (hdue : (getSlot s cl true).filFrom + 1792 ≤ s.time.cycle)
    (hfirst : beat s < s.led.first) : execFilUnitsTick cl s =
      .next (setSlot s cl true { getSlot s cl true with filFrom := (getSlot s cl true).filFrom + 1792 }) := by
  have hnow : ¬ ((!mayCount s) = true ∨ s.time.cycle < (getSlot s cl true).filFrom + 1792) := by
    simp [hmay, hdue]
  rw [execFilUnitsTick, if_neg (Nat.not_le.mpr hcl)]
  simp only [hctx, hnow, if_false]
  rw [count_before_first]
  exact hfirst

/-- Fabric time locks at 0 while the filler slot of cluster 3 is bound to context 9 and has used 1,792 cycles. -/
def fillerAtLock : State :=
  lockAt ((setSlot State.reset 3 true { ctx := some 9 }).setTime { Time.reset with cycle := 1792 }) 0

theorem fillerAtLock_due : mayCount fillerAtLock = true ∧ (getSlot fillerAtLock 3 true).ctx = some 9 ∧
    (getSlot fillerAtLock 3 true).filFrom + 1792 ≤ fillerAtLock.time.cycle ∧
    beat fillerAtLock < fillerAtLock.led.first := by decide

/-- Refutes O20: in the beat in which time locks, the close counts as looked at (`mayCount`) but the first whole beat is
still ahead (R206, R207), so a filler unit that falls due there is not counted for its tenant. -/
theorem not_ledgerAndGovernors : ¬ Obligations.LedgerAndGovernors := by
  rintro ⟨hticks, -⟩
  obtain ⟨hmay, hctx, hdue, hfirst⟩ := fillerAtLock_due
  obtain ⟨hfil, -⟩ := hticks fillerAtLock hmay
  obtain ⟨t, ht, hcnt, -⟩ := hfil 3 9 (by decide) hctx hdue
  rw [exec_filUnitsTick, execFilUnitsTick_before_first (by decide) hctx hmay hdue hfirst] at ht
  cases ht
  exact absurd (congrArg Cnt.fil hcnt) (Nat.succ_ne_self _).symm

end Sys2Proof.Machine
end

section
/-!
SUPPORT. Record numbers (R373): no record and no message that is sent takes back a number that a half's ring has given.
-/

namespace Sys2Proof.Machine

/-! ### Record numbers of the rings -/

/-- The number of the last record of a half's ring. -/
def lastSeq (s : State) (h : Half) : Nat := (s.err.ring.get h).seq

/-- No ring's number goes back. -/
def SeqsGrow (s t : State) : Prop := ∀ h, lastSeq s h ≤ lastSeq t h

theorem SeqsGrow.of_err {s t : State} (h : t.err = s.err) : SeqsGrow s t := fun k => by rw [lastSeq, lastSeq, h]

theorem SeqsGrow.trans {s t u : State} (h : SeqsGrow s t) (k : SeqsGrow t u) : SeqsGrow s u := fun x => (h x).trans (k x)

@[simp] theorem irq_err (s : State) (n : Nat) : (irq s n).err = s.err := by
  obtain ⟨d, h⟩ := irq_only s n
  rw [h, State.setDev_err]

@[simp] theorem logRec_syn (s : State) (h : Half) (x : Rec) : (logRec s h x).syn = s.syn := by
  obtain ⟨e, d, hlog, -⟩ := logRec_only s h x
  rw [hlog, State.setDev_syn, State.setErr_syn]

@[simp] theorem logRec_mem (s : State) (h : Half) (x : Rec) : (logRec s h x).mem = s.mem := by
  obtain ⟨e, d, hlog, -⟩ := logRec_only s h x
  rw [hlog, State.setDev_mem, State.setErr_mem]

@[simp] theorem logSpine_que (s : State) (x : Rec) : (logSpine s x).que = s.que := by
  obtain ⟨e, d, hlog, -⟩ := logSpine_only s x
  rw [hlog, State.setDev_que, State.setErr_que]

@[simp] theorem ringPut_seq (r : Ring) (x : Rec) : (ringPut r x).seq = x.seq := rfl

/-- A ring that runs takes every record and numbers it next (R372, R373). -/
theorem lastSeq_logRec {s : State} {h : Half} (x : Rec) (hrun : s.boot.sage.get h = true) (hka : s.err.ka = false)
    (hfrozen : s.err.frozen = false) : lastSeq (logRec s h x) h = lastSeq s h + 1 := by
  unfold logRec
  simp only [hrun, hka, hfrozen, Bool.not_true, Bool.or_self, Bool.false_eq_true, if_false]
  split <;> simp [lastSeq, stamp]

/-- A record changes the ring of its half, whose number does not go back. -/
theorem logRec_ring (s : State) (h : Half) (x : Rec) :
    ∃ r, (logRec s h x).err.ring = s.err.ring.set h r ∧ lastSeq s h ≤ r.seq := by
  unfold logRec
  split
  · exact ⟨s.err.ring.get h, by cases h <;> rfl, le_rfl⟩
  · split
    · exact ⟨_, rfl, le_rfl⟩
    · dsimp only
      split
      · exact ⟨_, by rw [irq_err]; rfl, Nat.le_succ _⟩
      · exact ⟨_, rfl, Nat.le_succ _⟩

theorem logRec_seqs (s : State) (h : Half) (x : Rec) : SeqsGrow s (logRec s h x) := by
  intro k
  obtain ⟨r, hring, hseq⟩ := logRec_ring s h x
  by_cases hk : k = h
  · rwa [hk, lastSeq.eq_def (logRec s h x), hring, Two.get_set_self]
  · rw [lastSeq, lastSeq, hring, Two.get_set_ne _ _ _ _ hk]

theorem logSpine_seqs (s : State) (x : Rec) : SeqsGrow s (logSpine s x) := by
  unfold logSpine
  split
  · exact logRec_seqs s _ x
  · exact (logRec_seqs s .west x).trans (logRec_seqs _ .east x)

theorem SeqsGrow.of_logSpine {s t : State} (x : Rec) (h : t.err = s.err) : SeqsGrow s (logSpine t x) :=
  (SeqsGrow.of_err h).trans (logSpine_seqs t x)

theorem haltQueue_seqs (s : State) (q cause : Nat) (byCmd : Bool) (addr : Nat) :
    SeqsGrow s (haltQueue s q cause byCmd addr) := by
  unfold haltQueue
  dsimp only
  split
  · exact .of_err rfl
  · exact .of_logSpine _ rfl

/-! ### Sending -/

theorem useMask_err (s : State) (h : Half) (n : Nat) : (useMask s h n).err = s.err := by
  unfold useMask
  dsimp only
  split_ifs <;> rfl

theorem transmit_err (s : State) (o : OutM) : (transmit s o).err = s.err := by
  unfold transmit
  split
  · rfl
  · split
    · rfl
    · split
      · rfl
      · show (if o.m.enc then useMask s _ _ else s).err = s.err
        split
        · exact useMask_err s _ _
        · rfl

theorem useSess_err (s : State) (p : Peer) : (useSess s p).err = s.err := by
  unfold useSess
  split <;> rfl

theorem putConn_err (s : State) (c : Conn) : (putConn s c).err = s.err := by
  unfold putConn
  split <;> rfl

theorem sendNow_err (s : State) (m : Msg) (body : Body) (enc : Bool) : (sendNow s m body enc).err = s.err := by
  unfold sendNow
  dsimp only
  rw [transmit_err, putConn_err]
  split
  · exact useSess_err s _
  · rfl

theorem hedged_err (s : State) : (hedged s).err = s.err := rfl

theorem putAtt_err (s : State) (a : Att) : (putAtt s a).err = s.err := rfl

theorem startAtt_err (s : State) (d : Peer) : (startAtt s d).err = s.err := by
  unfold startAtt sendSess
  rw [sendNow_err, putAtt_err, hedged_err, hedged_err, hedged_err, hedged_err]

theorem sessRoom_seqs {s t : State} {d : Peer} (h : sessRoom s d = some t) : SeqsGrow s t := by
  unfold sessRoom at h
  split at h
  · cases h
    exact .of_err rfl
  · split at h
    · cases h
    · cases h
      exact .of_logSpine _ rfl

theorem needSession_seqs (s : State) (d : Peer) : SeqsGrow s (needSession s d) := by
  unfold needSession
  split
  · exact .of_err rfl
  · split
    · next hroom => exact (sessRoom_seqs hroom).trans (.of_err (startAtt_err _ d))
    · exact .of_err rfl

theorem sendOne_seqs (s : State) (m : Msg) (body : Body) : SeqsGrow s (sendOne s m body) := by
  unfold sendOne
  split
  · exact .of_err rfl
  · dsimp only
    split_ifs
    · exact .of_err rfl
    · have hwait : ∀ f, SeqsGrow s (s.setFab f) := fun _ => .of_err rfl
      exact (hwait _).trans (needSession_seqs _ _)
    · exact .of_err rfl
    · exact .of_err (sendNow_err s m body _)

/-- A message sent, in one part or several, takes back no record number. -/
theorem send_seqs (s : State) (m : Msg) (body : Body) : SeqsGrow s (send s m body) := by
  unfold send
  generalize msgParts m body = ps
  induction ps generalizing s with
  | nil => exact .of_err rfl
  | cons p ps ih => exact (sendOne_seqs s p.1 p.2).trans (ih _)

end Sys2Proof.Machine
end

section
/-!
SUPPORT. Signals at their homes (R215 to R224): what each type of object takes from a signal, and what a rejected arrival
leaves.
-/

namespace Sys2Proof.Machine

/-! ### Objects that nothing waits for -/

/-- An object without waiters is stored as it is. -/
theorem settle_of_no_waiters (s : State) (i : Nat) {o : SObj} (h : o.waiters = []) : settle s i o = setObj s i o := by
  have ho : { o with waiters := [] } = o := by rw [← h]
  rw [settle, h, release, ho]

/-- An object is read from the sync block's part. -/
theorem getObj_of_syn {s t : State} (h : t.syn.tab = s.syn.tab) (i : Nat) : getObj t i = getObj s i := by
  rw [getObj, h, getObj]

theorem getObj_of_objFor {s : State} {h : B32} {o : SObj} (hobj : objFor s h = some o) : getObj s (hIdx h) = o := by
  unfold objFor at hobj
  dsimp only at hobj
  split at hobj
  · exact Option.some.inj hobj
  · cases hobj

/-! ### Arrivals at a barrier -/

theorem roundDone_of_full {o : SObj} (h : o.count = o.parts) :
    roundDone o = { o with round := (o.round + 1) % 65536, count := o.next, next := 0 } := if_pos h

theorem roundDone_of_open {o : SObj} (h : o.count ≠ o.parts) : roundDone o = o := if_neg h

/-- An arrival of the round in course counts while the round has room. -/
theorem arrive_current {o : SObj} {q : Nat} (hq : q = o.round) (hroom : o.count < o.parts) :
    arrive o q = some (roundDone (roundDone { o with count := o.count + 1 })) := by
  have hd : (q + 65536 - o.round) % 65536 = 0 := by omega
  simp only [arrive, hd, if_true, if_neg (Nat.not_le.mpr hroom)]

/-- An arrival that leaves the round in course open. -/
theorem arrive_counts {o : SObj} {q : Nat} (hq : q = o.round) (hroom : o.count + 1 < o.parts) :
    arrive o q = some { o with count := o.count + 1 } := by
  have hopen : roundDone { o with count := o.count + 1 } = { o with count := o.count + 1 } := roundDone_of_open hroom.ne
  rw [arrive_current hq (by omega), hopen, hopen]

/-- The arrival that fills the round in course: the next one goes on with the arrivals that it has. -/
theorem arrive_completes {o : SObj} {q : Nat} (hq : q = o.round) (hfull : o.count + 1 = o.parts) (hopen : o.next ≠ o.parts) :
    arrive o q = some { o with round := (o.round + 1) % 65536, count := o.next, next := 0 } := by
  have hdone := roundDone_of_full (o := { o with count := o.count + 1 }) hfull
  rw [arrive_current hq (by omega), hdone, roundDone_of_open hopen]

/-- The next round, full already, completes with it. -/
theorem arrive_completes_both {o : SObj} {q : Nat} (hq : q = o.round) (hfull : o.count + 1 = o.parts)
    (hnext : o.next = o.parts) : arrive o q = some { o with round := (o.round + 2) % 65536, count := 0, next := 0 } := by
  have hdone := roundDone_of_full (o := { o with count := o.count + 1 }) hfull
  have hround : ((o.round + 1) % 65536 + 1) % 65536 = (o.round + 2) % 65536 := by omega
  rw [arrive_current hq (by omega), hdone, roundDone_of_full hnext, hround]

/-- How far the next round is from the one in course. -/
theorem nextRound_distance {r q : Nat} (hr : r < 65536) (hq : q = (r + 1) % 65536) : (q + 65536 - r) % 65536 = 1 := by
  omega

theorem arrive_next {o : SObj} {q : Nat} (hr : o.round < 65536) (hq : q = (o.round + 1) % 65536) (hroom : o.next < o.parts) :
    arrive o q = some { o with next := o.next + 1 } := by
  simp only [arrive, nextRound_distance hr hq, one_ne_zero, if_false, if_true, if_neg (Nat.not_le.mpr hroom)]

/-- An arrival that would pass PARTICIPANTS of its round is none (R224). -/
theorem arrive_over {o : SObj} {q : Nat} (hr : o.round < 65536)
    (h : q = o.round ∧ o.parts ≤ o.count ∨ q = (o.round + 1) % 65536 ∧ o.parts ≤ o.next) : arrive o q = none := by
  rcases h with ⟨hq, hfull⟩ | ⟨hq, hfull⟩
  · have hd : (q + 65536 - o.round) % 65536 = 0 := by omega
    simp only [arrive, hd, if_true, if_pos hfull]
  · simp only [arrive, nextRound_distance hr hq, one_ne_zero, if_false, if_true, if_pos hfull]

/-! ### A signal applied -/

/-- R218: the sum, or the counter's end. -/
theorem addCounter_eq (o : SObj) (amount : B64) : addCounter o amount = { o with
    value := min (o.value + amount.toNat) (2 ^ 64 - 1)
    cntSat := o.cntSat || decide (2 ^ 64 ≤ o.value + amount.toNat) } := by
  unfold addCounter
  dsimp only
  split
  · next h => rw [min_eq_right (by omega), decide_eq_true h, Bool.or_true]
  · next h => rw [min_eq_left (by omega), decide_eq_false h, Bool.or_false]

section

variable {s : State} {g : SigFly} {o o1 : SObj} (hobj : objFor s g.obj = some o) (hctx : g.ctx = none)

include hobj hctx

theorem applySig_counter (hty : o.ty = .counter) (harr : g.arrive = false) (hw : o.waiters = []) :
    applySig s g = setObj s (hIdx g.obj) { o with
      value := min (o.value + g.amount.toNat) (2 ^ 64 - 1)
      cntSat := o.cntSat || decide (2 ^ 64 ≤ o.value + g.amount.toNat), sig1 := g.who, tSig := ns s } := by
  simp only [applySig, hobj, hctx, hty, harr, Bool.false_eq_true, if_false, addCounter_eq]
  exact settle_of_no_waiters s _ hw

/-- A flag takes a signal that is not its first overrun. -/
theorem applySig_flag (hty : o.ty = .flag) (harr : g.arrive = false) (hset : setFlag o g.who = (o1, false))
    (hw : o1.waiters = []) : applySig s g = setObj s (hIdx g.obj) { o1 with tSig := ns s } := by
  simp only [applySig, hobj, hctx, hty, harr, hset, Bool.false_eq_true, if_false]
  exact settle_of_no_waiters s _ hw

/-- A barrier counts an arrival that has its place. -/
theorem applySig_barrier (hty : o.ty = .barrier) (harr : arrive o (g.amount.toNat % 65536) = some o1)
    (hw : o1.waiters = []) : applySig s g = setObj s (hIdx g.obj) { o1 with sig1 := g.who, tSig := ns s } := by
  simp only [applySig, hobj, hctx, hty, harr, Bool.false_eq_true, if_false]
  exact settle_of_no_waiters s _ hw

theorem applySig_overrun (hty : o.ty = .barrier) (harr : arrive o (g.amount.toNat % 65536) = none) :
    applySig s g = overrun s (hIdx g.obj) o g := by
  simp only [applySig, hobj, hctx, hty, harr, Bool.false_eq_true, if_false]

end

/-! ### A signal delivered -/

/-- Signal `n` without the others: the state in which it is applied. -/
def sigTaken (s : State) (n : Nat) : State := s.setSyn { s.syn with sigs := s.syn.sigs.filter fun h => h.n != n }

/-- Signal `n` is `g`, the earliest of its source to the object `o` that it names (R217). -/
structure SigDue (s : State) (n : Nat) (g : SigFly) (o : SObj) : Prop where
  found : (s.syn.sigs.find? fun g => g.n == n) = some g
  live : live s = true
  first : (s.syn.sigs.any fun h => decide (h.n < n) && srcOf h.who = srcOf g.who && h.obj = g.obj) = false
  home : objFor s g.obj = some o

theorem deliver_due {s t : State} {n : Nat} {g : SigFly} {o : SObj} {ty : SoTy} (h : SigDue s n g o) (hty : o.ty = ty)
    (ht : applySig (sigTaken s n) g = t) : deliver n ty s = .next t := by
  obtain ⟨hfound, hlive, hfirst, hhome⟩ := h
  simp only [deliver, hfound, hlive, hfirst, hhome, hty, decide_true, Bool.not_false, Bool.and_self, Bool.not_true,
    Bool.false_eq_true, if_false]
  rw [← ht, sigTaken]

/-- Taking a signal off its way leaves the object that it names. -/
theorem SigDue.home_taken {s : State} {n : Nat} {g : SigFly} {o : SObj} (h : SigDue s n g o) :
    objFor (sigTaken s n) g.obj = some o := h.home

/-! ### Rejected arrivals -/

theorem haltQueue_syn (s : State) (q cause : Nat) (byCmd : Bool) (addr : Nat) :
    (haltQueue s q cause byCmd addr).syn = s.syn := by
  obtain ⟨u, e, d, h, -⟩ := haltQueue_only s q cause byCmd addr
  rw [h, State.setDev_syn, State.setErr_syn, State.setQue_syn]

theorem haltQueue_mem (s : State) (q cause : Nat) (byCmd : Bool) (addr : Nat) :
    (haltQueue s q cause byCmd addr).mem = s.mem := by
  obtain ⟨u, e, d, h, -⟩ := haltQueue_only s q cause byCmd addr
  rw [h, State.setDev_mem, State.setErr_mem, State.setQue_mem]

/-- An enabled queue that halts keeps all but its state, the cause and who caused it. -/
theorem getQ_haltQueue {s : State} {q : Nat} (cause : Nat) (byCmd : Bool) (addr : Nat) (h : (getQ s q).st = .enabled) :
    getQ (haltQueue s q cause byCmd addr) q = { getQ s q with st := .halted, cause := cause, byCmd := byCmd } := by
  unfold haltQueue
  dsimp only
  rw [if_neg (not_not.mpr h), getQ, logSpine_que]
  exact getQ_setQ s q _

theorem OnlySent.syn {s t : State} (h : OnlySent s t) : t.syn = s.syn := by
  obtain ⟨n, c, f, e, d, rfl, -⟩ := h
  rfl

theorem OnlySent.mem {s t : State} (h : OnlySent s t) : t.mem = s.mem := by
  obtain ⟨n, c, f, e, d, rfl, -⟩ := h
  rfl

/-- What a rejected arrival leaves: objects and memory, with its record in the ring of the object's half. -/
theorem overrun_leaves (s : State) (i : Nat) (o : SObj) (g : SigFly) : let t := overrun s i o g
    t.syn = s.syn ∧ t.mem = s.mem ∧ (s.boot.sage.get (objHalf i) = true → s.err.ka = false → s.err.frozen = false →
      t.err.ring.get (objHalf i) ≠ s.err.ring.get (objHalf i)) := by
  have hseq {t : State} {h : Half} (hlt : lastSeq s h < lastSeq t h) : t.err.ring.get h ≠ s.err.ring.get h :=
    fun heq => hlt.ne (by rw [lastSeq, lastSeq, heq])
  unfold overrun
  dsimp only
  generalize recObj s i o 0x0401 2 _ g.who _ = x
  have hnew (hrun : s.boot.sage.get (objHalf i) = true) (hka : s.err.ka = false) (hfrozen : s.err.frozen = false) :
      lastSeq s (objHalf i) < lastSeq (logRec s (objHalf i) x) (objHalf i) := by
    rw [lastSeq_logRec x hrun hka hfrozen]
    exact Nat.lt_succ_self _
  have hsyn : (logRec s (objHalf i) x).syn = s.syn := logRec_syn _ _ _
  have hmem : (logRec s (objHalf i) x).mem = s.mem := logRec_mem _ _ _
  generalize logRec s (objHalf i) x = s1 at hnew hsyn hmem
  rw [← hsyn, ← hmem]
  split
  case h_1 p _ _ =>
    have hsent := send_sent s1
    exact ⟨(hsent _ _).syn, (hsent _ _).mem, fun hrun hka hfrozen =>
      hseq ((hnew hrun hka hfrozen).trans_le (send_seqs s1 _ _ _))⟩
  case h_2 q _ _ =>
    exact ⟨haltQueue_syn _ _ _ _ _, haltQueue_mem _ _ _ _ _, fun hrun hka hfrozen =>
      hseq ((hnew hrun hka hfrozen).trans_le (haltQueue_seqs s1 _ _ _ _ _))⟩
  case h_3 => exact ⟨rfl, rfl, fun hrun hka hfrozen => hseq (hnew hrun hka hfrozen)⟩

/-- Settles O58: the arrival that fills the round in course completes it, and the next one when that is full already; one
that would pass PARTICIPANTS leaves the barrier and takes the ring's next record. -/
theorem barrierRounds : Obligations.BarrierRounds := by
  intro s n g o hfound hlive hfirst hobj hctx hw hty hround i s1 q
  have hdue : SigDue s n g o := ⟨hfound, hlive, hfirst, hobj⟩
  have hhome := hdue.home_taken
  refine ⟨fun hq hfull hopen => ?one, fun hq hfull hnext => ?two, fun hexcess => ?rejected⟩
  case one => exact deliver_due hdue hty (applySig_barrier hhome hctx hty (arrive_completes hq hfull hopen) hw)
  case two => exact deliver_due hdue hty (applySig_barrier hhome hctx hty (arrive_completes_both hq hfull hnext) hw)
  case rejected =>
    obtain ⟨hsyn, hmem, hrec⟩ := overrun_leaves s1 i o g
    have hkept : getObj (overrun s1 i o g) i = getObj s1 i := getObj_of_syn (by rw [hsyn]) i
    exact ⟨_, deliver_due hdue hty (applySig_overrun hhome hctx hty (arrive_over hround hexcess)),
      hkept.trans (getObj_of_objFor hhome), hmem, hrec⟩

/-- Settles O22: the signal is applied by its object's type, here or from another device; a rejected arrival halts the
queue that made it. -/
theorem signalsAtTheirHome : Obligations.SignalsAtTheirHome := by
  refine ⟨fun s n g o hfound hlive hfirst hobj hctx hw => ?home, fun s m o hon hobj => ?remote, fun s who hst => ?rejected⟩
  case home =>
    have hdue : SigDue s n g o := ⟨hfound, hlive, hfirst, hobj⟩
    have hhome := hdue.home_taken
    refine ⟨fun hty harr => ?counter, fun hty harr hset => ?set, fun hty harr hset hovr => ?again, fun hty hq hroom => ?current,
      fun hty hq hround hroom => ?upcoming⟩
    case counter => exact deliver_due hdue hty (applySig_counter hhome hctx hty harr hw)
    case set =>
      have hflag : setFlag o g.who = ({ o with set := true, sig1 := g.who }, false) := by simp [setFlag, hset]
      exact deliver_due hdue hty (applySig_flag hhome hctx hty harr hflag hw)
    case again =>
      have hflag : setFlag o g.who = ({ o with ovrCnt := min (o.ovrCnt + 1) 0xFFFF }, false) := by
        simp [setFlag, hset, hovr]
      exact deliver_due hdue hty (applySig_flag hhome hctx hty harr hflag hw)
    case current => exact deliver_due hdue hty (applySig_barrier hhome hctx hty (arrive_counts hq hroom) hw)
    case upcoming => exact deliver_due hdue hty (applySig_barrier hhome hctx hty (arrive_next hround hq hroom) hw)
  case remote =>
    refine ⟨fun htenant hjob => ?_, fun hne => ?_⟩
    · simp [execRemoteSignal, hon, hobj, htenant, hjob]
    · refine ⟨foreign s m.handle m.who (mkDev m.src), ?_, logRec_syn _ _ _, logRec_mem _ _ _⟩
      simp only [exec_remoteSignal, execRemoteSignal, hon, hobj, if_pos hne, Bool.not_true, Bool.false_eq_true, if_false]
  case rejected =>
    have hhalt := getQ_haltQueue 6 false 0 hst
    exact ⟨_, rfl, by rw [hhalt], by rw [hhalt]⟩

end Sys2Proof.Machine
end

section
/-!
SUPPORT. The sync block (R229, R230, R236, R240): what each command leaves of the object that its handle names.
-/

namespace Sys2Proof.Machine

/-! ### Commands that pass their checks -/

/-- CREATE whose reserved bits are 0 has its effect on the index that its handle names. -/
theorem syncCmd_create {s : State} {w : BitVec 56} (h : cmdReady .sync s = true) (h53 : bits w 53 32 = 0) {c : Instr}
    {ka : Bool} {body : Nat → SObj → State} :
    syncCmd c w s true ka body = .next (body (bits w 31 14) (getObj s (bits w 31 14))) := by
  rw [syncCmd, cmd_eq h]
  simp [h53]

/-- What RESET makes of an object (R240). -/
def resetObj (a : B64) (o : SObj) : SObj :=
  match o.ty with
  | .counter => { o with value := a.toNat }
  | .flag => { o with set := false, overrun := false, ovrCnt := 0, notice := 0 }
  | .barrier => { o with round := bits a 15 0, count := 0, next := 0 }

theorem resetObj_counter {o : SObj} (a : B64) (h : o.ty = .counter) : resetObj a o = { o with value := a.toNat } := by
  simp only [resetObj, h]

theorem resetObj_flag {o : SObj} (a : B64) (h : o.ty = .flag) :
    resetObj a o = { o with set := false, overrun := false, ovrCnt := 0, notice := 0 } := by simp only [resetObj, h]

theorem resetObj_barrier {o : SObj} (a : B64) (h : o.ty = .barrier) :
    resetObj a o = { o with round := bits a 15 0, count := 0, next := 0 } := by simp only [resetObj, h]

/-- A handle that stands names an active object of its generation; TYPE and the reserved bits beside it are 0 (R229). -/
structure Handled (s : State) (w : BitVec 56) (o : SObj) : Prop where
  reserved : bits w 53 32 = 0
  ty : bits w 55 54 = 0
  obj : getObj s (bits w 31 14) = o
  active : o.st = .active
  gen : o.gen = bv 14 (bits w 13 0)

section

variable {s : State} {w : BitVec 56} {o : SObj} (hw : Handled s w o)

include hw

/-- Any other command has its effect on the object that its handle names. -/
theorem syncCmd_handled (h : cmdReady .sync s = true) {c : Instr} {ka : Bool} {body : Nat → SObj → State} :
    syncCmd c w s false ka body = .next (body (bits w 31 14) o) := by
  obtain ⟨hres, hty, hobj, hst, hgen⟩ := hw
  rw [syncCmd, cmd_eq h]
  simp [hres, hty, hobj, hst, hgen]

/-- READ has its effect in keep-alive mode too. -/
theorem execSyncRead_reads (h : readReady .sync s = true) :
    execSyncRead w s = .next (finish .sync 0 (wrBytes s 0x14020 (soBytes o))) := by
  obtain ⟨hres, hty, hobj, hst, hgen⟩ := hw
  rw [execSyncRead, syncCmd, readCmd_eq h]
  simp [hres, hty, hobj, hst, hgen]

variable (h : cmdReady .sync s = true)

include h

theorem execSyncDestroy_destroys (hwait : o.waiters = []) (hreg : o.reg = false) : execSyncDestroy w s =
    .next (finish .sync 0 (setObj s (bits w 31 14) { o with st := .quarantine, qend := quarEnd s })) := by
  rw [execSyncDestroy, syncCmd_handled hw h]
  simp [hwait, hreg]

theorem execSyncReset_resets {o1 : SObj} (hwait : o.waiters = []) (ho1 : resetObj (syncArg0 s) o = o1) :
    execSyncReset w s = .next (finish .sync 0 (setObj s (bits w 31 14) o1)) := by
  subst ho1
  rw [execSyncReset, syncCmd_handled hw h]
  cases hty : o.ty <;> simp [hwait, hty, resetObj]

theorem execClearOvr_clears (hty : o.ty = .flag) : execClearOvr w s =
    .next (finish .sync 0 (setObj s (bits w 31 14) { o with overrun := false })) := by
  rw [execClearOvr, syncCmd_handled hw h, if_neg (not_not.mpr hty)]

theorem execReadWaiters_writes {n : Nat} {s1 : State} (hn : n = min (bits (syncArg0 s) 15 0) o.waiters.length)
    (hhigh : bits (syncArg1 s) 63 52 = 0) (hal : (syncArg1 s).toNat % 32 = 0)
    (hend : hostBase + (syncArg1 s).toNat + 32 * n ≤ 2 ^ 48) (hlink : s.dev.linkUp = true)
    (hs1 : s1 = writeMem s (hostBase + (syncArg1 s).toNat) ((o.waiters.take n).flatMap waiterBytes)) :
    execReadWaiters w s = .next (finish .sync 0 (setBlk s1 .sync { getBlk s1 .sync with count := n })) := by
  subst hn hs1
  have hfine : ¬ (bits (syncArg1 s) 63 52 ≠ 0 ∨ (syncArg1 s).toNat % 32 ≠ 0 ∨ (!(decide (hostBase + (syncArg1 s).toNat +
      32 * min (bits (syncArg0 s) 15 0) o.waiters.length ≤ 2 ^ 48))) = true) := by
    rw [decide_eq_true hend]
    simp [hhigh, hal]
  rw [execReadWaiters, syncCmd_handled hw h]
  simp only [hfine, hlink, Bool.not_true, Bool.false_eq_true, if_false]

end

theorem execSyncCreate_creates {s : State} {w : BitVec 56} {i : Nat} {o : SObj} {a : B64} (h : cmdReady .sync s = true)
    (h53 : bits w 53 32 = 0) (hi : bits w 31 14 = i) (ho : getObj s i = o) (ha : syncArg0 s = a) (hst : o.st = .free)
    (hty : bits w 55 54 ≠ 3) (hres : bits a 23 12 = 0) (hparts : bits w 55 54 = 2 → bits a 39 24 ≠ 0)
    (hctx : (getCtx s (bits a 11 0)).st ≠ .free) :
    let s1 := setObj s i {
      st := .active
      ty := if bits w 55 54 = 0 then .counter else if bits w 55 54 = 1 then .flag else .barrier
      gen := o.gen + 1, ctx := bits a 11 0, parts := bits a 39 24, wd := bits a 63 40 }
    execSyncCreate w s = .next (finish .sync 0 (setBlk s1 .sync { getBlk s1 .sync with handle := mkHandle i (o.gen + 1) })) := by
  subst hi ho ha
  have hform : ¬ (bits w 55 54 = 3 ∨ bits (syncArg0 s) 23 12 ≠ 0 ∨ bits w 55 54 = 2 ∧ bits (syncArg0 s) 39 24 = 0) := by
    tauto
  rw [execSyncCreate, syncCmd_create h h53]
  simp only [hform, hst, hctx, reduceCtorEq, ne_eq, not_true, if_false]

theorem execSyncQuarantineEnd_frees {s : State} {i : Nat} (hst : (getObj s i).st = .quarantine)
    (hend : (getObj s i).qend ≤ ns s) : execSyncQuarantineEnd i s = .next (setObj s i { gen := (getObj s i).gen }) := by
  rw [execSyncQuarantineEnd, if_neg (by simp [hst, hend])]

/-- TYPE and the bits beside it are 0 together when the field that spans them is. -/
theorem handle_fields_zero {w : BitVec 56} (h : bits w 55 32 = 0) : bits w 53 32 = 0 ∧ bits w 55 54 = 0 := by
  simp only [bits, Nat.shiftRight_eq_div_pow] at h ⊢
  omega

/-- Settles O21: each command of the block, its handle standing, completes with its effect; the quarantine ends when
due. -/
theorem syncObjectCommands : Obligations.SyncObjectCommands := by
  refine ⟨fun s w h h53 => ⟨?create, fun hty hst hgen => ?handled⟩, fun s w h h55 => ?read,
    fun s i hst hend => execSyncQuarantineEnd_frees hst hend⟩
  case create =>
    intro hst hty hres hparts hctx
    exact execSyncCreate_creates h h53 rfl rfl rfl hst hty hres hparts hctx
  case handled =>
    have hw : Handled s w (getObj s (bits w 31 14)) := ⟨h53, hty, rfl, hst, hgen⟩
    refine ⟨execSyncDestroy_destroys hw h, fun hwait o1 ho1 => ?reset, fun hwait hbar => ?barrier,
      execClearOvr_clears hw h, fun n s1 hn hhigh hal hend hlink hs1 =>
        execReadWaiters_writes hw h hn hhigh hal hend hlink hs1⟩
    case reset =>
      simp only [List.mem_cons, Prod.mk.injEq, List.not_mem_nil, or_false] at ho1
      rcases ho1 with ⟨rfl, hty⟩ | ⟨rfl, hty⟩
      · exact execSyncReset_resets hw h hwait (resetObj_counter _ hty)
      · exact execSyncReset_resets hw h hwait (resetObj_flag _ hty)
    case barrier => exact execSyncReset_resets hw h hwait (resetObj_barrier _ hbar)
  case read =>
    intro o hst hgen
    obtain ⟨h53, hty⟩ := handle_fields_zero h55
    exact execSyncRead_reads ⟨h53, hty, rfl, hst, hgen⟩ h

end Sys2Proof.Machine
end

section
/-!
SUPPORT. The watchdog (R233, R234) and the lending of clusters that wait (R238, R239): the wait that expires, the queue
that goes past it, and the clusters once a half's loans are settled.
-/

namespace Sys2Proof.Tab

variable {β : Type}

/-- A pass over the entries that keeps each key, or leaves out what an unlisted key reads as, maps what is read. -/
theorem get_filterMap {d : Nat → β} {g : Nat × β → Option (Nat × β)} {v : Nat → β → β}
    (hd : ∀ e, g e = none → v e.1 e.2 = d e.1) (hg : ∀ e x, g e = some x → x = (e.1, v e.1 e.2)) {t : Tab β} (ht : t.Pairwise fun e f => e.1 < f.1) {e : Nat × β}
    (he : e ∈ t) : get d (t.filterMap g) e.1 = v e.1 e.2 := by
  induction t with
  | nil => cases he
  | cons f t ih =>
    rw [List.pairwise_cons] at ht
    obtain ⟨hf, ht⟩ := ht
    rcases List.mem_cons.mp he with rfl | hmem
    · cases hge : g e with
      | none =>
        rw [List.filterMap_cons_none hge, hd e hge]
        refine get_unlisted d _ _ fun x hx => ?_
        obtain ⟨y, hy, hxy⟩ := List.mem_filterMap.mp hx
        rw [hg y x hxy]
        exact (hf y hy).ne'
      | some x =>
        rw [List.filterMap_cons_some hge, hg e x hge, get, if_pos rfl]
    · cases hgf : g f with
      | none =>
        rw [List.filterMap_cons_none hgf]
        exact ih ht hmem
      | some x =>
        rw [List.filterMap_cons_some hgf, hg f x hgf, get, if_neg (hf e hmem).ne]
        exact ih ht hmem

end Sys2Proof.Tab

namespace Sys2Proof.Machine

/-! ### Expired waits -/

/-- The one waiter of an identity is found. -/
theorem find?_of_unique {ws : List Waiter} {w : Waiter} {p : Waiter → Bool} (h : (ws.filter fun v => v.who = w.who) = [w])
    (hp : p w = true) : (ws.find? fun v => v.who = w.who && p v) = some w := by
  have hfind : (ws.filter fun v => v.who = w.who).find? p = some w := by rw [h, List.find?_cons_of_pos hp]
  simpa only [List.find?_filter, decide_eq_true_eq, Bool.decide_and, Bool.decide_eq_true] using hfind

/-- Object `i` without the wait that expired (R234). -/
def expiredObj (s : State) (i : Nat) (w : Waiter) : SObj :=
  { getObj s i with waiters := (getObj s i).waiters.filter (· ≠ w), wdFired := true }

/-- The wait removed and counted. -/
def waitRemoved (s : State) (i : Nat) (w : Waiter) : State :=
  let s1 := setObj s i (expiredObj s i w)
  s1.setSyn { s1.syn with wdCnt := sat32 (s.syn.wdCnt + 1) }

/-- The wait removed, counted and recorded. -/
def waitExpired (s : State) (i : Nat) (w : Waiter) : State :=
  logRec (waitRemoved s i w) (objHalf i) (recObj (waitRemoved s i w) i (expiredObj s i w) 0x0404 2 w.who 0 0)

theorem execWatchdogExpiry_expires {s : State} {i d : Nat} {w : Waiter}
    (h : ((getObj s i).waiters.filter fun v => v.who = w.who) = [w]) (hdl : w.deadline = some d) (hd : d ≤ beat s) :
    execWatchdogExpiry i w.who s = .next (match w.src with
      | .slot cl fil => slotExpired (waitExpired s i w) cl fil (mkHandle i (getObj s i).gen)
      | .queue q => queueExpired (waitExpired s i w) q) := by
  unfold execWatchdogExpiry
  dsimp only
  rw [find?_of_unique h (by simp only [hdl, hd, decide_true])]
  rfl

@[simp] theorem waitRemoved_syn (s : State) (i : Nat) (w : Waiter) : (waitRemoved s i w).syn =
    { (setObj s i (expiredObj s i w)).syn with wdCnt := sat32 (s.syn.wdCnt + 1) } := rfl

@[simp] theorem waitRemoved_slot (s : State) (i : Nat) (w : Waiter) : (waitRemoved s i w).slot = s.slot := rfl

@[simp] theorem waitRemoved_que (s : State) (i : Nat) (w : Waiter) : (waitRemoved s i w).que = s.que := rfl

@[simp] theorem waitRemoved_mem (s : State) (i : Nat) (w : Waiter) : (waitRemoved s i w).mem = s.mem := rfl

/-- What the expiry changes beside the one who waited: the sync block's part, with the rings and the interrupt state. -/
theorem waitExpired_leaves (s : State) (i : Nat) (w : Waiter) : let t := waitExpired s i w
    t.syn.wdCnt = sat32 (s.syn.wdCnt + 1) ∧ getObj t i = expiredObj s i w ∧ t.slot = s.slot ∧ t.que = s.que ∧
      t.mem = s.mem := by
  intro t
  obtain ⟨e, d, hlog, -⟩ := logRec_only (waitRemoved s i w) (objHalf i)
    (recObj (waitRemoved s i w) i (expiredObj s i w) 0x0404 2 w.who 0 0)
  have ht : t = ((waitRemoved s i w).setErr e).setDev d := hlog
  have hobj : getObj t i = getObj (setObj s i (expiredObj s i w)) i := getObj_of_syn (by simp [ht]) i
  exact ⟨by simp [ht], hobj.trans (getObj_setObj s i _), by simp [ht], by simp [ht], by simp [ht]⟩

/-- A queue that runs goes past its WAIT and halts with WD_EXPIRED. -/
theorem getQ_queueExpired {s : State} {q : Nat} (h : (getQ s q).st = .enabled) : getQ (queueExpired s q) q =
    { getQ s q with rd := (getQ s q).rd + 1, head := none, waitDl := none, st := .halted, cause := 8, byCmd := false } := by
  unfold queueExpired
  rw [getQ_haltQueue]
  · rw [getQ_setQ]
  · rw [getQ_setQ]
    exact h

/-! ### Lending -/

section

variable {s : State} {cl : Nat} (hcl : cl < 512)

include hcl

theorem execLendStart_lends (hlive : live s = true) (hka : s.err.ka = false) (hmay : mayLendNow s cl = true) :
    execLendStart cl s = .next (setClu s cl { getClu s cl with lending := true }) := by
  rw [execLendStart, if_neg (Nat.not_le.mpr hcl), if_pos (by simp [hlive, hka, hmay])]

theorem execLendWake_wakes (hlend : (getClu s cl).lending = true)
    (hbusy : (idleSlot (getSlot s cl false) && idleSlot (getSlot s cl true)) = false) :
    execLendWake cl s = .next (setClu s cl { getClu s cl with lending := false }) := by
  simp only [execLendWake, Nat.not_le.mpr hcl, hlend, hbusy, Bool.not_false, Bool.true_or, Bool.and_self, if_true, if_false]

end

theorem execLendGrant_settles {s : State} (h : Half) (hlive : live s = true) (hfast : s.pwr.fast = false) :
    execLendGrant h s = .next (settleLent s h fun c => c.granted || c.lending) := by
  rw [execLendGrant, if_pos (by simp [hlive, hfast])]

/-- A cluster of the half keeps all but its loan, which `p` settles; another half's keeps that too. -/
theorem getClu_settleLent {s : State} {h : Half} {p : Clu → Bool} (hwf : Tab.wf (fun _ => {}) s.clu = true)
    {e : Nat × Clu} (he : e ∈ s.clu) : getClu (settleLent s h p) e.1 =
      if clHalf s e.1 = h then { e.2 with granted := p e.2 } else e.2 := by
  refine Tab.get_filterMap (v := fun k c => if clHalf s k = h then { c with granted := p c } else c) (fun e hnone => ?_)
    (fun e x hsome => ?_) ((Tab.wf_iff _ _).mp hwf).1 he
  · dsimp only at hnone ⊢
    split_ifs at hnone with hhalf hdef
    rw [if_pos hhalf, hdef]
  · dsimp only at hsome ⊢
    split_ifs at hsome with hhalf hdef
    · rw [if_pos hhalf, Option.some.inj hsome]
    · rw [if_neg hhalf, Option.some.inj hsome]

/-- Settles O23: the wait that is due is removed with its record; loans begin, are settled for the half, and end. -/
theorem watchdogAndLending : Obligations.WatchdogAndLending := by
  refine ⟨?expiry, fun s cl hcl => execLendStart_lends hcl, fun s h => execLendGrant_settles h,
    fun s cl hcl => execLendWake_wakes hcl, fun s h => rfl, ?settled⟩
  case expiry =>
    intro s i w d o o1 s2 s3 huniq hdl hd
    have hexec := execWatchdogExpiry_expires huniq hdl hd
    obtain ⟨hcnt, hobj, hslot, hque, hmem⟩ := waitExpired_leaves s i w
    refine ⟨fun cl fil hsrc => ?_, fun q hsrc => ?_, hcnt, hobj, hslot, hque, hmem, fun q hst => ?_⟩
    · rw [hsrc] at hexec
      exact hexec
    · rw [hsrc] at hexec
      exact hexec
    · have hq := getQ_queueExpired hst
      intro u
      exact ⟨congrArg Q.st hq, congrArg Q.cause hq, congrArg Q.rd hq, congrArg Q.waitDl hq⟩
  case settled =>
    intro s h p hwf t
    refine ⟨Two.get_set_self _ _ _, rfl, rfl, fun e he => ⟨fun hhalf => ?_, fun hhalf => ?_⟩⟩
    · rw [getClu_settleLent hwf he, if_pos hhalf]
    · rw [getClu_settleLent hwf he, if_neg hhalf]

end Sys2Proof.Machine
end

section
/-!
SUPPORT. The power manager, throttling and the thermal limits (R452 to R458, R465): what a new rate, a beat's budget, a
trip of the fast loop and the steps of the thermal limits leave.
-/

namespace Sys2Proof.Machine

/-! ### What the shared operations leave -/

@[simp] theorem logSpine_pwr (s : State) (x : Rec) : (logSpine s x).pwr = s.pwr := by
  obtain ⟨e, d, hlog, -⟩ := logSpine_only s x
  rw [hlog, State.setDev_pwr, State.setErr_pwr]

@[simp] theorem logSpine_mem (s : State) (x : Rec) : (logSpine s x).mem = s.mem := by
  obtain ⟨e, d, hlog, -⟩ := logSpine_only s x
  rw [hlog, State.setDev_mem, State.setErr_mem]

@[simp] theorem setPwrOn_pwr (s : State) (f : Pwr → Pwr) : (setPwrOn s f).pwr = f s.pwr := rfl

@[simp] theorem setPwrOn_mem (s : State) (f : Pwr → Pwr) : (setPwrOn s f).mem = s.mem := rfl

/-- A new rate changes the rates, what the beat notes of them, the rings and the interrupt state (R455). -/
theorem setRate_leaves (s : State) (h : Half) (k : Nat) : (setRate s h k).mem = s.mem ∧ ∃ l r,
    (setRate s h k).pwr = { s.pwr with k := s.pwr.k.set h k, lowK := l, thrRun := r } := by
  unfold setRate
  dsimp only
  split
  · exact ⟨by simp, min s.pwr.lowK k, true, by simp⟩
  · exact ⟨by simp, min s.pwr.lowK k, s.pwr.thrRun, by simp⟩

@[simp] theorem setRate_mem (s : State) (h : Half) (k : Nat) : (setRate s h k).mem = s.mem := (setRate_leaves s h k).1

/-- What no rate enters is the same under a new rate. -/
theorem setRate_reads {α : Type} (s : State) (h : Half) (k : Nat) (f : Pwr → α)
    (hf : ∀ p k l r, f { p with k := k, lowK := l, thrRun := r } = f p) : f (setRate s h k).pwr = f s.pwr := by
  obtain ⟨-, l, r, hpwr⟩ := setRate_leaves s h k
  rw [hpwr, hf]

@[simp] theorem setRate_k (s : State) (h : Half) (k : Nat) : (setRate s h k).pwr.k = s.pwr.k.set h k := by
  obtain ⟨-, l, r, hpwr⟩ := setRate_leaves s h k
  rw [hpwr]

@[simp] theorem setRate_cap (s : State) (h : Half) (k : Nat) : (setRate s h k).pwr.cap = s.pwr.cap :=
  setRate_reads s h k Pwr.cap fun _ _ _ _ => rfl

@[simp] theorem setRate_capNext (s : State) (h : Half) (k : Nat) : (setRate s h k).pwr.capNext = s.pwr.capNext :=
  setRate_reads s h k Pwr.capNext fun _ _ _ _ => rfl

@[simp] theorem setRate_held (s : State) (h : Half) (k : Nat) : (setRate s h k).pwr.held = s.pwr.held :=
  setRate_reads s h k Pwr.held fun _ _ _ _ => rfl

@[simp] theorem setRate_fast (s : State) (h : Half) (k : Nat) : (setRate s h k).pwr.fast = s.pwr.fast :=
  setRate_reads s h k Pwr.fast fun _ _ _ _ => rfl

@[simp] theorem setRate_fastCnt (s : State) (h : Half) (k : Nat) : (setRate s h k).pwr.fastCnt = s.pwr.fastCnt :=
  setRate_reads s h k Pwr.fastCnt fun _ _ _ _ => rfl

@[simp] theorem setRate_sensFault (s : State) (h : Half) (k : Nat) : (setRate s h k).pwr.sensFault = s.pwr.sensFault :=
  setRate_reads s h k Pwr.sensFault fun _ _ _ _ => rfl

/-- What West and East are set to is all that a pair holds. -/
theorem Two.set_west_set_east {α : Type} (t : Two α) (x y : α) : (t.set .west x).set .east y = ⟨x, y⟩ := rfl

/-! ### The budget (R452 to R454) -/

theorem execPwrLimit_sets {s : State} {v : B32} (hregs : regsOn s = true) (hmin : 2000 ≤ bits v 12 0)
    (hmax : bits v 12 0 ≤ 5200) : execPwrLimit v s = .next (wr32 s 0x1D000 (v &&& 0x1FFF)) := by
  rw [execPwrLimit, if_neg (by simp [hregs, hmin, hmax])]

theorem budgetFor_running {s : State} (avgs : List Nat) (hka : s.err.ka = false) :
    budgetFor s avgs = if s.time.locked then budgetT (pwrL s) s.pwr.vin avgs else pwrL s := by
  simp [budgetFor, hka]

/-- After a critical temperature the target is at most 1,500 W (R458). -/
theorem budgetFor_critical {s : State} (avgs : List Nat) (hka : s.err.ka = true) (hcode : s.err.kaCode = 0x0A06) :
    budgetFor s avgs ≤ 1500 := by
  rw [budgetFor, if_pos ⟨hka, hcode⟩]
  exact min_le_right _ _

/-- A beat has one budget. -/
theorem execBudgetPeriod_early {s : State} {avg other : Nat} (h : beat s < s.pwr.budNext) :
    execBudgetPeriod avg other s = .next s := by
  rw [execBudgetPeriod, if_pos (.inr (.inr h))]

/-- The beat's target, averages and lent allowance; what a beat changes is the power manager's alone. -/
theorem execBudgetPeriod_due {s : State} {avg other : Nat} (hon : s.pwr.on = true) (hrun : s.time.run = true)
    (h : s.pwr.budNext ≤ beat s) : ∃ t, execBudgetPeriod avg other s = .next t ∧
    t.pwr.budNext = beat s + 1 ∧ t.pwr.tb = budgetFor s ((avg :: s.pwr.avgs).take 15) ∧ t.pwr.lent.w = lentOf t .west ∧
    t.pwr.avgs = (avg :: s.pwr.avgs).take 15 ∧ t.pwr.started = true ∧ t.pwr.k = s.pwr.k ∧
    t.pwr.overBeats = (if s.pwr.lim < avg then sat32 (s.pwr.overBeats + 1) else s.pwr.overBeats) ∧
    t = s.setPwr t.pwr := by
  have hdue : ¬ ((!s.pwr.on) = true ∨ (!s.time.run) = true ∨ beat s < s.pwr.budNext) := by
    simp [hon, hrun, h]
  rw [execBudgetPeriod, if_neg hdue]
  exact ⟨_, rfl, rfl, rfl, rfl, rfl, rfl, rfl, rfl, rfl⟩

/-! ### Throttling (R455, R456) -/

/-- The rate of a half after its microsecond: at once down to what fits, up by one step. -/
theorem throttle_k (s : State) (h : Half) (proj fill : Nat) : (throttle s h proj fill).pwr.k.get h =
    let want := min (fitRate proj (pool s h)) (rateCap s h)
    if s.pwr.k.get h < want then s.pwr.k.get h + 1 else want := by
  simp only [throttle, setRate_k, setPwrOn_pwr, Two.get_set_self]

section

variable {s : State} (hlive : live s = true) (hfast : s.pwr.fast = false)

include hlive hfast

theorem execThrottleTick_due {pw pe fw fe : Nat} (h : s.pwr.thrNext ≤ ns s) : execThrottleTick pw pe fw fe s =
    .next (throttle (throttle (s.setPwr { s.pwr with thrNext := (ns s / 1000 + 1) * 1000 }) .west pw fw) .east pe fe) := by
  rw [execThrottleTick, if_neg (by simp [hlive, hfast, h])]
  rfl

/-- The state of a trip: the filler held, the loans withdrawn, the record raised. -/
def fastTripped (s : State) : State :=
  let s1 := s.setPwr { s.pwr with
    fast := true, fastCnt := sat32 (s.pwr.fastCnt + 1), held := ⟨true, true⟩, fastEnd := ns s + 100000 }
  logSpine (settleLent (settleLent s1 .west fun _ => false) .east fun _ => false) { code := 0x0A02 }

theorem execFastLoopTrip_trips {avg : Nat} (h : 5800 < avg) :
    execFastLoopTrip avg s = .next (setRate (setRate (fastTripped s) .west 8) .east 8) := by
  rw [execFastLoopTrip, if_neg (by simp [hlive, hfast, h])]
  rfl

end

theorem fastTripped_leaves (s : State) : (fastTripped s).mem = s.mem ∧ (fastTripped s).pwr.fast = true ∧
    (fastTripped s).pwr.held = ⟨true, true⟩ ∧ (fastTripped s).pwr.fastCnt = sat32 (s.pwr.fastCnt + 1) := by
  unfold fastTripped
  simp only [logSpine_pwr, logSpine_mem]
  exact ⟨rfl, rfl, rfl, rfl⟩

theorem execFastLoopRelease_releases {s : State} (hfast : s.pwr.fast = true) (h : s.pwr.fastEnd ≤ ns s) :
    execFastLoopRelease s = .next (s.setPwr { s.pwr with fast := false }) := by
  rw [execFastLoopRelease, if_neg (by simp [hfast, h])]
  rfl

/-! ### Temperatures (R458, R459, R465) -/

theorem execThermalSample_trips {s : State} {x : Temps} (hon : s.pwr.on = true) (htrip : tripped x = true) :
    execThermalSample x s = .next (tripOff s) := by
  rw [execThermalSample, if_pos ⟨hon, htrip⟩]

section

variable {s : State} (hlive : live s = true)

include hlive

theorem execThermalSample_samples {x : Temps} (htrip : tripped x = false) (h : s.pwr.sampNext ≤ ns s) :
    let s1 := s.setPwr (noteWarm s x .west (noteWarm s x .east { s.pwr with
      temps := x, inletHot := decide (40 < x.inlet), sampNext := (ns s / 100000 + 1) * 100000 }))
    let s2 := if 40 < x.inlet ∧ s.pwr.inletHot = false then logSpine s1 { code := 0x0A05 } else s1
    execThermalSample x s = .next ((newCrit s.pwr.temps x).foldl (fun t n =>
      raiseSpineAll t { code := 0x0A06, sev := 3, scope := 0, data0 := bv 64 n }) s2) := by
  have hdue : ¬ ((!live s) = true ∨ ns s < s.pwr.sampNext) := by simp [hlive, h]
  rw [execThermalSample, if_neg (by simp [htrip]), if_neg hdue]
  simp only [Bool.and_eq_true, decide_eq_true_eq, Bool.not_eq_true']
  rfl

/-- A half's cap goes down by one after a millisecond above the warning, else up by one, and the next step is due in a
millisecond. -/
theorem execThermalCapStep_steps {h : Half} {above : Bool} (n : Nat) (hnext : s.pwr.capNext.get h ≤ ns s) :
    ∃ t, execThermalCapStep h above n s = .next t ∧ t.pwr.capNext.get h = ns s + 1000000 ∧ t.mem = s.mem ∧
      t.pwr.cap.get h = if msAbove s h above then max 1 (s.pwr.cap.get h - 1) else min 16 (s.pwr.cap.get h + 1) := by
  have hdue : ¬ ((!live s) = true ∨ ns s < s.pwr.capNext.get h) := by simp [hlive, hnext]
  rw [execThermalCapStep, if_neg hdue]
  refine ⟨_, rfl, ?_, ?_, ?_⟩
  all_goals split_ifs <;> simp

/-- A failed sensor is noted, and no rate is above 8. -/
theorem execSensorFault_notes {n : Nat} (hmin : 1 ≤ n) (hmax : n ≤ 9) (hnew : bit s.pwr.sensFault n = false) :
    ∃ t, execSensorFault n s = .next t ∧ bit t.pwr.sensFault n = true ∧ t.pwr.k.w = min 8 s.pwr.k.w ∧
      t.pwr.k.e = min 8 s.pwr.k.e ∧ t.mem = s.mem := by
  have hdue : ¬ ((!live s) = true ∨ n = 0 ∨ 9 < n ∨ bit s.pwr.sensFault n = true) := by
    simp [hlive, hnew]
    omega
  have hbit : bit (s.pwr.sensFault ||| bv 10 (2 ^ n)) n = true := by
    rw [bit, bv, BitVec.getLsbD_or, BitVec.getLsbD_ofNat, Nat.testBit_two_pow_self,
      decide_eq_true (Nat.lt_succ_of_le hmax), Bool.and_self, Bool.or_true]
  rw [execSensorFault, if_neg hdue]
  refine ⟨_, rfl, ?_, ?_, ?_, ?_⟩
  · simpa using hbit
  · simp [Two.set_west_set_east]
  · simp [Two.set_west_set_east]
  · simp

end

/-- Settles O52: each command of the power manager that is due leaves what its rule says; a cluster's loan as in O23. -/
theorem powerManager : Obligations.PowerManager := by
  intro s
  refine ⟨fun v hregs hmin hmax => execPwrLimit_sets hregs hmin hmax, fun avg other _ _ h => execBudgetPeriod_early h,
    ?budget, ?throttling, throttle_k s, ?lending, fun hfast h => execFastLoopRelease_releases hfast h, ?thermal⟩
  case budget =>
    intro avg other hon hrun h
    obtain ⟨t, hexec, hnext, htb, hlent, havgs, hstart, hk, hover, ht⟩ :=
      execBudgetPeriod_due (avg := avg) (other := other) hon hrun h
    exact ⟨t, hexec, hnext, htb, fun hka => htb.trans (budgetFor_running _ hka),
      fun hka hcode => htb.trans_le (budgetFor_critical _ hka hcode), hlent, havgs, hstart, hk, hover, ht⟩
  case throttling =>
    intro hlive hfast
    refine ⟨fun pw pe fw fe h => execThrottleTick_due hlive hfast h, fun avg havg => ?_⟩
    obtain ⟨hmem, htrip, hheld, hcnt⟩ := fastTripped_leaves s
    have hexec := execFastLoopTrip_trips hlive hfast havg
    intro s1 s2 t
    have ht : t = setRate (setRate (fastTripped s) .west 8) .east 8 := rfl
    refine ⟨hexec, ?_⟩
    rw [ht]
    simp [Two.set_west_set_east, hmem, htrip, hheld, hcnt]
  case lending =>
    intro hlive hka hfast cl hcl
    exact ⟨execLendStart_lends hcl hlive hka, fun h => ⟨execLendGrant_settles h hlive hfast, rfl⟩, execLendWake_wakes hcl⟩
  case thermal =>
    intro hlive
    exact ⟨fun x hon htrip => execThermalSample_trips hon htrip, fun x htrip h => execThermalSample_samples hlive htrip h,
      fun h above n hnext => execThermalCapStep_steps hlive n hnext,
      fun n hmin hmax hnew => execSensorFault_notes hlive hmin hmax hnew⟩

end Sys2Proof.Machine
end

section
/-!
SUPPORT. The update block and Rosemary (R35 to R37, R244, R245, R248 to R256, R261 to R265): the commands of the block that
pass their checks, what a charge leaves of a header, and the starts and completions of phases and merges, and UPD.EXP's end.
-/

namespace Sys2Proof.Machine

/-! ### Reads through a context's tables -/

theorem lineBad_of_mem {s t : State} (hmem : t.mem = s.mem) : lineBad t = lineBad s := by
  unfold lineBad lineErr
  rw [hmem]

theorem ownedBy_of_frm {s t : State} (hfrm : t.frm = s.frm) : ownedBy t = ownedBy s := by
  have hentry : frmEntry t = frmEntry s := by
    unfold frmEntry
    rw [hfrm]
  unfold ownedBy frmKind frmTenant
  rw [hentry]

section

variable {s t : State} (hmem : t.mem = s.mem) (hfrm : t.frm = s.frm)

include hmem hfrm

theorem walkAt_of_eq : walkAt t = walkAt s := by
  unfold walkAt leafOk poisoned readNat readMem
  simp only [ownedBy_of_frm hfrm, lineBad_of_mem hmem, hmem]

theorem walk_of_eq (id : Nat) (c : Ctx) (va lv base : Nat) : walk t id c va lv base = walk s id c va lv base := by
  induction lv generalizing base with
  | zero => rw [walk, walk, walkAt_of_eq hmem hfrm]
  | succ lv ih => simp only [walk, walkAt_of_eq hmem hfrm, ih]

variable (hctx : t.ctx = s.ctx)

include hctx

/-- An engine's translation depends on memory, the ownership of frames and the contexts alone (R152). -/
theorem xlate_of_eq (id va : Nat) (a : Acc) : xlate t none id va a = xlate s none id va a := by
  unfold xlate getCtx
  simp only [Option.bind_none, walk_of_eq hmem hfrm, hctx]

theorem readVaGo_of_eq (id : Nat) (ps : List (Nat × Nat)) : readVaGo t none id ps = readVaGo s none id ps := by
  induction ps with
  | nil => rfl
  | cons p ps ih =>
    rw [readVaGo, readVaGo, xlate_of_eq hmem hfrm hctx, ih, lineBad_of_mem hmem]
    unfold readMem
    rw [hmem]

theorem hdrBytes_of_eq (sh : Shard) : hdrBytes t sh = hdrBytes s sh :=
  congrArg Prod.fst (readVaGo_of_eq hmem hfrm hctx sh.ctx (pieces sh.hva 256))

end

/-- A slice's governor changes its debts alone. -/
theorem chargeSlice_only (s : State) (sh : Shard) (i w : Nat) : ∃ c q, chargeSlice s sh i w = (s.setClu c).setQue q := by
  unfold chargeSlice
  split
  · exact ⟨s.clu, s.que, rfl⟩
  · exact charge_only _ _ _

@[simp] theorem hdrBytes_chargeSlice (s : State) (sh : Shard) (i w : Nat) :
    hdrBytes (chargeSlice s sh i w) sh = hdrBytes s sh := by
  obtain ⟨c, q, h⟩ := chargeSlice_only s sh i w
  exact hdrBytes_of_eq (by simp [h]) (by simp [h]) (by simp [h]) sh

@[simp] theorem hdrOf_chargeSlice (s : State) (sh : Shard) (i w : Nat) : hdrOf (chargeSlice s sh i w) sh = hdrOf s sh := by
  rw [hdrOf, hdrBytes_chargeSlice, hdrOf]

@[simp] theorem hdrOk_chargeSlice (s : State) (sh : Shard) (i w : Nat) : hdrOk (chargeSlice s sh i w) sh = hdrOk s sh := by
  simp only [hdrOk, hcrcOf, hdrBytes_chargeSlice, hdrOf_chargeSlice]

/-! ### The register block -/

theorem execUpdRead_reads {s : State} {w : BitVec 56} {sh : Shard} (h : readReady .update s = true) (hw : bits w 55 12 = 0)
    (ha : bits (updArg0 s) 63 52 = 0) (hsh : namedShard s (bits (updArg0 s) 51 0) = some sh) :
    let t := meetVa s none sh.ctx sh.hva 256
    execUpdRead w s = .next (finish .update 0 (wrBytes t 0x15040 (hdrBytes t sh))) := by
  rw [execUpdRead, readCmd_eq h, if_neg (by simp [hw, ha]), hsh]

section

variable {s : State} {w : BitVec 56} (h : cmdReady .update s = true) (hw : bits w 55 12 = 0)

include h hw

section

variable (ha : bits (updArg0 s) 63 52 = 0)

include ha

/-- A header that passes its checks is registered, or waits for the job's VOTED entry (R168, R244). -/
theorem execRegister_checked {sh : Shard} {hd : Hdr} {t : State}
    (hfree : (s.upd.shards.any fun x => isShard s (bits w 11 0) (bits (updArg0 s) 51 0) x && shardPending s x) = false)
    (ht : meetVa s none (bits w 11 0) (bits (updArg0 s) 51 0) 256 = t)
    (hreg : checkReg t (bits w 11 0) (bits (updArg0 s) 51 0) = .ok (sh, hd)) :
    execRegister w s = .next (if !sh.mirror ∧ entryVoted t sh.fil then
      busy .update (t.setUpd { t.upd with regWait := some w }) else finish .update 0 (addShard t sh)) := by
  rw [execRegister, cmd_eq h, registerGo]
  dsimp only
  rw [if_neg (by simp [hw, ha]), if_neg (by simp [hfree]), ht, hreg]

theorem execDeregister_removes {sh : Shard} (hsh : namedShard s (bits (updArg0 s) 51 0) = some sh)
    (hpend : shardPending s sh = false) (hhalt : (hdrOf s sh).has stHalt = false) :
    let t := setStatus s sh stReg false
    execDeregister w s = .next (finish .update 0 (dropJob
      (t.setUpd { t.upd with shards := t.upd.shards.filter fun x => x != sh }) sh.fil sh.job)) := by
  rw [execDeregister, cmd_eq h, if_neg (by simp [hw, ha]), hsh]
  dsimp only
  rw [if_neg (by simp [hpend, hhalt])]

end

/-- ROLLBACK of a halted job whose entries stand is `rollback` (R256). -/
theorem execRollback_rolls {fil : Bool} {j : JobReg} {job : B32} (ha : bits (updArg0 s) 63 32 = 0)
    (hjob : (updArg0 s).extractLsb' 0 32 = job) (hkind : jobKind s job = some fil) (hj : jobReg s fil = some j)
    (hhalt : j.halted = true) (hdepth : depthNow s fil ≠ 0) :
    execRollback w s = .next (rollback s fil job j.haltStep) := by
  rw [execRollback, cmd_eq h]
  simp only [hjob, hkind, hj, hhalt, hdepth, hw, ha, ne_eq, not_true_eq_false, or_self, if_false, Bool.not_true,
    Bool.false_eq_true]

end

/-- With its own shards restored and no mirror copy, a job's rollback is whole at once (R256). -/
theorem rollback_alone {s s1 : State} {fil : Bool} {job : B32} {step : Nat}
    (hroll : rollOwn step (ownShards s job) s = (s1, true)) (hmir : mirShards s1 job = []) :
    rollback s fil job step = rollDone (s1.setUpd { s1.upd with
      roll := some job, was := imagesOf s (shardsOf s job) }) fil job step := by
  simp only [rollback, hroll, hmir, List.isEmpty_nil, if_true]

/-- Settles O26: each command of the block, its checks passed, has its effect; the rollback needs no owner's answer. -/
theorem updateBlockCommands : Obligations.UpdateBlockCommands := by
  refine ⟨fun s w sh h hw ha hsh => execUpdRead_reads h hw ha hsh,
    fun s w h hw => ⟨fun ha => ⟨?register, ?deregister⟩, ?rollback⟩⟩
  case register =>
    intro sh hd hfree hreg
    have hexec := execRegister_checked h hw ha hfree rfl hreg
    refine ⟨fun hgo => ?_, fun hown hvoted => ?_⟩
    · rw [exec_register, hexec, if_neg (by rcases hgo with hgo | hgo <;> simp [hgo])]
    · rw [exec_register, hexec, if_pos (by simp [hown, hvoted])]
  case deregister => exact fun sh hsh hpend hhalt => execDeregister_removes h hw ha hsh hpend hhalt
  case rollback =>
    intro ha fil j s1 job hkind hj hhalt hdepth hroll hmir
    rw [exec_rollback, execRollback_rolls h hw ha rfl hkind hj hhalt hdepth, rollback_alone hroll hmir]

/-! ### Phases and merges -/

/-- Table 8-7 has a row for Phase A of the header's next step while B_BUSY is clear. -/
theorem resume87_phaseA {h : Hdr} {n : Nat} (hn : h.wStep + 1 = n) (hs : h.sStep = h.wStep) (hb : h.has stB = false) :
    resume87 h n = some (h.has stA) := by
  simp [resume87, hn, hs, hb]

/-- Table 8-7 has a row for Phase B of the header's next step, its state written, while A_BUSY is clear. -/
theorem resume87_phaseB {h : Hdr} {n : Nat} (hn : h.wStep + 1 = n) (hs : h.sStep = n) (ha : h.has stA = false) :
    resume87 h n = some (h.has stB) := by
  have hne : h.sStep ≠ h.wStep := by omega
  rw [resume87, if_neg (not_not.mpr hn), if_neg fun hw => hne hw.1, if_pos ⟨hs, by simp [ha]⟩]

section

variable {s : State} {n : Nat} {c : UCmd} {sh : Shard} (hc : findUCmd s n = some c) (hsh : cmdShard s c = some sh)

include hc hsh

/-- An event of a command that may happen has its effect on the command and its shard. -/
theorem onCmd_eq {p : UCmd → Shard → Bool} (k : UCmd → Shard → State) (hp : p c sh = true) :
    onCmd s n p k = .next (k c sh) := by
  simp only [onCmd, hc, hsh, hp, if_true]

section

variable (hturn : phaseTurn s sh c = true) (hmay : mayUpdate s sh c = true) (hok : hdrOk s sh = true)
  (hstep : (hdrOf s sh).wStep + 1 = c.step) (i w : Nat)

include hturn hmay hok hstep

/-- A_BUSY goes in before the first state write (R251, Table 8-6). -/
theorem execPhaseAStart_starts (hkind : c.kind = .a ∨ c.kind = .b ∨ c.kind = .ab) (hph : c.ph = .wait)
    (hs : (hdrOf s sh).sStep = (hdrOf s sh).wStep) (hb : (hdrOf s sh).has stB = false) :
    execPhaseAStart ⟨n, i, w⟩ s =
      .next (putUCmd (setStatus (chargeSlice s sh i w) sh stA true) { c with ph := .inA, restore := false }) := by
  have hw : (hdrOf s sh).wStep ≠ c.step := by omega
  have hne : (hdrOf s sh).sStep ≠ c.step := by omega
  rw [execPhaseAStart, onCmd_eq hc hsh _ (by rcases hkind with hk | hk | hk <;> simp [hk, hph, hturn, hmay])]
  simp [hok, hw, hne, resume87_phaseA hstep hs hb]

/-- B_BUSY goes in before the first weight write (R251, Table 8-6). -/
theorem execPhaseBStart_starts (hkind : c.kind = .b ∨ c.kind = .ab) (hph : c.ph = .mid)
    (hs : (hdrOf s sh).sStep = c.step) (ha : (hdrOf s sh).has stA = false) :
    execPhaseBStart ⟨n, i, w⟩ s =
      .next (putUCmd (setStatus (chargeSlice s sh i w) sh stB true) { c with ph := .inB, restore := false }) := by
  have hw : (hdrOf s sh).wStep ≠ c.step := by omega
  rw [execPhaseBStart, onCmd_eq hc hsh _ (by simp [hkind, hph, hturn, hmay])]
  simp [hok, hw, resume87_phaseB hstep hs ha]

end

section

variable {t : State} {k : Ctr} {m : Nat}

section

variable (hkind : c.kind = .out) (hturn : cmdTurn s sh c = true) (hok : hdrOk s sh = true)

include hkind hturn hok

/-- A difference encoded outside a rejoin round counts, is signalled, and meets the decision (R261, R263). -/
theorem execOuterEncodeComplete_encodes (hph : c.ph = .wait) (ha : (hdrOf s sh).has stA = false)
    (hb : (hdrOf s sh).has stB = false) (hj : (hdrOf s sh).outJ ≠ c.arg)
    (hround : ∀ r, roundOf (meetShard s sh) c = some r → r.rejoin = false)
    (hdone : encodeOut (meetShard s sh) sh c.step = (t, none, k, m)) :
    let c1 : UCmd := { c with ph := .dec }
    let t1 := putUCmd (phaseStats t sh c.step k m 8) c1
    execOuterEncodeComplete n s = .next (onDecision (if sh.mirror then t1 else encSignal t1 sh.job c.arg) c1) := by
  rw [execOuterEncodeComplete, onCmd_eq hc hsh _ (by simp [hkind, hph, hturn, ha, hb])]
  cases hr : roundOf (meetShard s sh) c with
  | none => simp [hok, hj, hr, hdone]
  | some r => simp [hok, hj, hr, hround r hr, hdone]

theorem execOuterMergeComplete_merges (hph : c.ph = .merge) (hundo : undoReady s sh true c.step = true)
    (hfin : nonFinite t sh c.step k = false)
    (hdone : mergeOut (setStatus (meetShard s sh) sh stOut true) sh c.step = (t, none, k, m)) :
    execOuterMergeComplete n s = .next (endMerge (phaseStats t sh c.step k m 2) sh c) := by
  rw [execOuterMergeComplete, onCmd_eq hc hsh _ (by simp [hkind, hph, hturn, hundo])]
  simp [hok, hdone, hfin]

end

variable (hruns : shardRuns s sh = true)

include hruns

theorem execPhaseAComplete_ends (hph : c.ph = .inA)
    (hdone : phaseA (meetShard s sh) sh c.step c.lov = (t, none, k, m)) :
    execPhaseAComplete n s = .next (endA t sh c k m) := by
  rw [execPhaseAComplete, onCmd_eq hc hsh _ (by simp [hph, hruns])]
  simp only [hdone]

theorem execPhaseBComplete_ends (hph : c.ph = .inB)
    (hdone : phaseB (meetShard s sh) sh c.step c.lov = (t, none, k, m)) :
    execPhaseBComplete n s = .next (endB t sh c k m) := by
  rw [execPhaseBComplete, onCmd_eq hc hsh _ (by simp [hph, hruns])]
  simp only [hdone]

/-- UPD_EXP_COMPLETE writes the head and the segments, and signals EX_SYNC with 1 (R265). -/
theorem execUpdExpComplete_exports {ps : List (Nat × List Byte)} (hkind : c.kind = .exp)
    (hpend : shardPending s sh = false)
    (hlink : s.dev.linkUp = true ∨ hostVa s sh.ctx c.arg (expLen (hdrOf s sh)) .write = false)
    (hread : expRead (meetShard (dropUCmd s n) sh) sh.ctx c.arg (expPlace 0x1000 (expSegs (hdrOf s sh))) = (ps, none))
    (hwrite : writeAll sh.ctx ((expHead (hdrOf s sh)).map (fun p => (c.arg + p.1, p.2)) ++ ps)
      (meetShard (dropUCmd s n) sh) = (t, none)) :
    execUpdExpComplete n s = .next (engineSig t 5
      (bv 32 (vaNat (meetShard (dropUCmd s n) sh) sh.ctx (c.arg + 0x3C) 4)) 1 c.cl c.fil c.ctx c.queue) := by
  have hgo : ¬ (c.kind ≠ .exp ∨ !shardRuns s sh ∨ shardPending s sh ∨
      (!s.dev.linkUp ∧ hostVa s sh.ctx c.arg (expLen (hdrOf s sh)) .write)) := by
    rcases hlink with hlink | hlink <;> simp [hkind, hruns, hpend, hlink]
  unfold execUpdExpComplete
  simp only [hc, hsh, if_neg hgo, hread, hwrite]

end

end

/-- Settles O27: each start finds its row of Table 8-7, and each completion without an error ends its command's part. -/
theorem updatePhases : Obligations.UpdatePhases := by
  intro s t n m c sh k hc hsh h
  refine ⟨fun hkind hturn hmay hok hstep => ⟨fun i w hph hs hb => ?startA, fun i w hna hph hs ha => ?startB⟩,
    fun hruns => ?ends⟩
  case startA => exact execPhaseAStart_starts hc hsh hturn hmay hok hstep i w hkind hph hs hb
  case startB => exact execPhaseBStart_starts hc hsh hturn hmay hok hstep i w (hkind.resolve_left hna) hph hs ha
  case ends =>
    intro s1
    refine ⟨execPhaseAComplete_ends hc hsh hruns, execPhaseBComplete_ends hc hsh hruns,
      fun hkind hfirst howes hok hhalt => ?_, fun ps => execUpdExpComplete_exports hc hsh hruns⟩
    have hturn : cmdTurn s sh c = true := by simp [cmdTurn, hruns, hfirst, howes, hhalt]
    exact ⟨execOuterEncodeComplete_encodes hc hsh hkind hturn hok,
      execOuterMergeComplete_merges hc hsh hkind hturn hok⟩

end Sys2Proof.Machine
end

section
/-!
SUPPORT. The collective block and Borage (R269 to R272, R274, R275, R278 to R284, R300): commands that pass their checks,
the starts of collectives, and the messages and deliveries that a member takes.
-/

namespace Sys2Proof.Machine

/-! ### Groups -/

section

variable {s : State} {w : BitVec 56} {i : Nat} {x : Grp} (hres : bits w 55 26 = 0) (hi : bits w 25 14 = i)
  (hx : getGrp s i = x)

include hres hi hx

/-- A command whose reserved bits are 0 has its effect on the group of its index. -/
theorem collCmd_eq {c : Instr} {body : Nat → Grp → State} (h : cmdReady .collective s = true) :
    collCmd false c w s body = .next (body i x) := by
  subst hi hx
  rw [collCmd, cmd_eq h, if_neg (not_not.mpr hres)]

/-- A command that reads a group has its effect in keep-alive mode too (Table 13-10). -/
theorem collCmd_read_eq {c : Instr} {body : Nat → Grp → State} (h : readReady .collective s = true) :
    collCmd true c w s body = .next (body i x) := by
  subst hi hx
  rw [collCmd, readCmd_eq h, if_neg (not_not.mpr hres)]

/-- A good image with an acceptable list makes the group, of the next generation (R270). -/
theorem execGroupCreate_creates {s0 : State} {bs : List Byte} {g : Grp} (h : cmdReady .collective s = true)
    (hg : imgGrp (collImg s) = g) (hfree : x.st = .free) (himg : grpImgBad (collImg s) = false)
    (hlive : ctxLive s g.ctx = true) (hload : loadVa s g.ctx g.listVa (4 * g.size) = (s0, bs, none))
    (hlist : listOk s0 g ((groupsOf 4 bs).map listEntry) = true)
    (hvote : g.vote = false ∨ voteGrp s0 (getCtx s0 g.ctx).job = none) :
    let s1 := setGrp s0 i { g with gen := x.gen + 1, fprint := crc64 bs, list := ((groupsOf 4 bs).map listEntry).map (·.1) }
    execGroupCreate w s = .next (finish .collective 0
      (setBlk s1 .collective { getBlk s1 .collective with handle := mkHandle i (x.gen + 1) })) := by
  have hsole : (g.vote && (voteGrp s0 (getCtx s0 g.ctx).job).isSome) = false := by
    rcases hvote with hvote | hvote <;> simp [hvote]
  rw [execGroupCreate, collCmd_eq hres hi hx h]
  simp only [hg, hfree, himg, hlive, hload, hlist, hsole, reduceCtorEq, Bool.not_true, Bool.false_eq_true, if_false]

theorem execGroupDestroy_destroys (h : cmdReady .collective s = true) (hgen : x.gen = cmdGen w) (hst : x.st = .active)
    (hvotes : (s.col.votes.any fun v => v.grp == i) = false)
    (hcolls : (s.col.colls.any fun c => c.grp == i && c.gen = x.gen && (c.st = .queued || c.st = .running)) = false) :
    execGroupDestroy w s = .next (finish .collective 0 (setGrp s i { x with st := .quarantine, qend := quarEnd s })) := by
  rw [execGroupDestroy, collCmd_eq hres hi hx h, if_neg (not_not.mpr hst), if_neg (not_not.mpr hgen),
    if_neg (by rw [hcolls, hvotes]; decide)]

section

variable (h : readReady .collective s = true) (hgen : x.gen = cmdGen w)

include h hgen

theorem execGroupRead_reads : execGroupRead w s = .next (finish .collective 0 (wrBytes s 0x16008 (grpBytes x))) := by
  rw [execGroupRead, collCmd_read_eq hres hi hx h, if_neg (not_not.mpr hgen)]

theorem execVoteRead_reads {v : VWord} (hword : s.col.lastWord = some v) :
    execVoteRead w s = .next (finish .collective 0 (wrBytes s 0x16008 (wordBytes v))) := by
  rw [execVoteRead, collCmd_read_eq hres hi hx h, if_neg (not_not.mpr hgen), hword]

end

end

theorem execGroupQuarantineEnd_frees {s : State} {i : Nat} (hst : (getGrp s i).st = .quarantine)
    (hend : (getGrp s i).qend ≤ ns s) : execGroupQuarantineEnd i s = .next (setGrp s i { gen := (getGrp s i).gen }) := by
  rw [execGroupQuarantineEnd, if_neg (by simp [hst, hend])]

/-- Settles O28: each command of the block, its checks passed, completes with its effect; the quarantine ends when due. -/
theorem groupCommands : Obligations.GroupCommands := by
  refine ⟨fun s w h hres => ⟨?create, fun hgen => ?destroy⟩, fun s w h hres => ?reads,
    fun s i hst hend => execGroupQuarantineEnd_frees hst hend⟩
  case create => exact fun s0 bs => execGroupCreate_creates hres rfl rfl h rfl
  case destroy => exact execGroupDestroy_destroys hres rfl rfl h hgen
  case reads =>
    intro x hgen
    exact ⟨execGroupRead_reads hres rfl rfl h hgen, fun v => execVoteRead_reads hres rfl rfl h hgen⟩

/-! ### Starts -/

/-- The squared norm that a start takes leaves the descriptor. -/
theorem startNorm_desc {s t : State} {c d : Coll} (h : startNorm s c = (t, .ok d)) : d.desc = c.desc := by
  unfold startNorm at h
  split at h
  · cases h; rfl
  · split at h <;> cases h
    rfl

theorem op_of_desc {c d : Coll} (h : d.desc = c.desc) : d.op = c.op := by simp only [Coll.op, Coll.ctrl, h]
theorem adds_of_desc {c d : Coll} (h : d.desc = c.desc) : d.adds = c.adds := by simp only [Coll.adds, op_of_desc h]

/-- Only the operations that add sum: REDUCE_SCATTER and ALL_REDUCE. -/
theorem adds_of_op {c : Coll} {k : Nat} (h : c.op = k) (h3 : k ≠ 3) (h5 : k ≠ 5) : c.adds = false := by
  simp [Coll.adds, h, h3, h5]

/-- A SHIFT that would pass the last rank and does not wrap sends nothing (R278). -/
theorem startShift_last {s : State} {c : Coll} {g : Grp} (hwrap : c.wrap = false) (hlast : g.size ≤ g.rank + c.dist) :
    startShift s c g = putColl s { c with own := true } := by
  rw [startShift]
  exact if_pos ⟨by simp [hwrap], hlast⟩

/-- What a start does once the norm is taken, by operation (R278 to R280). -/
def startBody (s : State) (c : Coll) (g : Grp) : State :=
  if c.adds then startSum s c g else if c.op = 4 then startGather s c g
  else if c.op = 1 then startShift s c g else startPermute s c g

theorem startBody_sum {s : State} {c : Coll} {g : Grp} (h : c.adds = true) : startBody s c g = startSum s c g := by
  rw [startBody, if_pos h]

theorem startBody_gather {s : State} {c : Coll} {g : Grp} (h : c.op = 4) : startBody s c g = startGather s c g := by
  simp [startBody, adds_of_op h, h]

theorem startBody_shift {s : State} {c : Coll} {g : Grp} (h : c.op = 1) : startBody s c g = startShift s c g := by
  simp [startBody, adds_of_op h, h]

theorem startBody_permute {s : State} {c : Coll} {g : Grp} (h : c.op = 2) : startBody s c g = startPermute s c g := by
  simp [startBody, adds_of_op h, h]

/-- COLLECTIVE_START of the next collective of its group and step, with fewer than 256 running (R274, R275). -/
theorem execCollectiveStart_starts {s s0 : State} {n w : Nat} {c c1 : Coll} {g : Grp} (hc : findColl s n = some c)
    (hg : collGrp s c = g) (hst : c.st = .queued) (hruns : borageRuns s c.fil = true) (hact : g.st = .active)
    (hgen : g.gen = c.gen) (hlow : lowerStarted s c = true) (hroom : runningColls s < 256)
    (hnorm : startNorm (if c.fil then s else charge s .borage w) { c with st := .running } = (s0, .ok c1)) :
    execCollectiveStart ⟨n, w⟩ s = .next (startBody (putColl s0 c1) c1 g) := by
  rw [execCollectiveStart]
  simp only [hc, hg]
  rw [if_neg (by simp [hst, hruns, hact, hgen, hlow, hroom])]
  simp only [hnorm]
  rfl

/-! ### Messages -/

/-- A message that passes the checks of R271 reaches its running collective: an answer, a finished unit, or a partial sum. -/
theorem execBorageMessage_takes {s : State} {m : BMsg} {c : Coll} {g : Grp} {x : Ctx} (hg : getGrp s m.group = g)
    (hx : getCtx s g.ctx = x) (hruns : borageRuns s false = true) (hon : transportOn s = true) (hact : g.st = .active)
    (hgen : g.gen.toNat = m.gen) (hatt : attemptOf s x.job m.step ≤ m.attempt)
    (hprint : m.reply ≠ 0 ∨ m.fprint = g.fprint.extractLsb' 0 32) (hten : m.tenant = x.tenant) (hjob : m.job = x.job)
    (hc : collFor s m = some c) : execBorageMessage m s =
      .next (if m.reply ≠ 0 then takeReply s c m else if m.final then takeUnit s c g m else takePartial s c g m) := by
  rw [execBorageMessage]
  simp only [hg, hx]
  rw [if_neg (by simp [hruns, hon]), if_neg (by simp [hact, hgen, hatt]), if_neg (by tauto),
    if_neg (by simp [hten, hjob]), hc]

theorem takeReply_written {s : State} {c : Coll} {m : BMsg} (h : m.reply = 1) :
    takeReply s c m = putColl s { c with mir := true } := if_pos h

/-- A first partial sum of the chunk's length gets the member's value and goes on (R280). -/
theorem takePartial_adds {s s1 : State} {c : Coll} {g : Grp} {m : BMsg} {xs : List W32}
    (hnew : c.parts.contains m.unit = false) (hadds : c.adds = true) (hunit : m.unit < g.size)
    (hn : m.n = c.chunkLen g.size m.unit) (hlen : m.data.length = 4 * m.n)
    (hsrc : srcEls s c (c.chunkOff g.size m.unit) m.n = (s1, xs, none)) :
    let c1 : Coll := { c with parts := m.unit :: c.parts }
    takePartial s c g m = sumOn (putColl s1 c1) c1 m.unit (List.zipWith rnAdd ((groupsOf 4 m.data).map leNat) xs) := by
  rw [takePartial, if_neg (by simpa [hadds, hunit] using hnew), if_neg (by simp [← hn, hlen]), hsrc]

/-- A first copy of a finished unit of its place's length is stored and checked, and a chunk goes on round the
ring (R278, R279, R283). -/
theorem takeUnit_stores {s t : State} {c : Coll} {g : Grp} {m : BMsg} {key n off origin : Nat}
    (hplace : unitPlace c g m = some (key, n, off, origin)) (hnew : c.got.contains key = false) (hn : m.n = n)
    (hlen : m.data.length = n * fmtBytes c.outF)
    (hwrite : writeVa s none g.ctx (c.dst + off * fmtBytes c.outF) m.data = (t, none)) :
    let c1 : Coll := { c with got := key :: c.got }
    let s1 := checkUnit (putColl t c1) c1 m.unit (rankPeer s g origin) m.data m.digest
    takeUnit s c g m = if c.op = 4 ∨ c.op = 5 then passUnit s1 c1 m.unit m.n m.data m.digest else s1 := by
  rw [takeUnit]
  simp only [hplace, hnew, hn, hlen, hwrite, ne_eq, not_true_eq_false, or_self, Bool.false_eq_true, if_false]

/-- MIRROR_DELIVERY with its digest right is written, noted and answered (R283, R284). -/
theorem execMirrorDelivery_writes {s t : State} {m : MDel} {sh : Shard} (hruns : borageRuns s false = true)
    (hon : transportOn s = true) (hatt : attemptOf s m.job m.step ≤ m.attempt) (hcopy : copyFor s m = some sh)
    (hwrite : writeVa s none sh.ctx ((gSeg (hdrOf s sh)).va + m.off) m.data = (t, none))
    (hdig : unitDigest m.data m.group m.seq m.unit = m.digest) :
    execMirrorDelivery m s = .next (mirReply (t.setCol { t.col with
      deliv := t.col.deliv ++ [⟨m.job, m.step, m.shard, m.off, m.data.length⟩] }) m 1) := by
  rw [execMirrorDelivery, if_neg (by simp [hruns, hon]), if_neg (Nat.not_lt.mpr hatt)]
  simp only [hcopy, hwrite, if_pos hdig]

theorem execCollectiveComplete_completes {s s1 : State} {n : Nat} {c : Coll} (hc : findColl s n = some c)
    (hst : c.st = .running) (hlive : live s = true) (hka : s.err.ka = false) (hdone : collDone c (collGrp s c) = true)
    (hs1 : putColl s { c with st := .complete } = s1) : execCollectiveComplete n s =
      .next (if c.sigEn then engineSig s1 4 c.sync (bv 64 c.sigVal) c.cl c.fil c.ctx c.queue else s1) := by
  subst hs1
  rw [execCollectiveComplete, hc]
  exact if_neg (by simp [hst, hlive, hka, hdone])

/-- Settles O29: a start takes the part of its operation, a message that of its kind; a delivery and a completion whose
checks pass have their effect. -/
theorem collectivesAndTheirMessages : Obligations.CollectivesAndTheirMessages := by
  refine ⟨fun s s0 n w c c1 hc hst hruns => ?start,
    fun s m c => ?message,
    fun s t m sh => execMirrorDelivery_writes,
    fun s n c hc hst hlive hka hdone => execCollectiveComplete_completes hc hst hlive hka hdone rfl⟩
  case start =>
    intro g s1 hact hgen hlow hroom hnorm
    have hdesc : c1.desc = c.desc := (startNorm_desc hnorm :)
    have hop := op_of_desc hdesc
    have hwrap : c1.wrap = c.wrap := by simp only [Coll.wrap, Coll.ctrl, hdesc]
    have hdist : c1.dist = c.dist := by simp only [Coll.dist, Coll.w, hdesc]
    rw [exec_collectiveStart, execCollectiveStart_starts hc rfl hst hruns hact hgen hlow hroom hnorm]
    refine ⟨fun h => ?_, fun h => ?_, fun h => ?_, fun h hw hlast => ?_, fun h => ?_⟩
    · rw [startBody_sum ((adds_of_desc hdesc).trans h)]
    · rw [startBody_gather (hop.trans h)]
    · rw [startBody_shift (hop.trans h)]
    · rw [startBody_shift (hop.trans h), startShift_last (hwrap.trans hw) (hdist ▸ hlast)]
    · rw [startBody_permute (hop.trans h)]
  case message =>
    intro g x hruns hon hact hgen hatt hprint hten hjob hc
    rw [exec_borageMessage, execBorageMessage_takes rfl rfl hruns hon hact hgen hatt hprint hten hjob hc]
    refine ⟨fun h => ?_, fun s1 xs h hpart hnew hadds hunit hn hlen hsrc => ?_,
      fun key n off origin t h hfin hplace hnew hn hlen hwrite => ?_⟩
    · rw [if_pos (by simp [h]), takeReply_written h]
    · rw [if_neg (not_not.mpr h), if_neg (by simp [hpart]), takePartial_adds hnew hadds hunit hn hlen hsrc]
    · rw [if_neg (not_not.mpr h), if_pos hfin, takeUnit_stores hplace hnew hn hlen hwrite]

end Sys2Proof.Machine
end

section
/-!
SUPPORT. The commit vote (R287 to R296): what each row does for a member whose group holds the job's vote.
-/

namespace Sys2Proof.Machine

/-! ### A member that votes -/

/-- A recovery root has declared rank 0 absent (R295). -/
theorem rootAbsent_of_isRecoveryRoot {s : State} {g : Grp} (h : isRecoveryRoot s g = true) : rootAbsent s g = true :=
  (Bool.and_eq_true_iff.mp h).1

theorem isRecoveryRoot_of_root_present {s : State} {g : Grp} (h : rootAbsent s g = false) : isRecoveryRoot s g = false := by
  rw [isRecoveryRoot, h, Bool.false_and]

section

variable {s : State} {job : B32} {i : Nat} {g : Grp} (hgrp : voteGrp s job = some (i, g)) (hlive : live s = true)

include hgrp hlive

/-- A ready word opens the vote, unless a context of the job is STOPPED: then it goes with NOTPRES (R289, R290). -/
theorem execVoteOpen_ready {step : Nat} {v : Vote} (hstep : stepInProgress s job = step)
    (hv : theVote s job i step = v) (hopen : v.opened = false) (hmark : hasMark s.col.np job step = false)
    (hdec : decidedAs s job step = none) (hka : s.err.ka = false) (hready : wordReady s job step = true) :
    execVoteOpen job s = .next (if jobStopped s job then notPresent s job step else voteMove s g
      { v with opened := true, own := some (ownWord s job step), deadline := beat s + voteWait s g } false) := by
  subst hstep hv
  rw [execVoteOpen, hgrp]
  dsimp only
  rw [if_neg (by simp [hlive, hopen, hmark, hdec]), if_neg (by simp [hka]), if_neg (by simp [hready]),
    apply_ite Host.Outcome.next]

/-- At the deadline the root decides, and a node forwards what it holds with ABSENT (R291, R293). -/
theorem execVoteDeadline_passes {v : Vote} (hv : findVote s job = some v) (hopen : v.opened = true)
    (hdue : v.deadline ≤ beat s) (hsent : v.sent = false) :
    execVoteDeadline job s = .next (if g.rank = 0 then rootDecide s g v (combined s v)
      else forwardUp s g v { combined s v with absent := true }) := by
  rw [execVoteDeadline, hv, hgrp]
  dsimp only
  rw [if_neg (by simp [hlive, hopen, hdue, hsent]), apply_ite Host.Outcome.next]

/-- The root takes a notice of an absence for a step that it has not decided (R293). -/
theorem execAbsenceNotice_taken {step r : Nat} {src : Peer} (hroot : g.rank = 0) (hrank : rankOf g src = some r)
    (hdec : decidedAs s job step = none) (hlast : ∀ n, lastDecided s job = some n → n ≤ step) :
    execAbsenceNotice job step src s = .next (voteMove s g { theVote s job i step with notice := true } true) := by
  rw [execAbsenceNotice, hgrp]
  dsimp only
  refine if_neg ?_
  cases hl : lastDecided s job with
  | none => simp [hlive, hroot, hrank, hdec]
  | some n => simp [hlive, hroot, hrank, hdec, hlast n hl]

/-- After the latency bound a member asks the recovery root, which asks every present member (R295). -/
theorem execRecoveryRootWait_ends {v : Vote} {b : Nat} {w : VWord} (hv : findVote s job = some v)
    (hb : v.recov = some b) (hdue : b ≤ beat s) (habs : rootAbsent s g = true) (hw : combined s v = w) :
    execRecoveryRootWait job s = .next (if isRecoveryRoot s g then
        recoveryMove ((presentRanks s g).foldl (fun t r => sendVote t g job r (.vword w)) (setLastWord s w)) g
          { v with recov := none, sent := true }
      else putVote (sendVote (setLastWord s w) g job (recoveryRoot s g) (.vword w))
        { v with recov := none, sent := true }) := by
  subst hw
  rw [execRecoveryRootWait, hv, hgrp]
  dsimp only
  rw [hb]
  dsimp only
  rw [if_neg (by simp [hdue, hlive, habs]), apply_ite Host.Outcome.next]

end

section

variable {s : State} {src : Peer} {w : VWord} {i r : Nat} {g : Grp} (hgrp : voteGrp s w.job = some (i, g))
  (hlive : live s = true) (hon : transportOn s = true) (hrank : rankOf g src = some r)

include hgrp hlive hon hrank

/-- A word for which an outcome is held is answered with it (R295). -/
theorem execVoteWord_held {m : OutMsg} (hheld : heldFor s w = some m) :
    execVoteWord src w s = .next (sendVote s g w.job r (.outc m)) := by
  rw [execVoteWord, hgrp]
  simp only [hrank, hheld, hlive, hon, Bool.not_true, Bool.false_eq_true, or_self, if_false]

/-- With the root present, a child's word is combined, and a lower rank's query is answered with what stands here
(R291, R295). -/
theorem execVoteWord_timely {v : Vote} (hheld : heldFor s w = none) (htime : wordTimely s w = true)
    (habs : rootAbsent s g = false) (hv : theVote s w.job i w.step = v) : execVoteWord src w s =
      .next (if r < g.rank then sendVote s g w.job r (.vword (combined s v)) else voteMove s g
        { v with kids := v.kids.filter (fun e => e.1 != r) ++ [(r, w)] } (w.notpres || w.absent)) := by
  subst hv
  rw [execVoteWord, hgrp]
  simp only [hrank, hheld]
  rw [if_neg (by simp [hlive, hon, htime]), apply_ite Host.Outcome.next, habs, isRecoveryRoot_of_root_present habs]
  simp only [Bool.false_and, Bool.false_eq_true, if_false]

end

/-- A first outcome of the attempt in hand goes down the tree and takes effect (R294, R296). -/
theorem execVoteOutcome_applies {s : State} {m : OutMsg} {i : Nat} {g : Grp} (hgrp : voteGrp s m.job = some (i, g))
    (hlive : live s = true) (hdec : decidedAs s m.job m.step = none) (hatt : m.attempt = attemptOf s m.job m.step)
    (hroot : isRecoveryRoot s g = false) : execVoteOutcome m s = .next (applyOutcome (passDown s g m) m) := by
  rw [execVoteOutcome, hgrp]
  dsimp only
  rw [if_neg (by simp [hlive, hdec, hatt]), if_neg (by simp [hroot])]

/-- Settles O30: each row of the vote for a member of the job's group, the root and the other ranks apart. -/
theorem commitVote : Obligations.CommitVote := by
  refine ⟨fun s job i g hgrp hlive => ⟨?opening, ?deadline, ?absence, ?asks, ?asked⟩,
    fun s src w i g r hgrp hlive hon hrank => ⟨?held, fun hheld htime habs => ?timely⟩,
    fun s m i g => execVoteOutcome_applies⟩
  case opening =>
    intro step v hopen hmark hdec hka hready
    rw [exec_voteOpen, execVoteOpen_ready hgrp hlive rfl rfl hopen hmark hdec hka hready]
    exact ⟨fun hstop => by rw [if_neg (by simp [hstop])], fun hstop => by rw [if_pos hstop]⟩
  case deadline =>
    intro v hv hopen hdue hsent
    rw [exec_voteDeadline, execVoteDeadline_passes hgrp hlive hv hopen hdue hsent]
    exact ⟨fun hroot => by rw [if_pos hroot], fun hnode => by rw [if_neg hnode]⟩
  case absence => exact fun step src r => execAbsenceNotice_taken hgrp hlive
  case asks =>
    intro v b hv hb hdue habs hroot
    rw [exec_recoveryRootWait, execRecoveryRootWait_ends hgrp hlive hv hb hdue habs rfl,
      if_neg (by simp [hroot])]
  case asked =>
    intro v b w hv hb hdue hroot
    rw [exec_recoveryRootWait,
      execRecoveryRootWait_ends hgrp hlive hv hb hdue (rootAbsent_of_isRecoveryRoot hroot) rfl, if_pos hroot]
  case held => exact fun m => execVoteWord_held hgrp hlive hon hrank
  case timely =>
    intro v
    rw [exec_voteWord, execVoteWord_timely hgrp hlive hon hrank hheld htime habs rfl]
    exact ⟨fun hle => by rw [if_neg (Nat.not_lt.mpr hle)], fun hlt => by rw [if_pos hlt]⟩

end Sys2Proof.Machine
end

section
/-!
SUPPORT. Ports, frames and the relay (R301 to R307, R309, R311, R312, R320, R344, R438): what each row does at a port that
the device has.
-/

namespace Sys2Proof.Machine

/-! ### A port changed -/

theorem onPort_of_lt {p : Nat} (hp : p < 8) (s : State) (body : Port → State) : onPort p s body = .next (body (getPort s p)) :=
  if_neg (Nat.not_le.mpr hp)

@[simp] theorem getPort_movePort (s : State) (p : Nat) (x : Port) : getPort (movePort s p x) p = x := by
  obtain ⟨e, d, h, -⟩ := refreshRdy_only (setPort s p x)
  rw [movePort, h]
  exact getPort_setPort s p x

@[simp] theorem movePort_mem (s : State) (p : Nat) (x : Port) : (movePort s p x).mem = s.mem := by
  obtain ⟨e, d, h, -⟩ := refreshRdy_only (setPort s p x)
  rw [movePort, h]
  rfl

@[simp] theorem getPort_portRec (s : State) (p q code sev : Nat) : getPort (portRec s p code sev) q = getPort s q := by
  obtain ⟨e, d, h, -⟩ := logRec_only s (portHalf p) { code := code, sev := sev, scope := 7, who := mkWho none 0 p 0 0 }
  rw [portRec, h]
  rfl

@[simp] theorem portRec_mem (s : State) (p code sev : Nat) : (portRec s p code sev).mem = s.mem := by
  obtain ⟨e, d, h, -⟩ := logRec_only s (portHalf p) { code := code, sev := sev, scope := 7, who := mkWho none 0 p 0 0 }
  rw [portRec, h]
  rfl

/-- What a ledger counts changes neither a port nor memory. -/
@[simp] theorem getPort_countRx (s : State) (k p n q : Nat) : getPort (countRx s k p n) q = getPort s q := by
  rw [countRx, count]
  split <;> rfl

@[simp] theorem countRx_mem (s : State) (k p n : Nat) : (countRx s k p n).mem = s.mem := by
  rw [countRx, count]
  split <;> rfl

/-! ### Training and light -/

section

variable {s : State} {p : Nat} {x : Port} (hp : p < 8) (hx : getPort s p = x)

include hp hx

/-- EN = 0 darkens the port (Table 10-10). -/
theorem execPctrl_darkens {v : B32} (hregs : regsOn s = true) (hmode : modeOf v ≠ 3) (hen : bit v 0 = false) :
    execPctrl p v s = .next (movePort s p { ({ x with ctrl := v &&& 0xD } : Port).flush with
      st := 0, light := 0, tx := 0, rx := 0, acked := 0, fails := 0, badTrain := 0, hops := 0xFF, through := [], relay := [] }) := by
  subst hx
  rw [execPctrl, onPort_of_lt hp]
  dsimp only
  rw [if_neg (by simp [hregs, hmode]), if_pos (by simp [hen])]

/-- EN that stands already latches nothing (R438). -/
theorem execPctrl_keeps {v : B32} (hregs : regsOn s = true) (hmode : modeOf v ≠ 3) (hen : bit v 0 = true)
    (hwas : bit x.ctrl 0 = true) : execPctrl p v s = .next (setPort s p { x with ctrl := v &&& 0xD }) := by
  subst hx
  rw [execPctrl, onPort_of_lt hp]
  dsimp only
  rw [if_neg (by simp [hregs, hmode]), if_neg (by simp [hen]), if_pos hwas]

/-- EN from 0 to 1 latches the mode and starts training (R301, R438). -/
theorem execPctrl_trains {v : B32} (hregs : regsOn s = true) (hmode : modeOf v ≠ 3) (hen : bit v 0 = true)
    (hwas : bit x.ctrl 0 = false) (himg : hasImage s 4 = true) : execPctrl p v s = .next (movePort s p
      { x with ctrl := v &&& 0xD, st := 1, mode := modeOf v, light := 0xFF }) := by
  subst hx
  rw [execPctrl, onPort_of_lt hp]
  dsimp only
  rw [if_neg (by simp [hregs, hmode]), if_neg (by simp [hen]), if_neg (by simp [hwas]), if_pos himg]

/-- A trained port runs on its wavelengths, unless the round trip passes the limit of its mode (R303, Table 10-1). -/
theorem execPortTrained_trained {rtt : Nat} (hst : x.st = 1) (himg : hasImage s 4 = true) :
    execPortTrained p rtt s = .next (if rttLimit x.mode < rtt
      then portRec (movePort s p { x.flush with rtt := rtt, st := 0 }) p 0x0702 0
      else movePort s p { x.flush with
        rtt := rtt, st := lightState x.light, tx := 0, rx := 0, acked := 0, fails := 0, ackAt := ns s }) := by
  subst hx
  rw [execPortTrained, onPort_of_lt hp]
  dsimp only
  rw [if_neg (by simp [hst, himg])]
  rfl

/-- The wavelengths left decide the state of a port that runs (R303). -/
theorem execWavelengthFail_fails {light : Byte} (hoff : x.st ≠ 0) (hlos : x.st ≠ 5) : execWavelengthFail p light s =
    .next (if lightState (x.light &&& light) = 0
      then movePort s p { ({ x with light := x.light &&& light } : Port).flush with st := 0 }
      else if x.st = 2 ∨ x.st = 3 then movePort s p { x with light := x.light &&& light, st := lightState (x.light &&& light) }
      else setPort s p { x with light := x.light &&& light }) := by
  subst hx
  rw [execWavelengthFail, onPort_of_lt hp]
  dsimp only
  rw [if_neg (by simp [hoff, hlos])]

theorem execLossOfLight_loses (hoff : x.st ≠ 0) (hlos : x.st ≠ 5) :
    execLossOfLight p s = .next (portRec (movePort s p { x with st := 5, light := 0 }) p 0x0701 0) := by
  subst hx
  rw [execLossOfLight, onPort_of_lt hp, if_neg (by simp [hoff, hlos])]

theorem execLightReturn_trains (hlos : x.st = 5) :
    execLightReturn p s = .next (movePort s p { x with st := 1, light := 0xFF }) := by
  subst hx
  rw [execLightReturn, onPort_of_lt hp, if_neg (not_not.mpr hlos)]

/-! ### Retraining -/

theorem execRetrain_begins (hst : x.st = 2 ∨ x.st = 3) (hmust : mustRetrain s x = true) :
    execRetrain p s = .next (beginRetrain s p x) := by
  subst hx
  rw [execRetrain, onPort_of_lt hp, if_pos ⟨hst, hmust⟩]

/-- After a retraining that succeeded the frames not acknowledged are sent again (R307). -/
theorem execRetrainEnd_succeeds (hst : x.st = 4) : execRetrainEnd p true s = .next (movePort s p
    { x with st := lightState x.light, badTrain := 0, ackAt := ns s, again := x.retry }) := by
  subst hx
  rw [execRetrainEnd, onPort_of_lt hp, if_neg (not_not.mpr hst), if_pos rfl]

/-- The third failure in a row takes the port DOWN (R307). -/
theorem execRetrainEnd_givesUp (hst : x.st = 4) (hbad : x.badTrain = 2) : execRetrainEnd p false s =
    .next (portRec (movePort s p { x.flush with st := 0, badTrain := 0, acked := x.tx }) p 0x0704 0) := by
  subst hx
  rw [execRetrainEnd, onPort_of_lt hp, if_neg (not_not.mpr hst), if_neg Bool.false_ne_true, if_neg (by omega)]

end

/-- Settles O31: each event of a port, with the port that it leaves. -/
theorem portsAndTraining : Obligations.PortsAndTraining := by
  intro s p hp x
  refine ⟨fun v hregs hmode => ⟨fun hen => ?dark, fun hen hwas => ?kept, fun hen hwas himg => ?training⟩,
    fun rtt hst himg => ?trained, fun light hoff hlos => ?wavelengths, fun hoff hlos => ?dims, fun hlos => ?returns,
    fun hst hmust => ?retrains, fun hst => ⟨?succeeds, fun hbad => ?fails⟩⟩
  case dark => exact ⟨_, execPctrl_darkens hp rfl hregs hmode hen, by simp [Port.flush]⟩
  case kept => exact execPctrl_keeps hp rfl hregs hmode hen hwas
  case training => exact ⟨_, execPctrl_trains hp rfl hregs hmode hen hwas himg, by simp⟩
  case trained =>
    refine ⟨_, execPortTrained_trained hp rfl hst himg, ?_⟩
    by_cases hlong : rttLimit x.mode < rtt
    · simp [x, hlong, Port.flush]
    · simp [x, hlong, Port.flush]
  case wavelengths =>
    refine ⟨_, execWavelengthFail_fails hp rfl hoff hlos, ?_⟩
    by_cases hdark : lightState (x.light &&& light) = 0
    · simp [x, hdark, Port.flush]
    · by_cases hrun : x.st = 2 ∨ x.st = 3
      · simp [x, hdark, hrun]
      · simp [x, hdark, hrun]; rfl
  case dims => exact ⟨_, execLossOfLight_loses hp rfl hoff hlos, by simp⟩
  case returns => exact ⟨_, execLightReturn_trains hp rfl hlos, by simp⟩
  case retrains => exact ⟨_, execRetrain_begins hp rfl hst hmust, by simp [beginRetrain, x]⟩
  case succeeds => exact ⟨_, execRetrainEnd_succeeds hp rfl hst, by simp [x]⟩
  case fails => exact ⟨_, execRetrainEnd_givesUp hp rfl hst hbad, by simp [Port.flush]⟩

/-! ### Frames -/

/-- A port after a frame has come off its line: the codewords that could not be corrected, and the line's next time. -/
def Port.passed (x : Port) (s : State) (ended : List Nat) : Port :=
  { x with fecUnc := sat32 (x.fecUnc + ended.countP fun n => !x.rsCorrects n)
           recvAt := max x.recvAt (10 * ns s - 9) + x.slotTime }

/-- The symbols in error of a codeword that a port's code corrects (R305, R344). -/
def Port.most (x : Port) : Nat := if x.mode = 2 then 7 else 15

theorem Port.not_rsCorrects (x : Port) : (fun n => !x.rsCorrects n) = fun n => decide (x.most < n) := by
  funext n
  rw [Port.rsCorrects, Port.most, ← decide_not]
  exact decide_eq_decide.mpr Nat.not_le

/-- A frame is good when the code has corrected every codeword it touches and its CRC holds (R304, R305). -/
theorem crcHolds_iff (x : Port) (fr : Frame) (crc : B32) (touch : List Nat) :
    crcHolds fr crc (touch.all x.rsCorrects) = true ↔ (∀ n ∈ touch, n ≤ x.most) ∧ crc32c (frameBody fr) = crc := by
  simp [crcHolds, Port.rsCorrects, Port.most]

theorem sequenced_iff (fr : Frame) : sequenced fr = true ↔ 1 ≤ fr.kind ∧ fr.kind ≤ 4 := by
  simp [sequenced]
  omega

/-- An ACK moves neither the LSEQ expected nor the count of codewords. -/
theorem takeAck_rx (s : State) (x : Port) (ack : Nat) : (takeAck s x ack).rx = x.rx := by
  rw [takeAck]
  split <;> rfl

theorem takeAck_fecUnc (s : State) (x : Port) (ack : Nat) : (takeAck s x ack).fecUnc = x.fecUnc := by
  rw [takeAck]
  split <;> rfl

theorem getPort_acceptFrame (s : State) (p : Nat) (x : Port) (fr : Frame) : getPort (acceptFrame s p x fr) p =
    { x with rx := (x.rx + 1) % 2 ^ 20, fails := 0, through := passing s x fr } :=
  (getPort_countRx _ _ _ _ _).trans (getPort_setPort _ _ _)

theorem acceptFrame_rx (s : State) (p : Nat) (x : Port) (fr : Frame) :
    (getPort (acceptFrame s p x fr) p).rx = (x.rx + 1) % 2 ^ 20 := by rw [getPort_acceptFrame]

theorem acceptFrame_fecUnc (s : State) (p : Nat) (x : Port) (fr : Frame) :
    (getPort (acceptFrame s p x fr) p).fecUnc = x.fecUnc := by rw [getPort_acceptFrame]

theorem acceptFrame_mem (s : State) (p : Nat) (x : Port) (fr : Frame) : (acceptFrame s p x fr).mem = s.mem :=
  (countRx_mem _ _ _ _).trans (State.setFab_mem s _)

/-- An accepted frame moves the LSEQ expected on, ends the count of failures, and leaves memory as it is. -/
theorem acceptFrame_counts {s t : State} {p : Nat} {x : Port} {ended : List Nat} {fr : Frame}
    (ht : acceptFrame s p (takeAck s (x.passed s ended) fr.ack) fr = t) :
    (getPort t p).rx = (x.rx + 1) % 2 ^ 20 ∧ (getPort t p).fails = 0 ∧
      (getPort t p).fecUnc = sat32 (x.fecUnc + ended.countP fun n => !x.rsCorrects n) ∧ t.mem = s.mem := by
  have hrx : (takeAck s (x.passed s ended) fr.ack).rx = x.rx := takeAck_rx _ _ _
  subst ht
  refine ⟨?_, by rw [getPort_acceptFrame], ?_, acceptFrame_mem _ _ _ _⟩
  · rw [acceptFrame_rx, hrx]
  · rw [acceptFrame_fecUnc, takeAck_fecUnc]
    rfl

section

variable {s : State} {p : Nat} {x : Port} (hp : p < 8) (hx : getPort s p = x)

include hp hx

section

variable {fr : Frame} {crc : B32} {touch ended : List Nat} (hst : x.st = 2 ∨ x.st = 3) (hline : x.recvAt ≤ 10 * ns s)

include hst hline

theorem execLinkFrame_damaged (hbad : crcHolds fr crc (touch.all x.rsCorrects) = false) :
    execLinkFrame p ⟨fr, crc, touch, ended⟩ s = .next (setPort s p { x.passed s ended with
      crcErr := sat32 (x.crcErr + 1), nak := some x.rx
      fails := if sequenced fr && fr.lseq == x.rx then x.fails + 1 else x.fails }) := by
  subst hx
  rw [execLinkFrame]
  dsimp only
  rw [onPort_of_lt hp, if_neg (by omega), if_pos (by simp [hbad])]
  rfl

theorem execLinkFrame_accepts (hgood : crcHolds fr crc (touch.all x.rsCorrects) = true) (hseq : sequenced fr = true)
    (hnext : fr.lseq = x.rx) :
    execLinkFrame p ⟨fr, crc, touch, ended⟩ s = .next (acceptFrame s p (takeAck s (x.passed s ended) fr.ack) fr) := by
  have hkind := (sequenced_iff fr).mp hseq
  subst hx
  rw [execLinkFrame]
  dsimp only
  rw [onPort_of_lt hp, if_neg (by omega), if_neg (by simp [hgood]), if_neg (by simp [hseq, hnext]; omega), if_pos hseq]
  rfl

theorem execLinkFrame_discards (hgood : crcHolds fr crc (touch.all x.rsCorrects) = true) (hseq : sequenced fr = true)
    (hother : fr.lseq ≠ x.rx) :
    execLinkFrame p ⟨fr, crc, touch, ended⟩ s = .next (setPort s p (x.passed s ended)) := by
  subst hx
  rw [execLinkFrame]
  dsimp only
  rw [onPort_of_lt hp, if_neg (by omega), if_neg (by simp [hgood]), if_pos (.inr ⟨hseq, hother⟩)]
  rfl

end

theorem execNak_resends {lseq : Nat} (hst : x.st = 2 ∨ x.st = 3) :
    execNak p lseq s = .next (setPort s p { x with again := framesFrom x.retry lseq }) := by
  subst hx
  rw [execNak, onPort_of_lt hp, if_neg (by omega)]

/-! ### The relay -/

section

variable {dst : Peer} {seq : Nat} {fr : Frame} (hon : transportOn s = true) (hdst : dst ≠ ownPeer s) (hmode : x.mode ≠ 2)

include hon hdst hmode

theorem execRelayFlit_head (hkind : fr.kind = 1 ∨ fr.kind = 4) :
    execRelayFlit p dst seq fr s = .next (relayHead s p dst seq fr) := by
  have hseq := (sequenced_iff fr).mpr (by omega)
  subst hx
  rw [execRelayFlit, onPort_of_lt hp, if_neg (by simp [hon, hdst, hmode, hseq]), if_pos hkind]

theorem execRelayFlit_rest (hkind : fr.kind = 2 ∨ fr.kind = 3) :
    execRelayFlit p dst seq fr s = .next (relayRest s p x fr) := by
  have hseq := (sequenced_iff fr).mpr (by omega)
  subst hx
  rw [execRelayFlit, onPort_of_lt hp, if_neg (by simp [hon, hdst, hmode, hseq]), if_neg (by omega)]

end

end

/-- Where a head goes on: through its route's port, or nowhere (R311, R312). -/
theorem relayHead_single {s : State} {p : Nat} {dst : Peer} {seq : Nat} {fr : Frame} (hkind : fr.kind = 4) :
    relayHead s p dst seq fr = match routePort s 0xFF dst seq with
      | some q => relayOn s q (flitCls fr) fr
      | none => noRoute s := by
  rw [relayHead]
  cases routePort s 0xFF dst seq <;> simp [hkind]

/-- A head that others follow leaves at its port where they go. -/
theorem relayHead_head {s : State} {p : Nat} {dst : Peer} {seq : Nat} {fr : Frame} (hkind : fr.kind = 1) :
    relayHead s p dst seq fr = match routePort s 0xFF dst seq with
      | some q => setThru (relayOn s q (flitCls fr) fr) p fr.chan (some ⟨fr.chan, some (q, flitCls fr)⟩)
      | none => setThru (noRoute s) p fr.chan (some ⟨fr.chan, none⟩) := by
  rw [relayHead]
  cases routePort s 0xFF dst seq <;> simp [hkind]

/-- A later flit follows its head through a port that is still usable. -/
theorem relayRest_follows {s : State} {p : Nat} {x : Port} {fr : Frame} {r : Thru} {q c : Nat}
    (hr : (x.relay.find? fun r => r.chan = fr.chan) = some r) (hnext : r.next = some (q, c)) (hq : usable s q = true) :
    relayRest s p x fr = setThru (relayOn s q c fr) p fr.chan (if fr.kind = 3 then none else some r) := by
  simp only [relayRest, hr, hnext, hq, if_true]

/-- A later flit of a discarded message is discarded too. -/
theorem relayRest_discards {s : State} {p : Nat} {x : Port} {fr : Frame} {r : Thru}
    (hr : (x.relay.find? fun r => r.chan = fr.chan) = some r) (hnext : r.next = none) :
    relayRest s p x fr = setThru s p fr.chan (if fr.kind = 3 then none else some r) := by
  simp only [relayRest, hr, hnext]

/-- Settles O32: a frame by whether it is damaged and whether it is the one expected, a relayed flit by its kind. -/
theorem linkFramesAndRelay : Obligations.LinkFramesAndRelay := by
  intro s p hp x
  refine ⟨?frame, fun lseq hst => execNak_resends hp rfl hst,
    fun dst seq fr hon hdst hmode => ?flit⟩
  case frame =>
    intro fr crc touch ended hst hline most unc next
    have hunc : unc = ended.countP fun n => !x.rsCorrects n := by rw [x.not_rsCorrects]; rfl
    refine ⟨fun hbad => ?damaged, fun htouch hcrc hlo hhi => ?good⟩
    case damaged =>
      have hfails : crcHolds fr crc (touch.all x.rsCorrects) = false := by
        rw [Bool.eq_false_iff, ne_eq, crcHolds_iff]
        rintro ⟨htouch, hcrc⟩
        obtain ⟨n, hn, hmost⟩ | hne := hbad
        · exact absurd (htouch n hn) (Nat.not_le.mpr hmost)
        · exact hne hcrc
      rw [exec_linkFrame, execLinkFrame_damaged hp rfl hst hline hfails, hunc]
      rfl
    case good =>
      have hgood : crcHolds fr crc (touch.all x.rsCorrects) = true := (crcHolds_iff x fr crc touch).mpr ⟨htouch, hcrc⟩
      have hseq := (sequenced_iff fr).mpr ⟨hlo, hhi⟩
      rw [hunc]
      refine ⟨fun hnext => ⟨_, execLinkFrame_accepts hp rfl hst hline hgood hseq hnext, acceptFrame_counts rfl⟩,
        fun hother => ?_⟩
      rw [exec_linkFrame, execLinkFrame_discards hp rfl hst hline hgood hseq hother]
      rfl
  case flit =>
    refine ⟨fun hkind => ?single, fun hkind => ?head, fun hkind r hr => ?rest⟩
    case single =>
      rw [exec_relayFlit, execRelayFlit_head hp rfl hon hdst hmode (.inr hkind), relayHead_single hkind]
      exact ⟨fun q hq => by rw [hq], fun hq => by rw [hq]⟩
    case head =>
      rw [exec_relayFlit, execRelayFlit_head hp rfl hon hdst hmode (.inl hkind), relayHead_head hkind]
      exact ⟨fun q hq => by rw [hq], fun hq => by rw [hq]⟩
    case rest =>
      rw [exec_relayFlit, execRelayFlit_rest hp rfl hon hdst hmode hkind]
      exact ⟨fun q c hnext hq => by rw [relayRest_follows hr hnext hq], fun hnext => by rw [relayRest_discards hr hnext]⟩

end Sys2Proof.Machine
end

section
/-!
SUPPORT. The transport, heartbeats and absence (R314, R315, R318, R319, R326 to R331): what each row does with a message, a
connection or a watched partner.
-/

namespace Sys2Proof.Machine

/-! ### Delivery -/

section

variable {s : State} {m : Msg} (hon : transportOn s = true) (hdst : m.dst = ownPeer s)

include hon hdst

theorem execTransportMessage_refuses (hlong : 2 ^ 20 < m.payload.length) :
    execTransportMessage m s = .next (s.setFab { s.fab with msgBad := sat32 (s.fab.msgBad + 1) }) := by
  rw [execTransportMessage, if_neg (by simp [hon, hdst]), if_pos (.inr (.inr (.inr hlong)))]

variable (hlo : 1 ≤ m.typ) (hhi : m.typ ≤ 0xC) (hcls : m.cls ≠ 3) (hlen : m.payload.length ≤ 2 ^ 20)

include hlo hhi hcls hlen

theorem execTransportMessage_expires (hold : aged s m = true) :
    execTransportMessage m s = .next (s.setFab { s.fab with expired := sat32 (s.fab.expired + 1) }) := by
  have hlen : m.payload.length ≤ maxPayload := hlen
  rw [execTransportMessage, if_neg (by simp [hon, hdst]), if_neg (by omega), if_pos hold]

/-- A message in time, of an epoch whose key is held and with a good tag, is taken by its connection (R314). -/
theorem execTransportMessage_takes (hnew : aged s m = false) (hack : m.typ ≠ 1) (hroom : connsFull s m = false)
    (hkey : (if m.enc then epochRes s m.src (nearEpoch s m.epoch) else .ok) = EpochRes.ok) (htag : m.enc = true → m.tagOk = true) :
    execTransportMessage m s =
      .next (putConn (if m.enc then useSess s m.src else s) (takeSeq s (theConn s m.src m.cls false) m)) := by
  have hlen : m.payload.length ≤ maxPayload := hlen
  rw [execTransportMessage, if_neg (by simp [hon, hdst]), if_neg (by omega), if_neg (by simp [hnew])]
  dsimp only
  rw [hkey]
  dsimp only
  rw [if_neg (by simpa using htag), if_neg (by simp [hack, hroom])]

end

/-! ### Acknowledgement -/

theorem useMask_fab (s : State) (h : Half) (n : Nat) : (useMask s h n).fab = s.fab := by
  rw [useMask]
  dsimp only
  split_ifs <;> rfl

theorem pushMsg_acks (s : State) (p : Nat) (o : OutM) : (pushMsg s p o).fab.acks = s.fab.acks := rfl

/-- A message handed to its port leaves the counts of ACKs as they are. -/
theorem transmit_acks (s : State) (o : OutM) : (transmit s o).fab.acks = s.fab.acks := by
  rw [transmit]
  split
  · rfl
  · split
    · rfl
    · next p _ =>
      split
      · rfl
      · rw [pushMsg_acks, State.setFab_fab]

theorem putConn_acks (s : State) (c : Conn) : (putConn s c).fab.acks = s.fab.acks := by
  rw [putConn]
  split <;> rfl

/-- The count of ACKs of a device after it has been put anew. -/
theorem acksTo_of_acks {s t : State} {p : Peer} {n : Nat}
    (h : t.fab.acks = s.fab.acks.filter (fun e => e.1 ≠ p) ++ [(p, n)]) : acksTo t p = n := by
  have hnone : (s.fab.acks.filter fun e => e.1 ≠ p).find? (fun e => e.1 = p) = none := by simp [List.find?_eq_none]
  rw [acksTo, h, List.find?_append, hnone]
  simp

section

variable {s : State} {c : Nat} {x : Conn} (hx : findConnId s c = some x)

include hx

/-- A cumulative ACK goes out as one message, and the device's count of ACKs goes up by one (R314). -/
theorem execAckTimer_acks (hin : x.out = false) (hdue : x.ackDue = true) (hnext : x.next ≠ 0) (hon : transportOn s = true)
    (hlock : s.time.locked = true) (henc : mustEnc s { cls := 0, typ := 1, dst := x.peer, src := ownPeer s } = false) :
    let s1 := putConn s { x with ackDue := false }
    execAckTimer c s = .next (transmit (s1.setFab { s1.fab with
      acks := s1.fab.acks.filter (fun e => e.1 ≠ x.peer) ++ [(x.peer, acksTo s x.peer + 1)] })
      ⟨{ cls := 0, typ := 1, dst := x.peer, src := ownPeer s, seq := acksTo s x.peer, tsent := ns s },
        .other 1 [x.cls, x.next - 1] [], ns s, ns s⟩) := by
  rw [execAckTimer, hx]
  dsimp only
  rw [henc, if_neg (by simp [hin, hdue, hnext, hon, hlock])]
  rfl

/-! ### Retransmission, age, release -/

theorem execRetransmitTimer_resends (hout : x.out = true) (hon : transportOn s = true) :
    let due (o : OutM) : Bool := decide (o.last + resendAfter s o ≤ ns s) && !aged s o.m
    execRetransmitTimer c s = .next ((x.unacked.filter due).foldl (fun t o => transmit t { o with last := ns s })
      (putConn s { x with
        unacked := x.unacked.map fun o => if due o then { o with last := ns s } else o
        rel := if x.unacked.any due then ns s + 2 * latNs s else x.rel })) := by
  rw [execRetransmitTimer, hx]
  dsimp only
  rw [if_neg (by simp [hout, hon])]

/-- Past its age a message is lost, with every later one of its connection (R315). -/
theorem execMessageAgeExpiry_loses {o : OutM} (hout : x.out = true) (ho : o ∈ x.unacked) (hold : aged s o.m = true) :
    execMessageAgeExpiry c o.m.seq s = .next (loseFrom s x fun v => decide (o.m.seq ≤ v.m.seq)) := by
  rw [execMessageAgeExpiry, hx]
  dsimp only
  rw [if_pos hout, if_pos (List.any_eq_true.mpr ⟨o, ho, by simp [hold]⟩)]

theorem execConnectionRelease_releases (hlock : s.time.locked = true) (hrel : x.rel ≤ ns s) (hnone : x.unacked = []) :
    execConnectionRelease c s = .next (dropConn s c) := by
  rw [execConnectionRelease, hx]
  dsimp only
  rw [if_neg (by simp [hlock, hrel, hnone])]

end

theorem aged_iff {s : State} {m : Msg} : aged s m = true ↔ s.time.locked = true ∧ m.tsent + latNs s < ns s := by
  simp [aged]

theorem execAck_acknowledges {s : State} {src : Peer} {cls seq : Nat} {c : Conn} (hc : findConn s src cls true = some c)
    (hon : transportOn s = true) : execAck src cls seq s = .next (flushWaits (putConn s { c with
      unacked := c.unacked.filter fun o => decide (seq < o.m.seq)
      gap := c.gap && !((c.unacked.filter fun o => decide (o.m.seq ≤ seq)).any fun o => o.m.gap)
      rel := ns s + 2 * latNs s })) := by
  rw [execAck, hc]
  dsimp only
  rw [if_neg (by simp [hon])]

theorem execResync_resyncs {s : State} {src : Peer} {cls epoch seq : Nat} {c : Conn} (hc : findConn s src cls true = some c)
    (hon : transportOn s = true) : let c1 : Conn := { c with next := max c.next seq }
    execResync src cls epoch seq s = .next (loseFrom (putConn s c1) c1 fun o => o.m.enc && decide (o.m.epoch < epoch)) := by
  rw [execResync, hc]
  dsimp only
  rw [if_neg (by simp [hon])]

theorem execSessionWaitExpiry_expires {s : State} {k : Nat} {w : WaitS} (hw : s.fab.waits[k]? = some w)
    (hlock : s.time.locked = true) (hdue : w.since + 64 ≤ beat s) (henc : mustEnc s w.m = true)
    (hkey : keyOf s w.m.dst s.fab.epoch true = none) : execSessionWaitExpiry k s =
      .next (lost (s.setFab { s.fab with waits := s.fab.waits.eraseIdx k }) ⟨w.m, w.body, ns s, ns s⟩) := by
  rw [execSessionWaitExpiry, hw]
  dsimp only
  rw [if_neg (by simp [hlock, hdue, henc, hkey])]

/-- Settles O33: a message at its destination, and each row of a connection that is found. -/
theorem transportMessages : Obligations.TransportMessages := by
  refine ⟨fun s m hon hdst hlo hhi hcls => ⟨execTransportMessage_refuses hon hdst, fun hlen =>
      ⟨fun hnew hack hroom => ⟨fun henc => ?plain, fun henc htag hkey => ?encrypted⟩, fun hlock hold => ?aged⟩⟩,
    fun s c x hx => ⟨?acks, execRetransmitTimer_resends hx, ?ages, execConnectionRelease_releases hx⟩,
    fun s src cls seq c hc hon => ⟨execAck_acknowledges hc hon, fun epoch => execResync_resyncs hc hon⟩,
    fun s k w => execSessionWaitExpiry_expires⟩
  case plain =>
    rw [exec_transportMessage, execTransportMessage_takes hon hdst hlo hhi hcls hlen hnew hack hroom (by simp [henc])
      (by simp [henc])]
    simp [henc]
  case encrypted =>
    rw [exec_transportMessage, execTransportMessage_takes hon hdst hlo hhi hcls hlen hnew hack hroom (by simp [henc, hkey])
      fun _ => htag, if_pos henc]
  case aged => exact execTransportMessage_expires hon hdst hlo hhi hcls hlen (aged_iff.mpr ⟨hlock, hold⟩)
  case acks =>
    intro hin hdue hnext hon hlock henc
    refine ⟨_, execAckTimer_acks hx hin hdue hnext hon hlock henc, acksTo_of_acks (s := s) ?_, ?_⟩
    · rw [transmit_acks, State.setFab_fab, putConn_acks]
    · rw [(transmit_sent _ _).mem, State.setFab_mem, (putConn_sent s _).mem]
  case ages =>
    rintro o seq hout ho rfl hlock hold
    exact execMessageAgeExpiry_loses hx hout ho (aged_iff.mpr ⟨hlock, hold⟩)

/-! ### Heartbeats -/

theorem execHeartbeatSend_sends {s : State} (hlive : live s = true) (hon : transportOn s = true)
    (hlock : s.time.locked = true) (hdue : s.fab.hbSent ≤ beat s) : execHeartbeatSend s =
      .next (s.fab.watch.foldl (fun t w => send t { cls := 0, typ := 2, dst := w.peer }
        (.other 1 [beat s, if s.err.ka then 2 else 1, 3] [])) (s.setFab { s.fab with hbSent := beat s + 1 })) := by
  rw [execHeartbeatSend, if_neg (by simp [hlive, hon, hlock, hdue])]

/-- A watched partner after a heartbeat of status 1 (R318). -/
def Watch.heard (w : Watch) (b rev : Nat) : Watch :=
  { w with got := b :: w.got, absent := false, ka := false, numRev := rev, miss := if w.absent then 0 else w.miss }

/-- The partner of an entry replaced in the watch list is found with what replaced it. -/
theorem find?_map_peer {l : List Watch} {p : Peer} {w v : Watch} (hw : (l.find? fun x => x.peer = p) = some w)
    (hv : v.peer = p) : ((l.map fun x => if x.peer = p then v else x).find? fun x => x.peer = p) = some v := by
  induction l with
  | nil => simp at hw
  | cons y l ih =>
    by_cases hy : y.peer = p
    · simp [hy, hv]
    · simp only [List.find?_cons, hy, decide_false] at hw
      simp [hy, ih hw]

/-- A heartbeat of status 1 brings its partner back (R319). -/
theorem execHeartbeat_hears {s : State} {src : Peer} {b rev : Nat} {w : Watch}
    (hw : (s.fab.watch.find? fun w => w.peer = src) = some w) (hon : transportOn s = true) :
    let s1 := s.setFab { s.fab with watch := s.fab.watch.map fun x => if x.peer = src then w.heard b rev else x }
    execHeartbeat src b 1 rev s = .next (if w.absent then partnerRec s1 0x0706 src else s1) := by
  rw [execHeartbeat, hw]
  dsimp only
  rw [if_neg (by simp [hon]), if_neg (by decide)]
  rfl

/-! ### Absence -/

/-- The watch list after the check of partner `k` at this beat (R319). -/
def checked (s : State) (k : Nat) (w : Watch) (miss : Nat) (gone : Bool) : State :=
  s.setFab { s.fab with watch := s.fab.watch.set k { w with
    got := w.got.filter fun b => decide (beat s ≤ b), seen := beat s + 1, miss := miss, absent := w.absent || gone } }

section

variable {s : State} {k : Nat} {w : Watch} (hw : s.fab.watch[k]? = some w) (hlive : live s = true)
  (hon : transportOn s = true) (hlock : s.time.locked = true) (hseen : w.seen ≤ beat s)

include hw hlive hon hlock hseen

theorem execAbsenceCheck_arrived (hcame : ∃ b ∈ w.got, b + 1 = beat s) :
    execAbsenceCheck k s = .next (checked s k w 0 false) := by
  have hany : (w.got.any fun b => b + 1 == beat s) = true := by simpa using hcame
  rw [execAbsenceCheck, hw]
  dsimp only
  rw [if_neg (by simp [hlive, hon, hlock, hseen]), hany]
  rfl

/-- The fourth miss in a row of a partner that is not absent declares it absent (R319). -/
theorem execAbsenceCheck_missed (hmiss : ∀ b ∈ w.got, b + 1 ≠ beat s) : execAbsenceCheck k s =
    .next (if 3 ≤ w.miss ∧ w.absent = false then declareAbsent (checked s k w (w.miss + 1) true) w.peer
      else checked s k w (w.miss + 1) false) := by
  have hany : (w.got.any fun b => b + 1 == beat s) = false := by simpa using hmiss
  rw [execAbsenceCheck, hw]
  dsimp only
  rw [if_neg (by simp [hlive, hon, hlock, hseen]), hany, if_neg Bool.false_ne_true]
  by_cases hgone : 3 ≤ w.miss ∧ w.absent = false
  · have hfourth : (decide (4 ≤ w.miss + 1) && !w.absent) = true := by simpa using hgone
    rw [hfourth, if_pos rfl, if_pos hgone]
    rfl
  · have hstays : (decide (4 ≤ w.miss + 1) && !w.absent) = false := by simpa using hgone
    rw [hstays, if_neg Bool.false_ne_true, if_neg hgone]
    rfl

end

/-- Settles O34: the beat sent, heard, and checked at the partner's place in the watch list. -/
theorem heartbeatsAndAbsence : Obligations.HeartbeatsAndAbsence := by
  refine ⟨fun s => execHeartbeatSend_sends, fun s src b rev w hw hon => ?heard,
    fun s k w hw hlive hon hlock hseen => ⟨execAbsenceCheck_arrived hw hlive hon hlock hseen, fun hmiss => ?missed⟩⟩
  case heard =>
    have hpeer : w.peer = src := by simpa using List.find?_some hw
    refine ⟨_, w.heard b rev, execHeartbeat_hears hw hon, ?_, rfl, rfl, rfl, List.mem_cons_self .., ?_⟩
    · split
      · obtain ⟨e, d, hlog, -⟩ := logSpine_only _ _
        rw [partnerRec, hlog]
        exact find?_map_peer hw hpeer
      · exact find?_map_peer hw hpeer
    · split
      · exact (OnlySent.spine _ _).mem
      · rfl
  case missed =>
    rw [exec_absenceCheck, execAbsenceCheck_missed hw hlive hon hlock hseen hmiss]
    refine ⟨fun hstays => ?_, fun hthree hhere => ?_⟩
    · rw [if_neg (by rintro ⟨hthree, hhere⟩; simp [hhere] at hstays; omega)]
      rfl
    · rw [if_pos ⟨hthree, hhere⟩]
      rfl

end Sys2Proof.Machine
end

section
/-!
SUPPORT. Fabric time, epochs and random bits (R316, R321 to R325, R329, R330, R390, R402, R411, R413, R440, R462): what
the first lock leaves, and what each row does once its conditions hold.
-/

namespace Sys2Proof.Machine

/-! ### The first lock -/

theorem OnlySent.foldl {α : Type} {g : State → α → State} (hg : ∀ s a, OnlySent s (g s a)) (xs : List α) :
    ∀ s, OnlySent s (xs.foldl g s) := by
  induction xs with
  | nil => exact OnlySent.refl
  | cons a xs ih => exact fun s => (hg s a).trans (ih _)

/-- The messages that wait, tried again, change what sending can change. -/
theorem flushWaits_sent (s : State) : OnlySent s (flushWaits s) := by
  refine (OnlySent.fab s _).trans (OnlySent.foldl (fun t w => ?_) _ _)
  dsimp only
  split
  · exact .fab t _
  · exact sendNow_sent t _ _ _

/-- What Thyme and the ledger hold. -/
def timeLed (s : State) : Time × Led := (s.time, s.led)

theorem timeLed_eq_iff {s t : State} : timeLed t = timeLed s ↔ t.time = s.time ∧ t.led = s.led := Prod.mk_inj

theorem OnlySent.timeLed {s t : State} (h : OnlySent s t) : timeLed t = timeLed s := by
  obtain ⟨n, c, f, e, d, rfl, -⟩ := h
  rfl

theorem refreshRdy_timeLed (s : State) : timeLed (refreshRdy s) = timeLed s := by
  obtain ⟨e, d, h, -⟩ := refreshRdy_only s
  rw [h]
  rfl

theorem armWaits_timeLed (s : State) : timeLed (armWaits s) = timeLed s := by
  refine (foldl_reads timeLed (fun t e => foldl_reads timeLed (fun u w => ?_) _ t) _ _).trans rfl
  split <;> rfl

theorem moveHeld_time (s : State) (d b : Int) : (moveHeld s d b).time = s.time :=
  (State.setPwr_time _ _).trans <| (State.setDma_time _ _).trans <| (State.setLink_time _ _).trans <|
    (State.setLead_time _ _).trans <| (State.setFrm_time _ _).trans <| (State.setClu_time _ _).trans <|
    (State.setJrn_time _ _).trans <| (State.setSlot_time _ _).trans <| (State.setCol_time _ _).trans <|
    (State.setSyn_time _ _).trans <| State.setQue_time _ _

theorem moveFab_time (s : State) (d b : Int) : (moveFab s d b).time = s.time :=
  (State.setSec_time _ _).trans <| State.setFab_time _ _

/-- What begins when fabric time locks at `ft`, once the values held have moved: Thyme, the ledger, the epoch in force. -/
def lockBegun (s : State) (ft : Nat) : State :=
  let s1 := s.setTime { s.time with ft := ft % 2 ^ 64, locked := true, est := [], exch := 0, slew := 0, slewDiv := 0, rate := 0 }
  let s2 := s1.setLed { s1.led with
    counting := true, first := beat s1 + 1, priNext := (beat s1 + 1) * beatNs, frmNext := beat s1 + 1, looked := beat s1 + 1 }
  s2.setFab { s2.fab with encLog2 := s2.fab.encNext, encAll := s2.fab.encAllNext, epoch := ft / 2 ^ s2.fab.encNext }

theorem lockBegun_time {s : State} {x : Time} {ft n : Nat} (hx : s.time = x) (hn : ft % 2 ^ 64 = n) : (lockBegun s ft).time =
    { x with ft := n, locked := true, est := [], exch := 0, slew := 0, slewDiv := 0, rate := 0 } := by
  subst hx hn
  rfl

theorem lockBegun_counting (s : State) (ft : Nat) : (lockBegun s ft).led.counting = true := rfl

/-- The first lock: the values held move, locked time begins, the waits take their beat and the waiting messages go out. -/
theorem lockAt_eq (s : State) (ft : Nat) : ∃ d b s4, s4 = lockBegun (moveFab (moveHeld s d b) d b) ft ∧
    lockAt s ft = refreshRdy (flushWaits (if s4.err.ka then s4 else armWaits s4)) := ⟨_, _, _, rfl, rfl⟩

/-- At the first lock fabric time steps to its value, and the ledger counts from then on (R207, R440). -/
theorem lockAt_timeLed (s : State) {ft n : Nat} (hn : ft % 2 ^ 64 = n) :
    (lockAt s ft).time = { s.time with
      ft := n, locked := true, est := [], exch := 0, slew := 0, slewDiv := 0, rate := 0 } ∧
    (lockAt s ft).led.counting = true := by
  obtain ⟨d, b, s4, hs4, hlock⟩ := lockAt_eq s ft
  have htime : s4.time = { s.time with
      ft := n, locked := true, est := [], exch := 0, slew := 0, slewDiv := 0, rate := 0 } := by
    rw [hs4]
    exact lockBegun_time ((moveFab_time _ _ _).trans (moveHeld_time _ _ _)) hn
  have hled : s4.led.counting = true := by rw [hs4, lockBegun_counting]
  have harm : timeLed (if s4.err.ka then s4 else armWaits s4) = timeLed s4 := by
    split
    · rfl
    · exact armWaits_timeLed s4
  have h := (refreshRdy_timeLed _).trans ((flushWaits_sent _).timeLed.trans harm)
  rw [← hlock] at h
  obtain ⟨ht, hl⟩ := timeLed_eq_iff.mp h
  exact ⟨ht.trans htime, hl ▸ hled⟩

theorem freshUnc_time (s : State) : (freshUnc s).time = { s.time with unc2 := (freeVal s).toNat % 2 ^ 17 } := rfl

theorem freshUnc_led (s : State) : (freshUnc s).led = s.led := rfl

/-- What a first lock leaves of the time: the step, the lock, the hops as they were; the ledger counts. -/
theorem freshUnc_lockAt (s : State) {ft n : Nat} (hn : ft % 2 ^ 64 = n) :
    (freshUnc (lockAt s ft)).time.ft = n ∧ (freshUnc (lockAt s ft)).time.locked = true ∧
      (freshUnc (lockAt s ft)).time.hops = s.time.hops ∧ (freshUnc (lockAt s ft)).led.counting = true := by
  obtain ⟨htime, hled⟩ := lockAt_timeLed s hn
  rw [freshUnc_time, freshUnc_led, htime]
  exact ⟨rfl, rfl, rfl, hled⟩

section

variable {s : State} (hlive : live s = true)

include hlive

/-- A device that is not a root locks on the newest of its steady estimates (R323). -/
theorem execFirstLock_locks {o : Int} {es : List Int} (hun : s.time.locked = false) (hin : inBand s = true)
    (hest : s.time.est = o :: es) (hsteady : steady s.time.est = true) :
    execFirstLock s = .next (freshUnc (lockAt s (((ns s : Nat) : Int) - o / 2).toNat)) := by
  rw [execFirstLock, if_neg (by simp [hun, hlive, hin, hsteady]), hest]

/-- A root loads TIME_SET at its first edge (R321). -/
theorem execPpsEdge_locks (hroot : isRoot s = true) (hun : s.time.locked = false) (href : s.time.ref10 = true)
    (hset : s.time.setW = true) : execPpsEdge s =
      .next (freshUnc (lockAt (s.setTime { s.time with hops := 0 }) (rd64 s 0x17028).toNat)) := by
  rw [execPpsEdge, if_neg (by simp [hlive, hroot]), if_pos (by simp [hun]), if_pos (by simp [href, hset])]

theorem execPpsEdge_slews (hroot : isRoot s = true) (hlock : s.time.locked = true) (href : s.time.ref10 = true) :
    execPpsEdge s = .next (s.setTime { s.time with
      slew := -(secError (ns s)), ppsMiss := 0, holdover := false, drift := false }) := by
  rw [execPpsEdge, if_neg (by simp [hlive, hroot]), if_neg (by simp [hlock]), if_neg (by simp [href])]

end

/-! ### Time exchange -/

theorem not_isRoot_of_inBand {s : State} (h : inBand s = true) : isRoot s = false := by
  simp only [inBand, Bool.and_eq_true, Bool.not_eq_true'] at h
  simp [isRoot, h.2]

theorem count_time (s : State) (k : Nat) (f : Cnt → Cnt) : (count s k f).time = s.time := by
  rw [count]
  split <;> rfl

/-- The frames of an exchange leave Thyme as it is. -/
theorem countExchange_time (s : State) (p : Nat) : (countExchange s p).time = s.time :=
  (count_time _ _ _).trans (count_time _ _ _)

/-- From the upstream port the offset is an estimate before the lock and a slew after it (R322, R323). -/
theorem execTimeExchange_measures {s : State} {p hops t1 t2 t3 t4 : Nat} (hlive : live s = true) (hp : p < 8)
    (hin : inBand s = true) (huse : usable s p = true) (hmode : (getPort s p).mode ≠ 2) {s1 : State}
    (hs1 : countExchange (setPort s p { getPort s p with hops := min hops 0xFF }) p = s1) (hup : upstream s1 = some p) :
    let o := offset2 t1 t2 t3 t4 (pasym s p)
    let s2 := s1.setTime { s1.time with upPort := p, hops := min (hops + 1) 0xFF, exch := s1.time.exch + 1 }
    execTimeExchange p hops t1 t2 t3 t4 s = .next (if s1.time.locked
      then freshUnc (s2.setTime { s2.time with slew := -(o / 2) })
      else s2.setTime { s2.time with est := (o :: s2.time.est).take 16 }) := by
  subst hs1
  rw [execTimeExchange, onPort_of_lt hp]
  dsimp only
  rw [if_neg (by simp [hlive, hin, huse, hmode]), if_neg (by simp [not_isRoot_of_inBand hin]), if_neg (by simp [hup])]
  rfl

/-! ### Holdover -/

theorem timeRec_time (s : State) (code : Nat) : (timeRec s code).time = s.time :=
  (timeLed_eq_iff.mp (OnlySent.spine s { code := code, sev := 0, scope := 0 }).timeLed).1

theorem enterHoldover_time (s : State) : (enterHoldover s).time = { s.time with holdover := true } :=
  timeRec_time _ _

section

variable {s : State} (hlive : live s = true)

include hlive

theorem execHoldoverEntry_enters (hlock : s.time.locked = true) (hhold : s.time.holdover = false) (hin : inBand s = true)
    (hup : upstream s = none) : execHoldoverEntry s = .next (enterHoldover s) := by
  rw [execHoldoverEntry, if_neg (by simp [hlive, hlock, hhold, hin, hup])]

/-- At a root the event says that the 10 MHz reference is locked again (log entry 45). -/
theorem execHoldoverExit_root (hroot : isRoot s = true) :
    execHoldoverExit s = .next (s.setTime { s.time with ref10 := true }) := by
  rw [execHoldoverExit, if_neg (by simp [hlive]), if_pos hroot]

theorem execHoldoverExit_member (hhold : s.time.holdover = true) (hroot : isRoot s = false) (hup : upstream s ≠ none) :
    execHoldoverExit s = .next (s.setTime { s.time with holdover := false, drift := false }) := by
  rw [execHoldoverExit, if_neg (by simp [hlive]), if_neg (by simp [hroot]), if_neg (by simp [hhold]), if_neg (by simpa using hup)]

theorem execTimeDrift_drifts (hhold : s.time.holdover = true) (hdrift : s.time.drift = false) (hunc : 2000 < s.time.unc2) :
    execTimeDrift s = .next (timeRec (s.setTime { s.time with drift := true }) 0x0708) := by
  rw [execTimeDrift, if_neg (by simp [hlive, hhold, hdrift, hunc])]

theorem execRef10mLockLoss_loses (hroot : isRoot s = true) : let s1 := s.setTime { s.time with ref10 := false }
    execRef10mLockLoss s = .next (if s.time.locked ∧ !s.time.holdover then enterHoldover s1 else s1) := by
  rw [execRef10mLockLoss, if_neg (by simp [hlive, hroot])]

theorem execPpsEdgesMissed_misses (hroot : isRoot s = true) (hlock : s.time.locked = true) :
    let s1 := s.setTime { s.time with ppsMiss := 3 }
    execPpsEdgesMissed s = .next (if s.time.holdover then s1 else enterHoldover s1) := by
  rw [execPpsEdgesMissed, if_neg (by simp [hlive, hroot, hlock])]

end

/-- Settles O35: each row of Thyme, with what it leaves of the time. -/
theorem fabricTime : Obligations.FabricTime := by
  intro s hlive
  refine ⟨?exchange, fun o es hun hin hest hsteady => ?lock,
    fun hroot => ⟨fun hun href hset => ?load, execPpsEdge_slews hlive hroot, fun _ => execHoldoverExit_root hlive hroot,
      ?lost, fun hlock => ?missed⟩,
    fun hlock hhold hin hup => ?enters, execHoldoverExit_member hlive, fun hhold hdrift hunc => ?drifts⟩
  case exchange =>
    intro p hops t1 t2 t3 t4 hp hin huse hmode s1 o hup
    refine ⟨_, execTimeExchange_measures hlive hp hin huse hmode rfl hup, ?_⟩
    have htime : s1.time = s.time := countExchange_time _ p
    cases hlock : s.time.locked
    · simp [s1, o, htime, hlock]
    · simp [s1, o, htime, hlock, freshUnc]
  case lock =>
    obtain ⟨hft, hlocked, -, hled⟩ := freshUnc_lockAt s (ft := (((ns s : Nat) : Int) - o / 2).toNat) rfl
    exact ⟨_, execFirstLock_locks hlive hun hin hest hsteady, hlocked, hft, hled⟩
  case load =>
    obtain ⟨hft, hlocked, hhops, -⟩ := freshUnc_lockAt (s.setTime { s.time with hops := 0 }) (Nat.mod_eq_of_lt (rd64 s 0x17028).isLt)
    exact ⟨_, execPpsEdge_locks hlive hroot hun href hset, hlocked, hft, hhops⟩
  case lost =>
    refine ⟨_, execRef10mLockLoss_loses hlive hroot, ?_⟩
    split
    · simp [enterHoldover_time]
    · next hstays => simpa using hstays
  case missed =>
    refine ⟨_, execPpsEdgesMissed_misses hlive hroot hlock, ?_⟩
    split
    · next hhold => exact ⟨rfl, hhold⟩
    · simp [enterHoldover_time]
  case enters => exact ⟨_, execHoldoverEntry_enters hlive hlock hhold hin hup, by simp [enterHoldover_time]⟩
  case drifts =>
    exact ⟨_, execTimeDrift_drifts hlive hhold hdrift hunc, by rw [timeRec_time, State.setTime_time]⟩

/-! ### The bound and the epochs -/

theorem execFabLatLowerEffect_lowers {s : State} {v b : Nat} (hpend : s.fab.latPend = some (v, b)) (hdue : b ≤ beat s) :
    execFabLatLowerEffect s = .next (s.setFab { s.fab with lat := v, latPend := none }) := by
  rw [execFabLatLowerEffect, hpend]
  exact if_neg (Nat.not_lt.mpr hdue)

theorem flushWaits_of_none {s : State} (h : s.fab.waits = []) : flushWaits s = s.setFab { s.fab with waits := [] } := by
  rw [flushWaits, h, List.foldl_nil]

section

variable {s : State} (hlive : live s = true)

include hlive

/-- With no message waiting the change of epoch touches the fabric's epoch and the times at which keys retire (R329, R330). -/
theorem execEpochChange_changes (hlock : s.time.locked = true) (hover : s.fab.epoch < ns s / 2 ^ s.fab.encLog2)
    (hnone : s.fab.waits = []) : execEpochChange s = .next ((s.setFab { s.fab with
      encLog2 := s.fab.encNext, epoch := ns s / 2 ^ s.fab.encNext, encAll := s.fab.encAllNext, waits := [] }).setSec
        { s.sec with keys := s.sec.keys.map fun k =>
            if k.epoch + 1 = ns s / 2 ^ s.fab.encNext ∧ k.retire.isNone then
              { k with retire := some (ns s / 2 ^ s.fab.encNext * 2 ^ s.fab.encNext + (s.fab.lat + 1) * beatNs) }
            else k }) := by
  rw [execEpochChange, if_neg (by simp [hlive, hlock, hover])]
  dsimp only
  rw [flushWaits_of_none (by exact hnone)]
  rfl

theorem execEpochKeyForm_forms (hlock : s.time.locked = true) (hvault : vaultOk s = true)
    (hdue : epochStart s (s.fab.epoch + 1) ≤ ns s + 2 * beatNs) : execEpochKeyForm s =
      .next ((s.sec.sess.filter (·.serves (nextEpoch s))).foldl (fun t x => formKeys t x (nextEpoch s)) s) := by
  rw [execEpochKeyForm, if_neg (by simp [hlive, hlock, hvault, hdue])]

theorem execEpochKeyRetire_retires : execEpochKeyRetire s = .next (dropOld (s.setSec { s.sec with
    keys := s.sec.keys.filter fun k =>
      !(match k.retire with | some t => decide (t ≤ ns s) | none => false) && decide (s.fab.epoch ≤ k.epoch + 1) })) := by
  unfold execEpochKeyRetire
  exact if_neg (by simp [hlive])

end

/-- A session is kept until its epochs are over and its keys have retired (R411). -/
theorem dropOld_eq (s : State) : dropOld s = s.setSec { s.sec with
    sess := s.sec.sess.filter fun x => x.stop.all fun f =>
      decide (s.fab.epoch < f) || s.sec.keys.any fun k => decide (k.peer = x.peer) && decide (k.id = x.id) } := by
  rw [dropOld]
  dsimp only
  congr 3
  funext x
  cases x.stop with
  | none => rfl
  | some f => simp only [Bool.not_and, Bool.not_not, ← decide_not, Nat.not_le, Option.all_some]

/-! ### Random bits -/

theorem otherHalf_ne (h : Half) : otherHalf h ≠ h := by cases h <;> decide

section

variable {s : State} {h : Half} (hok : s.sec.rngOk.get h = true)

include hok

theorem execDrbgReseed_reseeds (hdue : 2 ^ 20 ≤ s.sec.drbg.get h) :
    execDrbgReseed h s = .next (s.setSec { s.sec with drbg := s.sec.drbg.set h 0 }) := by
  rw [execDrbgReseed, if_neg (by simp only [hok]; simpa using hdue)]

theorem execMaskReseed_reseeds (hdue : 2 ^ 20 ≤ s.sec.mask.get h) : execMaskReseed h s = .next (reseedMask s h) := by
  rw [execMaskReseed, if_neg (by simp only [hok]; simpa using hdue)]

/-- Before the rings of a half run, a failed health test stops its cryptography and nothing else (R390). -/
theorem execHealthTestFail_stops (hon : s.pwr.on = true) (hoff : s.boot.sage.get h = false) : execHealthTestFail h s =
    .next (refreshRdy (s.setSec { s.sec with rngOk := s.sec.rngOk.set h false })) := by
  rw [execHealthTestFail, if_neg (by simp [hon, hok])]
  dsimp only
  rw [if_neg (by simp [hoff])]

end

theorem refreshRdy_sec (s : State) : (refreshRdy s).sec = s.sec := by
  obtain ⟨e, d, h, -⟩ := refreshRdy_only s
  rw [h]
  rfl

/-- Settles O36: the bound, the epochs and their keys, the generators. -/
theorem epochsAndRandomBits : Obligations.EpochsAndRandomBits := by
  refine ⟨⟨fun s v b => execFabLatLowerEffect_lowers, fun s hlive => ⟨fun hlock hover hnone => ?epoch,
      execEpochKeyForm_forms hlive, ?retire⟩⟩,
    fun s h hok => ⟨execDrbgReseed_reseeds hok, fun hdue => ?mask, fun hon hoff => ?health⟩⟩
  case epoch =>
    exact ⟨_, execEpochChange_changes hlive hlock hover hnone, rfl, rfl, rfl, rfl, rfl⟩
  case retire =>
    intro keys
    rw [exec_epochKeyRetire, execEpochKeyRetire_retires hlive, dropOld_eq]
    rfl
  case mask =>
    refine ⟨_, execMaskReseed_reseeds hok hdue, Two.get_set_self _ _ _, Two.get_set_self _ _ _,
      Two.get_set_ne _ _ _ _ (otherHalf_ne h), rfl, Two.get_upd_self _ _ _, rfl⟩
  case health =>
    refine ⟨_, execHealthTestFail_stops hok hon hoff, ?_⟩
    rw [refreshRdy_sec, refreshRdy_mem]
    exact ⟨Two.get_set_self _ _ _, Two.get_set_ne _ _ _ _ (otherHalf_ne h), rfl⟩

end Sys2Proof.Machine
end

section
/-!
SUPPORT. The fabric block (R310, R316, R318, R329, R346, R425): a load whose buffer passes its checks, and the registers.
-/

namespace Sys2Proof.Machine

/-! ### Loads -/

/-- The buffer of a load is good: its address, its count and the room behind it (R425). -/
def LoadOk (w : BitVec 56) (s : State) (n : Nat) : Prop :=
  bits w 55 35 = 0 ∧ bits (fabArg s) 63 52 = 0 ∧ (fabArg s).toNat % 64 = 0 ∧ bits w 17 0 ≠ 0 ∧ bits w 17 0 ≤ 131072 ∧
    hostBase + (fabArg s).toNat + n ≤ 2 ^ 48 ∧ fabValid s = true ∧ s.dev.linkUp = true

/-- A load that finds its block ready and its buffer good completes with what its body makes of the bytes. -/
theorem loadCmd_loads {c : Instr} {w : BitVec 56} {s t : State} {n : Nat} {body : State → List Byte → Option State}
    (h : cmdReady .fabric s = true) (hok : LoadOk w s n) (hbody : body s (fabBuf s n) = some t) :
    loadCmd c w s n body = .next (finish .fabric 0 t) := by
  obtain ⟨hw, ha, hal, hn, hmax, hroom, hval, hlink⟩ := hok
  rw [loadCmd, cmd_eq h]
  dsimp only
  rw [if_neg (by simp only [hw, ha, hal]; omega), if_neg (by simp [hval]), hostCmd, if_pos hlink, hbody]

section

variable {s : State} {w : BitVec 56} (h : cmdReady .fabric s = true)

include h

theorem execLoadRoutes_loads (hok : LoadOk w s (2 * bits w 17 0)) (hfit : bits w 34 18 + bits w 17 0 ≤ 131072) :
    execLoadRoutes w s = .next (finish .fabric 0 (s.setFab { s.fab with
      routes := Tab.putMany (fun _ => 0) s.fab.routes (bits w 34 18)
        ((groupsOf 2 (fabBuf s (2 * bits w 17 0))).map fun b => bv 16 (leNat b)) })) :=
  loadCmd_loads h hok (if_neg (Nat.not_lt.mpr hfit))

theorem execLoadSites_loads {es : List (Option SiteE)} (hok : LoadOk w s 1024)
    (hes : (groupsOf 16 (fabBuf s 1024)).map parseSite = es) (hall : ∀ e ∈ es, e ≠ none)
    (hhusil : ∀ k e, es[k]? = some (some e) → siteHusil s k e = false) :
    execLoadSites w s = .next (finish .fabric 0 (s.setFab { s.fab with
      sites := Tab.putMany (fun _ => {}) [] 0 (es.map fun e => e.getD {}) })) := by
  subst hes
  refine loadCmd_loads h hok (if_neg ?_)
  rw [Bool.or_eq_true, not_or]
  refine ⟨?_, ?_⟩
  · rw [List.any_eq_true]
    rintro ⟨e, he, hnone⟩
    exact hall e he (Option.isNone_iff_eq_none.mp hnone)
  · rw [List.any_eq_true]
    rintro ⟨⟨e, k⟩, hk, hbad⟩
    have hget := List.mem_zipIdx_iff_getElem?.mp hk
    cases e with
    | none => exact Bool.false_ne_true hbad
    | some e => exact Bool.false_ne_true ((hhusil k e hget).symm.trans hbad)

theorem execLoadWatch_loads (hok : LoadOk w s (4 * bits w 17 0)) (hfit : bits w 34 18 + bits w 17 0 ≤ 64)
    (hzero : ∀ b ∈ groupsOf 4 (fabBuf s (4 * bits w 17 0)), leNat b / 2 ^ 23 % 2 ^ 8 = 0) :
    execLoadWatch w s = .next (finish .fabric 0 (s.setFab { s.fab with
      watch := sortOn Watch.pos
        ((s.fab.watch.filter fun x => decide (x.pos < bits w 34 18) || decide (bits w 34 18 + bits w 17 0 ≤ x.pos)) ++
          (groupsOf 4 (fabBuf s (4 * bits w 17 0))).zipIdx.filterMap fun x => watchEntry s (bits w 34 18 + x.2) x.1) })) := by
  refine loadCmd_loads h hok (if_neg ?_)
  rintro (hover | hany)
  · omega
  · obtain ⟨b, hb, hbad⟩ := List.any_eq_true.mp hany
    exact of_decide_eq_true hbad (hzero b hb)

theorem execLoadEnc_loads (hok : LoadOk w s 512) : execLoadEnc w s = .next (finish .fabric 0 (s.setFab { s.fab with
    encMap := Tab.putMany (fun _ => false) [] 0
      ((List.range 4096).map fun i => ((fabBuf s 512).getD (i / 8) 0).getLsbD (i % 8)) })) :=
  loadCmd_loads h hok rfl

theorem execReadRoute_reads (hw : bits w 55 35 = 0) (hfirst : bits w 34 18 < 131072) (hn : bits w 17 0 ≠ 0)
    (hmax : bits w 17 0 ≤ 131072) : execReadRoute w s = .next (finish .fabric 0 (setBlk s .fabric { getBlk s .fabric with
      count := (Tab.get (fun _ => 0) s.fab.routes (bits w 34 18)).toNat })) := by
  rw [execReadRoute, cmd_eq h]
  dsimp only
  rw [if_neg (by simp only [hw]; omega)]

end

/-! ### Registers -/

section

variable {s : State} {v : B32} (hregs : regsOn s = true)

include hregs

theorem execFabId_sets (hnew : fabValid s = false) :
    execFabId v s = .next (refreshRdy (s.setFab { s.fab with id := v &&& 0x807FFFFF })) := by
  rw [execFabId, if_neg (by simp [hregs, hnew])]

theorem execFabLat_raises (hv : bits v 5 0 ≠ 0) (hup : s.fab.lat ≤ bits v 5 0) :
    execFabLat v s = .next (s.setFab { s.fab with lat := bits v 5 0, latPend := none }) := by
  rw [execFabLat]
  dsimp only
  rw [if_neg (by simp [hregs, hv]), if_pos hup]

/-- A lower bound waits for its beat (R316). -/
theorem execFabLat_lowers (hv : bits v 5 0 ≠ 0) (hdown : bits v 5 0 < s.fab.lat) : execFabLat v s =
    .next (s.setFab { s.fab with latPend := some (bits v 5 0, beatAfter s (2 * s.fab.lat + 1)) }) := by
  rw [execFabLat]
  dsimp only
  rw [if_neg (by simp [hregs, hv]), if_neg (Nat.not_le.mpr hdown)]

theorem execEncCtrl_sets (hmin : 30 ≤ bits v 5 0) (hmax : bits v 5 0 ≤ 40) :
    execEncCtrl v s = .next (s.setFab { s.fab with encNext := bits v 5 0, encAllNext := bit v 8 }) := by
  rw [execEncCtrl]
  dsimp only
  rw [if_neg (by simp only [hregs]; simp; omega)]

theorem execSxCtrl_sets (hdata : bits v 27 16 ≠ 0) (hdec : bits v 7 0 ≠ 0)
    (hh : bit v 31 = true → 16 ≤ s.sx.h ∧ s.sx.h ≤ 4096) : execSxCtrl v s =
      .next (refreshRdy (s.setSx { s.sx with en := bit v 31, dataWait := bits v 27 16, decWait := bits v 7 0 })) := by
  rw [execSxCtrl]
  dsimp only
  rw [if_neg ?_]
  rintro (hoff | hzero | hzero | ⟨hon, hout⟩)
  · simp [hregs] at hoff
  · exact hdata hzero
  · exact hdec hzero
  · have := hh hon
    omega

theorem execSxH_sets (hoff : s.sx.en = false) : execSxH v s = .next (s.setSx { s.sx with h := bits v 12 0 }) := by
  rw [execSxH, if_neg (by simp [hregs, hoff])]

end

/-- Settles O39: each load with its buffer good, the route read, and each register in its range. -/
theorem fabricRegisters : Obligations.FabricRegisters := by
  refine ⟨?commands, fun s v hregs => ⟨execFabId_sets hregs, fun hv => ⟨execFabLat_raises hregs hv, execFabLat_lowers hregs hv⟩,
    execEncCtrl_sets hregs, execSxCtrl_sets hregs, execSxH_sets hregs⟩⟩
  intro s w h hw a first n room
  refine ⟨fun ha hal hn hmax hval hlink => ?_, execReadRoute_reads h hw⟩
  have hok {k : Nat} (hroom : room k) : LoadOk w s k := ⟨hw, ha, hal, hn, hmax, hroom, hval, hlink⟩
  refine ⟨fun hroom => execLoadRoutes_loads h (hok hroom), fun hroom => execLoadSites_loads h (hok hroom) rfl,
    fun hroom => execLoadWatch_loads h (hok hroom),
    fun hroom => ⟨_, execLoadEnc_loads h (hok hroom), State.setFab_mem _ _, fun i hi => ?_⟩⟩
  have hget := Tab.get_putMany_in (fun _ => false)
    ((List.range 4096).map fun i => ((fabBuf s 512).getD (i / 8) 0).getLsbD (i % 8)) [] 0 i (by simpa using hi)
  simpa using hget

end Sys2Proof.Machine
end

section
/-!
SUPPORT. The site exchange (R332 to R343): each row while the exchange works, for the round in progress.
-/

namespace Sys2Proof.Machine

/-! ### What writing through the tables leaves -/

theorem storeVa_met (s : State) (id va : Nat) (bs : List Byte) : OnlyMet s (storeVa s id va bs) := by
  obtain ⟨m, hm⟩ := writeVa_only s none id va bs
  rw [storeVa]
  generalize writeVa s none id va bs = r at hm
  obtain ⟨t, e⟩ := r
  subst hm
  cases e with
  | none => exact OnlyMet.mem s m
  | some e => exact (OnlyMet.mem s m).trans (logPt_met _ id e)

theorem OnlyMet.sx {s t : State} (h : OnlyMet s t) : t.sx = s.sx := by
  obtain ⟨m, f, e, d, rfl, -⟩ := h
  rfl

/-- The round's number written into the descriptors leaves the site exchange as it is. -/
theorem fillJ_sx (s : State) (j : Nat) : (fillJ s j).sx = s.sx := by
  refine OnlyMet.sx (OnlyMet.foldl _ (fun t sh => ?_) _ s)
  dsimp only
  split
  · exact .refl t
  · exact storeVa_met t _ _ _

theorem OnlySent.sx {s t : State} (h : OnlySent s t) : t.sx = s.sx := by
  obtain ⟨n, c, f, e, d, rfl, -⟩ := h
  rfl

theorem sendCtrl_sent (s : State) (d : Peer) (kind : Nat) (args : List Nat) : OnlySent s (sendCtrl s d kind args) :=
  send_sent s _ _

theorem tellSite_sent (s : State) (args : List Nat) : OnlySent s (tellSite s args) :=
  OnlySent.foldl (fun t p => sendCtrl_sent t p 4 args) _ s

/-! ### The round begins -/

theorem joinAgain_of_fresh {s : State} (h : s.sx.stale = false) : joinAgain s = s := by
  simp [joinAgain, h]

/-- Past the data deadline a part of a stream counts as not received (R40, R334). -/
theorem onStream_late {s : State} {src : Peer} {j : Nat} {x : Strm} {r : Round} {sh : Shard} (hr : openRound s j = some r)
    (hsh : streamShard s src x.shard = some sh) (hlate : r.t0 + s.sx.dataWait < beat s) : onStream s src j x = .next s := by
  simp only [onStream, hr, hsh]
  exact if_pos (.inr (.inl (decide_eq_true hlate)))

/-- The one decision that has come is applied when it is the proposer's, and passed on (R338). -/
theorem applyCame_of_came {s : State} {r : Round} {d : DecisionIn} (hcame : r.came = [d])
    (hprop : proposerOf r = some d.d.proposer) :
    applyCame s r = applyRound (passDecision (rejoinNote s d.d) r d.d) r d.d := by
  simp [applyCame, hcame, hprop]

theorem execSxDecision_decides {s : State} {r : Round} (hcur : s.sx.cur = some r) (hmay : mayPropose s r = true)
    (hall : ∀ k ∈ validSites s, ∃ x ∈ r.receipts, x.site = k) : execSxDecision s = .next (propose s r) := by
  have hin : allIn s r = true := by simpa [allIn] using hall
  simp only [execSxDecision, hcur]
  exact if_pos (by rw [hmay, hin]; rfl)

section

variable {s : State} (hon : sxOn s = true)

include hon

/-- A multiple of H that is released begins its round at this beat (R332, R336). -/
theorem execOuterRoundBegin_begins {n : Nat} (hn : lastDecided s (sxJob s) = some n) (hh : s.sx.h ≠ 0)
    (hdvd : n % s.sx.h = 0) (hcur : s.sx.cur = none) (hnew : s.sx.round < n / s.sx.h)
    (hrel : released s (sxJob s) n = true) (hrejoin : s.sx.rejoin = false) (hstale : s.sx.stale = false) :
    execOuterRoundBegin s = .next (fillJ (s.setSx { s.sx with
      rejoin := false, omom := []
      cur := some ⟨n / s.sx.h, beat s, false, false, [], [], [], [], false, false, [], none, false⟩ }) (n / s.sx.h)) := by
  have hj : n / s.sx.h ≠ 0 := Nat.ne_of_gt (Nat.zero_lt_of_lt hnew)
  rw [execOuterRoundBegin]
  dsimp only
  rw [hn, Option.getD_some, hcur]
  dsimp only
  rw [if_neg (by simp [hon, hh, hj, hdvd, Nat.not_le.mpr hnew, hrel]), hrejoin, if_neg Bool.false_ne_true]
  rw [joinAgain_of_fresh (by rw [fillJ_sx]; exact hstale)]

/-! ### Streams -/

section

variable {src : Peer} {j : Nat} {x : Strm} {r : Round} {sh : Shard} (hr : openRound s j = some r)
  (hsh : streamShard s src x.shard = some sh)

include hr hsh

theorem onStream_takes (htime : beat s ≤ r.t0 + s.sx.dataWait) (hsite : x.site ≠ ownSite s)
    (hvalid : (validSites s).contains x.site = true) (htags : x.tags.length = x.blocks.length) :
    onStream s src j x = .next (takeStream s r sh x.site src { x with shard := shardKey sh }) := by
  have hnot : dataLate s r = false := decide_eq_false (Nat.not_lt.mpr htime)
  simp only [onStream, hr, hsh]
  exact if_neg (by simp only [hon, hnot, hsite, hvalid, htags]; simp)

end

/-! ### The round in progress -/

section

variable {r : Round} (hr : openRound s r.j = some r)

include hr

/-- A request for a shard again is answered with what was forwarded, or with the own streams and state (R334, R340). -/
theorem execSxRetransmitReq_answers {src : Peer} {shard : Nat} {sh : Shard}
    (hsh : shardBy s (sxJob s) shard false = some sh) : execSxRetransmitReq src r.j shard s =
      .next (if src.site = ownSite s then forwardAgain s r sh src else sendAgain s r sh src) := by
  simp only [execSxRetransmitReq, hsh, hr]
  exact if_neg (by simp [hon])

theorem execSxReport_taken {src : Peer} {partner : Nat} {mask : B64} (hcoord : isCoord s = true)
    (hsite : src.site = ownSite s) : execSxReport src partner r.j mask s = .next (takeReport s ⟨src, partner, mask⟩) := by
  simp only [execSxReport, hr]
  rw [if_pos (by simp [hon, hcoord, hsite])]

/-- A receipt in time is kept; with every site's the coordinator's Q is settled (R337, R338). -/
theorem execSxReceipt_kept {c : Receipt} (hcoord : isCoord s = true) (hc : c.round = r.j) (hdec : r.decided = false)
    (htime : beat s ≤ r.t0 + s.sx.dataWait + s.sx.decWait) (hvalid : (validSites s).contains c.site = true) :
    let r1 := { r with receipts := r.receipts.filter (fun x => x.site != c.site) ++ [c] }
    execSxReceipt c s = .next (if allIn s r1 = true then applyCame (setRound s r1) r1 else setRound s r1) := by
  rw [← hc] at hr
  simp only [execSxReceipt, hr]
  exact if_neg (by simp only [hon, hcoord, hdec, hvalid, Nat.not_lt.mpr htime]; simp)

section

variable {d : DecisionIn} (hd : d.d.round = r.j)

include hd

/-- A device takes its own coordinator's decision alone (R338). -/
theorem execSxApply_device (hcoord : isCoord s = false) : execSxApply d s =
    .next (if fromCoord s d.src (ownSite s) = true then applyRound (rejoinNote s d.d) r d.d else s) := by
  rw [← hd] at hr
  simp only [execSxApply, hr]
  rw [if_neg (by simp [hon]), if_pos (by simp [hcoord])]

theorem execSxApply_foreign (hcoord : isCoord s = true) (hfrom : fromCoord s d.src d.d.proposer = false) :
    execSxApply d s = .next s := by
  rw [← hd] at hr
  simp only [execSxApply, hr]
  rw [if_neg (by simp [hon]), if_neg (by simp [hcoord]), if_pos (by simp [hfrom])]

/-- A coordinator keeps a decision that comes before its own Q is settled (R338). -/
theorem execSxApply_kept (hcoord : isCoord s = true) (hfrom : fromCoord s d.src d.d.proposer = true)
    (hopen : (r.decided || allIn s r) = false) :
    execSxApply d s = .next (setRound s { r with came := r.came ++ [d] }) := by
  rw [← hd] at hr
  simp only [execSxApply, hr]
  rw [if_neg (by simp [hon]), if_neg (by simp [hcoord]), if_neg (by simp [hfrom]), if_neg (by simp [hopen])]

theorem execSxApply_settled (hcoord : isCoord s = true) (hfrom : fromCoord s d.src d.d.proposer = true)
    (hsettled : (r.decided || allIn s r) = true) : let r1 := { r with came := r.came ++ [d] }
    execSxApply d s = .next (applyCame (setRound s r1) r1) := by
  rw [← hd] at hr
  simp only [execSxApply, hr]
  rw [if_neg (by simp [hon]), if_neg (by simp [hcoord]), if_neg (by simp [hfrom]), if_pos hsettled]

end

end

/-! ### The deadlines -/

section

variable {r : Round} (hcur : s.sx.cur = some r) (happ : r.applied = none)

include hcur happ

theorem execDataWaitExpiry_sends (hcoord : isCoord s = true) (hdue : r.t0 + s.sx.dataWait ≤ beat s) :
    execDataWaitExpiry s = .next (sendReceipt s r) := by
  simp only [execDataWaitExpiry, hcur]
  exact if_neg (by simp [hon, hcoord, happ, hdue])

/-- At the decision deadline the proposer decides, and another coordinator takes what has come (R337). -/
theorem execDecWaitExpiry_settles (hcoord : isCoord s = true) (hdec : r.decided = false)
    (hdue : r.t0 + s.sx.dataWait + s.sx.decWait ≤ beat s) : execDecWaitExpiry s =
      .next (if mayPropose s r then propose s r
        else applyCame (setRound s { r with decided := true }) { r with decided := true }) := by
  simp only [execDecWaitExpiry, hcur]
  rw [if_neg (by simp [hon, hcoord, hdec, happ, hdue]), apply_ite Host.Outcome.next]

theorem execSxDecisionTimeout_misses (hcoord : isCoord s = true) (hother : proposerOf r ≠ some (ownSite s))
    (hdue : r.t0 + s.sx.dataWait + 2 * s.sx.decWait ≤ beat s) :
    execSxDecisionTimeout s = .next (applyRound (passDecision s r (noDecision s r)) r (noDecision s r)) := by
  simp only [execSxDecisionTimeout, hcur]
  exact if_neg (by simp [hon, hcoord, happ, hother, hdue])

end

/-! ### State and joiners -/

theorem execSxState_momentum {src : Peer} {site shard : Nat} {data : List Byte} {r : Round} {sh : Shard}
    (hcur : s.sx.cur = some r) (hsh : streamShard s src shard = some sh) (hrejoin : r.rejoin = true)
    (happ : r.applied = none) : execSxState src site shard 3 data (crc64 data) s =
      .next (keepMomentum s sh site data (crc64 data)) := by
  have hrun : (s.sx.cur.filter fun r => r.rejoin && r.applied.isNone) = some r := by simp [hcur, hrejoin, happ]
  rw [execSxState, if_neg (by simp [hon]), if_neg (not_not.mpr rfl), hrun, hsh]
  rfl

/-- A device that has run no step loads what a joiner needs (R342). -/
theorem execSxState_joins {src : Peer} {site shard kind : Nat} {data : List Byte} (hcur : s.sx.cur = none)
    (hlast : lastDecided s (sxJob s) = none) (hkind : kind = 0 ∨ kind = 3 ∨ kind = 4 ∨ kind = 8) :
    execSxState src site shard kind data (crc64 data) s = .next (joinLoad s src shard kind data) := by
  have hjoin : joining s = true := by simp [joining, hlast]
  simp only [execSxState, hcur, Option.filter_none]
  rw [if_neg (by simp [hon]), if_neg (not_not.mpr rfl), takeState, if_pos ⟨hjoin, hkind⟩]

/-- A joiner is noted with the round that serves it; what a coordinator says of it is only sent (R342). -/
theorem execJoin_notes {src : Peer} {n j : Nat} (hnew : (s.sx.joins.any fun x => x.1 = src) = false)
    (hj : (if n = 0 then joinRound s else n) = j) : ∃ t, execJoin ⟨src, n, false⟩ s = .next t ∧
      OnlySent (s.setSx { s.sx with joins := s.sx.joins ++ [(src, j)] }) t := by
  rw [execJoin, if_neg (by simp [hon])]
  dsimp only
  rw [if_neg Bool.false_ne_true, if_neg (by simp [hnew]), hj]
  refine ⟨_, rfl, ?_⟩
  split
  · exact (tellSite_sent _ _).trans (sendCtrl_sent _ _ _ _)
  · exact .refl _

theorem execJoin_answered {src : Peer} {n : Nat} (hasked : s.sx.asked = true) (hcoord : isCoord s = false) :
    execJoin ⟨src, n, true⟩ s = .next (s.setSx { s.sx with joinAt := some n }) := by
  rw [execJoin, if_neg (by simp [hon])]
  dsimp only
  rw [if_pos rfl, if_neg (by simp [hcoord]), if_pos (by simp [hasked])]

end

/-- Settles O38: the round's beginning, its streams, its messages, its deadlines, the state of rejoin rounds and joiners. -/
theorem siteExchangeRounds : Obligations.SiteExchangeRounds := by
  intro s hon
  refine ⟨fun n hn hh _ hdvd hcur => execOuterRoundBegin_begins hon hn hh hdvd hcur,
    fun r src site shard first tags blocks scales sh hr hsh hsite hvalid => ⟨fun hlate => ?late, fun htime htags => ?data,
      fun htime htags => ?scale⟩,
    fun r hr => ⟨fun src shard sh hsh => ?again, fun src partner mask => execSxReport_taken hon hr,
      fun c hcoord => execSxReceipt_kept hon hr hcoord, fun d hd => ⟨execSxApply_device hon hr hd,
        execSxApply_foreign hon hr hd, fun hcoord hfrom => ?applies⟩⟩,
    fun r hcur happ => ⟨execDataWaitExpiry_sends hon hcur happ, execSxDecision_decides hcur,
      execDecWaitExpiry_settles hon hcur happ, execSxDecisionTimeout_misses hon hcur happ⟩,
    fun r src site shard sh data => execSxState_momentum hon, fun src site shard kind data => execSxState_joins hon,
    fun src n hnew => ?joins, fun src n => execJoin_answered hon⟩
  case late => exact ⟨onStream_late hr hsh hlate, onStream_late hr hsh hlate⟩
  case data => exact onStream_takes hon hr hsh htime hsite hvalid htags
  case scale => exact onStream_takes hon hr hsh htime hsite hvalid (htags.trans (List.length_map _).symm)
  case again =>
    rw [exec_sxRetransmitReq, execSxRetransmitReq_answers hon hr hsh]
    refine ⟨fun hown => by rw [if_pos hown], fun hother henc hrejoin => ?_⟩
    rw [if_neg hother, sendAgain, henc, hrejoin]
    rfl
  case applies =>
    intro r1
    refine ⟨execSxApply_kept hon hr hd hcoord hfrom, fun hsettled hcame hprop => ?_⟩
    have hone : r1.came = [d] := congrArg (· ++ [d]) hcame
    rw [exec_sxApply, execSxApply_settled hon hr hd hcoord hfrom hsettled, applyCame_of_came hone hprop]
  case joins =>
    obtain ⟨t, ht, hsent⟩ := execJoin_notes (n := n) hon hnew rfl
    refine ⟨t, ht, ?_, hsent.mem⟩
    rw [hsent.sx, State.setSx_sx]

end Sys2Proof.Machine
end

section
/-!
PROOFS. Keep-alive mode ends only by a reset (R379).  Every function of the model that changes the state has one lemma
here, named after it, which says that it keeps `InKa`; `InKa.withX` is the lemma of `State.setX`.  A function's lemma
follows its body: the lemmas of the functions that it calls are chained by dots, its conditionals are `.ite`.  What
keep-alive mode shuts out (slots, queues, shards, rounds between sites, refused commands) needs no lemma: the guard is false.
-/

namespace Sys2Proof.Machine

/-- Keep-alive mode, with `P` of fabric time, which records, signals and votes leave alone. -/
def InKa (P : Time → Prop) (s : State) : Prop := s.err.ka = true ∧ P s.time

/-- Nothing asked of fabric time. -/
def AnyTime : Time → Prop := fun _ => True

/-- A command that leaves a state leaves it in keep-alive mode. -/
def EndsInKa (o : Out) : Prop := ∀ t, o = .next t → InKa AnyTime t

/-! ### How the lemmas about functions combine -/

section

variable {P : Time → Prop} {s t : State} {a b : Out} {c : Prop} [Decidable c]

protected theorem InKa.ite (hs : InKa P s) (ht : InKa P t) : InKa P (if c then s else t) := by
  split <;> assumption
protected theorem InKa.pos (hc : c) (hs : InKa P s) : InKa P (if c then s else t) := by
  rwa [if_pos hc]
protected theorem InKa.neg (hc : ¬ c) (ht : InKa P t) : InKa P (if c then s else t) := by
  rwa [if_neg hc]
protected theorem InKa.orSelf (hs : InKa P s) (ht : InKa P s → InKa P t) : InKa P (if c then t else s) :=
  .ite (ht hs) hs
protected theorem InKa.selfOr (hs : InKa P s) (ht : InKa P s → InKa P t) : InKa P (if c then s else t) :=
  .ite hs (ht hs)
protected theorem EndsInKa.ite (ha : EndsInKa a) (hb : EndsInKa b) : EndsInKa (if c then a else b) := by
  split <;> assumption
protected theorem EndsInKa.pos (hc : c) (ha : EndsInKa a) : EndsInKa (if c then a else b) := by
  rwa [if_pos hc]
protected theorem EndsInKa.neg (hc : ¬ c) (hb : EndsInKa b) : EndsInKa (if c then a else b) := by
  rwa [if_neg hc]
protected theorem EndsInKa.fault {f : Fault} : EndsInKa (.fault f) := fun _ h => nomatch h
protected theorem EndsInKa.andThen {k : State → Out} (ha : EndsInKa a)
    (hk : ∀ t, InKa AnyTime t → EndsInKa (k t)) : EndsInKa (andThen a k) := by
  cases a with
  | next t => exact hk t (ha t rfl)
  | fault => exact .fault
  | refused => exact ha
protected theorem InKa.next (hk : InKa AnyTime s) : EndsInKa (.next s) := by
  rintro t ⟨⟩
  exact hk
protected theorem InKa.fst {β : Type} {x : State × β} {y : β} (hk : InKa P x.1) (e : x = (t, y)) : InKa P t := by
  rwa [e] at hk
protected theorem InKa.foldl {α : Type} {f : State → α → State} {xs : List α} (hk : InKa P s)
    (hf : ∀ t a, InKa P t → InKa P (f t a)) : InKa P (xs.foldl f s) := by
  induction xs generalizing s with
  | nil => exact hk
  | cons x xs ih => exact ih (hf _ _ hk)
protected theorem InKa.elim {o : Option State} {f : State → State} (hk : InKa P s)
    (ho : ∀ t, o = some t → InKa P (f t)) : InKa P (o.elim s f) := by
  cases o with
  | none => exact hk
  | some t => exact ho t rfl
protected theorem InKa.getD {o : Option State} (hk : InKa P s) (ho : ∀ t, o = some t → InKa P t) :
    InKa P (o.getD s) := by
  cases o with
  | none => exact hk
  | some t => exact ho t rfl
protected theorem InKa.ka (hk : InKa P s) : s.err.ka = true := hk.1
protected theorem InKa.sent (hk : InKa P s) (h : OnlySent s t) : InKa P t := by
  obtain ⟨n, c, f, e, d, rfl, he⟩ := h
  exact ⟨he.trans hk.ka, hk.2⟩
protected theorem InKa.of_err (hk : InKa P s) (h : t.err = s.err) : InKa AnyTime t :=
  ⟨(congrArg Err.ka h).trans hk.ka, trivial⟩
protected theorem InKa.met (hk : InKa P s) (h : OnlyMet s t) : InKa AnyTime t := by
  obtain ⟨m, f, e, d, rfl, he⟩ := h
  exact ⟨he.trans hk.ka, trivial⟩

end

/-! ### Records, signals and votes -/

section

variable {P : Time → Prop} {s : State} (hk : InKa P s)
include hk

protected theorem InKa.withDev {x} : InKa P (State.setDev s x) := hk
protected theorem InKa.withSec {x} : InKa P (State.setSec s x) := hk
protected theorem InKa.withSlot {x} : InKa P (State.setSlot s x) := hk
protected theorem InKa.withQue {x} : InKa P (State.setQue s x) := hk
protected theorem InKa.withLed {x} : InKa P (State.setLed s x) := hk
protected theorem InKa.withSyn {x} : InKa P (State.setSyn s x) := hk
protected theorem InKa.withCol {x} : InKa P (State.setCol s x) := hk
protected theorem InKa.withFab {x} : InKa P (State.setFab s x) := hk
protected theorem InKa.setSlot {cl fil x} : InKa P (setSlot s cl fil x) := hk
protected theorem InKa.updSlot {cl fil f} : InKa P (updSlot s cl fil f) := hk
protected theorem InKa.setCtx {id x} : InKa P (setCtx s id x) := hk
protected theorem InKa.setQ {q x} : InKa P (setQ s q x) := hk
protected theorem InKa.setObj {i x} : InKa P (setObj s i x) := hk
protected theorem InKa.setGrp {g x} : InKa P (setGrp s g x) := hk
protected theorem InKa.setPort {p x} : InKa P (setPort s p x) := hk
protected theorem InKa.drawn : InKa P (drawn s) := hk
protected theorem InKa.irq {n} : InKa P (irq s n) := by
  obtain ⟨d, heq⟩ := irq_only s n
  rw [heq]
  exact hk
protected theorem InKa.logRec {h x} : InKa P (logRec s h x) := by
  obtain ⟨e, d, heq, he⟩ := logRec_only s h x
  rw [heq]
  exact ⟨he.trans hk.ka, hk.2⟩
protected theorem InKa.logSpine {x} : InKa P (logSpine s x) := by
  obtain ⟨e, d, heq, he⟩ := logSpine_only s x
  rw [heq]
  exact ⟨he.trans hk.ka, hk.2⟩
protected theorem InKa.refreshRdy : InKa P (refreshRdy s) := by
  obtain ⟨e, d, heq, he⟩ := refreshRdy_only s
  rw [heq]
  exact ⟨he.trans hk.ka, hk.2⟩
protected theorem InKa.useDrbg {h} : InKa P (useDrbg s h) := hk
protected theorem InKa.hedged : InKa P (hedged s) := hk.sent (hedged_sent s)
protected theorem InKa.reseedMask {h} : InKa P (reseedMask s h) := hk
protected theorem InKa.useMask {h n} : InKa P (useMask s h n) := hk.sent (useMask_sent s h n)
protected theorem InKa.putConn {c} : InKa P (putConn s c) := hk.sent (putConn_sent s c)
protected theorem InKa.transmit {o} : InKa P (transmit s o) := hk.sent (transmit_sent s o)
protected theorem InKa.useSess {p} : InKa P (useSess s p) := hk.sent (useSess_sent s p)
protected theorem InKa.sendNow {m body enc} : InKa P (sendNow s m body enc) := hk.sent (sendNow_sent s m body enc)
protected theorem InKa.sendSess {d kind data} : InKa P (sendSess s d kind data) := hk.sendNow
protected theorem InKa.sessRoom {d} {t : State} (e : sessRoom s d = some t) : InKa P t := hk.sent (sessRoom_sent e)
protected theorem InKa.putAtt {a} : InKa P (putAtt s a) := hk.sent (putAtt_sent s a)
protected theorem InKa.startAtt {d} : InKa P (startAtt s d) := hk.sent (startAtt_sent s d)
protected theorem InKa.send {m body} : InKa P (send s m body) := hk.sent (send_sent s m body)
protected theorem InKa.sendTo {cls typ d ten job data body} : InKa P (sendTo s cls typ d ten job data body) := hk.send
protected theorem InKa.staleDrop : InKa P (staleDrop s) := hk
protected theorem InKa.haltQueue {q cause byCmd addr} : InKa P (haltQueue s q cause byCmd addr) := by
  obtain ⟨u, e, d, heq, he⟩ := haltQueue_only s q cause byCmd addr
  rw [heq]
  exact ⟨he.trans hk.ka, hk.2⟩
protected theorem InKa.resume {w} : InKa P (resume s w) := by
  obtain ⟨a, q, heq⟩ := resume_only s w
  rw [heq]
  exact hk
protected theorem InKa.release {i o ws keep} : InKa P (release s i o ws keep).1 := by
  induction ws generalizing o keep with
  | nil => exact hk.setObj
  | cons w ws ih =>
    unfold Machine.release
    split
    · exact ih.resume
    · exact ih
protected theorem InKa.settle {i o} : InKa P (settle s i o) := hk.release
protected theorem InKa.foreign {h who dev} : InKa P (foreign s h who dev) := hk.withSyn.logRec
protected theorem InKa.overrun {i o g} : InKa P (overrun s i o g) := by
  unfold overrun
  dsimp only
  split
  · exact hk.logRec.sendTo
  · exact hk.logRec.haltQueue
  · exact hk.logRec
protected theorem InKa.applySig {g} : InKa P (applySig s g) := by
  unfold applySig
  dsimp only
  split
  · exact hk.staleDrop
  · refine .ite hk.foreign ?_
    split
    · exact .ite hk.staleDrop hk.settle
    · exact .ite hk.staleDrop (.ite hk.settle.logRec hk.settle)
    · split
      · exact hk.overrun
      · exact hk.settle
protected theorem InKa.dropWaits {p} : InKa P (dropWaits s p) := hk
protected theorem InKa.abandon {p} : InKa P (abandon s p) := (hk.withQue.foldl fun _ _ ht => ht.updSlot).dropWaits
protected theorem InKa.stopCtxOnly {id} : InKa P (stopCtxOnly s id) := .ite hk hk.setCtx.abandon
protected theorem InKa.enterKeepAlive {code} : InKa P (enterKeepAlive s code) := .pos (by simp [hk.ka]) hk
protected theorem InKa.putVote {v} : InKa P (putVote s v) := hk
protected theorem InKa.endVote {m} : InKa P (endVote s m) := hk
protected theorem InKa.sendVote {g job rank b} : InKa P (sendVote s g job rank b) := hk.sendTo
protected theorem InKa.giveNotices {job step out} : InKa P (giveNotices s job step out) :=
  hk.foldl fun _ _ ht => ht.setObj.applySig
protected theorem InKa.heldOnly {m} : InKa P (heldOnly s m) := .ite hk hk.withCol
/-- An outcome that comes in keep-alive mode is kept for the host and has no effect (R298). -/
protected theorem InKa.applyOutcome {m} : InKa P (applyOutcome s m) := by
  unfold applyOutcome
  refine .ite hk ?_
  dsimp only
  rw [if_pos hk.ka]
  refine (InKa.endVote ?_).heldOnly
  split
  · exact hk.withCol.giveNotices.setGrp
  · exact hk.withCol.giveNotices
protected theorem InKa.passDown {g m} : InKa P (passDown s g m) := hk.foldl fun _ _ ht => ht.sendVote
protected theorem InKa.setLastWord {w} : InKa P (setLastWord s w) := hk
protected theorem InKa.rootTake {g v w} : InKa P (rootTake s g v w) := hk.setLastWord.passDown.applyOutcome
protected theorem InKa.rootDecide {g v w} : InKa P (rootDecide s g v w) := by
  unfold rootDecide
  dsimp only
  split
  · exact .ite hk.rootTake.rootTake hk.rootTake
  · exact hk.rootTake
protected theorem InKa.forwardUp {g v w} : InKa P (forwardUp s g v w) := by
  unfold forwardUp
  split
  · exact hk.setLastWord.sendVote.putVote
  · exact hk.setLastWord.putVote
protected theorem InKa.voteMove {g v now} : InKa P (voteMove s g v now) :=
  .ite (.ite hk.putVote.rootDecide hk.putVote) (.ite hk.putVote.forwardUp hk.putVote)
protected theorem InKa.notPresent {job step} : InKa P (notPresent s job step) := by
  unfold notPresent
  refine .ite hk ?_
  dsimp only
  split
  · exact hk.withCol
  · exact hk.withCol.voteMove
protected theorem InKa.npAll : InKa P (npAll s) := hk.foldl fun _ _ ht => ht.notPresent
protected theorem InKa.goKeepAlive {code} : InKa P (goKeepAlive s code) := .pos (by simp [hk.ka]) hk

end

section

variable {s : State} (hk : InKa AnyTime s)
include hk

/-! ### The functions of Machine/State.lean -/

protected theorem InKa.withPending {x} : InKa AnyTime (State.setPending s x) := hk
protected theorem InKa.withHeld {x} : InKa AnyTime (State.setHeld s x) := hk
protected theorem InKa.withLink {x} : InKa AnyTime (State.setLink s x) := hk
protected theorem InKa.withPwr {x} : InKa AnyTime (State.setPwr s x) := hk
protected theorem InKa.withTime {x} : InKa AnyTime (State.setTime s x) := hk
protected theorem InKa.withBoot {x} : InKa AnyTime (State.setBoot s x) := hk
protected theorem InKa.withMem {x} : InKa AnyTime (State.setMem s x) := hk
protected theorem InKa.withFrm {x} : InKa AnyTime (State.setFrm s x) := hk
protected theorem InKa.withMmu {x} : InKa AnyTime (State.setMmu s x) := hk
protected theorem InKa.withDma {x} : InKa AnyTime (State.setDma s x) := hk
protected theorem InKa.withUpd {x} : InKa AnyTime (State.setUpd s x) := hk
protected theorem InKa.withSx {x} : InKa AnyTime (State.setSx s x) := hk
protected theorem InKa.withMir {x} : InKa AnyTime (State.setMir s x) := hk
protected theorem InKa.withLead {x} : InKa AnyTime (State.setLead s x) := hk

/-! ### The functions of Machine/Ops.lean -/

protected theorem InKa.setClu {cl x} : InKa AnyTime (setClu s cl x) := hk
protected theorem InKa.setChv {u x} : InKa AnyTime (setChv s u x) := hk
protected theorem InKa.wr32 {o v} : InKa AnyTime (wr32 s o v) := hk
protected theorem InKa.wr64 {o v} : InKa AnyTime (wr64 s o v) := hk
protected theorem InKa.wrBytes {o bs} : InKa AnyTime (wrBytes s o bs) := by
  obtain ⟨r, heq⟩ := wrBytes_only s o bs
  rw [heq]
  exact hk
protected theorem InKa.msiSignal {n} : InKa AnyTime (msiSignal s n) := .ite hk.withDev hk
protected theorem InKa.setBlk {b x} : InKa AnyTime (setBlk s b x) := hk
protected theorem InKa.finish {b code} : InKa AnyTime (finish b code s) := by
  obtain ⟨k, d, heq⟩ := finish_only b code s
  rw [heq]
  exact hk
protected theorem InKa.blockCmd {b ka c body} (hb : InKa AnyTime (body s)) : EndsInKa (blockCmd b ka c s body) := by
  obtain ⟨-, h⟩ | ⟨-, n, h⟩ | ⟨-, -, h⟩ | ⟨-, -, -, h⟩ := blockCmd_cases b ka c s body <;> rw [h]
  · exact hk.next
  · exact InKa.next hk
  · exact InKa.next hk
  · exact hb.next
/-- A command that keep-alive mode refuses (R445) -/
protected theorem InKa.refuses {b c body} : EndsInKa (blockCmd b false c s body) := by
  unfold Machine.blockCmd
  split
  · exact hk.next
  · split
    · exact InKa.next hk
    · exact .pos (by simp [hk.ka]) (InKa.next hk)

/-! ### The functions of Machine/MemOps.lean -/

protected theorem InKa.setFrm {k v} : InKa AnyTime (setFrm s k v) := hk
protected theorem InKa.writeMem {pa bs} : InKa AnyTime (writeMem s pa bs) := hk
protected theorem InKa.zeroMem {pa n} : InKa AnyTime (zeroMem s pa n) := hk
protected theorem InKa.patRoll : InKa AnyTime (patRoll s) := .ite hk.withFrm hk
protected theorem InKa.injectLine {x1} : InKa AnyTime (injectLine s x1) := by
  unfold injectLine
  split
  · exact hk
  · exact hk.withMem
  · exact hk.withMem
protected theorem InKa.readLine {l} : InKa AnyTime (readLine s l) := hk.met (readLine_met s l)
protected theorem InKa.meetRange {pa n} : InKa AnyTime (meetRange s pa n) := hk.met (meetRange_met s pa n)
protected theorem InKa.scrZero {cl fil} : InKa AnyTime (scrZero s cl fil) := by
  unfold scrZero
  split
  · exact hk.withMem
protected theorem InKa.logPt {id e} : InKa AnyTime (logPt s id e) := hk.met (logPt_met s id e)
protected theorem InKa.storeVa {id va bs} : InKa AnyTime (storeVa s id va bs) := hk.met (storeVa_met s id va bs)
protected theorem InKa.setVaNat {id va n x} : InKa AnyTime (setVaNat s id va n x) := hk.storeVa
protected theorem InKa.meetVa {via id va n} : InKa AnyTime (meetVa s via id va n) := hk.met (meetVa_met s via id va n)
protected theorem InKa.loadVa {id va n} : InKa AnyTime (loadVa s id va n).1 := hk.met (loadVa_met s id va n)

/-! ### The functions of Machine/Net.lean -/

protected theorem InKa.count {k f} : InKa AnyTime (count s k f) := .ite hk.withLed hk
protected theorem InKa.countTx {k p n} : InKa AnyTime (countTx s k p n) := hk.count
protected theorem InKa.countRx {k p n} : InKa AnyTime (countRx s k p n) := hk.count
protected theorem InKa.sendNew {p x e turn credit} : InKa AnyTime (sendNew s p x e turn credit) := by
  unfold sendNew
  split
  · exact hk.setPort
  · exact hk.setPort.countTx
protected theorem InKa.servePort {p} : InKa AnyTime (servePort s p) := by
  unfold servePort
  dsimp only
  refine .ite hk ?_
  split
  · exact hk.setPort.countTx
  · exact hk.setPort.countTx
  · split
    · exact hk.sendNew
    · exact hk.setPort
protected theorem InKa.servePorts : InKa AnyTime (servePorts s) := hk.foldl fun _ _ ht => ht.servePort
protected theorem InKa.flushWaits : InKa AnyTime (flushWaits s) := hk.sent (flushWaits_sent s)

/-! ### The functions of Machine/SyncOps.lean -/

protected theorem InKa.emit {g} : InKa AnyTime (emit s g) := hk

/-! ### The functions of Machine/CtxOps.lean -/

protected theorem InKa.raise {h x} : InKa AnyTime (raise s h x) := .ite hk.logRec.enterKeepAlive hk.logRec
protected theorem InKa.raiseSpine {x} : InKa AnyTime (raiseSpine s x) := by
  unfold raiseSpine
  split
  · exact hk.raise
  · exact hk.raise.raise

/-! ### The functions of Machine/Link.lean -/

protected theorem InKa.onPort {p body} (hb : ∀ x, InKa AnyTime s → InKa AnyTime (body x)) :
    EndsInKa (onPort p s body) :=
  .ite .fault (hb _ hk).next
protected theorem InKa.portRec {p code sev} : InKa AnyTime (portRec s p code sev) := hk.logRec
protected theorem InKa.movePort {p x} : InKa AnyTime (movePort s p x) := hk.setPort.refreshRdy
protected theorem InKa.execPctrl {p v} : EndsInKa (execPctrl p v s) :=
  hk.onPort fun _ _ => .ite hk (.ite hk.movePort (.ite hk.setPort hk.movePort))
protected theorem InKa.execPortTrained {p rtt} : EndsInKa (execPortTrained p rtt s) :=
  hk.onPort fun _ _ => .ite hk (.ite hk.movePort.portRec hk.movePort)
protected theorem InKa.execWavelengthFail {p light} : EndsInKa (execWavelengthFail p light s) :=
  hk.onPort fun _ _ => .ite hk (.ite hk.movePort (.ite hk.movePort hk.setPort))
protected theorem InKa.acceptFrame {p x fr} : InKa AnyTime (acceptFrame s p x fr) := hk.setPort.countRx
protected theorem InKa.execLinkFrame {p l} : EndsInKa (execLinkFrame p l s) := by
  unfold execLinkFrame
  dsimp only
  exact hk.onPort fun _ _ =>
    .ite hk (.ite hk.setPort (.ite hk.setPort (.ite hk.acceptFrame (.ite hk.setPort.countRx hk.setPort))))
protected theorem InKa.execNak {p lseq} : EndsInKa (execNak p lseq s) := hk.onPort fun _ _ => .ite hk hk.setPort
protected theorem InKa.beginRetrain {p x} : InKa AnyTime (beginRetrain s p x) := hk.movePort.portRec
protected theorem InKa.execRetrain {p} : EndsInKa (execRetrain p s) := hk.onPort fun _ _ => .ite hk.beginRetrain hk
protected theorem InKa.execRetrainEnd {p ok} : EndsInKa (execRetrainEnd p ok s) :=
  hk.onPort fun _ _ => .ite hk (.ite hk.movePort (.ite hk.beginRetrain hk.movePort.portRec))
protected theorem InKa.execLossOfLight {p} : EndsInKa (execLossOfLight p s) :=
  hk.onPort fun _ _ => .ite hk hk.movePort.portRec
protected theorem InKa.execLightReturn {p} : EndsInKa (execLightReturn p s) :=
  hk.onPort fun _ _ => .ite hk hk.movePort
protected theorem InKa.relayOn {q cls fr} : InKa AnyTime (relayOn s q cls fr) := hk
protected theorem InKa.noRoute : InKa AnyTime (noRoute s) := hk
protected theorem InKa.setThru {p chan r} : InKa AnyTime (setThru s p chan r) := hk
protected theorem InKa.relayHead {p dst seq fr} : InKa AnyTime (relayHead s p dst seq fr) := by
  unfold relayHead
  dsimp only
  split
  · exact .ite hk.relayOn.setThru hk.relayOn
  · exact .ite hk.noRoute.setThru hk.noRoute
protected theorem InKa.relayRest {p x fr} : InKa AnyTime (relayRest s p x fr) := by
  unfold relayRest
  split
  · exact hk
  · dsimp only
    split
    · exact hk.setThru
    · exact .ite hk.relayOn.setThru hk.noRoute.setThru
protected theorem InKa.execRelayFlit {p dst seq fr} : EndsInKa (execRelayFlit p dst seq fr s) :=
  hk.onPort fun _ _ => .ite hk (.ite hk.relayHead hk.relayRest)

/-! ### The functions of Machine/Boot.lean -/

protected theorem InKa.bringUp : InKa AnyTime (bringUp s) :=
  hk.withTime.withSec.withLed.drawn.useDrbg.reseedMask.reseedMask.withBoot.refreshRdy
protected theorem InKa.burnSvn : InKa AnyTime (burnSvn s) := hk
protected theorem InKa.trainPorts : InKa AnyTime (trainPorts s) := hk.foldl fun _ _ ht => .ite ht.setPort ht
protected theorem InKa.sageStarts : InKa AnyTime (sageStarts s) := .ite hk hk.withDev.logSpine
protected theorem InKa.imageStarts {t} : InKa AnyTime (imageStarts s t) :=
  .ite hk.withBoot.sageStarts (.ite hk.trainPorts (.ite hk.withBoot (.ite hk.hedged.withBoot hk)))
protected theorem InKa.acceptImage : InKa AnyTime (acceptImage s) :=
  .ite (.ite hk.burnSvn.withBoot hk.burnSvn.withBoot) hk.withBoot.imageStarts
protected theorem InKa.execBootLoad {w} : EndsInKa (execBootLoad w s) :=
  .ite hk.next (.ite hk.withBoot.next (.ite hk.withBoot.irq.next hk.withBoot.next))
protected theorem InKa.execImageVerifyComplete {rw re} : EndsInKa (execImageVerifyComplete rw re s) :=
  .ite hk.next (InKa.ite hk.withBoot.acceptImage hk.withBoot).irq.refreshRdy.next
protected theorem InKa.execMemoryTrainingComplete : EndsInKa (execMemoryTrainingComplete s) :=
  .ite hk.next hk.withBoot.refreshRdy.next

/-! ### The functions of Machine/GovOps.lean -/

protected theorem InKa.setDebt {g d} : InKa AnyTime (setDebt s g d) := by
  unfold setDebt
  split
  · exact hk.setClu
  · exact hk.withQue
  · exact hk.withQue
  · exact hk.withQue

/-! ### The functions of Machine/ShardOps.lean -/

protected theorem InKa.setHdr {sh off n v} : InKa AnyTime (setHdr s sh off n v) := hk.setVaNat
protected theorem InKa.setStatus {sh b x} : InKa AnyTime (setStatus s sh b x) := hk.setHdr
protected theorem InKa.meetShard {sh} : InKa AnyTime (meetShard s sh) := .ite hk (hk.foldl fun _ _ ht => ht.meetVa)
protected theorem InKa.setJobReg {fil j} : InKa AnyTime (setJobReg s fil j) := hk
protected theorem InKa.setPair {fil p} : InKa AnyTime (setPair s fil p) := hk
protected theorem InKa.sendLovage {dst ctx job eng step data body} :
    InKa AnyTime (sendLovage s dst ctx job eng step data body) :=
  hk.send

/-! ### The functions of Machine/SorrelOps.lean -/

protected theorem InKa.leaveRegion : InKa AnyTime (leaveRegion s) := .ite hk hk.withFrm
protected theorem InKa.setDepth {fil d} : InKa AnyTime (setDepth s fil d) := hk
protected theorem InKa.logDepth {job d} : InKa AnyTime (logDepth s job d) := hk.logSpine
protected theorem InKa.delEntries {p} : InKa AnyTime (delEntries s p) := hk
protected theorem InKa.trimDepth {fil job d} : InKa AnyTime (trimDepth s fil job d) := hk
protected theorem InKa.newDepth {fil d} : InKa AnyTime (newDepth s fil d) := by
  unfold newDepth
  refine .ite hk ?_
  split
  · exact hk.setDepth.trimDepth.logDepth
  · exact hk.setDepth
protected theorem InKa.rechoose : InKa AnyTime (rechoose s) := by
  unfold rechoose
  split
  · exact hk.newDepth.newDepth
protected theorem InKa.mapEnt {fil outer step f} : InKa AnyTime (mapEnt s fil outer step f) := hk
protected theorem InKa.setTold {fil outer n} : InKa AnyTime (setTold s fil outer n) := hk
protected theorem InKa.setBegun {fil b} : InKa AnyTime (setBegun s fil b) := hk
protected theorem InKa.writeIndex {e} : InKa AnyTime (writeIndex s e) := hk
protected theorem InKa.putCopy {fil outer step g data} {t : State} (e : putCopy s fil outer step g data = some t) :
    InKa AnyTime t := by
  unfold putCopy at e
  dsimp only at e
  split at e
  · cases e
  · cases e
    exact hk.writeMem.mapEnt
protected theorem InKa.recopy {fil outer step job g} : InKa AnyTime (recopy fil outer step job s g) := by
  unfold recopy
  refine .ite hk ?_
  split
  · exact hk
  · split
    · next e => exact hk.loadVa.fst e
    · next e => exact (hk.loadVa.fst e).getD fun _ e1 => (hk.loadVa.fst e).putCopy e1
protected theorem InKa.entDamaged {fil outer step} : InKa AnyTime (entDamaged s fil outer step) := by
  unfold entDamaged
  split
  · exact hk
  · dsimp only
    refine .ite ?_ (hk.logSpine.selfOr (·.mapEnt))
    split
    · exact (hk.logSpine.writeIndex.mapEnt.foldl fun _ _ ht => ht.recopy).selfOr (·.mapEnt)
    · exact hk.logSpine.writeIndex.mapEnt.foldl fun _ _ ht => ht.recopy
protected theorem InKa.checkEnt {fil outer step} : InKa AnyTime (checkEnt s fil outer step) := by
  unfold checkEnt
  split
  · exact hk
  · exact ((hk.foldl fun _ _ ht => ht.meetRange).foldl fun _ _ ht => ht.meetRange).selfOr (·.entDamaged)
protected theorem InKa.journalHit {pa} : InKa AnyTime (journalHit s pa) := hk.foldl fun _ _ ht => ht.checkEnt
protected theorem InKa.restoreSegs {sh outer step p} {t : State} (e : restoreSegs s sh outer step p = some t) :
    InKa AnyTime t := by
  unfold restoreSegs at e
  split at e
  · cases e
  · dsimp only at e
    split at e
    · cases e
    · cases e
      exact hk.foldl fun _ _ ht => ht.storeVa

/-! ### The functions of Machine/VoteOps.lean -/

protected theorem InKa.stopCtx {id} : InKa AnyTime (stopCtx s id) :=
  .ite hk (.ite hk.stopCtxOnly.notPresent hk.stopCtxOnly)
protected theorem InKa.raiseAll {h x} : InKa AnyTime (raiseAll s h x) := .ite hk.raise.npAll hk.raise
protected theorem InKa.raiseSpineAll {x} : InKa AnyTime (raiseSpineAll s x) := .ite hk.raiseSpine.npAll hk.raiseSpine

/-! ### The functions of Machine/Yupor.lean -/

protected theorem InKa.progFault {cl fil id code cls addr pc} :
    InKa AnyTime (progFault s cl fil id code cls addr pc) :=
  (InKa.ite (InKa.ite hk.setSlot hk).setCtx (.ite hk.setSlot hk)).logRec.stopCtx
protected theorem InKa.engineFault {cl fil id cls addr pc} : InKa AnyTime (engineFault s cl fil id cls addr pc) :=
  hk.progFault
protected theorem InKa.canIssue {cl fil} : canIssue s cl fil = false := by simp [Machine.canIssue, hk.ka]
protected theorem InKa.issue {sl cls f body} : EndsInKa (issue sl cls f s body) := by
  unfold Machine.issue
  split
  · exact .fault
  · exact .pos (by simp [hk.canIssue]) hk.next

/-! ### The functions of Machine/LineOps.lean -/

protected theorem InKa.slotRuns {cl fil} : slotRuns s cl fil = false := by simp [Machine.slotRuns, hk.ka]

/-! ### The functions of Machine/LossOps.lean -/

protected theorem InKa.haltJob {job step} : InKa AnyTime (haltJob s job step) := by
  unfold haltJob
  have hset := hk.foldl (f := fun st sh => setStatus st sh stHalt true) (xs := shardsOf s job)
    fun _ _ ht => ht.setStatus
  dsimp only
  split
  · exact hset.setJobReg
  · exact hset
protected theorem InKa.pairLost {job} : InKa AnyTime (pairLost s job) :=
  .ite hk (hk.setPair.raiseSpineAll.foldl fun _ _ ht => ht.stopCtx).haltJob
protected theorem InKa.sendFetch {dst sh blk} : InKa AnyTime (sendFetch s dst sh blk) := hk.sendLovage
protected theorem InKa.sendUndoReq {sh step outer} : InKa AnyTime (sendUndoReq s sh step outer) := hk.sendLovage
protected theorem InKa.checkGrad {sh} : InKa AnyTime (checkGrad s sh) := by
  unfold checkGrad
  split
  · exact hk.checkEnt
  · exact hk
protected theorem InKa.regrad {sh g i} : InKa AnyTime (regrad s sh g i) := by
  unfold regrad
  refine .ite (.ite hk.sendFetch hk) ?_
  dsimp only
  split
  · exact hk.checkGrad.storeVa
  · exact hk.checkGrad
protected theorem InKa.fallBack {sh} : InKa AnyTime (fallBack s sh) := .ite hk.sendFetch hk.pairLost
protected theorem InKa.restoreSeg {sh kind step outer} : InKa AnyTime (restoreSeg s sh kind step outer) := by
  unfold restoreSeg
  refine .ite (.ite hk.pairLost hk.withMir.sendUndoReq) ?_
  dsimp only
  split
  · next e => exact (hk.checkEnt.restoreSegs e)
  · exact hk.checkEnt.fallBack
protected theorem InKa.repairElse {sh kind} : InKa AnyTime (repairElse s sh kind) := .ite hk.restoreSeg hk.fallBack
protected theorem InKa.repair {pa} : InKa AnyTime (repair s pa) := by
  unfold repair
  split
  · exact hk
  · exact .ite hk.regrad (.ite hk.sendFetch hk.repairElse)
protected theorem InKa.poisonVote {job e} : InKa AnyTime (poisonVote s job e) := by
  unfold poisonVote
  split
  · exact hk.repair.notPresent
  · exact hk

/-! ### The functions of Machine/BorageOps.lean -/

protected theorem InKa.collFail {c} : InKa AnyTime (collFail s c) := hk

/-! ### The functions of Machine/SyncHost.lean -/

protected theorem InKa.syncCmd {c w cr ka body} (hb : ∀ i o, InKa AnyTime (body i o)) :
    EndsInKa (syncCmd c w s cr ka body) := by
  refine hk.blockCmd ?_
  exact .ite hk.finish (.ite hk.finish (hb _ _))
protected theorem InKa.execSyncRead {w} : EndsInKa (execSyncRead w s) := hk.syncCmd fun _ _ => hk.wrBytes.finish
protected theorem InKa.execSyncQuarantineEnd {i} : EndsInKa (execSyncQuarantineEnd i s) := .ite hk.next hk.setObj.next
protected theorem InKa.deliver {n ty} : EndsInKa (deliver n ty s) := by
  unfold deliver
  split
  · exact hk.next
  · exact .ite hk.next hk.withSyn.applySig.next
protected theorem InKa.execCounterSignal {n} : EndsInKa (execCounterSignal n s) := hk.deliver
protected theorem InKa.execFlagSignal {n} : EndsInKa (execFlagSignal n s) := hk.deliver
protected theorem InKa.execBarrierArrival {n} : EndsInKa (execBarrierArrival n s) := hk.deliver
protected theorem InKa.execRemoteSignal {m} : EndsInKa (execRemoteSignal m s) := by
  unfold execRemoteSignal
  refine .ite hk.next ?_
  split
  · exact hk.staleDrop.next
  · exact .ite hk.foreign.next hk.applySig.next
protected theorem InKa.execBarrierRejection {who} : EndsInKa (execBarrierRejection who s) := hk.haltQueue.next
protected theorem InKa.queueExpired {q} : InKa AnyTime (queueExpired s q) := hk.setQ.haltQueue
protected theorem InKa.slotExpired {cl fil h} : InKa AnyTime (slotExpired s cl fil h) := hk.setSlot.progFault
protected theorem InKa.execWatchdogExpiry {i who} : EndsInKa (execWatchdogExpiry i who s) := by
  unfold execWatchdogExpiry
  dsimp only
  split
  · exact hk.next
  · refine InKa.next ?_
    split
    · exact hk.setObj.withSyn.logRec.slotExpired
    · exact hk.setObj.withSyn.logRec.queueExpired
protected theorem InKa.execLendStart {cl} : EndsInKa (execLendStart cl s) :=
  .ite .fault (.neg (by simp [hk.ka]) hk.next)
protected theorem InKa.settleLent {h p} : InKa AnyTime (settleLent s h p) := hk
protected theorem InKa.execLendGrant {h} : EndsInKa (execLendGrant h s) := (InKa.ite hk.settleLent hk).next
protected theorem InKa.execLendWake {cl} : EndsInKa (execLendWake cl s) := .ite .fault (InKa.ite hk.setClu hk).next
protected theorem InKa.execLendRevoke {h} : EndsInKa (execLendRevoke h s) := hk.settleLent.next

/-! ### The functions of Machine/Borage.lean -/

protected theorem InKa.collCmd {ka c w body} (hb : ∀ i o, InKa AnyTime (body i o)) :
    EndsInKa (collCmd ka c w s body) :=
  hk.blockCmd (.ite hk.finish (hb _ _))
protected theorem InKa.execGroupQuarantineEnd {g} : EndsInKa (execGroupQuarantineEnd g s) :=
  .ite hk.next hk.setGrp.next
protected theorem InKa.execGroupRead {w} : EndsInKa (execGroupRead w s) :=
  hk.collCmd fun _ _ => (.ite hk.finish hk.wrBytes.finish)
protected theorem InKa.execVoteRead {w} : EndsInKa (execVoteRead w s) :=
  hk.collCmd fun _ _ => (.ite hk.finish hk.wrBytes.finish)
protected theorem InKa.borageRuns {fil} : borageRuns s fil = false := by simp [Machine.borageRuns, hk.ka]
protected theorem InKa.execCollectiveStart {x} : EndsInKa (execCollectiveStart x s) := by
  unfold execCollectiveStart
  split
  · exact hk.next
  · exact .pos (by simp [hk.borageRuns]) hk.next
protected theorem InKa.execBorageMessage {m} : EndsInKa (execBorageMessage m s) :=
  .pos (by simp [hk.borageRuns]) hk.next
protected theorem InKa.execMirrorDelivery {m} : EndsInKa (execMirrorDelivery m s) :=
  .pos (by simp [hk.borageRuns]) hk.next
protected theorem InKa.execCollectiveComplete {n} : EndsInKa (execCollectiveComplete n s) := by
  unfold execCollectiveComplete
  split
  · exact hk.next
  · exact .pos (by simp [hk.ka]) hk.next

/-! ### The functions of Machine/Chive.lean -/

protected theorem InKa.chvEnd {u x res} : InKa AnyTime (chvEnd s u x res) := hk
protected theorem InKa.execRun {u w} : EndsInKa (execRun u w s) :=
  .ite .fault (.ite hk.next (.ite hk.setChv.next (.ite hk.withHeld.setChv.next (.ite hk.chvEnd.next hk.setChv.next))))
protected theorem InKa.chvGenerate {u x pay} : InKa AnyTime (chvGenerate s u x pay) := hk
protected theorem InKa.chvVerify {u x all} : InKa AnyTime (chvVerify s u x all) := .ite hk.chvEnd hk.chvEnd
protected theorem InKa.execChiveRunComplete {u} : EndsInKa (execChiveRunComplete u s) :=
  .ite .fault (.ite hk.next (.ite hk.chvEnd.next (.ite hk.meetRange.chvEnd.next (.ite hk.meetRange.chvEnd.next
    (.ite hk.meetRange.chvGenerate.next hk.meetRange.chvVerify.next)))))
protected theorem InKa.execResetAlive {u w} : EndsInKa (execResetAlive u w s) :=
  .ite .fault (.ite hk.next (.ite hk.setChv.next hk.setChv.next))
protected theorem InKa.chvBadOp {u} : InKa AnyTime (chvBadOp u s) := hk

/-! ### The functions of Machine/UpdOps.lean -/

protected theorem InKa.updEngine {c addr} : InKa AnyTime (updEngine s c addr) := .ite hk hk.engineFault
protected theorem InKa.dropUCmd {n} : InKa AnyTime (dropUCmd s n) := hk
protected theorem InKa.shardRuns {sh} : shardRuns s sh = false := by simp [Machine.shardRuns, hk.ka]
protected theorem InKa.noRecord {sh c} : InKa AnyTime (noRecord s sh c) := hk.dropUCmd.updEngine.pairLost

/-! ### The functions of Machine/UpdInstr.lean -/

protected theorem InKa.execUpdExpComplete {n} : EndsInKa (execUpdExpComplete n s) := by
  unfold execUpdExpComplete
  split
  · exact hk.next
  · split
    · exact hk.next
    · exact .pos (by simp [hk.shardRuns]) hk.next

/-! ### The functions of Machine/SiteOps.lean -/

protected theorem InKa.sxOn : sxOn s = false := by simp [Machine.sxOn, hk.ka]

/-! ### The functions of Machine/Rosemary.lean -/

protected theorem InKa.dropJob {fil job} : InKa AnyTime (dropJob s fil job) :=
  .ite hk.rechoose ((hk.setJobReg.delEntries.leaveRegion.withMir.orSelf (·.setPair)).selfOr
    (·.setDepth.logDepth)).setTold.setBegun.rechoose
protected theorem InKa.execUpdRead {w} : EndsInKa (execUpdRead w s) := by
  unfold execUpdRead
  refine hk.blockCmd ?_
  refine .ite hk.finish ?_
  split
  · exact hk.finish
  · exact hk.meetVa.wrBytes.finish
protected theorem InKa.rollFail : InKa AnyTime (rollFail s) := by
  unfold rollFail
  split
  · exact hk
  · exact hk.withUpd.finish.pairLost
protected theorem InKa.cmdTurn {sh c} : cmdTurn s sh c = false := by simp [Machine.cmdTurn, hk.shardRuns]
protected theorem InKa.phaseTurn {sh c} : phaseTurn s sh c = false := by simp [Machine.phaseTurn, hk.cmdTurn]
protected theorem InKa.onCmd {n p k} (hp : ∀ c sh, p c sh = false) : EndsInKa (onCmd s n p k) := by
  unfold Machine.onCmd
  split
  · exact hk.next
  · split
    · exact hk.next
    · exact InKa.next (.neg (by simp [hp]) hk)
protected theorem InKa.execPhaseAStart {p} : EndsInKa (execPhaseAStart p s) :=
  hk.onCmd fun _ _ => by simp [hk.phaseTurn]
protected theorem InKa.execPhaseAComplete {n} : EndsInKa (execPhaseAComplete n s) :=
  hk.onCmd fun _ _ => by simp [hk.shardRuns]
protected theorem InKa.execPhaseBStart {p} : EndsInKa (execPhaseBStart p s) :=
  hk.onCmd fun _ _ => by simp [hk.phaseTurn]
protected theorem InKa.execPhaseBComplete {n} : EndsInKa (execPhaseBComplete n s) :=
  hk.onCmd fun _ _ => by simp [hk.shardRuns]
protected theorem InKa.execOuterEncodeComplete {n} : EndsInKa (execOuterEncodeComplete n s) :=
  hk.onCmd fun _ _ => by simp [hk.cmdTurn]
protected theorem InKa.execOuterMergeComplete {n} : EndsInKa (execOuterMergeComplete n s) :=
  hk.onCmd fun _ _ => by simp [hk.cmdTurn]

/-! ### The functions of Machine/PairOps.lean -/

protected theorem InKa.downPair {fil} : InKa AnyTime (downPair s fil) :=
  .ite hk (.ite hk.setPair.logSpine.finish hk.setPair.logSpine)
protected theorem InKa.downWith {p q} : InKa AnyTime (downWith s p q) := hk.foldl fun _ _ ht => .ite ht.downPair ht
protected theorem InKa.promoFail : InKa AnyTime (promoFail s) := by
  unfold promoFail
  split
  · exact hk
  · exact hk.withMir.finish.logSpine.pairLost

/-! ### The functions of Machine/Transport.lean -/

protected theorem InKa.dropConn {c} : InKa AnyTime (dropConn s c) := hk
protected theorem InKa.lostColl {grp gen step attempt seq} : InKa AnyTime (lostColl s grp gen step attempt seq) := by
  unfold lostColl
  split
  · exact hk.collFail
  · exact hk
protected theorem InKa.lost {o} : InKa AnyTime (lost s o) := by
  unfold lost
  split
  · exact .ite hk.lostColl hk
  · exact hk.lostColl
  · exact .ite hk.downWith hk
protected theorem InKa.loseFrom {c p} : InKa AnyTime (loseFrom s c p) :=
  .ite hk (hk.putConn.foldl fun _ _ ht => ht.lost).flushWaits
protected theorem InKa.killConn {c} : InKa AnyTime (killConn s c) :=
  (hk.dropConn.withFab.foldl fun _ _ ht => ht.lost).flushWaits
protected theorem InKa.epochDrop {m} : InKa AnyTime (epochDrop s m) := hk.withFab.send
protected theorem InKa.tagFail {m} : InKa AnyTime (tagFail s m) :=
  .ite hk.withFab.logSpine.killConn hk.withFab.putConn
protected theorem InKa.execTransportMessage {m} : EndsInKa (execTransportMessage m s) := by
  unfold execTransportMessage
  refine .ite hk.next ?_
  refine .ite hk.withFab.next ?_
  refine .ite hk.withFab.next ?_
  dsimp only
  split
  · exact hk.epochDrop.next
  · exact hk.next
  · exact .ite hk.tagFail.next (.ite hk.next (InKa.ite hk.useSess hk).putConn.next)
protected theorem InKa.execAckTimer {c} : EndsInKa (execAckTimer c s) := by
  unfold execAckTimer
  split
  · exact hk.next
  · exact .ite hk.next hk.putConn.withFab.transmit.next
protected theorem InKa.execAck {src cls seq} : EndsInKa (execAck src cls seq s) := by
  unfold execAck
  split
  · exact hk.next
  · exact .ite hk.next hk.putConn.flushWaits.next
protected theorem InKa.execRetransmitTimer {c} : EndsInKa (execRetransmitTimer c s) := by
  unfold execRetransmitTimer
  split
  · exact hk.next
  · exact .ite hk.next (hk.putConn.foldl fun _ _ ht => ht.transmit).next
protected theorem InKa.execMessageAgeExpiry {c seq} : EndsInKa (execMessageAgeExpiry c seq s) := by
  unfold execMessageAgeExpiry
  split
  · exact hk.next
  · exact .ite (.ite hk.loseFrom.next hk.next) (.ite hk.putConn.withFab.next hk.next)
protected theorem InKa.execConnectionRelease {c} : EndsInKa (execConnectionRelease c s) := by
  unfold execConnectionRelease
  split
  · exact hk.next
  · exact .ite hk.next hk.dropConn.next
protected theorem InKa.execResync {src cls epoch next} : EndsInKa (execResync src cls epoch next s) := by
  unfold execResync
  split
  · exact hk.next
  · exact .ite hk.next hk.putConn.loseFrom.next
protected theorem InKa.execSessionWaitExpiry {k} : EndsInKa (execSessionWaitExpiry k s) := by
  unfold execSessionWaitExpiry
  split
  · exact hk.next
  · exact .ite hk.next hk.withFab.lost.next

/-! ### The functions of Machine/Vote.lean -/

protected theorem InKa.execVoteOpen {job} : EndsInKa (execVoteOpen job s) := by
  unfold execVoteOpen
  dsimp only
  split
  · exact hk.next
  · exact .ite hk.next (.pos (by simp [hk.ka]) hk.notPresent.next)
protected theorem InKa.recoveryDecide {g v} : InKa AnyTime (recoveryDecide s g v) :=
  (hk.foldl fun _ _ ht => ht.sendVote).applyOutcome
protected theorem InKa.recoveryMove {g v} : InKa AnyTime (recoveryMove s g v) := .ite hk.recoveryDecide hk.putVote
protected theorem InKa.execRecoveryRootWait {job} : EndsInKa (execRecoveryRootWait job s) := by
  unfold execRecoveryRootWait
  split
  · split
    · exact hk.next
    · refine .ite hk.next ?_
      dsimp only
      refine .ite (hk.setLastWord.foldl fun _ _ ht => ht.sendVote).recoveryMove.next ?_
      exact hk.setLastWord.sendVote.putVote.next
  · exact hk.next
protected theorem InKa.execVoteWord {src w} : EndsInKa (execVoteWord src w s) := by
  unfold execVoteWord
  split
  · exact hk.next
  · split
    · exact hk.next
    · exact .ite hk.next hk.sendVote.next
    · exact .ite hk.next (.ite (.ite hk.next hk.sendVote.next) (.ite hk.recoveryMove.next hk.voteMove.next))
protected theorem InKa.execVoteDeadline {job} : EndsInKa (execVoteDeadline job s) := by
  unfold execVoteDeadline
  split
  · exact .ite hk.next (.ite hk.rootDecide.next hk.forwardUp.next)
  · exact hk.next
protected theorem InKa.execAbsenceNotice {job step src} : EndsInKa (execAbsenceNotice job step src s) := by
  unfold execAbsenceNotice
  split
  · exact hk.next
  · exact .ite hk.next hk.voteMove.next
protected theorem InKa.execVoteOutcome {m} : EndsInKa (execVoteOutcome m s) := by
  unfold execVoteOutcome
  split
  · exact hk.next
  · exact .ite hk.next (.ite (hk.foldl fun _ _ ht => ht.sendVote).applyOutcome.next hk.passDown.applyOutcome.next)
protected theorem InKa.voteAbsent {p job} : InKa AnyTime (voteAbsent s p job) := by
  unfold voteAbsent
  split
  · exact hk
  · split
    · exact hk
    · dsimp only
      refine .ite hk ?_
      refine .ite hk.putVote ?_
      refine .ite ?_ (.ite hk.voteMove hk.sendVote)
      split
      · exact hk.recoveryMove
      · exact hk

/-! ### The functions of Machine/Heart.lean -/

protected theorem InKa.execHeartbeatSend : EndsInKa (execHeartbeatSend s) :=
  .ite hk.next (hk.withFab.foldl fun _ _ ht => ht.send).next
protected theorem InKa.partnerRec {code p} : InKa AnyTime (partnerRec s code p) := hk.logSpine
protected theorem InKa.lostOwner {p} : InKa AnyTime (lostOwner s p) := by
  unfold lostOwner
  dsimp only
  generalize hs : List.foldl (fun st (x : Fix) => pairLost st x.job) _ _ = s0
  have h0 : InKa AnyTime s0 := hs ▸ (InKa.withMir hk).foldl fun _ _ ht => ht.pairLost
  generalize ht : List.foldl _ s0 _ = t
  have h1 : InKa AnyTime t := by
    refine ht ▸ h0.foldl fun u c hu => ?_
    split
    · exact .ite hu.noRecord hu
    · exact hu
  split
  · exact h1
  · exact .ite h1.rollFail h1
protected theorem InKa.memberLost {p fresh} : InKa AnyTime (memberLost s p fresh) :=
  (InKa.ite hk.downWith.promoFail hk.downWith).lostOwner
protected theorem InKa.execHeartbeat {src b status numRev} : EndsInKa (execHeartbeat src b status numRev s) := by
  unfold execHeartbeat
  split
  · exact hk.next
  · exact .ite hk.next ((hk.withFab.orSelf (·.partnerRec)).orSelf (·.memberLost)).next
protected theorem InKa.closeSess {p} : InKa AnyTime (closeSess s p) := hk
protected theorem InKa.declareAbsent {p} : InKa AnyTime (declareAbsent s p) :=
  (hk.partnerRec.memberLost.foldl fun _ _ ht => ht.voteAbsent).closeSess
protected theorem InKa.execAbsenceCheck {k} : EndsInKa (execAbsenceCheck k s) := by
  unfold execAbsenceCheck
  split
  · exact hk.next
  · exact .ite hk.next (InKa.ite hk.withFab.declareAbsent hk.withFab).next
protected theorem InKa.execFabLatLowerEffect : EndsInKa (execFabLatLowerEffect s) := by
  unfold execFabLatLowerEffect
  split
  · exact hk.next
  · exact .ite hk.next hk.withFab.next
protected theorem InKa.execEpochChange : EndsInKa (execEpochChange s) :=
  .ite hk.next hk.withFab.withSec.flushWaits.next
protected theorem InKa.dropOld : InKa AnyTime (dropOld s) := hk
protected theorem InKa.execEpochKeyRetire : EndsInKa (execEpochKeyRetire s) := .ite hk.next hk.withSec.dropOld.next

/-! ### The functions of Machine/Sessions.lean -/

protected theorem InKa.execDrbgReseed {h} : EndsInKa (execDrbgReseed h s) := .ite hk.next hk.withSec.next
protected theorem InKa.execMaskReseed {h} : EndsInKa (execMaskReseed h s) := .ite hk.next hk.reseedMask.next
protected theorem InKa.execHealthTestFail {h} : EndsInKa (execHealthTestFail h s) :=
  .ite hk.next (InKa.ite hk.withSec.raiseAll hk.withSec).refreshRdy.next
protected theorem InKa.formKeys {x e} : InKa AnyTime (formKeys s x e) := hk.foldl fun _ _ ht => .ite ht ht.withSec
protected theorem InKa.execEpochKeyForm : EndsInKa (execEpochKeyForm s) :=
  .ite hk.next (hk.foldl fun _ _ ht => ht.formKeys).next
protected theorem InKa.dropAtt {p} : InKa AnyTime (dropAtt s p) := hk
protected theorem InKa.sessFail {p} : InKa AnyTime (sessFail s p) := hk.withSec.drawn.logSpine.putAtt
protected theorem InKa.openSess {p first th srk} : InKa AnyTime (openSess s p first th srk) :=
  hk.dropAtt.withSec.formKeys.formKeys.flushWaits
protected theorem InKa.answerInit {m} : InKa AnyTime (answerInit s m) :=
  hk.hedged.hedged.hedged.hedged.putAtt.sendSess
protected theorem InKa.execSInit {m} : EndsInKa (execSInit m s) := by
  have hroom : InKa AnyTime ((sessRoom s m.src).elim s fun t => answerInit t m) :=
    hk.elim fun _ e => (hk.sessRoom e).answerInit
  unfold execSInit
  refine .ite hk.next ?_
  split
  · exact .ite hk.next (.ite hk.answerInit.next hroom.next)
  · exact hroom.next
protected theorem InKa.sendFin {p th sig} : InKa AnyTime (sendFin s p th sig) := hk.hedged.sendSess
protected theorem InKa.execSResp {src eph ct nonce cert} : EndsInKa (execSResp src eph ct nonce cert s) := by
  unfold execSResp
  split
  · exact hk.next
  · exact .ite hk.next (.ite hk.sessFail.next hk.sendFin.openSess.next)
protected theorem InKa.execSFin {src first head keyId ed ml} : EndsInKa (execSFin src first head keyId ed ml s) := by
  unfold execSFin
  split
  · exact hk.next
  · exact .ite hk.next (.ite hk.sessFail.next hk.openSess.next)
protected theorem InKa.execSessionRetry {dst} : EndsInKa (execSessionRetry dst s) := by
  unfold execSessionRetry
  split
  · exact hk.next
  · split
    · exact hk.next
    · refine .ite hk.next ?_
      split
      · exact hk.next
      · next e => exact (hk.sessRoom e).startAtt.next
protected theorem InKa.execSessionReplace {dst} : EndsInKa (execSessionReplace dst s) := by
  unfold execSessionReplace
  split
  · exact hk.next
  · exact .ite hk.next (hk.elim fun _ e => (hk.sessRoom e).startAtt).next

/-! ### The functions of Machine/Cipher.lean -/

protected theorem InKa.setHost {k v} : InKa AnyTime (setHost s k v) := hk
protected theorem InKa.execSlotErase {k} : EndsInKa (execSlotErase k s) := by
  unfold execSlotErase
  split
  · exact hk.next
  · exact .ite hk.next hk.withSec.setHost.next
protected theorem InKa.execCqrWr {v} : EndsInKa (execCqrWr v s) := .pos (by simp [hk.ka]) hk.next
protected theorem InKa.creqMeet {r} : InKa AnyTime (creqMeet s r) :=
  hk.meetRange.meetRange.foldl fun _ _ ht => ht.readLine
protected theorem InKa.putStatus {i ok unt err} : InKa AnyTime (putStatus s i ok unt err) := hk.writeMem.withSec.irq
protected theorem InKa.creqPoison {i r key aad} : InKa AnyTime (creqPoison s i r key aad) :=
  (InKa.ite hk hk.writeMem).putStatus
protected theorem InKa.creqRun {i r key} : InKa AnyTime (creqRun s i r key) :=
  .ite hk.creqPoison (.ite hk.writeMem.writeMem.putStatus (.ite hk.writeMem.putStatus hk.writeMem.logRec.putStatus))
protected theorem InKa.execCipherRequestComplete {i} : EndsInKa (execCipherRequestComplete i s) := by
  unfold execCipherRequestComplete
  dsimp only
  refine .ite hk.next ?_
  refine .ite hk.putStatus.next ?_
  split
  · exact hk.putStatus.next
  · exact hk.useMask.creqMeet.creqRun.next

/-! ### The functions of Machine/MemCmds.lean -/

protected theorem InKa.dropEntries {p} : InKa AnyTime (dropEntries s p) := hk
protected theorem InKa.frameFree {k} : InKa AnyTime (frameFree s k) :=
  .ite hk.zeroMem.withFrm.rechoose.refreshRdy hk.zeroMem.refreshRdy
protected theorem InKa.execFrameScrubbed {k} : EndsInKa (execFrameScrubbed k s) :=
  .ite .fault (.ite hk.next (.ite hk.withFrm.frameFree.next (.ite hk.next
    (.ite hk.setFrm.frameFree.next hk.withFrm.frameFree.next))))
protected theorem InKa.execInvalidationComplete : EndsInKa (execInvalidationComplete s) := by
  unfold execInvalidationComplete
  split
  · exact hk.next
  · exact hk.dropEntries.withMmu.finish.next
protected theorem InKa.execTableWalk {sl va a l} : EndsInKa (execTableWalk sl va a l s) := by
  unfold execTableWalk
  refine .ite .fault ?_
  split
  · exact hk.next
  · exact .pos (by simp [hk.ka]) hk.next
protected theorem InKa.setPat {u x} : InKa AnyTime (setPat s u x) := hk
protected theorem InKa.patEnd {u} : InKa AnyTime (patEnd s u) :=
  .ite (hk.logRec.setPat.foldl fun _ _ ht => ht.setPat).withFrm hk.logRec.setPat
protected theorem InKa.patrolBad {pa} : InKa AnyTime (patrolBad s pa) := hk.repair.journalHit
protected theorem InKa.execPatrolRead {pa l u last} : EndsInKa (execPatrolRead pa l u last s) :=
  .ite .fault (.ite hk.next ((hk.patRoll.injectLine.readLine.setPat.orSelf (·.patrolBad)).orSelf (·.patEnd)).next)
protected theorem InKa.execPatrolCtrl {v} : EndsInKa (execPatrolCtrl v s) := .ite hk.next hk.wr32.refreshRdy.next
protected theorem InKa.execGovernorDebtCleared {g} : EndsInKa (execGovernorDebtCleared g s) :=
  (InKa.ite hk.setDebt hk).next

/-! ### The functions of Machine/Contexts.lean -/

protected theorem InKa.ctxCmdKa {ka c w body} (hb : ∀ i o, InKa AnyTime (body i o)) :
    EndsInKa (ctxCmdKa ka c w s body) :=
  hk.blockCmd (.ite hk.finish (hb _ _))
protected theorem InKa.execCtxRead {w} : EndsInKa (execCtxRead w s) := hk.ctxCmdKa fun _ _ => hk.wrBytes.finish
protected theorem InKa.zeroSlot {cl fil} : InKa AnyTime (zeroSlot s cl fil) := hk.scrZero.updSlot
protected theorem InKa.bound {c} : InKa AnyTime (bound s c) := (InKa.ite hk hk.setClu).updSlot
protected theorem InKa.execBindComplete : EndsInKa (execBindComplete s) :=
  .ite hk.next (((hk.foldl fun _ _ ht => ht.bound).foldl fun _ _ ht => ht.zeroSlot).foldl
    fun _ _ ht => ht.updSlot).finish.next
protected theorem InKa.execUnbindComplete : EndsInKa (execUnbindComplete s) :=
  .ite hk.next (hk.foldl fun _ _ ht => ht.updSlot).finish.next

/-! ### The functions of Machine/Flr.lean -/

protected theorem InKa.resetConfig : InKa AnyTime (resetConfig s) := hk
protected theorem InKa.flr {kind} : InKa AnyTime (flr s kind) :=
  (hk.foldl fun _ _ ht => ht.haltQueue).withLed.wr64.resetConfig.withDev.logSpine
protected theorem InKa.flrSettle : InKa AnyTime (flrSettle s) := by
  unfold flrSettle
  split
  · exact hk
  · exact .ite hk hk.withDev.flr
protected theorem InKa.flrSnapGone : InKa AnyTime (flrSnapGone s) := hk

/-! ### The functions of Machine/Dma.lean -/

protected theorem InKa.execDmaComplete {n u l} : EndsInKa (execDmaComplete n u l s) := by
  unfold execDmaComplete
  split
  · exact hk.next
  · exact .pos (by simp [hk.slotRuns]) hk.next

/-! ### The functions of Machine/FabRegs.lean -/

protected theorem InKa.hostCmd {b c body} (hb : InKa AnyTime body) : InKa AnyTime (hostCmd b c s body) := .ite hb hk
protected theorem InKa.loadCmd {c w n body} (hb : ∀ bs t, body s bs = some t → InKa AnyTime t) :
    EndsInKa (loadCmd c w s n body) := by
  refine hk.blockCmd (.ite hk.finish (.ite hk.finish (hk.hostCmd ?_)))
  split
  · next t e => exact (hb _ t e).finish
  · exact hk.finish
protected theorem InKa.execLoadRoutes {w} : EndsInKa (execLoadRoutes w s) := by
  refine hk.loadCmd fun bs t e => ?_
  dsimp only at e
  split at e <;> cases e
  exact hk
protected theorem InKa.execLoadSites {w} : EndsInKa (execLoadSites w s) := by
  refine hk.loadCmd fun bs t e => ?_
  dsimp only at e
  split at e <;> cases e
  exact hk
protected theorem InKa.execLoadWatch {w} : EndsInKa (execLoadWatch w s) := by
  refine hk.loadCmd fun bs t e => ?_
  dsimp only at e
  split at e <;> cases e
  exact hk
protected theorem InKa.execLoadEnc {w} : EndsInKa (execLoadEnc w s) := by
  refine hk.loadCmd fun bs t e => ?_
  obtain rfl := Option.some.inj e
  exact hk.withFab
protected theorem InKa.execReadRoute {w} : EndsInKa (execReadRoute w s) :=
  hk.blockCmd (.ite hk.finish hk.setBlk.finish)
protected theorem InKa.execFabId {v} : EndsInKa (execFabId v s) := .ite hk.next hk.withFab.refreshRdy.next
protected theorem InKa.execFabLat {v} : EndsInKa (execFabLat v s) :=
  .ite hk.next (.ite hk.withFab.next hk.withFab.next)
protected theorem InKa.execEncCtrl {v} : EndsInKa (execEncCtrl v s) := .ite hk.next hk.withFab.next
protected theorem InKa.execSxCtrl {v} : EndsInKa (execSxCtrl v s) := .ite hk.next hk.withSx.refreshRdy.next
protected theorem InKa.execSxH {v} : EndsInKa (execSxH v s) := .ite hk.next hk.withSx.next

/-! ### The functions of Machine/Thyme.lean -/

omit hk in
theorem moveHeld_err (d b : Int) : (moveHeld s d b).err = s.err :=
  (State.setPwr_err _ _).trans <| (State.setDma_err _ _).trans <| (State.setLink_err _ _).trans <|
    (State.setLead_err _ _).trans <| (State.setFrm_err _ _).trans <| (State.setClu_err _ _).trans <|
    (State.setJrn_err _ _).trans <| (State.setSlot_err _ _).trans <| (State.setCol_err _ _).trans <|
    (State.setSyn_err _ _).trans <| State.setQue_err _ _
protected theorem InKa.moveHeld {d b} : InKa AnyTime (moveHeld s d b) :=
  hk.of_err (moveHeld_err d b)
protected theorem InKa.moveFab {d b} : InKa AnyTime (moveFab s d b) := hk
protected theorem InKa.armWaits : InKa AnyTime (armWaits s) := by
  unfold armWaits
  dsimp only
  refine hk.withSyn.foldl fun t x ht => ?_
  refine ht.foldl fun t x ht => ?_
  split
  · exact ht.setQ
  · exact ht
protected theorem InKa.lockAt {ft} : InKa AnyTime (lockAt s ft) :=
  (hk.moveHeld.moveFab.withTime.withLed.withFab.selfOr (·.armWaits)).flushWaits.refreshRdy
protected theorem InKa.countExchange {p} : InKa AnyTime (countExchange s p) := hk.setPort.countTx.countRx
protected theorem InKa.freshUnc : InKa AnyTime (freshUnc s) := hk
protected theorem InKa.execTimeExchange {p hops t1 t2 t3 t4} : EndsInKa (execTimeExchange p hops t1 t2 t3 t4 s) :=
  hk.onPort fun _ _ => .ite hk (.ite hk.countExchange (hk.setPort.countExchange.selfOr fun h =>
    .ite h.withTime.withTime.freshUnc h.withTime.withTime))
protected theorem InKa.execFirstLock : EndsInKa (execFirstLock s) := by
  unfold execFirstLock
  refine .ite hk.next ?_
  split
  · exact hk.lockAt.freshUnc.next
  · exact hk.next
protected theorem InKa.execPpsEdge : EndsInKa (execPpsEdge s) :=
  .ite hk.next (.ite (.ite hk.withTime.lockAt.freshUnc.next hk.next) (.ite hk.next hk.withTime.next))
protected theorem InKa.timeRec {code} : InKa AnyTime (timeRec s code) := hk.logSpine
protected theorem InKa.enterHoldover : InKa AnyTime (enterHoldover s) := hk.withTime.timeRec
protected theorem InKa.execHoldoverEntry : EndsInKa (execHoldoverEntry s) := .ite hk.next hk.enterHoldover.next
protected theorem InKa.execHoldoverExit : EndsInKa (execHoldoverExit s) :=
  .ite hk.next (.ite hk.withTime.next (.ite hk.next (.ite hk.next hk.withTime.next)))
protected theorem InKa.execTimeDrift : EndsInKa (execTimeDrift s) := .ite hk.next hk.withTime.timeRec.next
protected theorem InKa.execRef10mLockLoss : EndsInKa (execRef10mLockLoss s) :=
  .ite hk.next (InKa.ite hk.withTime.enterHoldover hk.withTime).next
protected theorem InKa.execPpsEdgesMissed : EndsInKa (execPpsEdgesMissed s) :=
  .ite hk.next (InKa.ite hk.withTime hk.withTime.enterHoldover).next

/-! ### The functions of Machine/LovOps.lean -/

protected theorem InKa.lovForeign : InKa AnyTime (lovForeign s) := hk
protected theorem InKa.fromPartner {job src k} : EndsInKa (fromPartner s job src k) := by
  unfold Machine.fromPartner
  refine .ite hk.next ?_
  split
  · exact InKa.next hk
  · exact InKa.next (.pos hk.ka hk)
protected theorem InKa.fromPair {m k} : EndsInKa (fromPair s m k) := by
  unfold Machine.fromPair
  refine .ite hk.next ?_
  split
  · exact InKa.next hk
  · exact InKa.next (.pos hk.ka hk)
protected theorem InKa.sendBlocks {dst sh undo step kind first data hdr last} :
    InKa AnyTime (sendBlocks s dst sh undo step kind first data hdr last) :=
  hk.foldl fun _ _ ht => ht.sendLovage
protected theorem InKa.sendNone {dst sh undo step} : InKa AnyTime (sendNone s dst sh undo step) := hk.sendBlocks

/-! ### The functions of Machine/Lead.lean -/

protected theorem InKa.execRecordHandlingEnd {h} : EndsInKa (execRecordHandlingEnd h s) := by
  unfold execRecordHandlingEnd
  split
  · exact hk.next
  · exact .pos (by simp [hk.ka]) hk.next
protected theorem InKa.execErrTail {h v} : EndsInKa (execErrTail h v s) :=
  .ite hk.next (InKa.next hk)
protected theorem InKa.putBack {l} : InKa AnyTime (putBack l s) := hk.foldl fun _ _ ht => ht.storeVa
protected theorem InKa.undoRollback : InKa AnyTime (undoRollback s) := (InKa.ite hk.putBack hk).withUpd
protected theorem InKa.undoPairing : InKa AnyTime (undoPairing s) := by
  unfold undoPairing
  dsimp only
  split
  · exact hk.withMir
  · exact (InKa.ite hk.putBack hk.putBack.withUpd.dropJob).withMir
protected theorem InKa.abortCmds : InKa AnyTime (abortCmds s) := hk.withMmu.withSlot.withUpd.undoRollback.undoPairing
protected theorem InKa.dropRuns : InKa AnyTime (dropRuns s) := hk.foldl fun _ _ ht => .ite ht.setChv ht
protected theorem InKa.dropBusy : InKa AnyTime (dropBusy s) :=
  hk.withLink.abortCmds.dropRuns.foldl fun _ _ ht => .ite ht.finish ht
protected theorem InKa.leadChange {old} : InKa AnyTime (leadChange s old) :=
  .ite (InKa.ite hk hk.logSpine.irq).dropBusy (.ite hk hk.logSpine.irq)
protected theorem InKa.leadLost {h} : InKa AnyTime (leadLost s h) := .ite hk.withLead.raiseAll hk
protected theorem InKa.execLeaseClaim {h} : EndsInKa (execLeaseClaim h s) :=
  .ite hk.next (.ite hk.withLead.next hk.withLead.leadChange.leadLost.refreshRdy.next)
protected theorem InKa.execLeaseRenew {h} : EndsInKa (execLeaseRenew h s) :=
  have hlost := hk.orSelf (·.leadLost)
  .ite hlost.next (.ite hlost.withLead.next hlost.withLead.next)
protected theorem InKa.execLeaseExpiry : EndsInKa (execLeaseExpiry s) := by
  unfold execLeaseExpiry
  split
  · exact hk.next
  · exact .ite hk.next hk.withLead.refreshRdy.next
protected theorem InKa.spineLost : InKa AnyTime (spineLost s) := hk.logRec.logRec.withLead.goKeepAlive
protected theorem InKa.execSpineUnreachableStop {h} : EndsInKa (execSpineUnreachableStop h s) :=
  .ite hk.next (InKa.ite hk.withLead.refreshRdy.spineLost hk.withLead.refreshRdy).next
protected theorem InKa.leadForce {v} {t : State} (e : leadForce v s = some t) : InKa AnyTime t := by
  unfold leadForce at e
  dsimp only at e
  split at e
  · cases e
  · cases e
    exact hk.withLead.leadChange.refreshRdy
protected theorem InKa.execLeadForce {v} : EndsInKa (execLeadForce v s) :=
  .ite hk.next (hk.getD fun _ e => hk.leadForce e).next

/-! ### The functions of Machine/Marjoram.lean -/

protected theorem InKa.execPriUnitsTick : EndsInKa (execPriUnitsTick s) :=
  .ite hk.next (hk.withLed.foldl fun _ _ ht => .ite ht ht.count).next
protected theorem InKa.execFilUnitsTick {cl} : EndsInKa (execFilUnitsTick cl s) := by
  unfold execFilUnitsTick
  refine .ite .fault ?_
  dsimp only
  split
  · exact hk.next
  · exact .ite hk.next hk.setSlot.count.next
protected theorem InKa.execFrameBeatTick : EndsInKa (execFrameBeatTick s) :=
  .ite hk.next (hk.withLed.foldl fun _ _ ht => ht.count).next
protected theorem InKa.dropIdleFil : InKa AnyTime (dropIdleFil s) := hk
protected theorem InKa.execIntervalClose : EndsInKa (execIntervalClose s) :=
  .ite hk.next (.ite hk.withLed.next (.ite hk.withLed.next hk.dropIdleFil.withLed.next))
protected theorem InKa.execSnapshotWritten : EndsInKa (execSnapshotWritten s) := by
  unfold execSnapshotWritten
  split
  · exact hk.next
  · exact .ite hk.next hk.hedged.writeMem.withDev.withLed.irq.flrSettle.next
protected theorem InKa.execLedBase {v} : EndsInKa (execLedBase v s) := .ite hk.next hk.withLed.next
protected theorem InKa.execLedSlots {v} : EndsInKa (execLedSlots v s) := .ite hk.next hk.withLed.next
protected theorem InKa.execLedTail {v} : EndsInKa (execLedTail v s) := .ite hk.next hk.withLed.next
protected theorem InKa.execLedCtrl {v} : EndsInKa (execLedCtrl v s) := .ite hk.next hk.withLed.next

/-! ### The functions of Machine/Resets.lean -/

protected theorem InKa.flrStart {kind} : InKa AnyTime (flrStart s kind) := hk.withDev.flrSettle

/-! ### The functions of Machine/Power.lean -/

protected theorem InKa.setPwrOn {f} : InKa AnyTime (setPwrOn s f) := hk
protected theorem InKa.railTick : InKa AnyTime (railTick s) := .ite (.ite hk.setPwrOn hk) (.ite hk hk.setPwrOn)
protected theorem InKa.execPowerStageStart : EndsInKa (execPowerStageStart s) := .ite hk.next hk.drawn.setPwrOn.next
protected theorem InKa.execPwrgdAssert : EndsInKa (execPwrgdAssert s) := .ite hk.next hk.setPwrOn.next
protected theorem InKa.execOvervoltageRestart {vin} : EndsInKa (execOvervoltageRestart vin s) :=
  .ite hk.next hk.setPwrOn.next
protected theorem InKa.execInputLowEntry {vin} : EndsInKa (execInputLowEntry vin s) :=
  .ite hk.next (InKa.ite hk.setPwrOn.logSpine hk.setPwrOn).next
protected theorem InKa.execResetInputRelease : EndsInKa (execResetInputRelease s) :=
  .ite hk.next (.ite hk.setPwrOn.bringUp.next hk.setPwrOn.next)
protected theorem InKa.execResetReleaseHoldEnd : EndsInKa (execResetReleaseHoldEnd s) :=
  .ite hk.next (InKa.ite hk.setPwrOn hk.setPwrOn.bringUp).next
protected theorem InKa.execPwrLimit {v} : EndsInKa (execPwrLimit v s) := .ite hk.next hk.wr32.next
protected theorem InKa.execBudgetPeriod {avg other} : EndsInKa (execBudgetPeriod avg other s) :=
  .ite hk.next hk.withPwr.withPwr.next
protected theorem InKa.setRate {h k} : InKa AnyTime (setRate s h k) := .ite hk.setPwrOn.setPwrOn.logSpine hk.setPwrOn
protected theorem InKa.throttle {h proj fill} : InKa AnyTime (throttle s h proj fill) := hk.setPwrOn.setRate
protected theorem InKa.execThrottleTick {projW projE fillW fillE} :
    EndsInKa (execThrottleTick projW projE fillW fillE s) :=
  .ite hk.next hk.setPwrOn.throttle.throttle.next
protected theorem InKa.execFastLoopTrip {avg} : EndsInKa (execFastLoopTrip avg s) :=
  .ite hk.next hk.setPwrOn.settleLent.settleLent.logSpine.setRate.setRate.next
protected theorem InKa.execFastLoopRelease : EndsInKa (execFastLoopRelease s) := .ite hk.next hk.setPwrOn.next
protected theorem InKa.execThermalSample {t} (ht : tripped t = false) : EndsInKa (execThermalSample t s) := by
  unfold execThermalSample
  refine .neg (by simp [ht]) (.ite hk.next ?_)
  exact ((InKa.ite hk.setPwrOn.logSpine hk.setPwrOn).foldl fun _ _ h => h.raiseSpineAll).next
protected theorem InKa.execThermalCapStep {h above sensor} : EndsInKa (execThermalCapStep h above sensor s) :=
  .ite hk.next ((hk.setPwrOn.orSelf (·.logSpine)).orSelf (·.setPwrOn.setRate)).next
protected theorem InKa.execSensorFault {sensor} : EndsInKa (execSensorFault sensor s) :=
  .ite hk.next hk.setPwrOn.logSpine.setRate.setRate.next

/-! ### The functions of Machine/Spdm.lean -/

protected theorem InKa.doe {bs} : InKa AnyTime (doe s bs) := .ite hk.withSec.withDev hk.withDev
protected theorem InKa.spdmErr {e} : InKa AnyTime (spdmErr s e) := hk.doe
protected theorem InKa.spdmReq {ok body} (hb : InKa AnyTime body) : EndsInKa (spdmReq s ok body) :=
  .ite hk.next (.ite hk.spdmErr.next (.ite hk.spdmErr.next hb.next))
protected theorem InKa.spdmKeyed {ok body} (hb : InKa AnyTime body) : EndsInKa (spdmKeyed s ok body) :=
  hk.spdmReq (.ite hb hk.spdmErr)
protected theorem InKa.setSpdm {x} : InKa AnyTime (setSpdm s x) := hk
protected theorem InKa.execGetVersion : EndsInKa (execGetVersion s) := .ite hk.next hk.setSpdm.doe.next
protected theorem InKa.execGetCapabilities {version} : EndsInKa (execGetCapabilities version s) :=
  hk.spdmReq (.ite hk.setSpdm.doe hk.spdmErr)
protected theorem InKa.execNegotiateAlgorithms {algs hash512} : EndsInKa (execNegotiateAlgorithms algs hash512 s) :=
  hk.spdmReq (.ite hk.setSpdm.doe hk.spdmErr)
protected theorem InKa.execGetDigests : EndsInKa (execGetDigests s) := hk.spdmKeyed hk.setSpdm.doe
protected theorem InKa.execGetCertificate {sel off len} : EndsInKa (execGetCertificate sel off len s) :=
  hk.spdmKeyed (.ite hk.setSpdm.doe hk.spdmErr)
protected theorem InKa.execChallenge {sel nonce} : EndsInKa (execChallenge sel nonce s) :=
  hk.spdmKeyed (.ite hk.hedged.hedged.setSpdm.doe hk.spdmErr)
protected theorem InKa.execGetMeasurements {index signed nonce} :
    EndsInKa (execGetMeasurements index signed nonce s) :=
  hk.spdmKeyed (.ite hk.spdmErr (.ite hk.hedged.hedged.setSpdm.doe hk.setSpdm.doe))
protected theorem InKa.execKeyExchange {dhe} : EndsInKa (execKeyExchange dhe s) := by
  unfold execKeyExchange
  dsimp only
  refine hk.spdmKeyed ?_
  split
  · exact hk.spdmErr
  · exact hk.hedged.hedged.hedged.hedged.setSpdm.doe
protected theorem InKa.execFinish {hmac} : EndsInKa (execFinish hmac s) :=
  hk.spdmKeyed (.ite hk.setSpdm.doe hk.setSpdm.spdmErr)
protected theorem InKa.execEndSession : EndsInKa (execEndSession s) := hk.spdmReq hk.setSpdm.doe
protected theorem InKa.execSpdmHeartbeat : EndsInKa (execSpdmHeartbeat s) := hk.spdmReq hk.doe
protected theorem InKa.execKeyUpdate : EndsInKa (execKeyUpdate s) := hk.spdmKeyed hk.setSpdm.doe
protected theorem InKa.execIdeKeyProgram : EndsInKa (execIdeKeyProgram s) := hk.spdmReq (.ite hk.withDev hk)

/-! ### The functions of Machine/HostIf.lean -/

protected theorem InKa.setDevOn {f} : InKa AnyTime (setDevOn s f) := hk
protected theorem InKa.execFlr : EndsInKa (execFlr s) := .ite hk.next hk.flrStart.next
protected theorem InKa.execHotReset : EndsInKa (execHotReset s) := .ite hk.next hk.flrStart.next
protected theorem InKa.linkUpAt {rate width} : InKa AnyTime (linkUpAt s rate width) :=
  .ite hk.setDevOn (.ite hk.setDevOn.setDevOn hk.setDevOn.logSpine)
protected theorem InKa.execCxlLinkTrain {rate width} : EndsInKa (execCxlLinkTrain rate width s) :=
  .ite hk.next hk.linkUpAt.next
protected theorem InKa.execCxlLinkLoss : EndsInKa (execCxlLinkLoss s) := .ite hk.next hk.setDevOn.logSpine.next
protected theorem InKa.execCxlLinkReturn {rate width} : EndsInKa (execCxlLinkReturn rate width s) :=
  .ite hk.next hk.resetConfig.setDevOn.linkUpAt.next
protected theorem InKa.hostTimeout {pa} : InKa AnyTime (hostTimeout s pa) := hk.setDevOn.logSpine
protected theorem InKa.expTimedOut {pa n} : InKa AnyTime (expTimedOut pa n s) := by
  unfold expTimedOut
  split
  · exact hk
  · exact .ite hk hk.hostTimeout.dropUCmd.updEngine
protected theorem InKa.timedOut {pa blk dmaN} : InKa AnyTime (timedOut pa blk dmaN s) := by
  unfold timedOut
  refine .ite hk.expTimedOut ?_
  split
  · exact .ite hk.hostTimeout.withLink.finish hk
  · exact .ite hk hk.hostTimeout.withDma.engineFault.flrSettle
  · split
    · exact hk
    · exact .ite hk hk.hostTimeout.setDevOn.withLed.flrSnapGone.flrSettle
protected theorem InKa.execCxlCacheTimeout {pa blk dmaN} : EndsInKa (execCxlCacheTimeout pa blk dmaN s) :=
  .ite hk.next hk.timedOut.next
protected theorem InKa.execIdeFail : EndsInKa (execIdeFail s) := .ite hk.next hk.setDevOn.logSpine.next
protected theorem InKa.hostWrite {off bs} : InKa AnyTime (hostWrite s off bs) := by
  unfold hostWrite
  generalize hdmPieces off bs.length = ps
  induction ps generalizing s bs with
  | nil => exact hk
  | cons p ps ih => exact ih hk.writeMem
protected theorem InKa.hostRead {off n} : InKa AnyTime (hostRead s off n) := hk.foldl fun _ _ ht => ht.meetRange
protected theorem InKa.hostAccess {off a} : InKa AnyTime (hostAccess s off a) :=
  .ite hk (.ite hk.hostWrite hk.hostRead)
protected theorem InKa.hostHolds {off n} : InKa AnyTime (hostHolds s off n) := .ite hk hk.withMem
protected theorem InKa.execHdmAccess {a} : EndsInKa (execHdmAccess a s) := .ite .fault hk.hostAccess.hostHolds.next
protected theorem InKa.execBar2Access {a} : EndsInKa (execBar2Access a s) := .ite .fault hk.hostAccess.next
protected theorem InKa.execBar2Sel {v} : EndsInKa (execBar2Sel v s) := .ite hk.next hk.setDevOn.next
protected theorem InKa.execIrqStat {v} : EndsInKa (execIrqStat v s) := .ite hk.next hk.setDevOn.next
protected theorem InKa.signalPending {ns} : InKa AnyTime (signalPending s ns) :=
  hk.foldl fun _ _ ht => .ite ht.msiSignal ht
protected theorem InKa.execIrqEn {v} : EndsInKa (execIrqEn v s) := .ite hk.next hk.setDevOn.signalPending.next
protected theorem InKa.mctp {bs} : InKa AnyTime (mctp s bs) := hk
protected theorem InKa.mctpReq {body} (hb : InKa AnyTime body) : EndsInKa (mctpReq s body) := .ite hb.next hk.next
protected theorem InKa.execGetStatus : EndsInKa (execGetStatus s) := hk.mctpReq hk.mctp
protected theorem InKa.execGetIdent : EndsInKa (execGetIdent s) := hk.mctpReq hk.mctp
protected theorem InKa.execGetRecord {h slot} : EndsInKa (execGetRecord h slot s) := hk.mctpReq hk.mctp
protected theorem InKa.execMctpLeadForce {v} : EndsInKa (execMctpLeadForce v s) := by
  unfold execMctpLeadForce
  refine hk.mctpReq ?_
  split
  · next e => exact (hk.leadForce e).mctp
  · exact hk.mctp
protected theorem InKa.execMctpControl {m} : EndsInKa (execMctpControl m s) := by
  unfold execMctpControl
  refine hk.mctpReq ?_
  split
  · exact hk.drawn.mctp
  · exact hk.setDevOn
  · exact hk.withSec
protected theorem InKa.execPldmRequest {n} : EndsInKa (execPldmRequest n s) := hk.mctpReq hk.mctp
protected theorem InKa.lendersNow : InKa AnyTime (lendersNow s) := hk
protected theorem InKa.wrote {old o} : InKa AnyTime (wrote old s o) := by
  unfold wrote
  dsimp only
  split
  · exact hk.withTime
  · split
    · exact hk.lendersNow
    · split
      · exact .ite hk.signalPending hk
      · exact hk
protected theorem InKa.putLow {o v} : InKa AnyTime (putLow s o v) := hk
protected theorem InKa.dropLow {l} : InKa AnyTime (dropLow s l) := hk
protected theorem InKa.plainWord {o v} : InKa AnyTime (plainWord s o v) := by
  unfold plainWord
  refine .ite hk.putLow ?_
  refine .ite (.ite hk.dropLow hk.dropLow.wr64.wrote) ?_
  split
  · exact hk.wr32.wrote
  · exact hk

/-! ### The functions of Machine/Sorrel.lean -/

protected theorem InKa.execJrnCtrl {v} : EndsInKa (execJrnCtrl v s) := .pos (by simp [hk.ka]) hk.next
protected theorem InKa.sorrelRuns {fil} : sorrelRuns s fil = false := by simp [Machine.sorrelRuns, hk.ka]
protected theorem InKa.execUndoCopyComplete {fil outer x bad} : EndsInKa (execUndoCopyComplete fil outer x bad s) := by
  unfold execUndoCopyComplete
  dsimp only
  split
  · exact .pos (by simp [hk.sorrelRuns]) hk.next
  · exact hk.next
protected theorem InKa.execBatchRecheck {fil step} : EndsInKa (execBatchRecheck fil step s) := by
  unfold execBatchRecheck
  split
  · exact hk.next
  · exact .pos (by simp [hk.sorrelRuns]) hk.next
protected theorem InKa.execRestoreComplete {x bad} : EndsInKa (execRestoreComplete x bad s) := by
  unfold execRestoreComplete
  split
  · exact hk.next
  · split
    · exact hk.next
    · exact .pos (by simp [hk.sorrelRuns]) hk.next

/-! ### The functions of Machine/Lovage.lean -/

protected theorem InKa.mirCmd {ka c w body} (hb : InKa AnyTime (body s)) : EndsInKa (mirCmd ka c w s body) :=
  hk.blockCmd (.ite hk.finish hb)
protected theorem InKa.execUnpair {w} : EndsInKa (execUnpair w s) := by
  unfold execUnpair
  refine hk.mirCmd ?_
  split
  · exact hk.finish
  · exact hk.downPair.finish
protected theorem InKa.substShard {sh lost spare} : InKa AnyTime (substShard s sh lost spare) :=
  .ite hk hk.setHdr.setHdr
protected theorem InKa.substitute {job lost spare} : InKa AnyTime (substitute s job lost spare) :=
  ((hk.foldl fun _ _ ht => ht.setGrp).foldl fun _ _ ht => ht.substShard).withFab.withMir
protected theorem InKa.execSubstitute {w} : EndsInKa (execSubstitute w s) :=
  hk.mirCmd (.ite hk.finish hk.substitute.finish)
protected theorem InKa.execPairReq {m} : EndsInKa (execPairReq m s) := .pos (by simp [hk.ka]) hk.fromPair
protected theorem InKa.execPairAck {m} : EndsInKa (execPairAck m s) := hk.fromPair
protected theorem InKa.execDigestListComputed {job shard mirror} :
    EndsInKa (execDigestListComputed job shard mirror s) := by
  unfold execDigestListComputed
  split
  · exact .pos (by simp [hk.ka]) hk.next
  · exact hk.next
protected theorem InKa.execDigest {d} : EndsInKa (execDigest d s) := hk.fromPartner
protected theorem InKa.execVerdict {src job step shard ofMirror agree first count} :
    EndsInKa (execVerdict src job step shard ofMirror agree first count s) :=
  hk.fromPartner
protected theorem InKa.execDivergenceEnd {job shard} : EndsInKa (execDivergenceEnd job shard s) := by
  unfold execDivergenceEnd
  split
  · exact hk.next
  · split
    · exact .pos (by simp [hk.ka]) hk.next
    · exact hk.next
protected theorem InKa.execUndoReq {src job step x} : EndsInKa (execUndoReq src job step x s) := hk.fromPartner
protected theorem InKa.execUndoRecordReport {src job step outer} :
    EndsInKa (execUndoRecordReport src job step outer s) :=
  hk.fromPartner
protected theorem InKa.execUndoData {b step} : EndsInKa (execUndoData b step s) := hk.fromPartner
protected theorem InKa.copyFails {dst sh e} : InKa AnyTime (copyFails s dst sh e) :=
  .ite hk.logPt.sendNone.pairLost hk.logPt.sendNone.poisonVote
protected theorem InKa.sendCopy {dst sh} : InKa AnyTime (sendCopy s dst sh) := by
  unfold sendCopy
  dsimp only
  split
  · exact hk.meetShard.copyFails
  · exact (hk.meetShard.foldl fun _ _ ht => .ite ht ht.sendBlocks).sendBlocks
protected theorem InKa.sendGrad {dst sh b} : InKa AnyTime (sendGrad s dst sh b) := hk.checkGrad.sendBlocks
protected theorem InKa.sendBlock {dst sh b} : InKa AnyTime (sendBlock s dst sh b) := by
  unfold sendBlock
  dsimp only
  split
  · split
    · next e => exact (hk.loadVa.fst e).sendBlocks
    · next e => exact (hk.loadVa.fst e).logPt.sendBlocks.poisonVote
  · exact hk.sendBlocks
protected theorem InKa.execFetchReq {src job shard ofMirror blk} :
    EndsInKa (execFetchReq src job shard ofMirror blk s) := by
  unfold execFetchReq
  refine .ite hk.next ?_
  refine .ite hk.lovForeign.next ?_
  split
  · exact hk.next
  · refine .ite hk.next ?_
    refine .ite hk.sendNone.next ?_
    split
    · exact hk.sendCopy.next
    · exact (InKa.ite hk.sendGrad hk.sendBlock).next
protected theorem InKa.execFetchData {b} : EndsInKa (execFetchData b s) := by
  unfold execFetchData
  refine .ite hk.next ?_
  split
  · split
    · exact hk.next
    · split
      · exact .neg (by simp [hk.ka]) hk.next
      · exact hk.promoFail.next
  · exact hk.fromPartner

/-! ### The functions of Machine/Matrix.lean -/

protected theorem InKa.execMatrixPassComplete {sl k u} : EndsInKa (execMatrixPassComplete sl k u s) := by
  unfold execMatrixPassComplete
  refine .ite .fault ?_
  dsimp only
  split
  · exact hk.next
  · exact .pos (by simp [hk.slotRuns]) hk.next

/-! ### The functions of Machine/QueOps.lean -/

protected theorem InKa.queueRuns {x} : queueRuns s x = false := by simp [Machine.queueRuns, hk.ka]
protected theorem InKa.onHead {q typ bad k} : EndsInKa (onHead s q typ bad k) := by
  unfold Machine.onHead
  dsimp only
  split
  · exact hk.next
  · exact .pos (by simp [hk.queueRuns]) hk.next
protected theorem InKa.cmdSignal {q ctx c} : InKa AnyTime (cmdSignal s q ctx c) := by
  unfold cmdSignal
  refine .ite hk ?_
  split
  · exact .ite hk.emit hk.haltQueue
  · exact hk.staleDrop
protected theorem InKa.ringDoorbell {q gen wr} : InKa AnyTime (ringDoorbell s q gen wr) :=
  .ite hk.staleDrop (.ite hk.withQue (.ite hk.setQ.haltQueue hk.setQ))

/-! ### The functions of Machine/Queues.lean -/

protected theorem InKa.qCmdKa {ka c w body} (hb : ∀ i o, InKa AnyTime (body i o)) : EndsInKa (qCmdKa ka c w s body) :=
  hk.blockCmd (.ite hk.finish (hb _ _))
protected theorem InKa.execQueueQuarantineEnd {q} : EndsInKa (execQueueQuarantineEnd q s) := .ite hk.next hk.setQ.next
protected theorem InKa.execQRead {w} : EndsInKa (execQRead w s) := hk.qCmdKa fun _ _ => hk.wrBytes.finish
protected theorem InKa.execDoorbell {off len d} : EndsInKa (execDoorbell off len d s) :=
  .ite .fault (.neg (by simp [hk.ka]) (.ite hk.withQue.next hk.ringDoorbell.next))
protected theorem InKa.execQueueFetch {q} : EndsInKa (execQueueFetch q s) := .pos (by simp [hk.queueRuns]) hk.next
protected theorem InKa.execKernel {q} : EndsInKa (execKernel q s) := hk.onHead
protected theorem InKa.dropRun {n} : InKa AnyTime (dropRun s n) := hk
protected theorem InKa.execKernelComplete {n} : EndsInKa (execKernelComplete n s) := by
  unfold execKernelComplete
  split
  · exact hk.next
  · exact .ite hk.next hk.dropRun.cmdSignal.next
protected theorem InKa.execBatchRef {q} : EndsInKa (execBatchRef q s) := hk.onHead
protected theorem InKa.execBatchRefRecorded {n} : EndsInKa (execBatchRefRecorded n s) := by
  unfold execBatchRefRecorded
  split
  · exact hk.next
  · exact .pos (by simp [hk.ka]) hk.next
protected theorem InKa.execCmdWait {q} : EndsInKa (execCmdWait q s) := hk.onHead
protected theorem InKa.execSignal {q} : EndsInKa (execSignal q s) := hk.onHead
protected theorem InKa.execRing {q} : EndsInKa (execRing q s) := hk.onHead
protected theorem InKa.execCmdNop {q} : EndsInKa (execCmdNop q s) := hk.onHead

/-! ### The functions of Machine/Sites.lean -/

protected theorem InKa.execOuterRoundBegin : EndsInKa (execOuterRoundBegin s) := .pos (by simp [hk.sxOn]) hk.next
protected theorem InKa.askJoin {src} : InKa AnyTime (askJoin s src) := .neg (by simp [hk.sxOn]) hk
protected theorem InKa.onStream {src j x} : EndsInKa (onStream s src j x) := by
  unfold onStream
  split
  · exact .pos (by simp [hk.sxOn]) hk.next
  · exact hk.askJoin.next
protected theorem InKa.execSxData {src site round shard first tags blocks} :
    EndsInKa (execSxData src site round shard first tags blocks s) :=
  hk.onStream
protected theorem InKa.execSxScale {src site round shard first tags scales} :
    EndsInKa (execSxScale src site round shard first tags scales s) :=
  hk.onStream
protected theorem InKa.execSxRetransmitReq {src round shard} : EndsInKa (execSxRetransmitReq src round shard s) := by
  unfold execSxRetransmitReq
  split
  · exact hk.next
  · exact .pos (by simp [hk.sxOn]) hk.next
protected theorem InKa.execSxReport {src partner round mask} : EndsInKa (execSxReport src partner round mask s) := by
  unfold execSxReport
  split
  · exact hk.next
  · exact (InKa.neg (by simp [hk.sxOn]) hk).next
protected theorem InKa.execDataWaitExpiry : EndsInKa (execDataWaitExpiry s) := by
  unfold execDataWaitExpiry
  split
  · exact hk.next
  · exact .pos (by simp [hk.sxOn]) hk.next
protected theorem InKa.mayPropose {r} : mayPropose s r = false := by simp [Machine.mayPropose, hk.sxOn]
protected theorem InKa.execSxDecision : EndsInKa (execSxDecision s) := by
  unfold execSxDecision
  split
  · exact hk.next
  · exact .neg (by simp [hk.mayPropose]) hk.next
protected theorem InKa.execSxReceipt {c} : EndsInKa (execSxReceipt c s) := by
  unfold execSxReceipt
  split
  · exact hk.next
  · exact .pos (by simp [hk.sxOn]) hk.next
protected theorem InKa.execDecWaitExpiry : EndsInKa (execDecWaitExpiry s) := by
  unfold execDecWaitExpiry
  split
  · exact hk.next
  · exact .pos (by simp [hk.sxOn]) hk.next
protected theorem InKa.execSxApply {d} : EndsInKa (execSxApply d s) := by
  unfold execSxApply
  split
  · exact hk.next
  · exact .pos (by simp [hk.sxOn]) hk.next
protected theorem InKa.execSxDecisionTimeout : EndsInKa (execSxDecisionTimeout s) := by
  unfold execSxDecisionTimeout
  split
  · exact hk.next
  · exact .pos (by simp [hk.sxOn]) hk.next
protected theorem InKa.execSxState {src site shard kind data crc} :
    EndsInKa (execSxState src site shard kind data crc s) :=
  .pos (by simp [hk.sxOn]) hk.next
protected theorem InKa.execJoin {m} : EndsInKa (execJoin m s) := .pos (by simp [hk.sxOn]) hk.next

/-! ### The functions of Machine/Words.lean -/

protected theorem InKa.reservedOp {o v} : EndsInKa (reservedOp o v s) := by
  unfold reservedOp
  split
  · refine hk.blockCmd ?_
    exact hk.finish
  · exact .ite hk.execBootLoad (.ite hk.chvBadOp.next hk.next)

/-! ### The functions of Machine/Tick.lean -/

protected theorem InKa.freeFor {c} : InKa AnyTime (freeFor s c) := by
  unfold freeFor
  split
  · exact hk.setBlk
  · split
    · exact hk.setChv
    · exact hk
protected theorem InKa.startHeld : InKa AnyTime (startHeld s) :=
  (hk.withHeld.withLink.foldl fun _ _ ht => ht.freeFor).withPending
protected theorem InKa.decayAll : InKa AnyTime (decayAll s) := hk
protected theorem InKa.moveHalves : InKa AnyTime (moveHalves s) := .ite hk hk.withLead
protected theorem InKa.clockTick : InKa AnyTime (clockTick s) :=
  hk.railTick.selfOr fun h => h.withTime.decayAll.moveHalves.orSelf (·.flrSettle.servePorts.withPending)
protected theorem InKa.tick : InKa AnyTime (tick s) := .ite hk.clockTick hk.startHeld

/-! ### Every command -/

protected theorem InKa.vecOp {sl f ty u ok k} : EndsInKa (vecOp sl f s ty u ok k) := hk.issue
protected theorem InKa.dataOp {sl f u ok k} : EndsInKa (dataOp sl f s u ok k) := hk.issue
protected theorem InKa.scalarOp {sl f op} : EndsInKa (scalarOp sl f s op) := hk.issue
protected theorem InKa.loadImm {sl f op} : EndsInKa (loadImm sl f s op) := hk.issue
protected theorem InKa.scalarLoad {n sl f u} : EndsInKa (scalarLoad n sl f u s) := hk.issue
protected theorem InKa.scalarStore {n sl f} : EndsInKa (scalarStore n sl f s) := hk.issue
protected theorem InKa.capRead {n sl f} : EndsInKa (capRead n sl f s) := hk.issue
protected theorem InKa.branch {sl f t} : EndsInKa (branch sl f s t) := hk.issue
protected theorem InKa.tilePatch {sl f w l m} : EndsInKa (tilePatch sl f s w l m) := hk.issue
protected theorem InKa.updIssue {sl f u k} : EndsInKa (updIssue sl f s u k) := hk.issue
protected theorem InKa.intOp {sl f op} : EndsInKa (intOp sl f s op) := hk.vecOp
protected theorem InKa.hkeyCmd {c w k} : EndsInKa (hkeyCmd c w s k) := hk.refuses
protected theorem InKa.frameCmd {c w k} : EndsInKa (frameCmd c w s k) := hk.refuses
protected theorem InKa.invalCmd {c w i} : EndsInKa (invalCmd c w s i) := hk.refuses
protected theorem InKa.ctxCmd {c w k} : EndsInKa (ctxCmd c w s k) := (hk.refuses : EndsInKa (ctxCmdKa false c w s k))
protected theorem InKa.qCmd {c w k} : EndsInKa (qCmd c w s k) := (hk.refuses : EndsInKa (qCmdKa false c w s k))
protected theorem InKa.mirCmdRefused {c w k} : EndsInKa (mirCmd false c w s k) := hk.refuses
protected theorem InKa.syncCmdRefused {c w r k} : EndsInKa (syncCmd c w s r false k) := hk.refuses
protected theorem InKa.collCmdRefused {c w k} : EndsInKa (collCmd false c w s k) := hk.refuses
protected theorem InKa.execMmaS {sl f} : EndsInKa (execMmaS sl f s) := by
  unfold Machine.execMmaS
  exact hk.issue
protected theorem InKa.execMout {sl f} : EndsInKa (execMout sl f s) := by
  unfold Machine.execMout
  exact hk.issue
protected theorem InKa.execMlda {sl f} : EndsInKa (execMlda sl f s) := by
  unfold Machine.execMlda
  exact hk.issue
protected theorem InKa.execMamax {sl f} : EndsInKa (execMamax sl f s) := by
  unfold Machine.execMamax
  exact hk.issue

/-- A word of RST_CMD without the reset key is dropped (Table 13-4). -/
protected theorem InKa.execRstCmd {v} (hv : resetKey v = false) : EndsInKa (execRstCmd v s) := by
  refine .pos (.inr ?_) hk.next
  simp only [resetKey, Bool.and_eq_false_iff, beq_eq_false_iff_ne] at hv
  exact hv

/-- Every command keeps the mode, but for those that reset the device or take its power. -/
protected theorem InKa.exec_of_write {c} (hc : startsDevice c = false)
    (hw : ∀ o n v, c = .plainRegisterWrite o n v → EndsInKa (execPlainRegisterWrite o n v s)) :
    EndsInKa (exec c s) := by
  cases c with
  | ctxCreate w => exact (hk.ctxCmd : EndsInKa (execCtxCreate w s))
  | ctxDestroy w => exact (hk.ctxCmd : EndsInKa (execCtxDestroy w s))
  | bind w u => exact (hk.ctxCmd : EndsInKa (execBind w u s))
  | unbind w => exact (hk.ctxCmd : EndsInKa (execUnbind w s))
  | ctxStop w => exact (hk.ctxCmd : EndsInKa (execCtxStop w s))
  | ctxResume w => exact (hk.ctxCmd : EndsInKa (execCtxResume w s))
  | qCreate w => exact (hk.qCmd : EndsInKa (execQCreate w s))
  | qDestroy w => exact (hk.qCmd : EndsInKa (execQDestroy w s))
  | qCmdHalt w => exact (hk.qCmd : EndsInKa (execQCmdHalt w s))
  | qResume w => exact (hk.qCmd : EndsInKa (execQResume w s))
  | syncCreate w => exact (hk.syncCmdRefused : EndsInKa (execSyncCreate w s))
  | syncDestroy w => exact (hk.syncCmdRefused : EndsInKa (execSyncDestroy w s))
  | syncReset w => exact (hk.syncCmdRefused : EndsInKa (execSyncReset w s))
  | readWaiters w => exact (hk.syncCmdRefused : EndsInKa (execReadWaiters w s))
  | clearOvr w => exact (hk.syncCmdRefused : EndsInKa (execClearOvr w s))
  | assign w => exact (hk.frameCmd : EndsInKa (execAssign w s))
  | release w => exact (hk.frameCmd : EndsInKa (execRelease w s))
  | retire w => exact (hk.frameCmd : EndsInKa (execRetire w s))
  | invalCtx w => exact (hk.invalCmd : EndsInKa (execInvalCtx w s))
  | invalRange w => exact (hk.invalCmd : EndsInKa (execInvalRange w s))
  | invalAll w => exact (hk.invalCmd : EndsInKa (execInvalAll w s))
  | register w => exact (hk.refuses : EndsInKa (execRegister w s))
  | deregister w => exact (hk.refuses : EndsInKa (execDeregister w s))
  | rollback w => exact (hk.refuses : EndsInKa (execRollback w s))
  | groupCreate w => exact (hk.collCmdRefused : EndsInKa (execGroupCreate w s))
  | groupDestroy w => exact (hk.collCmdRefused : EndsInKa (execGroupDestroy w s))
  | pair w => exact (hk.mirCmdRefused : EndsInKa (execPair w s))
  | promote w => exact (hk.mirCmdRefused : EndsInKa (execPromote w s))
  | hkeyLoad w => exact (hk.hkeyCmd : EndsInKa (execHkeyLoad w s))
  | hkeyErase w => exact (hk.hkeyCmd : EndsInKa (execHkeyErase w s))
  | add sl f => exact (hk.scalarOp : EndsInKa (execAdd sl f s))
  | sub sl f => exact (hk.scalarOp : EndsInKa (execSub sl f s))
  | mul sl f => exact (hk.scalarOp : EndsInKa (execMul sl f s))
  | mulh sl f => exact (hk.scalarOp : EndsInKa (execMulh sl f s))
  | and sl f => exact (hk.scalarOp : EndsInKa (execAnd sl f s))
  | or sl f => exact (hk.scalarOp : EndsInKa (execOr sl f s))
  | xor sl f => exact (hk.scalarOp : EndsInKa (execXor sl f s))
  | shl sl f => exact (hk.scalarOp : EndsInKa (execShl sl f s))
  | shr sl f => exact (hk.scalarOp : EndsInKa (execShr sl f s))
  | sar sl f => exact (hk.scalarOp : EndsInKa (execSar sl f s))
  | slt sl f => exact (hk.scalarOp : EndsInKa (execSlt sl f s))
  | sltu sl f => exact (hk.scalarOp : EndsInKa (execSltu sl f s))
  | li sl f => exact (hk.loadImm : EndsInKa (execLi sl f s))
  | lih sl f => exact (hk.loadImm : EndsInKa (execLih sl f s))
  | ld sl f u => exact (hk.scalarLoad : EndsInKa (execLd sl f u s))
  | ldw sl f => exact (hk.scalarLoad : EndsInKa (execLdw sl f s))
  | st sl f => exact (hk.scalarStore : EndsInKa (execSt sl f s))
  | stw sl f => exact (hk.scalarStore : EndsInKa (execStw sl f s))
  | csrr sl f => exact (hk.issue : EndsInKa (execCsrr sl f s))
  | csrw sl f => exact (hk.issue : EndsInKa (execCsrw sl f s))
  | j sl f => exact (hk.issue : EndsInKa (execJ sl f s))
  | call sl f => exact (hk.issue : EndsInKa (execCall sl f s))
  | jr sl f => exact (hk.issue : EndsInKa (execJr sl f s))
  | halt sl f => exact (hk.issue : EndsInKa (execHalt sl f s))
  | cfence sl f => exact (hk.issue : EndsInKa (execCfence sl f s))
  | nop sl f => exact (hk.issue : EndsInKa (execNop sl f s))
  | vcvtF2i sl f => exact (hk.issue : EndsInKa (execVcvtF2i sl f s))
  | vld sl f u => exact (hk.issue : EndsInKa (execVld sl f u s))
  | vst sl f => exact (hk.issue : EndsInKa (execVst sl f s))
  | vlda sl f u => exact (hk.issue : EndsInKa (execVlda sl f u s))
  | vsta sl f => exact (hk.issue : EndsInKa (execVsta sl f s))
  | vunpk sl f => exact (hk.issue : EndsInKa (execVunpk sl f s))
  | vpk sl f => exact (hk.issue : EndsInKa (execVpk sl f s))
  | vpkSt sl f => exact (hk.issue : EndsInKa (execVpkSt sl f s))
  | vdraw sl f => exact (hk.issue : EndsInKa (execVdraw sl f s))
  | mmaR sl f w => exact (hk.issue : EndsInKa (execMmaR sl f w s))
  | tld sl f => exact (hk.issue : EndsInKa (execTld sl f s))
  | tst sl f => exact (hk.issue : EndsInKa (execTst sl f s))
  | dmaGo sl f w => exact (hk.issue : EndsInKa (execDmaGo sl f w s))
  | dmaCnt sl f => exact (hk.issue : EndsInKa (execDmaCnt sl f s))
  | dmaDrain sl f => exact (hk.issue : EndsInKa (execDmaDrain sl f s))
  | sig sl f => exact (hk.issue : EndsInKa (execSig sl f s))
  | wait sl f => exact (hk.issue : EndsInKa (execWait sl f s))
  | arrive sl f => exact (hk.issue : EndsInKa (execArrive sl f s))
  | cons sl f => exact (hk.issue : EndsInKa (execCons sl f s))
  | sread sl f => exact (hk.issue : EndsInKa (execSread sl f s))
  | creg sl f => exact (hk.issue : EndsInKa (execCreg sl f s))
  | collGo sl f => exact (hk.issue : EndsInKa (execCollGo sl f s))
  | collNf sl f => exact (hk.issue : EndsInKa (execCollNf sl f s))
  | collQ sl f => exact (hk.issue : EndsInKa (execCollQ sl f s))
  | capr sl f => exact (hk.capRead : EndsInKa (execCapr sl f s))
  | caprd sl f => exact (hk.capRead : EndsInKa (execCaprd sl f s))
  | beq sl f => exact (hk.branch : EndsInKa (execBeq sl f s))
  | bne sl f => exact (hk.branch : EndsInKa (execBne sl f s))
  | blt sl f => exact (hk.branch : EndsInKa (execBlt sl f s))
  | bge sl f => exact (hk.branch : EndsInKa (execBge sl f s))
  | bltu sl f => exact (hk.branch : EndsInKa (execBltu sl f s))
  | vadd sl f => exact (hk.vecOp : EndsInKa (execVadd sl f s))
  | vsub sl f => exact (hk.vecOp : EndsInKa (execVsub sl f s))
  | vmul sl f => exact (hk.vecOp : EndsInKa (execVmul sl f s))
  | vfma sl f => exact (hk.vecOp : EndsInKa (execVfma sl f s))
  | vfnma sl f => exact (hk.vecOp : EndsInKa (execVfnma sl f s))
  | vmin sl f => exact (hk.vecOp : EndsInKa (execVmin sl f s))
  | vmax sl f => exact (hk.vecOp : EndsInKa (execVmax sl f s))
  | vabs sl f => exact (hk.vecOp : EndsInKa (execVabs sl f s))
  | vneg sl f => exact (hk.vecOp : EndsInKa (execVneg sl f s))
  | vcmpeq sl f => exact (hk.vecOp : EndsInKa (execVcmpeq sl f s))
  | vcmplt sl f => exact (hk.vecOp : EndsInKa (execVcmplt sl f s))
  | vcmple sl f => exact (hk.vecOp : EndsInKa (execVcmple sl f s))
  | vcmpun sl f => exact (hk.vecOp : EndsInKa (execVcmpun sl f s))
  | vsel sl f => exact (hk.vecOp : EndsInKa (execVsel sl f s))
  | vrsum sl f => exact (hk.vecOp : EndsInKa (execVrsum sl f s))
  | vrmax sl f => exact (hk.vecOp : EndsInKa (execVrmax sl f s))
  | vrmin sl f => exact (hk.vecOp : EndsInKa (execVrmin sl f s))
  | vmov sl f => exact (hk.vecOp : EndsInKa (execVmov sl f s))
  | vbcast sl f => exact (hk.vecOp : EndsInKa (execVbcast sl f s))
  | viota sl f => exact (hk.vecOp : EndsInKa (execViota sl f s))
  | vcvtI2f sl f => exact (hk.vecOp : EndsInKa (execVcvtI2f sl f s))
  | vand sl f => exact (hk.intOp : EndsInKa (execVand sl f s))
  | vor sl f => exact (hk.intOp : EndsInKa (execVor sl f s))
  | vxor sl f => exact (hk.intOp : EndsInKa (execVxor sl f s))
  | vshl sl f => exact (hk.intOp : EndsInKa (execVshl sl f s))
  | vshr sl f => exact (hk.intOp : EndsInKa (execVshr sl f s))
  | vsar sl f => exact (hk.intOp : EndsInKa (execVsar sl f s))
  | pset sl f => exact (hk.dataOp : EndsInKa (execPset sl f s))
  | pand sl f => exact (hk.dataOp : EndsInKa (execPand sl f s))
  | por sl f => exact (hk.dataOp : EndsInKa (execPor sl f s))
  | pxor sl f => exact (hk.dataOp : EndsInKa (execPxor sl f s))
  | pnot sl f => exact (hk.dataOp : EndsInKa (execPnot sl f s))
  | pcnt sl f => exact (hk.dataOp : EndsInKa (execPcnt sl f s))
  | pmask sl f => exact (hk.dataOp : EndsInKa (execPmask sl f s))
  | vext sl f => exact (hk.dataOp : EndsInKa (execVext sl f s))
  | vins sl f => exact (hk.dataOp : EndsInKa (execVins sl f s))
  | fsetp sl f => exact (hk.dataOp : EndsInKa (execFsetp sl f s))
  | torg sl f => exact (hk.tilePatch : EndsInKa (execTorg sl f s))
  | toff sl f => exact (hk.tilePatch : EndsInKa (execToff sl f s))
  | updA sl f => exact (hk.updIssue : EndsInKa (execUpdA sl f s))
  | updB sl f => exact (hk.updIssue : EndsInKa (execUpdB sl f s))
  | updAb sl f => exact (hk.updIssue : EndsInKa (execUpdAb sl f s))
  | updOut sl f => exact (hk.updIssue : EndsInKa (execUpdOut sl f s))
  | updExp sl f => exact (hk.updIssue : EndsInKa (execUpdExp sl f s))
  | bindComplete => exact hk.execBindComplete
  | unbindComplete => exact hk.execUnbindComplete
  | ctxRead => exact hk.execCtxRead
  | queueQuarantineEnd => exact hk.execQueueQuarantineEnd
  | qRead => exact hk.execQRead
  | doorbell => exact hk.execDoorbell
  | queueFetch => exact hk.execQueueFetch
  | kernel => exact hk.execKernel
  | kernelComplete => exact hk.execKernelComplete
  | batchRef => exact hk.execBatchRef
  | batchRefRecorded => exact hk.execBatchRefRecorded
  | cmdWait => exact hk.execCmdWait
  | signal => exact hk.execSignal
  | ring => exact hk.execRing
  | cmdNop => exact hk.execCmdNop
  | governorDebtCleared => exact hk.execGovernorDebtCleared
  | priUnitsTick => exact hk.execPriUnitsTick
  | filUnitsTick => exact hk.execFilUnitsTick
  | frameBeatTick => exact hk.execFrameBeatTick
  | intervalClose => exact hk.execIntervalClose
  | snapshotWritten => exact hk.execSnapshotWritten
  | ledBase => exact hk.execLedBase
  | ledSlots => exact hk.execLedSlots
  | ledTail => exact hk.execLedTail
  | ledCtrl => exact hk.execLedCtrl
  | syncQuarantineEnd => exact hk.execSyncQuarantineEnd
  | syncRead => exact hk.execSyncRead
  | counterSignal => exact hk.execCounterSignal
  | flagSignal => exact hk.execFlagSignal
  | barrierArrival => exact hk.execBarrierArrival
  | remoteSignal => exact hk.execRemoteSignal
  | barrierRejection => exact hk.execBarrierRejection
  | watchdogExpiry => exact hk.execWatchdogExpiry
  | lendStart => exact hk.execLendStart
  | lendGrant => exact hk.execLendGrant
  | lendWake => exact hk.execLendWake
  | lendRevoke => exact hk.execLendRevoke
  | frameScrubbed => exact hk.execFrameScrubbed
  | invalidationComplete => exact hk.execInvalidationComplete
  | tableWalk => exact hk.execTableWalk
  | patrolRead => exact hk.execPatrolRead
  | patrolCtrl => exact hk.execPatrolCtrl
  | jrnCtrl => exact hk.execJrnCtrl
  | undoCopyComplete => exact hk.execUndoCopyComplete
  | batchRecheck => exact hk.execBatchRecheck
  | restoreComplete => exact hk.execRestoreComplete
  | updRead => exact hk.execUpdRead
  | phaseAStart => exact hk.execPhaseAStart
  | phaseAComplete => exact hk.execPhaseAComplete
  | phaseBStart => exact hk.execPhaseBStart
  | phaseBComplete => exact hk.execPhaseBComplete
  | outerEncodeComplete => exact hk.execOuterEncodeComplete
  | outerMergeComplete => exact hk.execOuterMergeComplete
  | groupQuarantineEnd => exact hk.execGroupQuarantineEnd
  | groupRead => exact hk.execGroupRead
  | voteRead => exact hk.execVoteRead
  | collectiveStart => exact hk.execCollectiveStart
  | borageMessage => exact hk.execBorageMessage
  | mirrorDelivery => exact hk.execMirrorDelivery
  | collectiveComplete => exact hk.execCollectiveComplete
  | voteOpen => exact hk.execVoteOpen
  | voteWord => exact hk.execVoteWord
  | voteDeadline => exact hk.execVoteDeadline
  | absenceNotice => exact hk.execAbsenceNotice
  | voteOutcome => exact hk.execVoteOutcome
  | recoveryRootWait => exact hk.execRecoveryRootWait
  | pctrl => exact hk.execPctrl
  | portTrained => exact hk.execPortTrained
  | wavelengthFail => exact hk.execWavelengthFail
  | linkFrame => exact hk.execLinkFrame
  | nak => exact hk.execNak
  | retrain => exact hk.execRetrain
  | retrainEnd => exact hk.execRetrainEnd
  | lossOfLight => exact hk.execLossOfLight
  | relayFlit => exact hk.execRelayFlit
  | transportMessage => exact hk.execTransportMessage
  | ackTimer => exact hk.execAckTimer
  | ack => exact hk.execAck
  | retransmitTimer => exact hk.execRetransmitTimer
  | messageAgeExpiry => exact hk.execMessageAgeExpiry
  | connectionRelease => exact hk.execConnectionRelease
  | resync => exact hk.execResync
  | sessionWaitExpiry => exact hk.execSessionWaitExpiry
  | heartbeatSend => exact hk.execHeartbeatSend
  | heartbeat => exact hk.execHeartbeat
  | absenceCheck => exact hk.execAbsenceCheck
  | timeExchange => exact hk.execTimeExchange
  | firstLock => exact hk.execFirstLock
  | ppsEdge => exact hk.execPpsEdge
  | holdoverEntry => exact hk.execHoldoverEntry
  | holdoverExit => exact hk.execHoldoverExit
  | timeDrift => exact hk.execTimeDrift
  | epochChange => exact hk.execEpochChange
  | epochKeyForm => exact hk.execEpochKeyForm
  | epochKeyRetire => exact hk.execEpochKeyRetire
  | sInit => exact hk.execSInit
  | sResp => exact hk.execSResp
  | sFin => exact hk.execSFin
  | sessionRetry => exact hk.execSessionRetry
  | sessionReplace => exact hk.execSessionReplace
  | outerRoundBegin => exact hk.execOuterRoundBegin
  | sxData => exact hk.execSxData
  | sxScale => exact hk.execSxScale
  | sxRetransmitReq => exact hk.execSxRetransmitReq
  | sxReport => exact hk.execSxReport
  | sxReceipt => exact hk.execSxReceipt
  | dataWaitExpiry => exact hk.execDataWaitExpiry
  | decWaitExpiry => exact hk.execDecWaitExpiry
  | sxDecision => exact hk.execSxDecision
  | sxApply => exact hk.execSxApply
  | sxDecisionTimeout => exact hk.execSxDecisionTimeout
  | sxState => exact hk.execSxState
  | join => exact hk.execJoin
  | loadRoutes => exact hk.execLoadRoutes
  | loadSites => exact hk.execLoadSites
  | loadWatch => exact hk.execLoadWatch
  | loadEnc => exact hk.execLoadEnc
  | readRoute => exact hk.execReadRoute
  | fabId => exact hk.execFabId
  | fabLat => exact hk.execFabLat
  | fabLatLowerEffect => exact hk.execFabLatLowerEffect
  | encCtrl => exact hk.execEncCtrl
  | sxCtrl => exact hk.execSxCtrl
  | sxH => exact hk.execSxH
  | unpair => exact hk.execUnpair
  | substitute => exact hk.execSubstitute
  | pairReq => exact hk.execPairReq
  | pairAck => exact hk.execPairAck
  | digest => exact hk.execDigest
  | verdict => exact hk.execVerdict
  | divergenceEnd => exact hk.execDivergenceEnd
  | undoReq => exact hk.execUndoReq
  | undoData => exact hk.execUndoData
  | fetchReq => exact hk.execFetchReq
  | fetchData => exact hk.execFetchData
  | recordHandlingEnd => exact hk.execRecordHandlingEnd
  | errTail => exact hk.execErrTail
  | leaseClaim => exact hk.execLeaseClaim
  | leaseRenew => exact hk.execLeaseRenew
  | leaseExpiry => exact hk.execLeaseExpiry
  | spineUnreachableStop => exact hk.execSpineUnreachableStop
  | leadForce => exact hk.execLeadForce
  | bootLoad => exact hk.execBootLoad
  | imageVerifyComplete => exact hk.execImageVerifyComplete
  | memoryTrainingComplete => exact hk.execMemoryTrainingComplete
  | getVersion => exact hk.execGetVersion
  | getCapabilities => exact hk.execGetCapabilities
  | negotiateAlgorithms => exact hk.execNegotiateAlgorithms
  | getDigests => exact hk.execGetDigests
  | getCertificate => exact hk.execGetCertificate
  | challenge => exact hk.execChallenge
  | getMeasurements => exact hk.execGetMeasurements
  | keyExchange => exact hk.execKeyExchange
  | finish => exact hk.execFinish
  | endSession => exact hk.execEndSession
  | spdmHeartbeat => exact hk.execSpdmHeartbeat
  | keyUpdate => exact hk.execKeyUpdate
  | drbgReseed => exact hk.execDrbgReseed
  | maskReseed => exact hk.execMaskReseed
  | healthTestFail => exact hk.execHealthTestFail
  | slotErase => exact hk.execSlotErase
  | cqrWr => exact hk.execCqrWr
  | cipherRequestComplete => exact hk.execCipherRequestComplete
  | run => exact hk.execRun
  | chiveRunComplete => exact hk.execChiveRunComplete
  | resetAlive => exact hk.execResetAlive
  | flr => exact hk.execFlr
  | hotReset => exact hk.execHotReset
  | resetInputRelease => exact hk.execResetInputRelease
  | cxlLinkTrain => exact hk.execCxlLinkTrain
  | cxlLinkLoss => exact hk.execCxlLinkLoss
  | cxlLinkReturn => exact hk.execCxlLinkReturn
  | cxlCacheTimeout => exact hk.execCxlCacheTimeout
  | ideFail => exact hk.execIdeFail
  | hdmAccess => exact hk.execHdmAccess
  | bar2Sel => exact hk.execBar2Sel
  | irqStat => exact hk.execIrqStat
  | irqEn => exact hk.execIrqEn
  | getStatus => exact hk.execGetStatus
  | getIdent => exact hk.execGetIdent
  | getRecord => exact hk.execGetRecord
  | mctpLeadForce => exact hk.execMctpLeadForce
  | mctpControl => exact hk.execMctpControl
  | pldmRequest => exact hk.execPldmRequest
  | powerStageStart => exact hk.execPowerStageStart
  | pwrgdAssert => exact hk.execPwrgdAssert
  | inputLowEntry => exact hk.execInputLowEntry
  | budgetPeriod => exact hk.execBudgetPeriod
  | pwrLimit => exact hk.execPwrLimit
  | throttleTick => exact hk.execThrottleTick
  | fastLoopTrip => exact hk.execFastLoopTrip
  | fastLoopRelease => exact hk.execFastLoopRelease
  | thermalSample t => exact hk.execThermalSample hc
  | thermalCapStep => exact hk.execThermalCapStep
  | sensorFault => exact hk.execSensorFault
  | lightReturn => exact hk.execLightReturn
  | overvoltageRestart => exact hk.execOvervoltageRestart
  | resetReleaseHoldEnd => exact hk.execResetReleaseHoldEnd
  | ideKeyProgram => exact hk.execIdeKeyProgram
  | bar2Access => exact hk.execBar2Access
  | digestListComputed => exact hk.execDigestListComputed
  | undoRecordReport => exact hk.execUndoRecordReport
  | ref10mLockLoss => exact hk.execRef10mLockLoss
  | ppsEdgesMissed => exact hk.execPpsEdgesMissed
  | matrixPassComplete => exact hk.execMatrixPassComplete
  | dmaComplete => exact hk.execDmaComplete
  | updExpComplete => exact hk.execUpdExpComplete
  | mmaS => exact hk.execMmaS
  | mout => exact hk.execMout
  | mlda => exact hk.execMlda
  | mamax => exact hk.execMamax
  | plainRegisterWrite o n v => exact hw o n v rfl
  | rstCmd v => exact hk.execRstCmd hc
  | cxlReset | resetReq | resetInputAssert | overvoltage | undervoltage | overcurrent | thermalTrip =>
    exact nomatch (show true = false from hc)

end

/-! ### Register writes -/

/-- A register that spells a command runs it, but for the rows that no register holds. -/
theorem commandRun_cases (i : Instr) (s : State) : commandRun i s = .next s ∨
    commandRun i s = exec i s ∧ ∀ o n v, i ≠ .plainRegisterWrite o n v := by
  unfold commandRun
  split
  case h_67 => exact .inl rfl
  all_goals exact .inr ⟨rfl, fun _ _ _ => Instr.noConfusion⟩

/-- RST_CMD is the only register whose command resets the device. -/
theorem registerCommand_startsDevice {o : Nat} {v : B64} {c : Instr} (ho : o ≠ 0x1C)
    (h : registerCommand o v = some c) : startsDevice c = false := by
  unfold registerCommand at h
  dsimp only at h
  split at h
  case h_2 => exact absurd rfl ho
  case h_65 =>
    split at h
    · obtain rfl := Option.some.inj h
      rfl
    · obtain ⟨-, h⟩ := Option.ite_none_right_eq_some.1 h
      split at h
      · obtain rfl := Option.some.inj h
        rfl
      · obtain ⟨-, h⟩ := Option.ite_none_right_eq_some.1 h
        obtain rfl := Option.some.inj h
        rfl
  all_goals
    obtain rfl := Option.some.inj h
    rfl

theorem startsDevice_plainRegisterWrite (o n : Nat) (v : B64) : startsDevice (.plainRegisterWrite o n v) =
   ((o == 0x1C && resetKey (v.extractLsb' 0 32)) || (o == 0x18 && n == 8 && resetKey (v.extractLsb' 32 32))) := rfl

theorem extractLsb'_setWidth_64 (v : B32) : (v.setWidth 64).extractLsb' 0 32 = v := by
  ext i hi
  simp only [BitVec.getElem_extractLsb', BitVec.getLsbD_setWidth, Nat.zero_add, BitVec.getLsbD_eq_getElem hi]
  simp [show i < 64 by omega]

section

variable {s : State} (hk : InKa AnyTime s)
include hk

protected theorem InKa.commandRun {i} (hi : startsDevice i = false) : EndsInKa (commandRun i s) := by
  obtain h | ⟨h, hp⟩ := commandRun_cases i s <;> rw [h]
  · exact hk.next
  · exact hk.exec_of_write hi fun o n v e => absurd e (hp o n v)

protected theorem InKa.commandWrite {o v} (h : o = 0x1C → resetKey (v.extractLsb' 0 32) = false) :
    EndsInKa (commandWrite o v s) := by
  unfold Machine.commandWrite
  split
  · next c e =>
    refine hk.commandRun ?_
    by_cases ho : o = 0x1C
    · subst ho
      obtain rfl : c = .rstCmd (v.extractLsb' 0 32) := (Option.some.inj e).symm
      exact h rfl
    · exact registerCommand_startsDevice ho e
  · exact hk.reservedOp

protected theorem InKa.wordWrite {o v} (h : o = 0x1C → resetKey v = false) : EndsInKa (wordWrite o v s) := by
  unfold Machine.wordWrite
  refine .ite (InKa.ite hk.plainWord hk).next (.ite (InKa.ite hk.putLow hk).next ?_)
  split
  · next hw =>
    refine hk.dropLow.commandWrite fun ho => ?_
    exact absurd hw (by simp [ho, wideCmd])
  · exact hk.commandWrite fun ho => by simpa [extractLsb'_setWidth_64] using h ho

/-- A write of 4 or 8 bytes meets RST_CMD at its own offset or in its upper word. -/
protected theorem InKa.execPlainRegisterWrite {o n : Nat} {v : B64}
    (h : startsDevice (.plainRegisterWrite o n v) = false) : EndsInKa (execPlainRegisterWrite o n v s) := by
  rw [startsDevice_plainRegisterWrite, Bool.or_eq_false_iff, Bool.and_eq_false_iff, Bool.and_eq_false_iff] at h
  obtain ⟨hlow, hhigh⟩ := h
  have hw : EndsInKa (wordWrite o (v.extractLsb' 0 32) s) :=
    hk.wordWrite fun ho => hlow.resolve_left (by simp [ho])
  unfold Machine.execPlainRegisterWrite
  split
  · exact hk.next
  · refine EndsInKa.andThen ?_ fun t ht => ht.refreshRdy.next
    split
    · next hn =>
      refine hw.andThen fun t ht => ht.wordWrite fun ho => hhigh.resolve_left ?_
      simp [hn, Nat.add_right_cancel (m := 4) (k := 0x18) ho]
    · exact hw

protected theorem InKa.exec {c} (hc : startsDevice c = false) : EndsInKa (exec c s) :=
  hk.exec_of_write hc fun _ _ _ e => hk.execPlainRegisterWrite (e ▸ hc)

end

/-- Settles O56: the step of time and every command that neither resets the device nor takes its power keep the mode. -/
theorem keepAliveEndsOnlyByReset : Obligations.KeepAliveEndsOnlyByReset := by
  unfold Obligations.KeepAliveEndsOnlyByReset
  intro s t hk hstep
  cases hp : s.pending with
  | nil =>
    rw [step_nil s hp] at hstep
    exact .inl (((InKa.tick ⟨hk, trivial⟩).next t hstep).ka)
  | cons c cs =>
    by_cases hc : startsDevice c = true
    · exact .inr ⟨c, cs, rfl, hc⟩
    · have hcs : InKa AnyTime (s.setPending cs) := ⟨hk, trivial⟩
      simp only [step, hp] at hstep
      exact .inl (hcs.exec (Bool.eq_false_iff.2 hc) t hstep).ka

end Sys2Proof.Machine
end

section
/-!
PROOFS. Who leads (R380).
-/

namespace Sys2Proof.Machine

/-- Who leads (R380): the latch's holder, while its lease runs or where LEAD_FORCE gave it one without an end (R386). -/
theorem leader_eq_some_iff {s : State} {h : Half} :
    leader s = some h ↔ s.lead.holder = some h ∧ (s.lead.forced = true ∨ beat s < s.lead.expiry) := by
  unfold leader
  cases s.lead.holder <;> simp [and_comm]

/-- Settles O57, by what it takes to lead. -/
theorem latchNamesLeader : Obligations.LatchNamesLeader := by
  unfold Obligations.LatchNamesLeader
  refine fun s h => ⟨fun hf => ?_, fun hf => ?_, s.lead.epoch.isLt, fun b hl => ?_⟩
  · rw [leader_eq_some_iff, hf, Bool.false_eq_true, false_or]
  · rw [leader_eq_some_iff, hf, eq_self, true_or, and_true]
  · exact (leader_eq_some_iff.1 hl).2
end Sys2Proof.Machine
end

section
/-!
PROOFS. Record handling, ring tails and the crown lease (R375 to R386).
-/

namespace Sys2Proof.Machine

/-! ### Entry into keep-alive mode leaves fabric time alone -/

section
variable {P : Time → Prop} {s : State}

protected theorem InKa.dropDeadlines (hk : InKa P s) : InKa P (dropDeadlines s) := hk
protected theorem InKa.cancelColls {p : Coll → Bool} (hk : InKa P s) : InKa P (cancelColls s p) := hk

/-- Keep-alive mode begins where the mark is set. -/
theorem inKa_setErr {e : Err} (hs : P s.time) (he : e.ka = true) : InKa P (s.setErr e) := ⟨he, hs⟩

@[simp] theorem logRec_time (s : State) (h : Half) (x : Rec) : (logRec s h x).time = s.time := by
  obtain ⟨e, d, hlog, -⟩ := logRec_only s h x
  rw [hlog, State.setDev_time, State.setErr_time]

@[simp] theorem logSpine_time (s : State) (x : Rec) : (logSpine s x).time = s.time := by
  obtain ⟨e, d, hlog, -⟩ := logSpine_only s x
  rw [hlog, State.setDev_time, State.setErr_time]

/-- What begins keep-alive mode ends in it, at the same time (R377). -/
theorem inKa_enterKeepAlive (hs : P s.time) (code : Nat) : InKa P (enterKeepAlive s code) := by
  unfold enterKeepAlive
  split
  · next hka => exact ⟨hka, hs⟩
  · rw [← logSpine_time s { code := 0x0807, data0 := bv 64 code }] at hs
    exact (((inKa_setErr hs rfl).foldl fun _ _ h => h.stopCtxOnly).foldl
      fun _ _ h => h.haltQueue).dropDeadlines.cancelColls.withLed.irq.refreshRdy

/-- A record takes no fabric time, whatever it starts. -/
theorem raiseAll_time (s : State) (h : Half) (x : Rec) : (raiseAll s h x).time = s.time := by
  have hraise : (raise s h x).time = s.time := by
    unfold raise
    dsimp only
    split
    · exact (inKa_enterKeepAlive (P := (· = s.time)) (logRec_time s h x) _).2
    · exact logRec_time s h x
  unfold raiseAll
  dsimp only
  split
  · next hka =>
    have hin : InKa (· = s.time) (raise s h x) := ⟨Bool.and_elim_left hka, hraise⟩
    exact hin.npAll.2
  · exact hraise

end

/-! ### What a change of leader aborts keeps the latch, fabric time and vector 7 -/

/-- The latch is `l`, fabric time `x`, and vector 7 is signalled if `b`. -/
def Latched (l : Lead) (x : Time) (b : Bool) (s : State) : Prop :=
  s.lead = l ∧ s.time = x ∧ (b = true → bit s.dev.irqStat 7 = true)

section
variable {l : Lead} {x : Time} {b : Bool} {s : State} (hk : Latched l x b s)

/-- Bits of a vector's word stay set where another bit is set. -/
theorem bit_or_left {w : Nat} {u v : BitVec w} {i : Nat} (h : bit u i = true) : bit (u ||| v) i = true := by
  simp only [bit, BitVec.getLsbD_or, Bool.or_eq_true] at h ⊢
  exact .inl h

theorem msiSignal_irqStat (s : State) (n : Nat) : (msiSignal s n).dev.irqStat = s.dev.irqStat := by
  unfold msiSignal
  split <;> rfl

/-- A vector stays signalled where another one is. -/
theorem irq_keeps {i : Nat} (h : bit s.dev.irqStat i = true) (n : Nat) : bit (irq s n).dev.irqStat i = true := by
  unfold irq
  split
  · exact h
  · dsimp only
    split
    · rw [msiSignal_irqStat]
      exact bit_or_left h
    · exact bit_or_left h

/-- A vector that is signalled shows in IRQ_STAT. -/
theorem irq_sets (s : State) (n : Nat) (hn : n < 16) : bit (irq s n).dev.irqStat n = true := by
  have hset : bit (s.dev.irqStat ||| bv 16 (2 ^ n)) n = true := by
    simp only [bit, bv, BitVec.getLsbD_or, BitVec.getLsbD_ofNat, Nat.testBit_two_pow_self, hn,
      decide_true, Bool.and_true, Bool.or_true]
  unfold irq
  split
  · assumption
  · dsimp only
    split
    · rw [msiSignal_irqStat]
      exact hset
    · exact hset

include hk

protected theorem Latched.ite {c : Prop} [Decidable c] {t : State} (ht : Latched l x b t) :
    Latched l x b (if c then t else s) := by
  split <;> assumption
protected theorem Latched.foldl {α : Type} {f : State → α → State} {ys : List α}
    (hf : ∀ t y, Latched l x b t → Latched l x b (f t y)) : Latched l x b (ys.foldl f s) := by
  induction ys generalizing s with
  | nil => exact hk
  | cons y ys ih => exact ih (hf _ _ hk)
protected theorem Latched.withLink {y} : Latched l x b (s.setLink y) := hk
protected theorem Latched.withMem {y} : Latched l x b (s.setMem y) := hk
protected theorem Latched.withFrm {y} : Latched l x b (s.setFrm y) := hk
protected theorem Latched.withMmu {y} : Latched l x b (s.setMmu y) := hk
protected theorem Latched.withSlot {y} : Latched l x b (s.setSlot y) := hk
protected theorem Latched.withUpd {y} : Latched l x b (s.setUpd y) := hk
protected theorem Latched.withMir {y} : Latched l x b (s.setMir y) := hk
protected theorem Latched.withErr {y} : Latched l x b (s.setErr y) := hk
protected theorem Latched.setChv {u y} : Latched l x b (setChv s u y) := hk
protected theorem Latched.setBlk {k y} : Latched l x b (setBlk s k y) := hk
protected theorem Latched.setJobReg {fil j} : Latched l x b (setJobReg s fil j) := hk
protected theorem Latched.setPair {fil p} : Latched l x b (setPair s fil p) := hk
protected theorem Latched.setDepth {fil d} : Latched l x b (setDepth s fil d) := hk
protected theorem Latched.delEntries {p} : Latched l x b (delEntries s p) := hk
protected theorem Latched.trimDepth {fil job d} : Latched l x b (trimDepth s fil job d) := hk
protected theorem Latched.setTold {fil outer n} : Latched l x b (setTold s fil outer n) := hk
protected theorem Latched.setBegun {fil y} : Latched l x b (setBegun s fil y) := hk
protected theorem Latched.irq {n} : Latched l x b (irq s n) := by
  obtain ⟨hl, hx, hb⟩ := hk
  have hirq := fun h => irq_keeps (hb h) n
  obtain ⟨d, heq⟩ := irq_only s n
  rw [heq] at hirq ⊢
  exact ⟨hl, hx, hirq⟩
protected theorem Latched.logRec {h r} : Latched l x b (logRec s h r) := by
  unfold Machine.logRec
  split
  · exact hk
  · split
    · exact hk.withErr
    · generalize stamp s h r = y
      dsimp only
      split
      · exact hk.withErr.irq
      · exact hk.withErr
protected theorem Latched.logSpine {r} : Latched l x b (logSpine s r) := by
  unfold Machine.logSpine
  split
  · exact hk.logRec
  · exact hk.logRec.logRec
protected theorem Latched.withRdy {r n} : Latched l x b (s.setDev { s.dev with rdy := r, rdyChg := n }) := hk
protected theorem Latched.refreshRdy : Latched l x b (refreshRdy s) := by
  unfold Machine.refreshRdy
  generalize rdyBits s = new
  dsimp only
  split
  · exact hk
  · generalize (List.range 64).filter (fun n => bit s.dev.rdy n && !bit new n) = gone
    exact hk.withRdy.irq.foldl fun _ _ h => h.logSpine
protected theorem Latched.finish {k code} : Latched l x b (finish k code s) := .ite hk.setBlk hk.setBlk.irq
protected theorem Latched.lineRec {code sev pa u} : Latched l x b (lineRec s code sev pa u) := by
  unfold Machine.lineRec
  dsimp only
  split <;> exact hk.logRec
protected theorem Latched.frameCount {pa} : Latched l x b (frameCount s pa) := by
  have hroll : Latched l x b (patRoll s) := .ite hk hk.withFrm
  unfold Machine.frameCount
  dsimp only
  split
  · exact hroll
  · exact .ite hroll.withFrm hroll.withFrm.logRec
protected theorem Latched.meetLine {r} : Latched l x b (meetLine s r) := by
  cases r with
  | clean => exact hk
  | corrected => exact (Latched.ite hk.withFrm.withFrm.lineRec hk.withFrm.withFrm).frameCount
  | bad => exact Latched.lineRec (hk.withFrm.withMem)
protected theorem Latched.readLine {n} : Latched l x b (readLine s n) := .ite hk.withMem.meetLine hk
protected theorem Latched.logPt {id e} : Latched l x b (logPt s id e) := by
  unfold Machine.logPt
  split
  · exact hk.readLine.logRec
  · exact hk.readLine
  · exact hk
protected theorem Latched.storeVa {id va bs} : Latched l x b (storeVa s id va bs) := by
  obtain ⟨m, heq⟩ := writeVa_only s none id va bs
  have hwrite : Latched l x b (writeVa s none id va bs).1 := by
    rw [heq]
    exact hk
  unfold Machine.storeVa
  split
  · next e => exact Latched.logPt (by rwa [e] at hwrite)
  · next e => rwa [e] at hwrite
protected theorem Latched.logDepth {job d} : Latched l x b (logDepth s job d) := hk.logSpine
protected theorem Latched.leaveRegion : Latched l x b (leaveRegion s) := .ite hk.withFrm hk
protected theorem Latched.newDepth {fil d} : Latched l x b (newDepth s fil d) := by
  unfold Machine.newDepth
  refine .ite ?_ hk
  split
  · exact hk.setDepth.trimDepth.logDepth
  · exact hk.setDepth
protected theorem Latched.rechoose : Latched l x b (rechoose s) := hk.newDepth.newDepth
protected theorem Latched.dropJob {fil job} : Latched l x b (dropJob s fil job) := by
  have hleft := hk.setJobReg (fil := fil) (j := none) |>.delEntries (p := fun e => e.fil == fil) |>.leaveRegion
  unfold Machine.dropJob
  split
  · exact hk.rechoose
  · dsimp only
    generalize hu : (if (pairOf _ fil).st = .lost then _ else _) = u
    have hpair : Latched l x b u := hu ▸ .ite hleft.withMir hleft.withMir.setPair
    exact (Latched.ite hpair.setDepth.logDepth hpair).setTold.setBegun.rechoose
protected theorem Latched.putBack {w} : Latched l x b (putBack w s) := hk.foldl fun _ _ h => h.storeVa
protected theorem Latched.undoRollback : Latched l x b (undoRollback s) := (Latched.ite hk hk.putBack).withUpd
protected theorem Latched.undoPairing : Latched l x b (undoPairing s) := by
  unfold Machine.undoPairing
  dsimp only
  split
  · exact hk.withMir
  · exact (Latched.ite hk.putBack.withUpd.dropJob hk.putBack).withMir
protected theorem Latched.abortCmds : Latched l x b (abortCmds s) :=
  hk.withMmu.withSlot.withUpd.undoRollback.undoPairing
protected theorem Latched.dropRuns : Latched l x b (dropRuns s) := hk.foldl fun _ _ h => .ite h h.setChv
protected theorem Latched.dropBusy : Latched l x b (dropBusy s) :=
  hk.withLink.abortCmds.dropRuns.foldl fun _ _ h => .ite h h.finish

end

/-! ### Handling, and the lease -/

section
variable {s : State} {h : Half}

/-- The end of a record's handling, but for a Fatal one of scope device (R375). -/
theorem execRecordHandlingEnd_handled {c : Hand} {cs : List Hand} (hhand : (s.err.ring.get h).hand = c :: cs)
    (hka : s.err.ka = false) (hsage : s.boot.sage.get h = true) (hsev : c.sev ≠ 3 ∨ c.scope ≠ 0) :
    execRecordHandlingEnd h s = .next (s.setErr { s.err with ring := s.err.ring.upd h Ring.handled }) := by
  have hfatal : ¬ (c.sev = 3 ∧ c.scope = 0) := by tauto
  simp [execRecordHandlingEnd, hhand, hka, hsage, hfatal]

/-- The host takes records up to the head (R376). -/
theorem execErrTail_takes {v : B32} (hon : regsOn s = true)
    (hv : (v - (s.err.ring.get h).tail).toNat ≤ ((s.err.ring.get h).head - (s.err.ring.get h).tail).toNat) :
    execErrTail h v s = .next (s.setErr { s.err with ring := s.err.ring.set h { s.err.ring.get h with tail := v } }) := by
  rw [execErrTail, if_neg (not_or.2 ⟨by simp [hon], Nat.not_lt.2 hv⟩)]

/-- A leader that reaches the other half has not lost it. -/
theorem leadLost_of_reach (hreach : (s.lead.half.get (otherHalf h)).reach = true) : leadLost s h = s := by
  simp [leadLost, hreach]

/-- After a change of leader the latch and fabric time stand, and vector 7 stays signalled. -/
protected theorem Latched.leadChange {l : Lead} {x : Time} {old : Option Half} (hk : Latched l x false s) :
    Latched l x (decide (l.holder ≠ old)) (leadChange s old) := by
  obtain rfl : s.lead = l := hk.1
  have hsig : Latched s.lead x (decide (s.lead.holder ≠ old))
      (if s.lead.holder = old then s else irq (logSpine s { code := 0x0901, scope := 0 }) 7) := by
    split
    · next heq => exact ⟨rfl, hk.2.1, fun hne => absurd heq (of_decide_eq_true hne)⟩
    · obtain ⟨hl, hx, -⟩ := (hk.logSpine (r := { code := 0x0901, scope := 0 })).irq (n := 7)
      exact ⟨hl, hx, fun _ => irq_sets _ 7 (by decide)⟩
  exact .ite hsig hsig.dropBusy

/-- A claim where no lease is valid takes the latch for 16 beats (R381). -/
theorem execLeaseClaim_claims (hpath : latchPath s h = true) (hnone : leader s = none) (hold : s.lead.holder ≠ some h)
    (hreach : (s.lead.half.get (otherHalf h)).reach = true) : ∃ t, execLeaseClaim h s = .next t ∧
      Latched { s.lead with
        holder := some h, epoch := s.lead.epoch + 1, expiry := beat s + 16
        half := s.lead.half.upd h fun v => { v with readBeat := beat s, mine := true, expiry := beat s + 16 } }
        s.time true t := by
  have hvalid : leaseValid s = false := by simp [leaseValid, hnone]
  unfold execLeaseClaim
  rw [if_neg (by simp [hpath, hvalid]), if_neg (by simp [hvalid])]
  dsimp only
  generalize hl : ({ s.lead with
    holder := some h, epoch := s.lead.epoch + 1, expiry := beat s + 16
    half := s.lead.half.upd h fun v => { v with readBeat := beat s, mine := true, expiry := beat s + 16 } } : Lead) = l
  have hchange : Latched l s.time true (leadChange (s.setLead l) s.lead.holder) := by
    have hk : Latched l s.time false (s.setLead l) := ⟨rfl, rfl, fun hf => absurd hf Bool.false_ne_true⟩
    have hne : decide (l.holder ≠ s.lead.holder) = true := by
      rw [← hl]
      exact decide_eq_true hold.symm
    rw [← hne]
    exact hk.leadChange
  have hreach1 : ((leadChange (s.setLead l) s.lead.holder).lead.half.get (otherHalf h)).reach = true := by
    rw [hchange.1, ← hl]
    simpa [Two.upd, Two.get_set_ne _ _ _ _ (otherHalf_ne h)] using hreach
  rw [leadLost_of_reach hreach1]
  exact ⟨_, rfl, hchange.refreshRdy⟩

@[simp] theorem refreshRdy_lead (s : State) : (refreshRdy s).lead = s.lead := by
  obtain ⟨e, d, heq, -⟩ := refreshRdy_only s
  rw [heq, State.setDev_lead, State.setErr_lead]

section
variable (hlead : leader s = some h)
include hlead

/-- The leader renews in every fourth beat (R382). -/
theorem execLeaseRenew_renews (hpath : latchPath s h = true) (hmine : (s.lead.half.get h).mine = true)
    (hbeat : beat s % 4 = 0) (hforced : s.lead.forced = false) (hreach : (s.lead.half.get (otherHalf h)).reach = true) :
    execLeaseRenew h s = .next (s.setLead { s.lead with
      expiry := beat s + 16
      half := s.lead.half.upd h fun v => { v with readBeat := beat s, mine := true, expiry := beat s + 16 } }) := by
  unfold execLeaseRenew
  rw [if_pos hlead, leadLost_of_reach hreach]
  dsimp only
  rw [if_neg (by simp [hpath, hmine, hbeat, hforced]), if_pos hlead]

/-- The leader looks for the half that it has lost in every beat, and records it once (R385). -/
theorem execLeaseRenew_loses (hbeat : beat s % 4 ≠ 0) (hsage : s.boot.sage.get (otherHalf h) = true)
    (hreach : (s.lead.half.get (otherHalf h)).reach = false)
    (hexp : (s.lead.half.get (otherHalf h)).expiry ≤ beat s) (htold : (s.lead.half.get (otherHalf h)).told = false) :
    execLeaseRenew h s = .next (raiseAll (s.setLead { s.lead with
      half := s.lead.half.upd (otherHalf h) fun v => { v with told := true } }) h
      { code := 0x0902, sev := 3, scope := 0 }) := by
  have hlost : leadLost s h = raiseAll (s.setLead { s.lead with
      half := s.lead.half.upd (otherHalf h) fun v => { v with told := true } }) h
      { code := 0x0902, sev := 3, scope := 0 } := by
    rw [leadLost, if_pos (by simp [hsage, hreach, hexp, htold])]
  have hsame : beat (leadLost s h) = beat s := by
    rw [beat, hlost, raiseAll_time, State.setLead_time, beat]
  unfold execLeaseRenew
  rw [if_pos hlead]
  dsimp only
  rw [hsame, if_pos (.inr (.inr (.inl hbeat))), hlost]

end

/-- A holder whose lease has run out no longer leads (R380). -/
theorem execLeaseExpiry_expires (hholder : s.lead.holder = some h) (hnone : leader s = none) :
    execLeaseExpiry s = .next (refreshRdy (s.setLead { s.lead with
      half := s.lead.half.upd h fun v => { v with mine := false } })) := by
  simp only [execLeaseExpiry, hholder, leaseValid, hnone, Option.isSome_none, Bool.false_eq_true, if_false]

/-- A half whose path to the latch fails, with what it makes of its view of the lease (R384). -/
def cutOff (s : State) (h : Half) : State := s.setLead { s.lead with half := s.lead.half.upd h fun v =>
  { v with reach := false, ft := ownTime s h, stopped := v.stopped || decide (v.expiry ≤ halfBeat s h + 1) } }

/-- While the other half has not stopped, the half alone is cut off. -/
theorem execSpineUnreachableStop_stops (hon : s.pwr.on = true) (hsage : s.boot.sage.get h = true)
    (hother : (s.lead.half.get (otherHalf h)).stopped = false) :
    execSpineUnreachableStop h s = .next (refreshRdy (cutOff s h)) := by
  have hboth : ((cutOff s h).lead.half.w.stopped && (cutOff s h).lead.half.e.stopped) = false := by
    cases h
    · exact Bool.and_eq_false_iff.2 (.inr hother)
    · exact Bool.and_eq_false_iff.2 (.inl hother)
  unfold execSpineUnreachableStop
  rw [if_neg (by simp [hon, hsage])]
  dsimp only
  rw [refreshRdy_lead, if_neg (by rw [← cutOff, hboth]; simp)]
  rfl

theorem halfOf_halfNo (h : Half) : halfOf (halfNo h) = h := by cases h <;> rfl

/-- LEAD_FORCE with its key gives the half that it names a lease without an end (R386). -/
theorem execLeadForce_forces {v : B32} (hon : regsOn s = true) (hka : s.err.ka = true) (hkey : bits v 31 16 = 0x4C46)
    (hhalf : bits v 1 0 = halfNo h + 1) : ∃ t, execLeadForce v s = .next t ∧
      t.lead = { s.lead with holder := some h, epoch := s.lead.epoch + 1, forced := true } := by
  have hn : ¬ (halfNo h + 1 ≠ 1 ∧ halfNo h + 1 ≠ 2) := by cases h <;> decide
  have hforce : leadForce v s = some (refreshRdy (leadChange (s.setLead
      { s.lead with holder := some h, epoch := s.lead.epoch + 1, forced := true }) s.lead.holder)) := by
    unfold leadForce
    dsimp only
    rw [hhalf, if_neg (by simp only [hka, hkey]; tauto), Nat.add_sub_cancel, halfOf_halfNo]
  refine ⟨_, by rw [execLeadForce, hon, hforce]; rfl, ?_⟩
  rw [Option.getD_some, refreshRdy_lead]
  exact (Latched.leadChange ⟨rfl, rfl, fun hf => absurd hf Bool.false_ne_true⟩).1

end

/-- Settles O43: handling, tails, and each step of the lease. -/
theorem handlingAndLeadership : Obligations.HandlingAndLeadership := by
  unfold Obligations.HandlingAndLeadership
  refine fun s h => ⟨fun c l => execRecordHandlingEnd_handled, fun v => execErrTail_takes,
    fun hpath => ⟨fun hnone hold hreach => ?claim, fun hmine hbeat hforced hlead hreach => ?renew⟩,
    fun hlead hbeat => ?lost, fun hholder hnone => ?expiry, fun hon hsage hother => ?stop,
    fun v hon hka hkey hhalf => ?force⟩
  case claim =>
    obtain ⟨t, ht, hlead, htime, hirq⟩ := execLeaseClaim_claims hpath hnone hold hreach
    have hlt : beat t < t.lead.expiry := by
      rw [hlead, beat, htime]
      exact Nat.lt_add_of_pos_right (by decide)
    have hholder : t.lead.holder = some h := by rw [hlead]
    exact ⟨t, ht, hholder, by rw [hlead], by rw [hlead], leader_eq_some_iff.2 ⟨hholder, .inr hlt⟩, hirq rfl⟩
  case renew => exact execLeaseRenew_renews hlead hpath hmine hbeat hforced hreach
  case lost => exact fun hsage hreach hexp htold => execLeaseRenew_loses hlead hbeat hsage hreach hexp htold
  case expiry =>
    refine ⟨_, execLeaseExpiry_expires hholder hnone, ?_, ?_, refreshRdy_mem _⟩
    · rw [refreshRdy_lead, State.setLead_lead, Two.get_upd_self]
    · rw [refreshRdy_lead, State.setLead_lead, hholder]
  case stop =>
    refine ⟨_, execSpineUnreachableStop_stops hon hsage hother, ?_, ?_, refreshRdy_mem _⟩ <;>
      rw [refreshRdy_lead, cutOff, State.setLead_lead, Two.get_upd_self]
  case force =>
    obtain ⟨t, ht, hlead⟩ := execLeadForce_forces hon hka hkey hhalf
    exact ⟨t, ht, by rw [hlead], by rw [hlead], by rw [hlead]⟩

end Sys2Proof.Machine
end

section
/-!
PROOFS. Pairing, promotion and the pairing messages (R348 to R350, R365, R366).
-/

namespace Sys2Proof.Machine

/-! ### Commands of the resilience block -/

section
variable {s : State} {w : BitVec 56} (hr : cmdReady .resilience s = true) (hw : bits w 43 17 = 0)
  (h0 : bits (mirArg0 s) 63 49 = 0) (h1 : bits (mirArg1 s) 63 52 = 0)
include hr hw h0 h1

/-- A command of the resilience block that is ready and spells no reserved bit takes its effect (R348, R445). -/
theorem mirCmd_ready {ka : Bool} {c : Instr} {body : State → State} : mirCmd ka c w s body = .next (body s) := by
  simp [mirCmd, cmd_eq hr, hw, h0, h1]

/-- PAIR offers the pairing to a device that is watched and no Husil peer, from a pair that is off or down. -/
theorem execPair_offers (hst : (getCtx s (bits w 55 44)).st ≠ .free) (hjob : (getCtx s (bits w 55 44)).job = mirJob s)
    (hp : (pairOf s (getCtx s (bits w 55 44)).fil).st = .off ∨ (pairOf s (getCtx s (bits w 55 44)).fil).st = .down)
    (hwatch : watched s (localPeer s (bits w 16 0)) = true) (hhusil : husilPeer s (localPeer s (bits w 16 0)) = false) :
    let c := getCtx s (bits w 55 44)
    execPair w s = .next (sendPair (busy .resilience (setPair (s.setMir { s.mir with wasPairs := (s.mir.p, s.mir.f) })
      c.fil ⟨.pairing, bits w 16 0, 0, c.job, bits w 55 44, true, 0⟩)) c.fil false) := by
  rw [execPair, mirCmd_ready hr hw h0 h1]
  dsimp only
  rw [if_neg (not_or.2 ⟨hst, not_not.2 hjob⟩), if_neg (by tauto), hwatch, hhusil, if_neg (by decide)]

/-- UNPAIR takes the pair down that serves the job with that partner. -/
theorem execUnpair_downs {fil : Bool} (hfil : ([false, true].find? fun fil => (pairOf s fil).job = mirJob s &&
      (pairOf s fil).partner == bits w 16 0 && pairServes (pairOf s fil)) = some fil) :
    execUnpair w s = .next (finish .resilience 0 (downPair s fil)) := by
  rw [execUnpair, mirCmd_ready hr hw h0 h1, hfil]

/-- SUBSTITUTE takes effect while no collective of the job is under way. -/
theorem execSubstitute_idle
    (hidle : (s.col.colls.any fun c => c.job = mirJob s && (c.st = .queued || c.st = .running)) = false) :
    execSubstitute w s = .next (finish .resilience 0 (substitute s (mirJob s) (bits w 16 0) (bits (mirArg0 s) 48 32))) := by
  rw [execSubstitute, mirCmd_ready hr hw h0 h1, hidle, if_neg Bool.false_ne_true]

/-- PROMOTE keeps what it found and asks for the first shard of its list (R365, R366). -/
theorem execPromote_starts {es : List (BitVec 64)} {todo : List (Nat × Bool)}
    (hes : promoList s 8192 (hostBase + (mirArg1 s).toNat) = es) (htodo : es.map (fun e => (bits e 51 0, bit e 63)) = todo)
    (hst : (getCtx s (bits w 55 44)).st ≠ .free) (hjob : (getCtx s (bits w 55 44)).job = mirJob s)
    (halign : (mirArg1 s).toNat % 64 = 0) (hend : hostBase + (mirArg1 s).toNat + 8 ≤ 2 ^ 48)
    (hoff : (pairOf s (getCtx s (bits w 55 44)).fil).st = .off) (hwatch : watched s (localPeer s (bits w 16 0)) = true)
    (hlink : s.dev.linkUp = true) (hres : ∀ e ∈ es, bits e 62 52 = 0)
    (hshard : ∀ e ∈ todo, promoShard s (bits w 55 44) e ≠ none)
    (hsrc : isAbsent s (localPeer s (bits w 16 0)) = false) :
    execPromote w s = .next (promoNext (busy .resilience (s.setMir { s.mir with
      promo := some ⟨(getCtx s (bits w 55 44)).job, bits w 16 0, bits w 55 44, todo, 0, false⟩, promoBlocks := 0
      wasPairs := (s.mir.p, s.mir.f), wasShards := s.upd.shards
      was := imagesOf s (todo.filterMap (promoShard s (bits w 55 44))) }))) := by
  have hany : (es.any fun e => bits e 62 52 != 0) = false := by simpa using hres
  have hfind : (todo.find? fun e => (promoShard s (bits w 55 44) e).isNone) = none := by simpa using hshard
  subst hes htodo
  rw [execPromote, mirCmd_ready hr hw h0 h1]
  dsimp only
  rw [if_neg (by simp [hst, hjob, halign]; omega), if_neg (not_not.2 hoff), hwatch, if_neg (by decide),
    hostCmd, if_pos hlink, hany, if_neg Bool.false_ne_true, hfind]
  exact congrArg Host.Outcome.next (if_neg (ne_true_of_eq_false hsrc))

end

/-! ### Pairing messages -/

section
variable {s : State} {m : PairMsg} {fil : Bool} (hlive : live s = true) (hon : transportOn s = true)
  (hka : s.err.ka = false) (hfrom : pairFrom s m.job m.src = some fil)
include hlive hon hka hfrom

/-- A pairing message of the pair's partner reaches the pair. -/
theorem fromPair_partner (k : Bool → State) : fromPair s m k = .next (k fil) := by
  simp [fromPair, pairingFrom, hlive, hon, hka, hfrom]

variable (hlead : mayLead s = true) (hp : (pairOf s fil).st = .pairing)
include hlead hp

/-- A request is answered and tested. -/
theorem execPairReq_pairing (hsub : subFrom s m.job m.src = none) :
    execPairReq m s = .next (pairTest (sendPair s fil true) fil m) := by
  have htake : takeSub s m = s := by simp [takeSub, hsub]
  simp [execPairReq, hka, hsub, hlead, htake, fromPair_partner hlive hon hka hfrom, hp]

theorem execPairAck_pairing : execPairAck m s = .next (pairTest s fil m) := by
  simp [execPairAck, fromPair_partner hlive hon hka hfrom, hp, hlead]

end

/-- Settles O40, command by command and message by message. -/
theorem pairingAndPromotion : Obligations.PairingAndPromotion := by
  unfold Obligations.PairingAndPromotion
  refine ⟨fun s w hr hw h0 h1 => ⟨?_, fun fil hfil => ?_, fun hidle => ?_, ?_⟩,
    fun s m fil hlive hon hka hlead hsub hfrom hp => ⟨?_, ?_⟩⟩
  · exact execPair_offers hr hw h0 h1
  · exact execUnpair_downs hr hw h0 h1 hfil
  · exact execSubstitute_idle hr hw h0 h1 hidle
  · exact fun hst hjob halign hend hoff hwatch hlink hres hshard hsrc =>
      execPromote_starts hr hw h0 h1 rfl rfl hst hjob halign hend hoff hwatch hlink hres hshard hsrc
  · exact execPairReq_pairing hlive hon hka hfrom hlead hp hsub
  · exact execPairAck_pairing hlive hon hka hfrom hlead hp

end Sys2Proof.Machine
end

section
/-!
PROOFS. The mirror check and the divergence procedure (R351 to R359), and the messages of a partner.
-/

namespace Sys2Proof.Machine

/-! ### The mirror check -/

/-- What a check reads of its shard first only meets errors. -/
theorem meetShard_met (s : State) (sh : Shard) : OnlyMet s (meetShard s sh) := by
  unfold meetShard
  split
  · exact OnlyMet.refl s
  · exact OnlyMet.foldl _ (fun t g => meetVa_met t none sh.ctx _ _) _ s

theorem ownPeer_meetShard (s : State) (sh : Shard) : ownPeer (meetShard s sh) = ownPeer s := by
  obtain ⟨m, f, e, d, h, -⟩ := meetShard_met s sh
  rw [h]
  rfl

section
variable {s : State} {job : B32} {shard : Nat} {mirror : Bool} {sh : Shard} {c : Chk}
  (hsh : shardBy s job shard mirror = some sh)
  (hc : (s.mir.chks.find? fun c => c.job = job && c.shard == shard && c.mirror == mirror && !c.done &&
    c.mine.isNone) = some c)
  (hlive : live s = true) (hka : s.err.ka = false) (hserves : pairServes (pairOf s sh.fil) = true)
  (hdue : chkDue s sh c = true)
include hsh hc hlive hka hserves hdue

/-- A check that is due computes its list, unless a block of the shard cannot be read (R352). -/
theorem execDigestListComputed_due : execDigestListComputed job shard mirror s =
    (checkErr (meetShard s sh) sh c.outer).elim
      (.next (giveVerdict (sendDigests (meetShard s sh) (pairOf s sh.fil)
        ⟨ownPeer (meetShard s sh), job, c.step, shard, mirror, digestList (meetShard s sh) sh c.outer⟩) sh.fil
        { c with mine := some (digestList (meetShard s sh) sh c.outer) }))
      fun e => .next (poisonVote (logPt (meetShard s sh) sh.ctx e) job e) := by
  unfold execDigestListComputed
  rw [hsh, hc, ownPeer_meetShard]
  dsimp only
  rw [if_neg (by simp [hlive, hka, hserves, hdue])]
  cases checkErr (meetShard s sh) sh c.outer <;> rfl

end

/-! ### Messages of a partner -/

section
variable {s : State} {job : B32} {src : Peer} (hlive : live s = true) (hon : transportOn s = true)

include hlive hon in
/-- A message about a job from a device that is no partner of its pair is counted. -/
theorem fromPartner_foreign (hfrom : pairFrom s job src = none) (k : Bool → State) :
    fromPartner s job src k = .next (lovForeign s) := by
  simp [fromPartner, hlive, hon, hfrom]

variable (hka : s.err.ka = false) {fil : Bool} (hfrom : pairFrom s job src = some fil)
include hlive hon hka hfrom

/-- A message of the pair's partner takes its effect on the pair. -/
theorem fromPartner_effect (k : Bool → State) : fromPartner s job src k = .next (k fil) := by
  simp [fromPartner, hlive, hon, hka, hfrom]

variable (hserves : pairServes (pairOf s fil) = true) {c : Chk} {step shard : Nat} {mirror : Bool}
  (hc : findChk s job step shard (!mirror) = some c)
include hserves hc

/-- The partner's list is taken once, and a verdict given. -/
theorem execDigest_first (htheirs : c.theirs = none) (l : List B64) : execDigest ⟨src, job, step, shard, mirror, l⟩ s =
    .next (giveVerdict s fil { c with theirs := some l }) := by
  simp [execDigest, fromPartner_effect hlive hon hka hfrom, hc, hserves, htheirs]

/-- The partner's verdict is taken once. -/
theorem execVerdict_first (hgot : c.got = none) (agree : Bool) (first count : Nat) :
    execVerdict src job step shard mirror agree first count s =
      .next (settleChk (putChk s { c with got := some (agree, first, count) }) fil
        { c with got := some (agree, first, count) }) := by
  simp [execVerdict, fromPartner_effect hlive hon hka hfrom, hc, hserves, hgot]

end

/-! ### The end of the divergence procedure -/

section
variable {s : State} {job : B32} {shard : Nat} {d : Dvg} {c : Chk} {sh : Shard} {a b : List B64}
  (hd : (s.mir.dvg.find? fun d => d.job = job && d.shard == shard && s.mir.chks.any fun c => c.job = job &&
    c.shard == shard && c.mirror == d.mirror && c.step == d.step && c.again.isSome && c.mine.isSome &&
    c.theirs.isSome && c.given.isSome && c.got.isSome) = some d)
  (hc : findChk s job d.step shard d.mirror = some c) (hsh : shardBy s job shard d.mirror = some sh)
  (ha : c.mine = some a) (hb : c.theirs = some b) (hlive : live s = true) (hka : s.err.ka = false)
include hd hc hsh ha hb hlive hka

/-- The copy that both second lists name is kept, the shard's own first (Table 11-4); two lists that differ are fatal. -/
theorem execDivergenceEnd_lists : execDivergenceEnd job shard s =
    if a ≠ b then .next (mirrorFatal s sh.fil shard)
    else if a = d.dOwn then .next (dvgKept s sh.fil sh d c true)
    else if a = d.dMir then .next (dvgKept s sh.fil sh d c false)
    else .next (mirrorFatal s sh.fil shard) := by
  unfold execDivergenceEnd
  rw [hd]
  dsimp only
  rw [hc, hsh]
  dsimp only
  rw [if_neg (by simp [hlive, hka]), ha, hb]
  cases d.mirror
  · rfl
  · simp only [Option.getD_some, if_true]
    by_cases hab : a = b <;> simp [hab, eq_comm]

end
/-- Settles O41: lists, verdicts, and the three ends of the divergence procedure. -/
theorem mirrorCheckAndDivergence : Obligations.MirrorCheckAndDivergence := by
  unfold Obligations.MirrorCheckAndDivergence
  refine ⟨fun s job shard mirror sh c hsh hc hlive hka hserves hdue => ⟨fun herr => ?_, fun e herr => ?_⟩,
    fun s job src fil c step shard mirror hlive hon hka hfrom hserves hc =>
      ⟨fun l htheirs => ?_, fun agree first count hgot => ?_⟩,
    fun s d c sh a b hd hc hsh ha hb hlive hka => ⟨fun hab hown => ?_, fun hab hown hmir => ?_, fun hab => ?_⟩⟩
  · rw [exec_digestListComputed, execDigestListComputed_due hsh hc hlive hka hserves hdue, herr, Option.elim_none]
  · rw [exec_digestListComputed, execDigestListComputed_due hsh hc hlive hka hserves hdue, herr, Option.elim_some]
  · exact execDigest_first hlive hon hka hfrom hserves hc htheirs l
  · exact execVerdict_first hlive hon hka hfrom hserves hc hgot agree first count
  all_goals rw [exec_divergenceEnd, execDivergenceEnd_lists hd hc hsh ha hb hlive hka]
  · rw [if_neg (not_not.2 hab), if_pos hown]
  · rw [if_neg (not_not.2 hab), if_neg hown, if_pos hmir]
  · rw [if_pos hab]

end Sys2Proof.Machine
end

section
/-!
PROOFS. Records and copies between partners (R251, R353, R355, R356, R364, R366).
-/

namespace Sys2Proof.Machine

/-! ### Records and copies between partners -/

section
variable {s : State} {job : B32} {src : Peer} {fil : Bool} (hlive : live s = true) (hon : transportOn s = true)
  (hka : s.err.ka = false)
include hlive hon hka

section
variable (hfrom : pairFrom s job src = some fil)
include hfrom

/-- The partner asks for the record of a step: it is sent while it is good (R251). -/
theorem execUndoReq_partner {x : ShardRef} {step : Nat} {sh : Shard} {e : JEnt} (hsh : shardBy s job x.idx false = some sh)
    (he : findEnt (checkEnt s fil x.outer step) fil x.outer step = some e) : execUndoReq src job step x s = .next
      (if entGood (checkEnt s fil x.outer step) e sh then sendUndo (checkEnt s fil x.outer step) src sh e false
        else undoNone (checkEnt s fil x.outer step) src sh step) := by
  simp only [execUndoReq, fromPartner_effect hlive hon hka hfrom, hsh, he]

/-- The partner's report that it holds a record is kept once. -/
theorem execUndoRecordReport_first {step : Nat} {outer : Bool}
    (hnew : s.upd.owner.contains ⟨job, step, outer, src⟩ = false) : execUndoRecordReport src job step outer s =
      .next (s.setUpd { s.upd with owner := s.upd.owner ++ [⟨job, step, outer, src⟩] }) := by
  simp only [execUndoRecordReport, fromPartner_effect hlive hon hka hfrom, hnew, Bool.false_eq_true, if_false]

/-- A partner that asks for a whole shard is sent its copy (R366). -/
theorem execFetchReq_copy {shard : Nat} {sh : Shard} (hsh : shardBy s job shard true = some sh) :
    execFetchReq src job shard true none s = .next (sendCopy s src sh) := by
  simp [execFetchReq, hlive, hon, hka, hfrom, hsh]

end

variable {b : Blocks}

section
variable (hfrom : pairFrom s b.job b.src = some fil)
include hfrom

/-- Blocks of a record that a divergence waits for are written to the mirror shard (R356). -/
theorem execUndoData_divergence {step : Nat} {sh : Shard} {d : Dvg} (hsh : shardBy s b.job b.shard true = some sh)
    (hlast : b.last = false) (hd : (s.mir.dvg.find? fun d =>
      d.job = b.job && d.shard == b.shard && d.mirror && d.step == step && !d.restored) = some d) :
    execUndoData b step s = .next (writeBlocks s sh b.kind b.first b.data) := by
  simp only [execUndoData, fromPartner_effect hlive hon hka hfrom, hsh, hd, hlast, Bool.false_eq_true, if_false]

/-- Blocks that repair a shard are written while the pair is up and the copy settled; none mean that the partner has none
(R353). -/
theorem execFetchData_repair {sh : Shard} (hpromo : promoFrom s b = none) (hkind : b.kind ≠ 2)
    (hsh : awaited s b = some sh) (hlast : b.last = true) (hhdr : b.hdr = []) (hblk : b.kind ≠ 5) : execFetchData b s = .next
      (if b.data.isEmpty then repairElse s sh b.kind
        else if (pairOf s fil).st = .up ∧ copySettled s sh then writeBlocks s sh b.kind b.first b.data else s) := by
  simp [execFetchData, hlive, hon, hpromo, fromPartner_effect hlive hon hka hfrom, hsh, hkind, hlast, hhdr, hblk]

end

/-- Blocks from the device that a PROMOTE copies from (R366). -/
theorem execFetchData_promo {p : Promo} {e : Nat × Bool} {es : List (Nat × Bool)} {sh : Shard} (hlead : mayLead s = true)
    (hp : s.mir.promo = some p) (hsrc : localPeer s p.src = b.src) (hjob : p.job = b.job) (htodo : p.todo = e :: es)
    (hsh : promoShard s p.ctx e = some sh) (hidx : sh.idx = b.shard) : execFetchData b s = .next (promoData s p sh b) := by
  have hfrom : promoFrom s b = some p := by simp [promoFrom, hp, hsrc, hjob]
  simp [execFetchData, hlive, hon, hfrom, htodo, hsh, hidx, hka, hlead]

end

/-- Settles O42, message by message; one from another device meets `fromPartner_foreign`. -/
theorem mirrorTransfers : Obligations.MirrorTransfers := by
  unfold Obligations.MirrorTransfers
  refine fun s job src hlive hon => ⟨fun fil hka hfrom => ⟨fun step x sh e hsh => ?undo, ?report,
    fun b step sh d hjob hsrc => ?data,
    fun shard sh => execFetchReq_copy hlive hon hka hfrom, fun b sh hjob hsrc hpromo hkind hsh hlast hhdr hblk => ?repair⟩,
    fun b p e es sh hjob hsrc hka hlead hp hpeer hpj htodo hsh hidx => ?promo,
    fun step shard hfrom => fromPartner_foreign hlive hon hfrom _⟩
  case undo =>
    refine fun he => ⟨fun hgood => ?_, fun hgood => ?_⟩ <;>
      rw [exec_undoReq, execUndoReq_partner hlive hon hka hfrom hsh he, hgood] <;> rfl
  case report => exact fun step outer => execUndoRecordReport_first hlive hon hka hfrom
  case data =>
    subst hjob hsrc
    exact fun hsh hlast hd => execUndoData_divergence hlive hon hka hfrom hsh hlast hd
  case repair =>
    subst hjob hsrc
    refine ⟨fun hdata hup hset => ?_, fun hdata => ?_⟩ <;>
      rw [exec_fetchData, execFetchData_repair hlive hon hka hfrom hpromo hkind hsh hlast hhdr hblk]
    · rw [if_neg (by simpa using hdata), if_pos ⟨hup, hset⟩]
    · rw [hdata, List.isEmpty_nil, if_pos rfl]
  case promo =>
    subst hjob hsrc
    exact execFetchData_promo hlive hon hka hlead hp hpeer hpj htodo hsh hidx

end Sys2Proof.Machine
end

section
/-!
PROOFS. Establishment of sessions between devices (R407 to R411).
-/

namespace Sys2Proof.Machine

section
variable {s : State} {p : Peer} (hon : sessOn s = true)
include hon

/-- S_INIT of a device with which no attempt runs is answered in the room that is found (R410). -/
theorem execSInit_answers {m : SInitIn} {t : State} (hnone : findAtt s m.src = none) (hroom : sessRoom s m.src = some t) :
    execSInit m s = .next (answerInit t m) := by
  simp [execSInit, hon, hnone, hroom]

/-- A session that has served its epochs is replaced by the lower device, in the room that is found (R411). -/
theorem execSessionReplace_starts {x : Sess} {t : State} (hsess : (s.sec.sess.find? fun x => x.peer = p && x.stop.isNone) = some x)
    (hlow : peerLt (ownPeer s) p = true) (hnone : findAtt s p = none) (hlife : x.first + bits (rd32 s 0x1C064) 7 0 ≤ s.fab.epoch)
    (hroom : sessRoom s p = some t) : execSessionReplace p s = .next (startAtt t p) := by
  simp [execSessionReplace, hsess, hon, hlow, hnone, Nat.not_lt.mpr hlife, hroom]

section
variable {a : Att} (ha : findAtt s p = some a)
include ha

/-- The initiator answers a response that verifies and accepts the session; any other ends the attempt (R408). -/
theorem execSResp_initiator (hinit : a.init = true) (hstage : a.stage = 1) (eph : BitVec 256) (ct : List Byte)
    (nonce : BitVec 256) (cert : SignedChain) :
    let th := respTh a eph ct nonce cert.chain
    execSResp p eph ct nonce cert s = .next (if respOk s th cert then
        openSess (sendFin s p th cert.sig) p (firstEpoch s p) th (srkOf (Config.x25519 a.eph eph) (Config.kemDecaps a.kem ct) th)
      else sessFail s p) := by
  intro th
  cases hok : respOk s th cert <;> simp [execSResp, ha, hon, hinit, hstage, th, hok]

/-- The responder accepts a session whose S_FIN verifies and whose FIRST_EPOCH it finds near its own (R407). -/
theorem execSFin_responder (hinit : a.init = false) (hstage : a.stage = 2) (first : Nat) (head : B128) (keyId ed : B512)
    (ml : BitVec 26472) : execSFin p first head keyId ed ml s = .next (
      if finOk s a first (finSig head keyId ed ml) && firstOk s p first then openSess s p first a.th a.srk else sessFail s p) := by
  cases hok : finOk s a first (finSig head keyId ed ml) && firstOk s p first <;>
    simp [execSFin, ha, hon, hinit, hstage, ← Bool.not_and, hok]

/-- A failed attempt that is due starts anew in the room that is found (R408, R410). -/
theorem execSessionRetry_starts {b : Nat} {t : State} (hretry : a.retry = some b) (hdue : b ≤ beat s)
    (hroom : sessRoom s p = some t) : execSessionRetry p s = .next (startAtt t p) := by
  simp [execSessionRetry, ha, hon, hretry, Nat.not_lt.mpr hdue, hroom]

end

end

/-- Settles O37, message by message, then the retry and the replacement. -/
theorem sessionEstablishment : Obligations.SessionEstablishment := by
  unfold Obligations.SessionEstablishment
  refine fun s p hon => ⟨fun m t hsrc => ?init, fun a ha => ⟨execSResp_initiator hon ha, execSFin_responder hon ha,
    fun b t => execSessionRetry_starts hon ha⟩, fun x t => execSessionReplace_starts hon⟩
  case init =>
    subst hsrc
    exact execSInit_answers hon

end Sys2Proof.Machine
end

section
/-!
PROOFS. The boot chain (R394 to R398, R437, R438), and the resets that start it anew or keep it (R441, R443).
-/

namespace Sys2Proof.Machine

/-! ### What records, vectors and readiness leave -/

@[simp] theorem logSpine_boot (s : State) (x : Rec) : (logSpine s x).boot = s.boot := by
  obtain ⟨e, d, h, -⟩ := logSpine_only s x
  rw [h, State.setDev_boot, State.setErr_boot]
@[simp] theorem refreshRdy_boot (s : State) : (refreshRdy s).boot = s.boot := by
  obtain ⟨e, d, h, -⟩ := refreshRdy_only s
  rw [h, State.setDev_boot, State.setErr_boot]
@[simp] theorem haltQueue_boot (s : State) (q cause : Nat) (byCmd : Bool) (addr : Nat) :
    (haltQueue s q cause byCmd addr).boot = s.boot := by
  obtain ⟨u, e, d, h, -⟩ := haltQueue_only s q cause byCmd addr
  rw [h, State.setDev_boot, State.setErr_boot, State.setQue_boot]

/-- Vector `i` is signalled: its bit of IRQ_STAT is set. -/
def Signalled (i : Nat) (s : State) : Prop := bit s.dev.irqStat i = true

section
variable {i : Nat} {s : State} (hk : Signalled i s)
include hk

protected theorem Signalled.irq {n : Nat} : Signalled i (irq s n) := irq_keeps hk n
protected theorem Signalled.withErr {e : Err} : Signalled i (s.setErr e) := hk
protected theorem Signalled.withRdy {r n} : Signalled i (s.setDev { s.dev with rdy := r, rdyChg := n }) := hk
protected theorem Signalled.foldl {α : Type} {f : State → α → State} {xs : List α}
    (hf : ∀ t x, Signalled i t → Signalled i (f t x)) : Signalled i (xs.foldl f s) :=
  List.foldlRecOn xs f hk fun t ht x _ => hf t x ht
protected theorem Signalled.logRec {h r} : Signalled i (logRec s h r) := by
  unfold Machine.logRec
  split
  · exact hk
  · split
    · exact hk.withErr
    · generalize stamp s h r = y
      dsimp only
      split
      · exact hk.withErr.irq
      · exact hk.withErr
protected theorem Signalled.logSpine {r} : Signalled i (logSpine s r) := by
  unfold Machine.logSpine
  split
  · exact hk.logRec
  · exact hk.logRec.logRec
protected theorem Signalled.refreshRdy : Signalled i (refreshRdy s) := by
  unfold Machine.refreshRdy
  generalize rdyBits s = new
  dsimp only
  split
  · exact hk
  · generalize (List.range 64).filter (fun n => bit s.dev.rdy n && !bit new n) = gone
    exact hk.withRdy.irq.foldl fun _ _ h => h.logSpine

end

/-- A vector signalled and RDY_MAP brought up to date: the rings and the device's part change, and the vector shows. -/
theorem refreshRdy_irq_only (s : State) (n : Nat) (hn : n < 16) :
    ∃ e d, refreshRdy (irq s n) = (s.setErr e).setDev d ∧ bit d.irqStat n = true := by
  obtain ⟨d, hirq⟩ := irq_only s n
  obtain ⟨e, d2, hrdy, -⟩ := refreshRdy_only (irq s n)
  have heq : refreshRdy (irq s n) = (s.setErr e).setDev d2 := by
    rw [hrdy, hirq, State.setDev_setErr, State.setDev_setDev]
  have hbit : Signalled n (refreshRdy (irq s n)) := Signalled.refreshRdy (irq_sets s n hn)
  rw [heq] at hbit
  exact ⟨e, d2, heq, hbit⟩

/-! ### Images -/

/-- BOOT_LOAD of a chain that is open and not done starts the check. -/
theorem execBootLoad_starts {s : State} (hon : s.pwr.on = true) (hopen : s.boot.opened = true) (hdone : s.boot.done = false)
    (hsplit : s.boot.fuseSplit = false) (hidle : s.boot.busy = false) :
    execBootLoad 0 s = .next (s.setBoot { s.boot with busy := true }) := by
  simp [execBootLoad, hon, hopen, hdone, hsplit, hidle]

/-- What an accepted image starts leaves alone: memory, the types accepted, and BUSY and RESULT of the command. -/
structure ChainKept (s t : State) : Prop where
  mem : t.mem = s.mem
  acc : t.boot.acc = s.boot.acc
  result : t.boot.result = s.boot.result
  busy : t.boot.busy = s.boot.busy

theorem ChainKept.of_boot {s t : State} (hmem : t.mem = s.mem) (hboot : t.boot = s.boot) : ChainKept s t :=
  ⟨hmem, congrArg Boot.acc hboot, congrArg Boot.result hboot, congrArg Boot.busy hboot⟩

theorem sageStarts_chain (s : State) : ChainKept s (sageStarts s) := by
  unfold sageStarts
  split
  · exact .of_boot rfl rfl
  · exact .of_boot (logSpine_mem _ _) (logSpine_boot _ _)

/-- The PORT image starts training in ports alone (R438). -/
theorem trainPorts_reads {β : Type} (r : State → β) (hr : ∀ s p x, r (setPort s p x) = r s) (s : State) :
    r (trainPorts s) = r s := by
  refine foldl_reads r (fun t p => ?_) _ s
  dsimp only
  split
  · exact hr t p _
  · rfl

theorem trainPorts_chain (s : State) : ChainKept s (trainPorts s) :=
  .of_boot (trainPorts_reads State.mem (fun _ _ _ => rfl) s) (trainPorts_reads State.boot (fun _ _ _ => rfl) s)

theorem imageStarts_chain (s : State) (t : Nat) : ChainKept s (imageStarts s t) := by
  unfold imageStarts
  split_ifs
  · obtain ⟨hmem, hacc, hresult, hbusy⟩ := sageStarts_chain (s.setBoot { s.boot with sage := ⟨true, true⟩ })
    exact ⟨hmem, hacc, hresult, hbusy⟩
  · exact trainPorts_chain s
  all_goals exact ⟨rfl, rfl, rfl, rfl⟩

/-- What an image says does not depend on where the chain stands. -/
@[simp] theorem imageHead_setBoot (s : State) (b : Boot) : imageHead (s.setBoot b) = imageHead s := rfl
@[simp] theorem svnOk_setBoot (s : State) (b : Boot) : svnOk (s.setBoot b) = svnOk s := rfl

section
variable {s : State} (b : Boot)

/-- An image of either kind that is accepted joins the types accepted; an SVN_RAISE is, where the minima can be met
(R397). -/
theorem acceptImage_accepts (hsvn : leNat (slice (imageHead s) 4 4) = 15 → svnOk s = true) :
    (acceptImage (s.setBoot b)).mem = s.mem ∧ (acceptImage (s.setBoot b)).boot.result = b.result ∧
      (acceptImage (s.setBoot b)).boot.busy = b.busy ∧
      (acceptImage (s.setBoot b)).boot.acc = b.acc ++ [leNat (slice (imageHead s) 4 4)] := by
  unfold acceptImage
  dsimp only
  rw [imageHead_setBoot, svnOk_setBoot]
  split
  · next hraise =>
    rw [if_pos (hsvn hraise), hraise]
    exact ⟨rfl, rfl, rfl, rfl⟩
  · obtain ⟨hmem, hacc, hresult, hbusy⟩ := imageStarts_chain ((s.setBoot b).setBoot _) (leNat (slice (imageHead s) 4 4))
    exact ⟨hmem, hresult, hbusy, hacc⟩

/-- An SVN_RAISE whose minima cannot be met is burned in both vaults all the same, and refused (R397). -/
theorem acceptImage_refuses (hraise : leNat (slice (imageHead s) 4 4) = 15) (hsvn : svnOk s = false) :
    acceptImage (s.setBoot b) = (burnSvn (s.setBoot b)).setBoot { b with result := 6 } := by
  unfold acceptImage
  dsimp only
  rw [imageHead_setBoot, svnOk_setBoot, if_pos hraise, hsvn, if_neg Bool.false_ne_true]
  rfl

end

/-- The verdict of both halves, as BOOT_STAT shows it (R396). -/
def bootVerdict (s : State) (rw re : Byte) : Boot :=
  { s.boot with
    busy := false
    result := if imageResult s rw ≠ 0 then imageResult s rw else imageResult s re
    split := (imageResult s rw == 0) != (imageResult s re == 0) }

theorem bootVerdict_result (s : State) (rw re : Byte) :
    (bootVerdict s rw re).result = if imageResult s rw ≠ 0 then imageResult s rw else imageResult s re := by
  rw [bootVerdict]

/-- The verdict is carried out, and the boot vector signalled (R396, R432). -/
theorem execImageVerifyComplete_ends {s : State} (hbusy : s.boot.busy = true) (hlink : s.dev.linkUp = true) (rw re : Byte) :
    execImageVerifyComplete rw re s = .next (refreshRdy (irq
      (if imageResult s rw = 0 ∧ imageResult s re = 0 then acceptImage (s.setBoot (bootVerdict s rw re))
        else s.setBoot (bootVerdict s rw re)) 3)) := by
  rw [execImageVerifyComplete, if_neg (by simp [hbusy, hlink])]
  rfl

/-- Training that the MEM image allows opens the memory (R438). -/
theorem execMemoryTrainingComplete_trains {s : State} (himg : hasImage s 3 = true) (htrained : s.boot.trained = false) :
    execMemoryTrainingComplete s = .next (refreshRdy (s.setBoot { s.boot with trained := true })) := by
  rw [execMemoryTrainingComplete, if_neg (by simp [himg, htrained])]

/-! ### Resets -/

@[simp] theorem useDrbg_boot (s : State) (h : Half) : (useDrbg s h).boot = s.boot := rfl
@[simp] theorem drawn_boot (s : State) : (drawn s).boot = s.boot := rfl
@[simp] theorem reseedMask_boot (s : State) (h : Half) : (reseedMask s h).boot = s.boot := rfl
@[simp] theorem wr64_boot (s : State) (o : Nat) (v : B64) : (wr64 s o v).boot = s.boot := rfl
@[simp] theorem resetConfig_boot (s : State) : (resetConfig s).boot = s.boot := rfl

/-- Bring-up accepts no image by itself (R437). -/
theorem bringUp_acc (s : State) : (bringUp s).boot.acc = s.boot.acc := by
  unfold bringUp
  extract_lets _ s1 _ s2 _ s3 s4
  have hseeds : s4.boot = s3.boot := (reseedMask_boot _ _).trans (reseedMask_boot _ _)
  have hdrawn : s3.boot = s2.boot := (useDrbg_boot _ _).trans ((drawn_boot _).trans (State.setLed_boot _ _))
  have hrun : s2.boot = s.boot := (State.setSec_boot _ _).trans (State.setTime_boot _ _)
  rw [refreshRdy_boot, State.setBoot_boot]
  exact (congrArg Boot.acc (hseeds.trans (hdrawn.trans hrun)) : s4.boot.acc = s.boot.acc)

/-- A device reset starts the chain with no image accepted (R441). -/
theorem deviceReset_acc (s : State) (src : Nat) : (deviceReset s src).boot.acc = [] := by
  unfold deviceReset
  extract_lets t
  rw [bringUp_acc]
  rfl

/-- A reset of the function keeps the boot chain (R443). -/
theorem flr_boot (s : State) (kind : Nat) : (flr s kind).boot = s.boot := by
  unfold flr
  extract_lets s1 _ s2 s3
  have hhalt : s1.boot = s.boot := foldl_reads State.boot (fun t q => haltQueue_boot t q 7 false 0) _ s
  have hled : s2.boot = s1.boot := (wr64_boot _ _ _).trans (State.setLed_boot _ _)
  have hconfig : s3.boot = s2.boot := resetConfig_boot _
  rw [logSpine_boot, State.setDev_boot, hconfig, hled, hhalt]

theorem flrSettle_boot (s : State) : (flrSettle s).boot = s.boot := by
  unfold flrSettle
  split
  · rfl
  · split
    · rfl
    · exact flr_boot _ _

theorem flrStart_boot (s : State) (kind : Nat) : (flrStart s kind).boot = s.boot := flrSettle_boot _

/-- RST_CMD with its key and its kind resets the device (R441). -/
theorem execRstCmd_resets {s : State} {v : B32} (hregs : regsOn s = true) (hkey : bits v 31 16 = 0x5253) (hkind : bits v 3 0 = 1) :
    execRstCmd v s = .next (deviceReset s 1) := by
  rw [execRstCmd, if_neg (by simp [hregs, hkey, hkind])]

section
variable {s : State} (hstart : started s = true) (hlink : s.dev.linkUp = true)
include hstart hlink

theorem execCxlReset_resets : execCxlReset s = .next (deviceReset s 2) := by
  rw [execCxlReset, if_neg (by simp [hstart, hlink])]
theorem execFlr_starts : execFlr s = .next (flrStart s 3) := by rw [execFlr, if_neg (by simp [hstart, hlink])]
theorem execHotReset_starts : execHotReset s = .next (flrStart s 4) := by
  rw [execHotReset, if_neg (by simp [hstart, hlink])]

end

/-- Settles O44: a load, the three verdicts, training, and the resets. -/
theorem bootChain : Obligations.BootChain := by
  unfold Obligations.BootChain
  refine fun s => ⟨execBootLoad_starts, fun rw re hbusy hlink hsvn => ?verdict, fun rw re hbusy hlink hw he hraise hsvn => ?svn,
    fun himg htrained => ⟨_, execMemoryTrainingComplete_trains himg htrained, ?trained⟩,
    fun hregs => execRstCmd_resets hregs (by decide) (by decide), fun hon hperst hopen hlink => ?resets⟩
  case verdict =>
    refine ⟨_, execImageVerifyComplete_ends hbusy hlink rw re, ?_⟩
    obtain ⟨e, d, hend, hbit⟩ := refreshRdy_irq_only (if imageResult s rw = 0 ∧ imageResult s re = 0 then
      acceptImage (s.setBoot (bootVerdict s rw re)) else s.setBoot (bootVerdict s rw re)) 3 (by decide)
    rw [hend, State.setDev_mem, State.setDev_boot, State.setDev_dev, State.setErr_mem, State.setErr_boot]
    by_cases hboth : imageResult s rw = 0 ∧ imageResult s re = 0
    · obtain ⟨hmem, hresult, hfree, hacc⟩ := acceptImage_accepts (bootVerdict s rw re) hsvn
      rw [if_pos hboth]
      exact ⟨hfree, hmem, hresult.trans (bootVerdict_result s rw re), hbit,
        fun hno => absurd hboth (not_and_or.mpr hno), fun _ _ => hacc⟩
    · rw [if_neg hboth]
      exact ⟨rfl, rfl, bootVerdict_result s rw re, hbit, fun _ => ⟨rfl, rfl⟩, fun hw he => absurd ⟨hw, he⟩ hboth⟩
  case svn =>
    refine ⟨_, execImageVerifyComplete_ends hbusy hlink rw re, ?_⟩
    obtain ⟨e, d, hend, -⟩ := refreshRdy_irq_only (acceptImage (s.setBoot (bootVerdict s rw re))) 3 (by decide)
    rw [if_pos ⟨hw, he⟩, hend, acceptImage_refuses _ hraise hsvn]
    exact ⟨rfl, rfl, rfl, rfl⟩
  case trained => simp
  case resets =>
    have hstart : started s = true := by simp [started, hon, hperst, hopen]
    exact ⟨execCxlReset_resets hstart hlink, deviceReset_acc s 2, execFlr_starts hstart hlink, execHotReset_starts hstart hlink,
      flrStart_boot s 4⟩

end Sys2Proof.Machine
end

section
/-!
PROOFS. The SPDM responder (R403 to R406, R434).
-/

namespace Sys2Proof.Machine

/-! ### Requests in their order -/

section
variable {s : State} (hresp : responds s = true)
include hresp

/-- GET_VERSION, answered before any image is accepted, begins the exchange anew. -/
theorem execGetVersion_begins : execGetVersion s = .next (doe (setSpdm s { s.sec.spdm with
    ver := true, caps := false, alg := false, kex := false, vca := [0x84, 4, 2, 0x12, 0x13], certs := [], meas := [] })
      [0x04, 2, 0x12, 0x13]) := by
  rw [execGetVersion, hresp, if_neg (by decide)]

section
variable (hcert : hasImage s 6 = true) {ok : Spdm → Bool} (hok : ok s.sec.spdm = true)
include hcert hok

/-- Once IDCERT is accepted, a request in its order is answered (R406). -/
theorem spdmReq_inOrder (body : State) : spdmReq s ok body = .next body := by
  rw [spdmReq, hresp, hcert, hok]
  rfl

/-- With a healthy vault, a request that needs the keys is answered too (R390). -/
theorem spdmKeyed_inOrder (hvault : vaultOk s = true) (body : State) : spdmKeyed s ok body = .next body := by
  rw [spdmKeyed, spdmReq_inOrder hresp hcert hok, hvault, if_pos rfl]

end

end

/-! ### Answers -/

section
variable {s : State} (bs : List Byte)

/-- A request from the DOE mailbox is answered there (R434). -/
theorem doe_ofDoe (h : s.sec.spdm.mctp = false) : doe s bs = s.setDev { s.dev with doeAns := bs } := by
  rw [doe, h, if_neg Bool.false_ne_true]

/-- A request in an MCTP frame is answered at the MCTP endpoint, and that frame is done with (R434). -/
theorem doe_ofMctp (h : s.sec.spdm.mctp = true) : doe s bs =
    (s.setSec { s.sec with spdm := { s.sec.spdm with mctp := false } }).setDev { s.dev with mctpAns := bs } := by
  rw [doe, h, if_pos rfl]

@[simp] theorem setSpdm_mem (s : State) (x : Spdm) : (setSpdm s x).mem = s.mem := rfl
@[simp] theorem hedged_mem (s : State) : (hedged s).mem = s.mem := rfl
@[simp] theorem doe_mem (s : State) : (doe s bs).mem = s.mem := by
  unfold doe
  split <;> rfl

/-- An answer leaves the responder as it is, but for where the request came from. -/
theorem doe_spdm_setSpdm (s : State) (x : Spdm) : ∃ b, (doe (setSpdm s x) bs).sec.spdm = { x with mctp := b } := by
  unfold doe
  split
  · exact ⟨false, rfl⟩
  · exact ⟨x.mctp, rfl⟩

/-- What the device shows of an answer depends on where the request came from alone. -/
theorem doe_dev_setSpdm (s : State) (x : Spdm) (h : x.mctp = s.sec.spdm.mctp) : (doe (setSpdm s x) bs).dev = (doe s bs).dev := by
  cases hm : s.sec.spdm.mctp
  · rw [doe_ofDoe bs hm, doe_ofDoe bs (h.trans hm)]
    rfl
  · rw [doe_ofMctp bs hm, doe_ofMctp bs (h.trans hm)]
    rfl

end

/-! ### KEY_EXCHANGE -/

section
variable {s : State} {k : Kex} (hresp : responds s = true) (hcert : hasImage s 6 = true) (hvault : vaultOk s = true)
  (halg : s.sec.spdm.alg = true) (hkex : s.sec.spdm.kex = true)
include hresp hcert hvault halg hkex

/-- A share that is no point of the curve is refused. -/
theorem execKeyExchange_refuses (hnone : Config.p384Shared (rand384 s) k.share = none) :
    execKeyExchange k s = .next (spdmErr s 1) := by
  simp only [execKeyExchange, hnone]
  exact spdmKeyed_inOrder hresp hcert (by rw [halg, hkex]; rfl) hvault _

/-- A good share begins a session, not yet secured, whose handshake secret covers the transcript (R404). -/
theorem execKeyExchange_begins {ss : BitVec 384} (hss : Config.p384Shared (rand384 s) k.share = some ss) :
    ∃ t, execKeyExchange k s = .next t ∧ t.mem = s.mem ∧ t.sec.spdm.sess = true ∧ t.sec.spdm.secured = false ∧
      t.sec.spdm.secret = Config.spdmSecret ss t.sec.spdm.th := by
  simp only [execKeyExchange, hss]
  refine ⟨_, spdmKeyed_inOrder hresp hcert (by rw [halg, hkex]; rfl) hvault _, ?_, ?_⟩
  · simp only [doe_mem, setSpdm_mem, hedged_mem]
  · obtain ⟨b, hb⟩ := doe_spdm_setSpdm _ _ _
    rw [hb]
    exact ⟨rfl, rfl, rfl⟩

end

/-- Settles O45: each request in its order has its body, and an answer goes where its request came from. -/
theorem spdmResponder : Obligations.SpdmResponder := by
  unfold Obligations.SpdmResponder
  intro s hresp x sign digest
  refine ⟨execGetVersion_begins hresp, fun hcert hvault => ?requests, fun bs => ⟨fun h => ?_, fun h => ?_⟩⟩
  case requests =>
    have hreq {ok : Spdm → Bool} (hok : ok x = true) := spdmReq_inOrder hresp hcert hok
    have hkeyed {ok : Spdm → Bool} (hok : ok x = true) (body : State) := spdmKeyed_inOrder hresp hcert hok hvault body
    refine ⟨fun v hver hv => ?capabilities, fun hcaps => ?algorithms,
      fun halg => ⟨hkeyed halg _, fun off len => ?certificate, fun n => hkeyed halg _, fun i n hmin hmax => ?measurements,
        fun k hkex => ?exchange⟩,
      fun hsess hopen => ?finish,
      fun hsec => ⟨hreq hsec _, hreq hsec _, hkeyed hsec _, fun hlink => ?ide⟩⟩
    case capabilities => exact (hreq hver _).trans (by rw [if_pos hv])
    case algorithms => exact (hreq hcaps _).trans (congrArg _ ((if_pos rfl).trans (by rw [List.append_assoc]; rfl)))
    case certificate => exact ⟨_, hkeyed halg _, doe_dev_setSpdm _ _ _ rfl, (doe_mem _ _).trans (setSpdm_mem _ _)⟩
    case measurements =>
      have hi : ¬ (11 < i.toNat ∧ i.toNat ≠ 0xFF) := by omega
      have h0 : ¬ i.toNat = 0 := by omega
      exact ⟨(hkeyed halg _).trans (by rw [if_neg hi, if_neg Bool.false_ne_true, if_neg h0]; rfl),
        (hkeyed halg _).trans (by rw [if_neg hi, if_pos rfl, if_neg h0]; rfl)⟩
    case exchange =>
      cases hss : Config.p384Shared (rand384 s) k.share with
      | none =>
        exact ⟨_, execKeyExchange_refuses hresp hcert hvault halg hkex hss, by rw [spdmErr, doe_mem], nofun, fun _ => rfl⟩
      | some ss =>
        obtain ⟨t, ht, hmem, hpost⟩ := execKeyExchange_begins hresp hcert hvault halg hkex hss
        exact ⟨t, ht, hmem, fun _ he => Option.some.inj he ▸ hpost, nofun⟩
    case finish =>
      have hok : (x.sess && !x.secured) = true := by rw [hsess, hopen]; rfl
      exact (hkeyed (ok := fun x => x.sess && !x.secured) hok _).trans (by rw [if_pos rfl])
    case ide => exact (hreq hsec _).trans (by rw [if_pos hlink])
  · rw [doe_ofDoe bs h]
    exact ⟨rfl, rfl⟩
  · rw [doe_ofMctp bs h]
    exact ⟨rfl, rfl, rfl⟩

end Sys2Proof.Machine
end

section
/-!
PROOFS. Host key slots and the host's cipher requests (R414 to R416).
-/

namespace Sys2Proof.Machine

/-! ### Host key slots -/

section
variable {s : State} {w : BitVec 24} (hready : cmdReady .hkey s = true) (hw : bits w 23 7 = 0)
include hready hw

/-- A host key command that finds its block ready names its slot. -/
theorem hkeyCmd_ready (c : Instr) (body : State → Nat → State) : hkeyCmd c w s body = .next (body s (bits w 6 0)) := by
  rw [hkeyCmd, cmd_eq hready, if_neg (not_not.mpr hw)]

variable (herase : slotErasing s (bits w 6 0) = false)
include herase

/-- A key is loaded into a slot that no request names, with its GHASH key (R414). -/
theorem execHkeyLoad_loads (hide : s.dev.ide = true) (hnamed : slotNamed s (bits w 6 0) = false) : execHkeyLoad w s =
    .next (finish .hkey 0 (setHost s (bits w 6 0) (some (hostKey (bv 256 (leNat (imgOf s .hkey))))))) := by
  simp [execHkeyLoad, hkeyCmd_ready hready hw, hide, herase, hnamed]

/-- A slot that no request names is erased at once. -/
theorem execHkeyErase_free (hnamed : slotNamed s (bits w 6 0) = false) :
    execHkeyErase w s = .next (finish .hkey 0 (setHost s (bits w 6 0) none)) := by
  simp [execHkeyErase, hkeyCmd_ready hready hw, herase, hnamed]

/-- A slot that requests name is erased behind them. -/
theorem execHkeyErase_named (hnamed : slotNamed s (bits w 6 0) = true) : execHkeyErase w s = .next (finish .hkey 0
    (s.setSec { s.sec with erase := s.sec.erase ++ [eraseOf (bits w 6 0) s.sec.cqWr.toNat] })) := by
  simp [execHkeyErase, hkeyCmd_ready hready hw, herase, hnamed]

end

/-- A slot holds what was put in it. -/
@[simp] theorem host_setHost (s : State) (k : Nat) (v : Option HKey) : Tab.get (fun _ => none) (setHost s k v).sec.host k = v :=
  Tab.get_put_self _ _ _ _

/-- A slot that no earlier request names any more is erased. -/
theorem execSlotErase_erases {s : State} {k e : Nat} (he : (s.sec.erase.find? fun x => eraseSlot x == k) = some e)
    (hdone : (s.sec.reqs.any fun i => before i (eraseBound e) && (creqOf s i).slot == k) = false) : execSlotErase k s =
      .next (setHost (s.setSec { s.sec with erase := s.sec.erase.filter fun x => eraseSlot x != k }) k none) := by
  simp only [execSlotErase, he, hdone, Bool.false_eq_true, if_false]

/-- A slot for which no erasure is left waits for none. -/
theorem slotErasing_erased (s : State) (k : Nat) (v : Option HKey) :
    slotErasing (setHost (s.setSec { s.sec with erase := s.sec.erase.filter fun x => eraseSlot x != k }) k v) k = false := by
  simp [slotErasing, setHost]

/-! ### Requests -/

/-- Requests up to the index written start, in a ring that has room for them (R415). -/
theorem execCqrWr_queues {s : State} {v : B32} (hregs : regsOn s = true) (hka : s.err.ka = false) (hrdy : rdyBit s 29 = true)
    (hbase : cqBase s ≠ 0) (hmin : 4 ≤ cqLog2 s) (hmax : cqLog2 s ≤ 16)
    (hroom : (v - s.sec.cqWr).toNat + s.sec.reqs.length ≤ 2 ^ cqLog2 s) : execCqrWr v s = .next (s.setSec { s.sec with
      cqWr := v
      reqs := s.sec.reqs ++ (List.range (v - s.sec.cqWr).toNat).map fun i => (s.sec.cqWr + bv 32 i).toNat }) := by
  rw [execCqrWr]
  dsimp only
  rw [if_neg (by rw [hregs, hka, hrdy]; simp only [Bool.not_true, Bool.false_eq_true, false_or]; omega)]

/-- A request that can end is refused as malformed, finds its slot empty, or is carried out with the slot's key on what
its lines hold when they are read. -/
theorem execCipherRequestComplete_ends {s : State} {i : Nat} (hreq : s.sec.reqs.contains i = true)
    (hlink : s.dev.linkUp = true) (hbase : cqBase s ≠ 0)
    (hrng : s.sec.rngOk.get (halfOf ((creqOf s i).slot / 64)) = true) :
    let r := creqOf s i
    execCipherRequestComplete i s = .next (if creqBad r then putStatus s i false false 2 else
      (slotKeyFor s i r.slot).elim (putStatus s i false false 1) fun k =>
        creqRun (creqMeet (useMask s (halfOf (r.slot / 64)) (r.aadLen + r.len)) r) i r k.key) := by
  intro r
  rw [execCipherRequestComplete, if_neg (by rw [hreq, hlink, hrng]; simpa using hbase), apply_ite Host.Outcome.next]
  cases slotKeyFor s i r.slot <;> rfl

section
variable {s : State} {i : Nat} {r : CReq} {key : BitVec 256}

/-- A request that meets a poisoned line stops before it (R416). -/
theorem creqRun_poisoned (h : cleanBytes s r.aad r.aadLen < r.aadLen ∨ cleanBytes s r.src r.len < r.len ∨
    openBytes s r.dst r.len < r.len) : creqRun s i r key = creqPoison s i r key (readMem s r.aad r.aadLen) :=
  if_pos h

variable (haad : ¬ cleanBytes s r.aad r.aadLen < r.aadLen) (hsrc : ¬ cleanBytes s r.src r.len < r.len)
  (hdst : ¬ openBytes s r.dst r.len < r.len)
include haad hsrc hdst

/-- Encryption writes the text and the tag. -/
theorem creqRun_encrypts (hop : r.op = 1) :
    let out := Config.gcmEncrypt key r.iv (readMem s r.aad r.aadLen) (readMem s r.src r.len)
    creqRun s i r key = putStatus
      (writeMem (writeMem s r.dst out.1) (cqAt s i + 0x40) (leBytes 16 out.2.toNat)) i false false 0 := by
  simp [creqRun, haad, hsrc, hdst, hop]

/-- Decryption writes the text, trusted when the tag is the request's. -/
theorem creqRun_decrypts (hop : r.op = 2) :
    let out := Config.gcmDecrypt key r.iv (readMem s r.aad r.aadLen) (readMem s r.src r.len)
    let s1 := writeMem s r.dst out.1
    creqRun s i r key = if out.2 = r.tag then putStatus s1 i true false 0
      else putStatus (logRec s1 (halfOf (r.slot / 64)) { code := 0x0B03, addr := bv 64 r.dst }) i false true 0 := by
  simp [creqRun, haad, hsrc, hdst, hop]

end

/-- Settles O46: the key commands and the pending erasure, the ring, and each end of a request. -/
theorem hostKeysAndCipherRequests : Obligations.HostKeysAndCipherRequests := by
  unfold Obligations.HostKeysAndCipherRequests
  refine ⟨fun s w hready hw => ⟨fun hide herase => execHkeyLoad_loads hready hw herase hide, execHkeyErase_free hready hw,
      execHkeyErase_named hready hw⟩,
    fun s k e he hdone => ⟨_, execSlotErase_erases he hdone, host_setHost _ _ _, slotErasing_erased s k none, rfl⟩,
    fun s v => execCqrWr_queues, fun s i hreq hlink hbase hrng => ⟨?_, ?_, fun key gh hgood hkey => ?_⟩⟩
  all_goals rw [exec_cipherRequestComplete, execCipherRequestComplete_ends hreq hlink hbase hrng]
  · exact fun hbad => by rw [if_pos hbad]
  · exact fun hgood hkey => by rw [hgood, if_neg Bool.false_ne_true, hkey, Option.elim_none]
  · rw [hgood, if_neg Bool.false_ne_true, hkey, Option.elim_some]
    refine ⟨fun hpoison => ?_, fun haad hsrc hdst => ⟨fun hop => ?_, fun hop => ?_⟩⟩
    · rw [creqRun_poisoned hpoison]
    · rw [creqRun_encrypts haad hsrc hdst hop]
    · rw [creqRun_decrypts haad hsrc hdst hop]

end Sys2Proof.Machine
end

section
/-!
PROOFS. The check-value units (R418, R419, Table 12-12).
-/

namespace Sys2Proof.Machine

section
variable {s : State} {u : Nat} (hu : u < 32)
include hu

/-! ### Commands of a unit -/

section
variable (hregs : regsOn s = true) (w : BitVec 24)
include hregs

/-- RUN of a unit that runs is ignored with result 0x05. -/
theorem execRun_running (hbusy : (getChv s u).busy = true) :
    execRun u w s = .next (setChv s u { getChv s u with res := 5 }) := by
  simp [execRun, Nat.not_le.mpr hu, hregs, hbusy]

/-- So is RESET_ALIVE. -/
theorem execResetAlive_running (hbusy : (getChv s u).busy = true) :
    execResetAlive u w s = .next (setChv s u { getChv s u with res := 5 }) := by
  simp [execResetAlive, Nat.not_le.mpr hu, hregs, hbusy]

variable (hidle : (getChv s u).busy = false)
include hidle

/-- RESET_ALIVE: LAST is set, and the next match is the first. -/
theorem execResetAlive_sets : execResetAlive u w s =
    .next (setChv s u { getChv s u with last := w.extractLsb' 0 8, first := true }) := by
  simp [execResetAlive, Nat.not_le.mpr hu, hregs, hidle]

/-- RUN clears what the last run found; a malformed set-up ends it at once (R418). -/
theorem execRun_starts (hlead : mayLead s = true) :
    let y : ChvU := { getChv s u with done := false, mismatch := false, rept := false, skip := false, gap := 0, res := 0 }
    execRun u w s = .next (if chvBad s u then chvEnd s u y 3 else setChv s u { y with busy := true }) := by
  intro y
  rw [apply_ite Host.Outcome.next]
  simp [execRun, Nat.not_le.mpr hu, hregs, hidle, hlead, y]

end

/-! ### The end of a run -/

section
variable (hbusy : (getChv s u).busy = true)
  (hheld : chvHeld s u = false)
  (hlink : inHost (chvSrc s u) = true → s.dev.linkUp = true) (hreach : chvReach (chvSrc s u) (chvSpan s u) = true)
include hbusy hheld hlink hreach

/-- A run whose range is reached and clean does the work of its mode; CHECK reads what follows the payload too. -/
theorem execChiveRunComplete_clean {n : Nat} (hn : (if chvMode s u = 2 then chvSpan s u else chvLen s u) = n)
    (hclean : poisoned (meetRange s (chvSrc s u) n) (chvSrc s u) n = false) :
    let t := meetRange s (chvSrc s u) n
    let bs := readMem t (chvSrc s u) n
    execChiveRunComplete u s = .next (
      if chvMode s u = 0 then chvEnd t u { getChv s u with result := bv 64 (chvCrc t u bs) } 0
      else if chvMode s u = 1 then chvGenerate t u (getChv s u) bs
      else chvVerify t u (getChv s u) bs) := by
  have hgo : ¬ (!(getChv s u).busy ∨ chvHeld s u ∨ (inHost (chvSrc s u) ∧ !s.dev.linkUp)) := by
    rw [hbusy, hheld]
    simpa using hlink
  subst hn
  refine (if_neg (Nat.not_le.mpr hu)).trans ((if_neg hgo).trans ?_)
  dsimp only
  rw [hreach, if_neg (by decide), hclean, if_neg (by decide), apply_ite Host.Outcome.next,
    apply_ite Host.Outcome.next]

end

end

/-- GENERATE with the counter: the next count and the check value over payload and count follow the payload (R419). -/
theorem chvGenerate_alive {t : State} {u : Nat} (x : ChvU) (pay : List Byte) (halive : chvAlive t u = true) :
    chvGenerate t u x pay =
      chvEnd (writeMem t (chvSrc t u + chvLen t u)
          ((x.last + 1) :: leBytes (chvCheck t u) (chvCrc t u (pay ++ [x.last + 1])))) u
        { x with last := x.last + 1, first := false, result := bv 64 (chvCrc t u (pay ++ [x.last + 1])) } 0 := by
  simp only [chvGenerate, halive, if_true, List.singleton_append]

/-- CHECK without the counter: a value that differs marks the mismatch, and the counter stands. -/
theorem chvVerify_plain {t : State} {u : Nat} (x : ChvU) (all : List Byte) (halive : chvAlive t u = false) :
    chvVerify t u x all = chvEnd t u { x with
      result := bv 64 (chvCrc t u (all.take (chvLen t u)))
      mismatch := x.mismatch || decide (leNat (slice all (chvLen t u) (chvCheck t u)) ≠ chvCrc t u (all.take (chvLen t u))) }
      0 := by
  simp only [chvVerify, halive, b2n, Bool.false_eq_true, if_false, Nat.add_zero]
  split <;> simp [*]

/-- Settles O47: the commands of a unit that runs and of one that does not, and the end of a run in its three modes. -/
theorem chiveUnits : Obligations.ChiveUnits := by
  unfold Obligations.ChiveUnits
  intro s u w hu
  refine ⟨fun hregs => execRun_starts hu hregs w,
    fun hregs hbusy => ⟨execRun_running hu hregs w hbusy, execResetAlive_running hu hregs w hbusy⟩,
    fun hregs => execResetAlive_sets hu hregs w, fun hbusy hheld hlink hreach => ⟨?crc, ?generate, ?check⟩⟩
  all_goals have hends {n} := execChiveRunComplete_clean (n := n) hu hbusy hheld hlink hreach
  case crc =>
    intro hmode hclean
    rw [exec_chiveRunComplete, hends (by simp [hmode]) hclean, if_pos hmode]
    rfl
  case generate =>
    intro hmode hclean halive
    rw [exec_chiveRunComplete, hends (by simp [hmode]) hclean, if_neg (by simp [hmode]), if_pos hmode,
      chvGenerate_alive _ _ halive]
    rfl
  case check =>
    intro t hmode hclean halive
    rw [exec_chiveRunComplete, hends (by simp [hmode]) hclean, if_neg (by simp [hmode]), if_neg (by simp [hmode]),
      chvVerify_plain _ _ halive]
    rfl

end Sys2Proof.Machine
end

section
/-!
PROOFS. Every step keeps the invariant (R455, R458): the predicate, and how the lemmas about functions combine.  Every
function of the model that changes the state has one lemma below, named after it, which says that it keeps `Sound`;
`Sound.withX` is the lemma of `State.setX`.  A function's lemma follows its body: the lemmas of the functions that it calls
are chained by dots, its conditionals are `.ite`.  Memory changes in the functions of `Laws/Memory.lean` and in
`cleanLines`, rates and caps in `setRate` and `execThermalCapStep`.
-/

namespace Sys2Proof.Machine

/-- Both halves' rates, or both halves' caps, are from 1 to 16. -/
def RatesOk (k : Two Nat) : Prop := ∀ h, rateOk (k.get h) = true

/-- What every step keeps, read off the parts of the state that it speaks of. -/
def Sound (s : State) : Prop := Memory.wf s.mem = true ∧ RatesOk s.pwr.k ∧ RatesOk s.pwr.cap

/-- A command that leaves a state leaves a sound one. -/
def EndsSound (o : Out) : Prop := ∀ t, o = .next t → Sound t

/-- The state in what an instruction does is sound. -/
def EffSound : Eff → Prop
  | .done t | .jump t _ | .trap t _ | .hold t => Sound t
  | .fault _ _ => True

theorem ratesOk_iff {k : Two Nat} : RatesOk k ↔ rateOk k.w = true ∧ rateOk k.e = true :=
  ⟨fun h => ⟨h .west, h .east⟩, fun ⟨hw, he⟩ h => by cases h <;> assumption⟩

theorem inv_iff_sound {s : State} : Inv s = true ↔ Sound s := by
  simp only [Inv, Sound, Bool.and_eq_true, ratesOk_iff, and_assoc]

theorem rateOk_iff {k : Nat} : rateOk k = true ↔ 1 ≤ k ∧ k ≤ 16 := by
  simp [rateOk]

theorem fitRate_bounds (proj room : Nat) : 1 ≤ fitRate proj room ∧ fitRate proj room ≤ 16 := by
  unfold fitRate
  cases h : (List.range 16).find? fun i => proj * (16 - i) ≤ 16 * room with
  | none => simp
  | some i =>
    have hi := List.mem_range.1 (List.mem_of_find?_eq_some h)
    simp only [Option.elim_some]
    omega

theorem RatesOk.set {k : Two Nat} {h : Half} {n : Nat} (hk : RatesOk k) (hn : rateOk n = true) :
    RatesOk (k.set h n) := by
  intro g
  by_cases hg : g = h
  · rwa [hg, Two.get_set_self]
  · rw [Two.get_set_ne _ _ _ _ hg]
    exact hk g

theorem RatesOk.reset : RatesOk ⟨16, 16⟩ := fun h => by cases h <;> rfl

theorem ite_error_eq_ok {c : Prop} [Decidable c] {n : Nat} {x : Except Nat State} {t : State}
    (h : (if c then .error n else x) = .ok t) : ¬ c ∧ x = .ok t := by
  split at h
  · cases h
  · exact ⟨‹_›, h⟩

/-! ### How the lemmas about functions combine -/

section

variable {s t : State} {a b : Out} {d e : Eff} {c : Prop} [Decidable c]

protected theorem Sound.ite (hs : Sound s) (ht : Sound t) : Sound (if c then s else t) := by
  split <;> assumption
protected theorem Sound.iteFst {β : Type} {x y : State × β} (hx : Sound x.1) (hy : Sound y.1) :
    Sound (if c then x else y).1 := by
  split <;> assumption
protected theorem Sound.orSelf (hs : Sound s) (ht : Sound s → Sound t) : Sound (if c then t else s) :=
  .ite (ht hs) hs
protected theorem Sound.selfOr (hs : Sound s) (ht : Sound s → Sound t) : Sound (if c then s else t) :=
  .ite hs (ht hs)
protected theorem EndsSound.ite (ha : EndsSound a) (hb : EndsSound b) : EndsSound (if c then a else b) := by
  split <;> assumption
protected theorem EffSound.ite (hd : EffSound d) (he : EffSound e) : EffSound (if c then d else e) := by
  split <;> assumption
protected theorem EndsSound.fault {f : Fault} : EndsSound (.fault f) := fun _ h => nomatch h
protected theorem EffSound.fault {n m : Nat} : EffSound (.fault n m) := trivial
protected theorem Sound.next (hk : Sound s) : EndsSound (.next s) := by
  rintro t ⟨⟩
  exact hk
protected theorem Sound.done (hk : Sound s) : EffSound (.done s) := hk
protected theorem Sound.jump (hk : Sound s) {p : Nat} : EffSound (.jump s p) := hk
protected theorem Sound.trap (hk : Sound s) {p : Nat} : EffSound (.trap s p) := hk
protected theorem Sound.held (hk : Sound s) : EffSound (.hold s) := hk
protected theorem EffSound.guard {cs} (he : EffSound e) : EffSound (guard cs e) := by
  unfold Machine.guard
  split
  · exact .fault
  · exact he
protected theorem Sound.onPort {p body} (hb : ∀ x, Sound (body x)) : EndsSound (onPort p s body) :=
  .ite .fault (Sound.next (hb _))
protected theorem EndsSound.andThen {k : State → Out} (ha : EndsSound a) (hb : ∀ t, Sound t → EndsSound (k t)) :
    EndsSound (andThen a k) := by
  cases a with
  | next t => exact hb t (ha t rfl)
  | fault => exact .fault
  | refused => exact ha
protected theorem Sound.fst {β : Type} {x : State × β} {y : β} (hk : Sound x.1) (e : x = (t, y)) : Sound t := by
  rwa [e] at hk
protected theorem Sound.foldl {α : Type} {f : State → α → State} {xs : List α} (hk : Sound s)
    (hf : ∀ t, Sound t → ∀ a, Sound (f t a)) : Sound (xs.foldl f s) := by
  induction xs generalizing s with
  | nil => exact hk
  | cons x xs ih => exact ih (hf _ hk _)
protected theorem Sound.getD {o : Option State} (hk : Sound s) (ho : ∀ t, o = some t → Sound t) :
    Sound (o.getD s) := by
  cases o with
  | none => exact hk
  | some t => exact ho t rfl
protected theorem Sound.elim {o : Option State} {f : State → State} (hk : Sound s)
    (ho : ∀ t, o = some t → Sound (f t)) : Sound (o.elim s f) := by
  cases o with
  | none => exact hk
  | some t => exact ho t rfl
protected theorem Sound.sent (hk : Sound s) (h : OnlySent s t) : Sound t := by
  obtain ⟨n, c, f, e, d, rfl, -⟩ := h
  exact hk

end

/-- The state with which the copying of segments ends is sound. -/
def CopySound : CopyEnd → Prop
  | .made t | .unread t _ _ | .full t => Sound t

theorem CopySound.of_eq {x y : CopyEnd} (h : CopySound x) (e : x = y) : CopySound y := e ▸ h

/-- What an instruction does where an operand is refused is sound. -/
def RefusedSound {β : Type} (x : Except Eff β) : Prop := ∀ e, x = .error e → EffSound e

protected theorem RefusedSound.ite {β : Type} {x y : Except Eff β} {c : Prop} [Decidable c] (hx : RefusedSound x)
    (hy : RefusedSound y) : RefusedSound (if c then x else y) := by
  split <;> assumption
protected theorem RefusedSound.error {β : Type} {e : Eff} (he : EffSound e) :
    RefusedSound (.error e : Except Eff β) := by
  rintro _ ⟨⟩
  exact he
protected theorem RefusedSound.ok {β : Type} {x : β} : RefusedSound (.ok x) := fun _ h => nomatch h

end Sys2Proof.Machine
end

section
/-!
PROOFS. Every step keeps the invariant: the state, its registers, memory, messages and the vote.
-/

namespace Sys2Proof.Machine

section

variable {s : State} (hk : Sound s)
include hk

/-! ### The functions of Machine/State.lean -/

protected theorem Sound.withPending {x} : Sound (State.setPending s x) := hk
protected theorem Sound.withHeld {x} : Sound (State.setHeld s x) := hk
protected theorem Sound.withLink {x} : Sound (State.setLink s x) := hk
protected theorem Sound.withPwr {x : Pwr} (hx : x.k = s.pwr.k ∧ x.cap = s.pwr.cap := by exact ⟨rfl, rfl⟩) :
    Sound (State.setPwr s x) := by
  obtain ⟨hm, hr, hc⟩ := hk
  exact ⟨hm, hx.1 ▸ hr, hx.2 ▸ hc⟩
protected theorem Sound.withTime {x} : Sound (State.setTime s x) := hk
protected theorem Sound.withDev {x} : Sound (State.setDev s x) := hk
protected theorem Sound.withBoot {x} : Sound (State.setBoot s x) := hk
protected theorem Sound.withSec {x} : Sound (State.setSec s x) := hk
protected theorem Sound.withMem {m : Mem} (hm : Memory.wf m = true) : Sound (State.setMem s m) := ⟨hm, hk.2⟩
protected theorem Sound.withFrm {x} : Sound (State.setFrm s x) := hk
protected theorem Sound.withMmu {x} : Sound (State.setMmu s x) := hk
protected theorem Sound.withJrn {x} : Sound (State.setJrn s x) := hk
protected theorem Sound.withClu {x} : Sound (State.setClu s x) := hk
protected theorem Sound.withSlot {x} : Sound (State.setSlot s x) := hk
protected theorem Sound.withQue {x} : Sound (State.setQue s x) := hk
protected theorem Sound.withLed {x} : Sound (State.setLed s x) := hk
protected theorem Sound.withSyn {x} : Sound (State.setSyn s x) := hk
protected theorem Sound.withDma {x} : Sound (State.setDma s x) := hk
protected theorem Sound.withUpd {x} : Sound (State.setUpd s x) := hk
protected theorem Sound.withCol {x} : Sound (State.setCol s x) := hk
protected theorem Sound.withFab {x} : Sound (State.setFab s x) := hk
protected theorem Sound.withSx {x} : Sound (State.setSx s x) := hk
protected theorem Sound.withMir {x} : Sound (State.setMir s x) := hk
protected theorem Sound.withErr {x} : Sound (State.setErr s x) := hk
protected theorem Sound.withLead {x} : Sound (State.setLead s x) := hk

/-! ### The functions of Machine/Ops.lean -/

protected theorem Sound.setSlot {cl fil x} : Sound (setSlot s cl fil x) := hk
protected theorem Sound.updSlot {cl fil f} : Sound (updSlot s cl fil f) := hk
protected theorem Sound.setClu {cl x} : Sound (setClu s cl x) := hk
protected theorem Sound.setCtx {id x} : Sound (setCtx s id x) := hk
protected theorem Sound.setQ {q x} : Sound (setQ s q x) := hk
protected theorem Sound.setObj {i x} : Sound (setObj s i x) := hk
protected theorem Sound.setGrp {g x} : Sound (setGrp s g x) := hk
protected theorem Sound.setPort {p x} : Sound (setPort s p x) := hk
protected theorem Sound.setChv {u x} : Sound (setChv s u x) := hk
protected theorem Sound.wr32 {o v} : Sound (wr32 s o v) := hk
protected theorem Sound.wr64 {o v} : Sound (wr64 s o v) := hk
protected theorem Sound.wrBytes {o bs} : Sound (wrBytes s o bs) := by
  obtain ⟨r, heq⟩ := wrBytes_only s o bs
  rw [heq]
  exact hk
protected theorem Sound.drawn : Sound (drawn s) := hk
protected theorem Sound.msiSignal {n} : Sound (msiSignal s n) := .ite hk.withDev hk
protected theorem Sound.irq {n} : Sound (irq s n) := .ite hk (hk.withDev.orSelf (·.msiSignal))
protected theorem Sound.logRec {h x} : Sound (logRec s h x) := .ite hk (.ite hk.withErr (hk.withErr.orSelf (·.irq)))
protected theorem Sound.logSpine {x} : Sound (logSpine s x) := by
  unfold Machine.logSpine
  split
  · exact hk.logRec
  · exact hk.logRec.logRec
protected theorem Sound.refreshRdy : Sound (refreshRdy s) := .ite hk (hk.withDev.irq.foldl fun _ ht _ => ht.logSpine)
protected theorem Sound.setBlk {b x} : Sound (setBlk s b x) := hk
protected theorem Sound.report {b code} : Sound (report b code s) := hk
protected theorem Sound.finish {b code} : Sound (finish b code s) := hk.setBlk.orSelf (·.irq)
protected theorem Sound.busy {b} : Sound (busy b s) := hk
protected theorem Sound.hold {b c} : Sound (hold b c s) := hk
protected theorem Sound.blockCmd {b ka c body} (hbody : ∀ t, Sound t → Sound (body t)) :
    EndsSound (blockCmd b ka c s body) :=
  .ite hk.next (.ite hk.report.next (.ite hk.report.next
    (.ite hk.report.next (.ite hk.hold.next (Sound.next (hbody _ hk))))))

/-! ### The functions of Machine/MemOps.lean -/

protected theorem Sound.setFrm {k v} : Sound (setFrm s k v) := hk
protected theorem Sound.writeMem {pa bs} : Sound (writeMem s pa bs) := hk.withMem (writeMem_wf _ _ _ hk.1)
protected theorem Sound.poisonLine {pa} : Sound (poisonLine s pa) := hk.withMem (poisonLine_wf _ _ hk.1)
protected theorem Sound.zeroMem {pa n} : Sound (zeroMem s pa n) := hk.withMem (zeroMem_wf _ _ _ hk.1)
protected theorem Sound.lineRec {code sev pa stack} : Sound (lineRec s code sev pa stack) := hk.logRec
protected theorem Sound.patRoll : Sound (patRoll s) := .ite hk.withFrm hk
protected theorem Sound.frameCount {pa} : Sound (frameCount s pa) := by
  unfold Machine.frameCount
  dsimp only
  split
  · exact hk.patRoll
  · exact hk.patRoll.withFrm.orSelf (·.logRec)
protected theorem Sound.meetLine {x0} : Sound (meetLine s x0) := by
  unfold Machine.meetLine
  dsimp only
  split
  · exact hk
  · exact (hk.withFrm.withFrm.selfOr (·.lineRec)).frameCount
  · exact hk.withFrm.poisonLine.lineRec
protected theorem Sound.injectLine {x} : Sound (injectLine s x) := by
  unfold Machine.injectLine
  split
  · exact hk
  · exact hk.withMem (lineErr_wf _ _ _ hk.1)
  · exact hk.withMem (lineErr_wf _ _ _ hk.1)
protected theorem Sound.readLine {l} : Sound (readLine s l) := .ite hk (hk.withMem (lineErr_wf _ _ _ hk.1)).meetLine
protected theorem Sound.meetRange {pa n} : Sound (meetRange s pa n) := .ite hk (hk.foldl fun _ ht _ => ht.readLine)
protected theorem Sound.scrWrite {cl off bs} : Sound (scrWrite s cl off bs) := hk.withMem (scrWrite_wf _ _ _ _ hk.1)
protected theorem Sound.scrZero {cl fil} : Sound (scrZero s cl fil) := hk.withMem (scrZero_wf _ _ _ hk.1)
protected theorem Sound.writeVaGo {via id ps bs} : Sound (writeVaGo via id ps bs s).1 := by
  induction ps generalizing s bs with
  | nil => exact hk
  | cons p ps ih =>
    unfold Machine.writeVaGo
    split
    · exact hk
    · exact ih hk.writeMem
protected theorem Sound.writeVa {via id va bs} : Sound (writeVa s via id va bs).1 := by
  unfold Machine.writeVa
  exact hk.writeVaGo
protected theorem Sound.logPt {id e} : Sound (logPt s id e) := by
  unfold Machine.logPt
  split
  · exact hk.readLine.logRec
  · exact hk.readLine
  · exact hk
protected theorem Sound.storeVa {id va bs} : Sound (storeVa s id va bs) := by
  unfold Machine.storeVa
  split
  · next e => exact (hk.writeVa.fst e).logPt
  · next e => exact hk.writeVa.fst e
protected theorem Sound.setVaNat {id va n x} : Sound (setVaNat s id va n x) := hk.storeVa
protected theorem Sound.cleanLines {pa n} : Sound (cleanLines s pa n) := by
  obtain ⟨h1, h2, h3, h4, h5, h6⟩ := (memory_wf_iff _).mp hk.1
  exact hk.withMem ((memory_wf_iff _).mpr ⟨h1, Tab.wf_clear _ _ _ _ h2, h3, h4, Tab.wf_clear _ _ _ _ h5, h6⟩)
protected theorem Sound.meetVa {via id va n} : Sound (meetVa s via id va n) := by
  unfold Machine.meetVa
  refine .ite hk ?_
  refine hk.foldl fun _ ht _ => ?_
  split
  · exact ht.meetRange
  · exact ht
protected theorem Sound.loadVa {id va n} : Sound (loadVa s id va n).1 := by
  unfold Machine.loadVa
  dsimp only
  exact hk.meetVa

/-! ### The functions of Machine/Sign.lean -/

protected theorem Sound.useDrbg {h} : Sound (useDrbg s h) := hk
protected theorem Sound.hedged : Sound (hedged s) := hk.sent (hedged_sent s)
protected theorem Sound.reseedMask {h} : Sound (reseedMask s h) := hk
protected theorem Sound.useMask {h n} : Sound (useMask s h n) := hk.sent (useMask_sent s h n)

/-! ### The functions of Machine/Net.lean -/

protected theorem Sound.count {k f} : Sound (count s k f) := .ite hk.withLed hk
protected theorem Sound.countTx {k p n} : Sound (countTx s k p n) := hk.count
protected theorem Sound.countRx {k p n} : Sound (countRx s k p n) := hk.count
protected theorem Sound.putConn {c} : Sound (putConn s c) := hk.sent (putConn_sent s c)
protected theorem Sound.transmit {o} : Sound (transmit s o) := hk.sent (transmit_sent s o)
protected theorem Sound.sendNew {p x e turn credit} : Sound (sendNew s p x e turn credit) := by
  unfold Machine.sendNew
  dsimp only
  split
  · exact hk.setPort
  · exact hk.setPort.countTx
protected theorem Sound.servePort {p} : Sound (servePort s p) := by
  unfold Machine.servePort
  dsimp only
  refine .ite hk ?_
  split
  · exact hk.setPort.countTx
  · exact hk.setPort.countTx
  · split
    · exact hk.sendNew
    · exact hk.setPort
protected theorem Sound.servePorts : Sound (servePorts s) := hk.foldl fun _ ht _ => ht.servePort
protected theorem Sound.useSess {p} : Sound (useSess s p) := hk.sent (useSess_sent s p)
protected theorem Sound.sendNow {m body enc} : Sound (sendNow s m body enc) := hk.sent (sendNow_sent s m body enc)
protected theorem Sound.sendSess {d kind data} : Sound (sendSess s d kind data) := hk.sendNow
protected theorem Sound.sessRoom {d} {t : State} (e : sessRoom s d = some t) : Sound t := hk.sent (sessRoom_sent e)
protected theorem Sound.putAtt {a} : Sound (putAtt s a) := hk.sent (putAtt_sent s a)
protected theorem Sound.startAtt {d} : Sound (startAtt s d) := hk.sent (startAtt_sent s d)
protected theorem Sound.send {m body} : Sound (send s m body) := hk.sent (send_sent s m body)
protected theorem Sound.flushWaits : Sound (flushWaits s) := hk.sent (flushWaits_sent s)
protected theorem Sound.sendTo {cls typ d ten job data body} : Sound (sendTo s cls typ d ten job data body) := hk.send

/-! ### The functions of Machine/SyncOps.lean -/

protected theorem Sound.staleDrop : Sound (staleDrop s) := hk
protected theorem Sound.haltQueue {q cause byCmd addr} : Sound (haltQueue s q cause byCmd addr) := by
  obtain ⟨u, e, d, heq, -⟩ := haltQueue_only s q cause byCmd addr
  rw [heq]
  exact hk
protected theorem Sound.resume {w} : Sound (resume s w) := by
  obtain ⟨a, q, heq⟩ := resume_only s w
  rw [heq]
  exact hk
protected theorem Sound.release {i o ws keep} : Sound (release s i o ws keep).1 := by
  induction ws generalizing o keep with
  | nil => exact hk.setObj
  | cons w ws ih =>
    unfold Machine.release
    split
    · exact ih.resume
    · exact ih
protected theorem Sound.settle {i o} : Sound (settle s i o) := hk.release
protected theorem Sound.foreign {h who dev} : Sound (foreign s h who dev) := hk.withSyn.logRec
protected theorem Sound.overrun {i o g} : Sound (overrun s i o g) := by
  unfold Machine.overrun
  dsimp only
  split
  · exact hk.logRec.sendTo
  · exact hk.logRec.haltQueue
  · exact hk.logRec
protected theorem Sound.applySig {g} : Sound (applySig s g) := by
  unfold Machine.applySig
  dsimp only
  split
  · exact hk.staleDrop
  · refine .ite hk.foreign ?_
    split
    · exact hk.staleDrop.ite hk.settle
    · exact hk.staleDrop.ite (hk.settle.orSelf (·.logRec))
    · split
      · exact hk.overrun
      · exact hk.settle
protected theorem Sound.emit {g} : Sound (emit s g) := hk
protected theorem Sound.engineSig {kind obj amount cl fil ctx queue} :
    Sound (engineSig s kind obj amount cl fil ctx queue) := hk
protected theorem Sound.dropWaits {p} : Sound (dropWaits s p) := hk

/-! ### The functions of Machine/CtxOps.lean -/

protected theorem Sound.abandon {p} : Sound (abandon s p) := (hk.withQue.foldl fun _ ht _ => ht.updSlot).dropWaits
protected theorem Sound.stopCtxOnly {id} : Sound (stopCtxOnly s id) := .ite hk hk.setCtx.abandon
protected theorem Sound.cancelColls {p} : Sound (cancelColls s p) := hk
protected theorem Sound.dropDeadlines : Sound (dropDeadlines s) := hk
protected theorem Sound.enterKeepAlive {code} : Sound (enterKeepAlive s code) :=
  .ite hk ((hk.logSpine.withErr.foldl fun _ ht _ => ht.stopCtxOnly).foldl fun _ ht _ =>
    ht.haltQueue).dropDeadlines.cancelColls.withLed.irq.refreshRdy
protected theorem Sound.raise {h x} : Sound (raise s h x) := hk.logRec.orSelf (·.enterKeepAlive)
protected theorem Sound.raiseSpine {x} : Sound (raiseSpine s x) := by
  unfold Machine.raiseSpine
  split
  · exact hk.raise
  · exact hk.raise.raise
protected theorem Sound.statAdd {id va c clip elem fmt mode} : Sound (statAdd s id va c clip elem fmt mode).1 := by
  unfold Machine.statAdd
  split
  · next e => exact (hk.loadVa.fst e).logPt
  · next e =>
      have hs := hk.loadVa.fst e
      split
      · next e1 => exact hs.writeVa.fst e1
      · next e1 => exact hs.logPt

/-! ### The functions of Machine/Link.lean -/

protected theorem Sound.portRec {p code sev} : Sound (portRec s p code sev) := hk.logRec
protected theorem Sound.movePort {p x} : Sound (movePort s p x) := hk.setPort.refreshRdy
protected theorem Sound.execPctrl {p v} : EndsSound (execPctrl p v s) :=
  Sound.onPort fun _ => .ite hk (.ite hk.movePort (.ite hk.setPort hk.movePort))
protected theorem Sound.execPortTrained {p rtt} : EndsSound (execPortTrained p rtt s) :=
  Sound.onPort fun _ => .ite hk (.ite hk.movePort.portRec hk.movePort)
protected theorem Sound.execWavelengthFail {p light} : EndsSound (execWavelengthFail p light s) :=
  Sound.onPort fun _ => .ite hk (.ite hk.movePort (.ite hk.movePort hk.setPort))
protected theorem Sound.acceptFrame {p x fr} : Sound (acceptFrame s p x fr) := hk.setPort.countRx
protected theorem Sound.execLinkFrame {p l} : EndsSound (execLinkFrame p l s) := by
  unfold Machine.execLinkFrame
  dsimp only
  exact Sound.onPort fun _ =>
    .ite hk (.ite hk.setPort (.ite hk.setPort (.ite hk.acceptFrame (hk.setPort.orSelf (·.countRx)))))
protected theorem Sound.execNak {p lseq} : EndsSound (execNak p lseq s) := Sound.onPort fun _ => .ite hk hk.setPort
protected theorem Sound.beginRetrain {p x} : Sound (beginRetrain s p x) := hk.movePort.portRec
protected theorem Sound.execRetrain {p} : EndsSound (execRetrain p s) := Sound.onPort fun _ => .ite hk.beginRetrain hk
protected theorem Sound.execRetrainEnd {p ok} : EndsSound (execRetrainEnd p ok s) :=
  Sound.onPort fun _ => .ite hk (.ite hk.movePort (.ite hk.beginRetrain hk.movePort.portRec))
protected theorem Sound.execLossOfLight {p} : EndsSound (execLossOfLight p s) :=
  Sound.onPort fun _ => .ite hk hk.movePort.portRec
protected theorem Sound.execLightReturn {p} : EndsSound (execLightReturn p s) :=
  Sound.onPort fun _ => .ite hk hk.movePort
protected theorem Sound.relayOn {q cls fr} : Sound (relayOn s q cls fr) := hk
protected theorem Sound.noRoute : Sound (noRoute s) := hk
protected theorem Sound.setThru {p chan r} : Sound (setThru s p chan r) := hk
protected theorem Sound.relayHead {p dst seq fr} : Sound (relayHead s p dst seq fr) := by
  unfold Machine.relayHead
  dsimp only
  split
  · exact hk.relayOn.orSelf (·.setThru)
  · exact hk.noRoute.orSelf (·.setThru)
protected theorem Sound.relayRest {p x fr} : Sound (relayRest s p x fr) := by
  unfold Machine.relayRest
  dsimp only
  split
  · exact hk
  · split
    · exact hk.setThru
    · exact hk.relayOn.setThru.ite hk.noRoute.setThru
protected theorem Sound.execRelayFlit {p dst seq fr} : EndsSound (execRelayFlit p dst seq fr s) :=
  Sound.onPort fun _ => .ite hk (.ite hk.relayHead hk.relayRest)

/-! ### The functions of Machine/Boot.lean -/

protected theorem Sound.bringUp : Sound (bringUp s) :=
  hk.withTime.withSec.withLed.drawn.useDrbg.reseedMask.reseedMask.withBoot.refreshRdy
protected theorem Sound.burnSvn : Sound (burnSvn s) := hk
protected theorem Sound.trainPorts : Sound (trainPorts s) := hk.foldl fun _ ht _ => .ite ht.setPort ht
protected theorem Sound.sageStarts : Sound (sageStarts s) := .ite hk hk.withDev.logSpine
protected theorem Sound.imageStarts {t0} : Sound (imageStarts s t0) :=
  .ite hk.withBoot.sageStarts (.ite hk.trainPorts (.ite hk.withBoot (.ite hk.hedged.withBoot hk)))
protected theorem Sound.acceptImage : Sound (acceptImage s) :=
  .ite (.ite hk.burnSvn.withBoot hk.burnSvn.withBoot) hk.withBoot.imageStarts
protected theorem Sound.execBootLoad {w} : EndsSound (execBootLoad w s) :=
  .ite hk.next (.ite hk.withBoot.next (.ite hk.withBoot.irq.next hk.withBoot.next))
protected theorem Sound.execImageVerifyComplete {rw re} : EndsSound (execImageVerifyComplete rw re s) :=
  .ite hk.next (hk.withBoot.orSelf (·.acceptImage)).irq.refreshRdy.next
protected theorem Sound.execMemoryTrainingComplete : EndsSound (execMemoryTrainingComplete s) :=
  .ite hk.next hk.withBoot.refreshRdy.next

/-! ### The functions of Machine/GovOps.lean -/

protected theorem Sound.setDebt {g d} : Sound (setDebt s g d) := by
  unfold Machine.setDebt
  dsimp only
  split
  · exact hk.setClu
  · exact hk.withQue
  · exact hk.withQue
  · exact hk.withQue
protected theorem Sound.charge {g w} : Sound (charge s g w) := by
  obtain ⟨c, q, heq⟩ := charge_only s g w
  rw [heq]
  exact hk
protected theorem Sound.waited {sl w} : Sound (waited sl w s) := by
  obtain ⟨c, q, heq⟩ := waited_only sl w s
  rw [heq]
  exact hk

end

end Sys2Proof.Machine
end

section
/-!
PROOFS. Every step keeps the invariant: Dill, shards, Sorrel, the vote and the slots.
-/

namespace Sys2Proof.Machine

section

variable {s : State} (hk : Sound s)
include hk

/-! ### The functions of Machine/ShardOps.lean -/

protected theorem Sound.setHdr {sh off n v} : Sound (setHdr s sh off n v) := hk.setVaNat
protected theorem Sound.setStatus {sh b x} : Sound (setStatus s sh b x) := hk.setHdr
protected theorem Sound.meetShard {sh} : Sound (meetShard s sh) := .ite hk (hk.foldl fun _ ht _ => ht.meetVa)
protected theorem Sound.setJobReg {fil j} : Sound (setJobReg s fil j) := hk
protected theorem Sound.setPair {fil p} : Sound (setPair s fil p) := hk
protected theorem Sound.sendLovage {dst ctx job eng step data body} :
    Sound (sendLovage s dst ctx job eng step data body) :=
  hk.send

/-! ### The functions of Machine/SorrelOps.lean -/

protected theorem Sound.takeRegion : Sound (takeRegion s) := hk
protected theorem Sound.leaveRegion : Sound (leaveRegion s) := .ite hk hk.withFrm
protected theorem Sound.setDepth {fil d} : Sound (setDepth s fil d) := hk
protected theorem Sound.logDepth {job d} : Sound (logDepth s job d) := hk.logSpine
protected theorem Sound.delEntries {p} : Sound (delEntries s p) := hk
protected theorem Sound.trimDepth {fil job d} : Sound (trimDepth s fil job d) := hk
protected theorem Sound.newDepth {fil d} : Sound (newDepth s fil d) := by
  unfold Machine.newDepth
  refine .ite hk ?_
  split
  · exact hk.setDepth.trimDepth.logDepth
  · exact hk.setDepth
protected theorem Sound.rechoose : Sound (rechoose s) := hk.newDepth.newDepth
protected theorem Sound.mapEnt {fil outer step f} : Sound (mapEnt s fil outer step f) := hk
protected theorem Sound.tellUndo {fil outer job step} : Sound (tellUndo s fil outer job step) :=
  hk.sent (tellUndo_sent s fil outer job step)
protected theorem Sound.setTold {fil outer n} : Sound (setTold s fil outer n) := hk
protected theorem Sound.setBegun {fil b} : Sound (setBegun s fil b) := hk
protected theorem Sound.tellNoEnt {fil outer job step} : Sound (tellNoEnt s fil outer job step) :=
  .ite hk hk.setTold.tellUndo
protected theorem Sound.writeIndex {e} : Sound (writeIndex s e) := hk.cleanLines.cleanLines
protected theorem Sound.openEnt {fil outer job step} : Sound (openEnt s fil outer job step) :=
  .ite (Sound.tellNoEnt (.ite hk hk.setBegun)) (.selfOr (.ite hk hk.setBegun) (·.writeIndex.withJrn))
protected theorem Sound.openNext {job step} : Sound (openNext s job step) := by
  unfold Machine.openNext
  split
  · exact hk.openEnt
  · exact hk
protected theorem Sound.putCopy {fil outer step g data} {t : State} (e : putCopy s fil outer step g data = some t) :
    Sound t := by
  unfold Machine.putCopy at e
  dsimp only at e
  split at e
  · cases e
  · cases e
    exact hk.writeMem.mapEnt
protected theorem Sound.reportUndo {fil outer job step} : Sound (reportUndo s fil outer job step) :=
  hk.mapEnt.tellUndo
protected theorem Sound.entSkip {fil step} : Sound (entSkip s fil step) := hk.delEntries.leaveRegion
protected theorem Sound.entRerun {fil step} : Sound (entRerun s fil step) := hk
protected theorem Sound.copySegs {fil outer step sh gs} : CopySound (copySegs fil outer step sh gs s) := by
  induction gs generalizing s with
  | nil => exact hk
  | cons g gs ih =>
    unfold Machine.copySegs
    split
    · next e => exact hk.loadVa.fst e
    · next e =>
      have hl := hk.loadVa.fst e
      split
      · exact hl
      · next e1 => exact ih (hl.putCopy e1)
protected theorem Sound.copyShards {fil outer step shs} : CopySound (copyShards fil outer step shs s) := by
  induction shs generalizing s with
  | nil => exact hk
  | cons sh shs ih =>
    have hc {gs} : CopySound (copySegs fil outer step sh gs s) := hk.copySegs
    unfold Machine.copyShards
    split
    · next e => exact ih (Sound.mapEnt (hc.of_eq e))
    · exact hc
protected theorem Sound.gradCopy {fil step sh} : Sound (gradCopy fil step s sh) := by
  have hc {gs} : CopySound (copySegs fil false step sh gs s) := hk.copySegs
  unfold Machine.gradCopy
  split
  · next e => exact hc.of_eq e
  · next e => exact Sound.logPt (hc.of_eq e)
  · next e => exact hc.of_eq e
protected theorem Sound.entCommit {fil job step} : Sound (entCommit s fil job step) :=
  .ite hk (hk.foldl fun _ ht _ => ht.gradCopy).mapEnt
protected theorem Sound.entAgree {fil step} : Sound (entAgree s fil step) := hk.mapEnt.delEntries.leaveRegion
protected theorem Sound.entAgreeOuter {fil step} : Sound (entAgreeOuter s fil step) := hk
protected theorem Sound.entReopen {fil step shard} : Sound (entReopen s fil step shard) := hk
protected theorem Sound.recopy {fil outer step job g} : Sound (recopy fil outer step job s g) := by
  unfold Machine.recopy
  refine .ite hk ?_
  split
  · exact hk
  · split
    · next e => exact hk.loadVa.fst e
    · next e => exact (hk.loadVa.fst e).getD fun _ e1 => (hk.loadVa.fst e).putCopy e1
protected theorem Sound.entDamaged {fil outer step} : Sound (entDamaged s fil outer step) := by
  unfold Machine.entDamaged
  dsimp only
  split
  · exact hk
  · refine .ite ?_ (hk.logSpine.selfOr (·.mapEnt))
    split
    · exact (hk.logSpine.writeIndex.mapEnt.foldl fun _ ht _ => ht.recopy).selfOr (·.mapEnt)
    · exact hk.logSpine.writeIndex.mapEnt.foldl fun _ ht _ => ht.recopy
protected theorem Sound.checkEnt {fil outer step} : Sound (checkEnt s fil outer step) := by
  unfold Machine.checkEnt
  dsimp only
  split
  · exact hk
  · exact ((hk.foldl fun _ ht _ => ht.meetRange).foldl fun _ ht _ => ht.meetRange).selfOr (·.entDamaged)
protected theorem Sound.journalHit {pa} : Sound (journalHit s pa) := hk.foldl fun _ ht _ => ht.checkEnt
protected theorem Sound.restoreSegs {sh outer step p} {t : State} (e : restoreSegs s sh outer step p = some t) :
    Sound t := by
  unfold Machine.restoreSegs at e
  split at e
  · cases e
  · obtain ⟨-, e⟩ := Option.ite_none_left_eq_some.1 e
    cases e
    exact hk.foldl fun _ ht _ => ht.storeVa

/-! ### The functions of Machine/RuleOps.lean -/

protected theorem Sound.meetSp {sh step} : Sound (meetSp s sh step) := hk.meetVa
protected theorem Sound.spOutcome {job step m} : Sound (spOutcome s job step m) := by
  unfold Machine.spOutcome
  dsimp only
  split
  · exact hk
  · split
    · exact hk.meetSp.logPt
    · exact hk.meetSp.storeVa

/-! ### The functions of Machine/VoteOps.lean -/

protected theorem Sound.putVote {v} : Sound (putVote s v) := hk
protected theorem Sound.endVote {m} : Sound (endVote s m) := hk
protected theorem Sound.sendVote {g job rank b} : Sound (sendVote s g job rank b) := hk.sendTo
protected theorem Sound.giveNotices {job step out} : Sound (giveNotices s job step out) :=
  hk.foldl fun _ ht _ => ht.setObj.applySig
protected theorem Sound.unhalt {ctxs} : Sound (unhalt s ctxs) := hk.foldl fun _ ht _ => ht.updSlot
protected theorem Sound.rewind {job step} : Sound (rewind s job step) :=
  (hk.abandon.unhalt.foldl fun _ ht _ => ht.setQ.haltQueue).dropWaits
protected theorem Sound.skipKernels {job step syncs} : Sound (skipKernels s job step syncs) := hk.abandon
protected theorem Sound.skipShard {sh step} : Sound (skipShard s sh step) := hk.setHdr.setHdr.setHdr.engineSig
protected theorem Sound.skipShards {job step} : Sound (skipShards s job step) := by
  unfold Machine.skipShards
  dsimp only
  refine Sound.withUpd ?_
  refine Sound.foldl ?_ fun _ ht _ => ht.skipShard
  split
  · exact hk.logRec.ite hk
  · exact hk
protected theorem Sound.voteHalt {job step} : Sound (voteHalt s job step) :=
  hk.logSpine.foldl fun _ ht _ => ht.stopCtxOnly
protected theorem Sound.dropEnded {job step} : Sound (dropEnded s job step) := hk
protected theorem Sound.applyRerun {m fil digs lim} : Sound (applyRerun s m fil digs lim) :=
  hk.cancelColls.dropEnded.entRerun.rewind.withCol.orSelf (·.voteHalt)
protected theorem Sound.applySkip {m fil} : Sound (applySkip s m fil) :=
  hk.cancelColls.skipKernels.spOutcome.skipShards.entSkip.selfOr (·.openNext)
protected theorem Sound.applyCommit {m fil} : Sound (applyCommit s m fil) := hk.spOutcome.entCommit
protected theorem Sound.heldOnly {m} : Sound (heldOnly s m) := .ite hk hk.withCol
protected theorem Sound.applyOutcome {m} : Sound (applyOutcome s m) := by
  have hv : Sound (giveNotices (s.setCol { s.col with outs := m :: s.col.outs }) m.job m.step m.out) :=
    hk.withCol.giveNotices
  unfold Machine.applyOutcome
  dsimp only
  refine .ite hk (.ite (.heldOnly (.endVote ?_)) ?_)
  · split
    · exact hv.setGrp
    · exact hv
  · split
    · refine .applyCommit (.endVote ?_)
      split
      · exact hv.setGrp
      · exact hv
    · refine .applySkip (.endVote ?_)
      split
      · exact hv.setGrp
      · exact hv
    · refine .applyRerun (.endVote ?_)
      split
      · exact hv.setGrp
      · exact hv
protected theorem Sound.passDown {g m} : Sound (passDown s g m) := hk.foldl fun _ ht _ => ht.sendVote
protected theorem Sound.setLastWord {w} : Sound (setLastWord s w) := hk
protected theorem Sound.rootTake {g v w} : Sound (rootTake s g v w) := hk.setLastWord.passDown.applyOutcome
protected theorem Sound.rootDecide {g v w} : Sound (rootDecide s g v w) := by
  unfold Machine.rootDecide
  dsimp only
  split
  · exact hk.rootTake.orSelf (·.rootTake)
  · exact hk.rootTake
protected theorem Sound.forwardUp {g v w} : Sound (forwardUp s g v w) := by
  unfold Machine.forwardUp
  split
  · exact hk.setLastWord.sendVote.putVote
  · exact hk.setLastWord.putVote
protected theorem Sound.voteMove {g v now} : Sound (voteMove s g v now) :=
  .ite (hk.putVote.orSelf (·.rootDecide)) (hk.putVote.orSelf (·.forwardUp))
protected theorem Sound.notPresent {job step} : Sound (notPresent s job step) := by
  unfold Machine.notPresent
  dsimp only
  refine .ite hk ?_
  split
  · exact hk.withCol
  · exact hk.withCol.voteMove
protected theorem Sound.stopCtx {id} : Sound (stopCtx s id) := .ite hk (hk.stopCtxOnly.orSelf (·.notPresent))
protected theorem Sound.npAll : Sound (npAll s) := hk.foldl fun _ ht _ => ht.notPresent
protected theorem Sound.raiseAll {h x} : Sound (raiseAll s h x) := hk.raise.orSelf (·.npAll)
protected theorem Sound.raiseSpineAll {x} : Sound (raiseSpineAll s x) := hk.raiseSpine.orSelf (·.npAll)
protected theorem Sound.goKeepAlive {code} : Sound (goKeepAlive s code) := .ite hk hk.enterKeepAlive.npAll

/-! ### The functions of Machine/Yupor.lean -/

protected theorem Sound.progFault {cl fil id code cls addr pc} : Sound (progFault s cl fil id code cls addr pc) :=
  Sound.stopCtx (Sound.logRec (.orSelf (.ite hk.setSlot hk) (·.setCtx)))
protected theorem Sound.engineFault {cl fil id cls addr pc} : Sound (engineFault s cl fil id cls addr pc) :=
  hk.progFault
protected theorem Sound.setPc {cl fil pc} : Sound (setPc s cl fil pc) := hk
protected theorem Sound.goOn {sl pc} : Sound (goOn s sl pc) := hk.setPc.waited
protected theorem Sound.issue {sl cls f body} (hb : ∀ t, Sound t → EffSound (body t)) :
    EndsSound (issue sl cls f s body) := by
  have hs := hb s hk
  unfold Machine.issue
  generalize body s = e at hs
  refine .ite .fault (.ite hk.next ?_)
  cases e with
  | done t => exact Sound.next (.goOn hs)
  | jump t => exact Sound.next (.goOn hs)
  | fault => exact .ite hk.next hk.progFault.next
  | trap t => exact .ite hk.next (Sound.next (.progFault hs))
  | hold t => exact Sound.next hs
protected theorem Sound.scrUeRec {cl fil off} : Sound (scrUeRec s cl fil off) := hk.logRec
protected theorem Sound.slotHalt {cl fil} : Sound (slotHalt s cl fil) := hk.updSlot.notPresent
protected theorem Sound.cellErr {cl fil code} : Sound (cellErr s cl fil code) := hk.setClu.raiseAll.slotHalt
protected theorem Sound.scrCeRec {cl fil w} : Sound (scrCeRec s cl fil w) := hk.logRec
protected theorem Sound.scrSpoil {cl w} : Sound (scrSpoil s cl w) := hk.withMem (scrSpoil_wf _ _ _ hk.1)
protected theorem Sound.inject {cl fil u} : Sound (inject s cl fil u) := by
  unfold Machine.inject
  split
  · exact hk.withMem (scrErr_wf _ _ _ hk.1)
  · exact hk.withMem (scrErr_wf _ _ _ hk.1)
  · exact hk.updSlot
  · exact hk
  · exact hk
protected theorem Sound.readWord {cl fil b w} : Sound (readWord cl fil (s, b) w).1 := by
  unfold Machine.readWord
  dsimp only
  split
  · exact hk
  · have hm := hk.withMem (scrErr_wf s.mem (cl * 2 ^ 20 + w) 0 hk.1)
    split
    · exact hm.scrCeRec
    · exact hm.scrSpoil.scrUeRec.slotHalt
protected theorem Sound.readWords {cl fil b} {ws : List Nat} : Sound (ws.foldl (readWord cl fil) (s, b)).1 := by
  induction ws generalizing s b with
  | nil => exact hk
  | cons w ws ih => exact ih hk.readWord
protected theorem Sound.meetWords {cl fil ws} : Sound (meetWords s cl fil ws).1 := by
  unfold Machine.meetWords
  split
  · exact hk
  · exact hk.readWords
protected theorem Sound.readRanges {sl rs k} (hb : ∀ t, Sound t → EffSound (k t)) :
    EffSound (readRanges sl rs s k) := by
  unfold Machine.readRanges
  dsimp only
  split
  · exact .fault
  · exact .ite hk.meetWords.held (hb _ hk.meetWords)
protected theorem Sound.readStep {sl a n k} (hb : ∀ t, Sound t → ∀ x, EffSound (k t x)) :
    EffSound (readStep sl a n s k) :=
  hk.readRanges fun _ ht => hb _ ht _
protected theorem Sound.writeStep {sl a bs} : EffSound (writeStep sl a bs s) :=
  hk.readRanges fun _ ht => ht.scrWrite.done
protected theorem Sound.readAcc {sl p k} (hb : ∀ t, Sound t → EffSound (k t)) : EffSound (readAcc sl p s k) :=
  .ite (hb _ hk) hk.updSlot.cellErr.held
protected theorem Sound.meetUpset {cl fil u} : Sound (meetUpset s cl fil u).1 := by
  unfold Machine.meetUpset
  split
  · exact hk
  · exact hk.inject.readWord
  · exact hk.inject.readWord
  · exact hk.cellErr
  · exact hk.cellErr
protected theorem Sound.csrWrite {cl fil o v} {t : State} (e : csrWrite s cl fil o v = some t) : Sound t := by
  unfold Machine.csrWrite at e
  split at e
  · cases e
    exact hk.updSlot
  · split at e
    · cases e
      exact hk.setCtx
    · cases e

end

end Sys2Proof.Machine
end

section
/-!
PROOFS. Every step keeps the invariant: lines, losses, Borage, synchronisation and updates.
-/

namespace Sys2Proof.Machine

section

variable {s : State} (hk : Sound s)
include hk

/-! ### The functions of Machine/LossOps.lean -/

protected theorem Sound.haltJob {job step} : Sound (haltJob s job step) := by
  unfold Machine.haltJob
  dsimp only
  split
  · exact (hk.foldl fun _ ht _ => ht.setStatus).setJobReg
  · exact hk.foldl fun _ ht _ => ht.setStatus
protected theorem Sound.pairLost {job} : Sound (pairLost s job) :=
  .ite hk (hk.setPair.raiseSpineAll.foldl fun _ ht _ => ht.stopCtx).haltJob
protected theorem Sound.sendFetch {dst sh blk} : Sound (sendFetch s dst sh blk) := hk.sendLovage
protected theorem Sound.sendUndoReq {sh step outer} : Sound (sendUndoReq s sh step outer) := hk.sendLovage
protected theorem Sound.checkGrad {sh} : Sound (checkGrad s sh) := by
  unfold Machine.checkGrad
  split
  · exact hk.checkEnt
  · exact hk
protected theorem Sound.regrad {sh g i} : Sound (regrad s sh g i) := by
  unfold Machine.regrad
  dsimp only
  refine .ite (.ite hk.sendFetch hk) ?_
  split
  · exact hk.checkGrad.storeVa
  · exact hk.checkGrad
protected theorem Sound.fallBack {sh} : Sound (fallBack s sh) := .ite hk.sendFetch hk.pairLost
protected theorem Sound.restoreSeg {sh kind step outer} : Sound (restoreSeg s sh kind step outer) := by
  unfold Machine.restoreSeg
  dsimp only
  refine .ite (.ite hk.pairLost hk.withMir.sendUndoReq) ?_
  split
  · next e => exact hk.checkEnt.restoreSegs e
  · exact hk.checkEnt.fallBack
protected theorem Sound.repairElse {sh kind} : Sound (repairElse s sh kind) := .ite hk.restoreSeg hk.fallBack
protected theorem Sound.repair {pa} : Sound (repair s pa) := by
  unfold Machine.repair
  split
  · exact hk
  · exact hk.regrad.ite (.ite hk.sendFetch hk.repairElse)
protected theorem Sound.poisonVote {job e} : Sound (poisonVote s job e) := by
  unfold Machine.poisonVote
  split
  · exact hk.repair.notPresent
  · exact hk
protected theorem Sound.poisonRepair {e} : Sound (poisonRepair s e) := by
  unfold Machine.poisonRepair
  split
  · exact hk.repair
  · exact hk

/-! ### The functions of Machine/BorageOps.lean -/

protected theorem Sound.meetTables {c g} : Sound (meetTables s c g) := .ite hk.meetVa.meetVa (.ite hk.meetVa hk)
protected theorem Sound.putColl {c} : Sound (putColl s c) := hk
protected theorem Sound.collFail {c} : Sound (collFail s c) := hk
protected theorem Sound.nfMark {job step} : Sound (nfMark s job step) := hk
protected theorem Sound.collEngine {c addr} : Sound (collEngine s c addr) := hk.engineFault
protected theorem Sound.collError {c e} : Sound (collError s c e) := hk.collFail.logPt.collEngine.poisonVote
protected theorem Sound.collLen {c p} : Sound (collLen s c p) := hk.logSpine.collFail
protected theorem Sound.mismatch {job step x} : Sound (mismatch s job step x) := hk.withCol.logSpine
protected theorem Sound.checkUnit {c unit origin bs d} : Sound (checkUnit s c unit origin bs d) := .ite hk.mismatch hk
protected theorem Sound.sendUnit {c dst unit final n bs d} : Sound (sendUnit s c dst unit final n bs d) := hk.sendTo
protected theorem Sound.passUnit {c unit n bs d} : Sound (passUnit s c unit n bs d) := .ite hk hk.sendUnit
protected theorem Sound.srcEls {c off n} : Sound (srcEls s c off n).1 := by
  unfold Machine.srcEls
  dsimp only
  exact hk.loadVa
protected theorem Sound.collStats {c k} : Sound (collStats s c k) := by
  unfold Machine.collStats
  refine .ite hk ?_
  split
  · next e => exact hk.statAdd.fst e
  · next e => exact (hk.statAdd.fst e).collEngine
protected theorem Sound.sendMirror {c bs d} : Sound (sendMirror s c bs d) := by
  unfold Machine.sendMirror
  dsimp only
  split
  · exact hk
  · exact hk.sendTo
protected theorem Sound.entChunk {sh step off bs} : Sound (entChunk s sh step off bs) := by
  unfold Machine.entChunk
  dsimp only
  split
  · exact hk
  · exact hk.getD fun _ e => hk.putCopy e
protected theorem Sound.lastChunk {job step} : Sound (lastChunk s job step) := by
  unfold Machine.lastChunk
  dsimp only
  split
  · exact hk.nfMark.ite hk
  · exact Sound.selfOr (Sound.meetSp (.ite hk.nfMark hk)) (·.logRec.notPresent)
protected theorem Sound.ownChunk {c ts} : Sound (ownChunk s c ts) := by
  unfold Machine.ownChunk
  dsimp only
  split
  · next e => exact (hk.writeVa.fst e).collError
  · next e =>
      have hs := hk.writeVa.fst e
      refine .ite ?_ ?_
      · refine Sound.passUnit ?_
        refine .ite ?_ ?_
        · refine Sound.lastChunk ?_
          split
          · exact (hs.putColl.collStats.orSelf (·.nfMark)).sendMirror.entChunk
          · exact hs.putColl.collStats.orSelf (·.nfMark)
        · split
          · exact (hs.putColl.collStats.orSelf (·.nfMark)).sendMirror.entChunk
          · exact hs.putColl.collStats.orSelf (·.nfMark)
      · refine .ite ?_ ?_
        · refine Sound.lastChunk ?_
          split
          · exact (hs.putColl.collStats.orSelf (·.nfMark)).sendMirror.entChunk
          · exact hs.putColl.collStats.orSelf (·.nfMark)
        · split
          · exact (hs.putColl.collStats.orSelf (·.nfMark)).sendMirror.entChunk
          · exact hs.putColl.collStats.orSelf (·.nfMark)
protected theorem Sound.sumOn {c u ts} : Sound (sumOn s c u ts) := .ite hk.ownChunk hk.sendUnit

/-! ### The functions of Machine/SyncInstr.lean -/

protected theorem Sound.onObj {sl bad h fits k} (hb : ∀ x, EffSound (k x)) : EffSound (onObj s sl bad h fits k) := by
  unfold Machine.onObj
  refine .ite .fault (.ite hk.held ?_)
  split
  · exact .fault
  · exact .ite .fault (.ite .fault (hb _))
protected theorem Sound.sendSig {sl bad dst amount arr} : EffSound (sendSig s sl bad dst amount arr) :=
  .ite .fault (.ite (.ite hk.held hk.sendTo.done) (.ite .fault (.ite .fault (.ite hk.held hk.emit.done))))
protected theorem Sound.execSig {sl f} : EndsSound (execSig sl f s) := hk.issue fun _ ht => ht.sendSig
protected theorem Sound.execArrive {sl f} : EndsSound (execArrive sl f s) := hk.issue fun _ ht => ht.sendSig
protected theorem Sound.waitAt {sl f h o cond arg} : EffSound (waitAt s sl f h o cond arg) :=
  .ite hk.setObj.done hk.setObj.updSlot.held
protected theorem Sound.execWait {sl f} : EndsSound (execWait sl f s) :=
  hk.issue fun _ ht => ht.onObj fun _ => ht.waitAt
protected theorem Sound.execCons {sl f} : EndsSound (execCons sl f s) :=
  hk.issue fun _ ht => ht.onObj fun _ => ht.waitAt
protected theorem Sound.execSread {sl f} : EndsSound (execSread sl f s) :=
  hk.issue fun _ ht => ht.onObj fun _ => ht.setSlot.done
protected theorem Sound.execCreg {sl f} : EndsSound (execCreg sl f s) := by
  unfold Machine.execCreg
  dsimp only
  refine hk.issue fun _ ht => ?_
  refine ht.onObj fun _ => ?_
  split
  · exact ht.setObj.done
  · exact ht.setObj.applySig.done

/-! ### The functions of Machine/SyncHost.lean -/

protected theorem Sound.syncCmd {c w create ka body} (hbody : ∀ x y, Sound (body x y)) :
    EndsSound (syncCmd c w s create ka body) :=
  hk.blockCmd fun _ ht => .ite ht.finish (.ite ht.finish (hbody _ _))
protected theorem Sound.execSyncCreate {w} : EndsSound (execSyncCreate w s) :=
  hk.syncCmd fun _ _ => .ite hk.finish (.ite hk.finish (.ite hk.finish (.ite hk.finish hk.setObj.setBlk.finish)))
protected theorem Sound.execSyncDestroy {w} : EndsSound (execSyncDestroy w s) :=
  hk.syncCmd fun _ _ => .ite hk.finish hk.setObj.finish
protected theorem Sound.execSyncReset {w} : EndsSound (execSyncReset w s) := by
  unfold Machine.execSyncReset
  dsimp only
  refine hk.syncCmd fun _ _ => ?_
  refine .ite hk.finish ?_
  split
  · exact hk.setObj.finish
  · exact hk.setObj.finish
  · exact hk.setObj.finish
protected theorem Sound.execSyncRead {w} : EndsSound (execSyncRead w s) := hk.syncCmd fun _ _ => hk.wrBytes.finish
protected theorem Sound.execReadWaiters {w} : EndsSound (execReadWaiters w s) :=
  hk.syncCmd fun _ _ => .ite hk.finish (.ite hk.withLink.busy hk.writeMem.setBlk.finish)
protected theorem Sound.execClearOvr {w} : EndsSound (execClearOvr w s) :=
  hk.syncCmd fun _ _ => .ite hk.finish hk.setObj.finish
protected theorem Sound.execSyncQuarantineEnd {i} : EndsSound (execSyncQuarantineEnd i s) :=
  .ite hk.next hk.setObj.next
protected theorem Sound.deliver {n ty} : EndsSound (deliver n ty s) := by
  unfold Machine.deliver
  dsimp only
  split
  · exact hk.next
  · exact .ite hk.next hk.withSyn.applySig.next
protected theorem Sound.execCounterSignal {n} : EndsSound (execCounterSignal n s) := hk.deliver
protected theorem Sound.execFlagSignal {n} : EndsSound (execFlagSignal n s) := hk.deliver
protected theorem Sound.execBarrierArrival {n} : EndsSound (execBarrierArrival n s) := hk.deliver
protected theorem Sound.execRemoteSignal {m} : EndsSound (execRemoteSignal m s) := by
  unfold Machine.execRemoteSignal
  dsimp only
  refine .ite hk.next ?_
  split
  · exact hk.staleDrop.next
  · exact .ite hk.foreign.next hk.applySig.next
protected theorem Sound.execBarrierRejection {who} : EndsSound (execBarrierRejection who s) := hk.haltQueue.next
protected theorem Sound.queueExpired {q} : Sound (queueExpired s q) := hk.setQ.haltQueue
protected theorem Sound.slotExpired {cl fil h} : Sound (slotExpired s cl fil h) := hk.setSlot.progFault
protected theorem Sound.execWatchdogExpiry {i who} : EndsSound (execWatchdogExpiry i who s) := by
  unfold Machine.execWatchdogExpiry
  dsimp only
  split
  · exact hk.next
  · refine Sound.next ?_
    split
    · exact hk.setObj.withSyn.logRec.slotExpired
    · exact hk.setObj.withSyn.logRec.queueExpired
protected theorem Sound.execLendStart {cl} : EndsSound (execLendStart cl s) :=
  .ite .fault (.ite hk.setClu.next hk.next)
protected theorem Sound.settleLent {h p} : Sound (settleLent s h p) := hk.withClu.withPwr
protected theorem Sound.execLendGrant {h} : EndsSound (execLendGrant h s) := Sound.next (.ite hk.settleLent hk)
protected theorem Sound.execLendWake {cl} : EndsSound (execLendWake cl s) :=
  .ite .fault (Sound.next (.ite hk.setClu hk))
protected theorem Sound.execLendRevoke {h} : EndsSound (execLendRevoke h s) := hk.settleLent.next

/-! ### The functions of Machine/Borage.lean -/

protected theorem Sound.collCmd {ka c w body} (hbody : ∀ x y, Sound (body x y)) : EndsSound (collCmd ka c w s body) :=
  hk.blockCmd fun _ ht => .ite ht.finish (hbody _ _)
protected theorem Sound.execGroupCreate {w} : EndsSound (execGroupCreate w s) := by
  unfold Machine.execGroupCreate
  dsimp only
  refine hk.collCmd fun _ _ => ?_
  refine .ite hk.finish (.ite hk.finish (.ite hk.finish (.ite hk.finish ?_)))
  split
  · next e => exact (hk.loadVa.fst e).logPt.poisonVote.finish
  · next e =>
      have hs := hk.loadVa.fst e
      exact .ite hs.finish (.ite hs.finish hs.setGrp.setBlk.finish)
protected theorem Sound.execGroupDestroy {w} : EndsSound (execGroupDestroy w s) :=
  hk.collCmd fun _ _ => .ite hk.finish (.ite hk.finish (.ite hk.finish hk.setGrp.finish))
protected theorem Sound.execGroupQuarantineEnd {g} : EndsSound (execGroupQuarantineEnd g s) :=
  .ite hk.next hk.setGrp.next
protected theorem Sound.execGroupRead {w} : EndsSound (execGroupRead w s) :=
  hk.collCmd fun _ _ => .ite hk.finish hk.wrBytes.finish
protected theorem Sound.execVoteRead {w} : EndsSound (execVoteRead w s) :=
  hk.collCmd fun _ _ => .ite hk.finish hk.wrBytes.finish
protected theorem Sound.startSum {c g} : Sound (startSum s c g) := by
  unfold Machine.startSum
  dsimp only
  split
  · next e => exact (hk.srcEls.fst e).collError
  · next e => exact (hk.srcEls.fst e).sumOn
protected theorem Sound.startNorm {c} : Sound (startNorm s c).1 := by
  unfold Machine.startNorm
  split
  · exact hk
  · split
    · next e => exact hk.srcEls.fst e
    · next e => exact hk.srcEls.fst e
protected theorem Sound.startGather {c g} : Sound (startGather s c g) := by
  unfold Machine.startGather
  dsimp only
  split
  · next e => exact (hk.loadVa.fst e).collError
  · next e =>
      have hs := hk.loadVa.fst e
      split
      · next e1 => exact (hs.writeVa.fst e1).collError
      · next e1 => exact (hs.writeVa.fst e1).putColl.passUnit
protected theorem Sound.startShift {c g} : Sound (startShift s c g) := by
  unfold Machine.startShift
  dsimp only
  refine .ite hk.putColl ?_
  split
  · next e => exact (hk.loadVa.fst e).collError
  · next e => exact (hk.loadVa.fst e).putColl.sendUnit
protected theorem Sound.sendPiece {c g r} : Sound (sendPiece s c g r).1 := by
  unfold Machine.sendPiece
  dsimp only
  split
  · next e => exact hk.loadVa.fst e
  · next e => exact (hk.loadVa.fst e).sendUnit
protected theorem Sound.sendPieces {c g rs} : Sound (sendPieces c g rs s).1 := by
  induction rs generalizing s with
  | nil => exact hk
  | cons r rs ih =>
    unfold Machine.sendPieces
    split
    · next e => exact hk.sendPiece.fst e
    · next e => exact ih (hk.sendPiece.fst e)
protected theorem Sound.localPiece {c g} : Sound (localPiece s c g).1 := by
  unfold Machine.localPiece
  dsimp only
  split
  · next e => exact hk.loadVa.fst e
  · next e => exact (hk.loadVa.fst e).writeVa
protected theorem Sound.startPermute {c g} : Sound (startPermute s c g) := by
  unfold Machine.startPermute
  refine .ite hk.collLen ?_
  split
  · next e => exact (hk.putColl.sendPieces.fst e).collError
  · next e =>
      have hs := hk.putColl.sendPieces.fst e
      split
      · next e1 => exact (hs.localPiece.fst e1).collError
      · next e1 => exact hs.localPiece.fst e1
protected theorem Sound.execCollectiveStart {x} : EndsSound (execCollectiveStart x s) := by
  unfold Machine.execCollectiveStart
  dsimp only
  split
  · exact hk.next
  · refine .ite hk.next ?_
    split
    · next e => exact ((Sound.startNorm (.ite hk hk.charge)).fst e).collError.next
    · next e =>
        have hs := (Sound.startNorm (.ite hk hk.charge)).fst e
        exact Sound.next (.ite hs.putColl.startSum
          (.ite hs.putColl.startGather (.ite hs.putColl.startShift hs.putColl.startPermute)))
protected theorem Sound.takePartial {c g m} : Sound (takePartial s c g m) := by
  unfold Machine.takePartial
  dsimp only
  refine .ite hk (.ite hk.collLen ?_)
  split
  · next e => exact (hk.srcEls.fst e).collError
  · next e => exact (hk.srcEls.fst e).putColl.sumOn
protected theorem Sound.takeUnit {c g m} : Sound (takeUnit s c g m) := by
  unfold Machine.takeUnit
  dsimp only
  split
  · exact hk
  · refine .ite hk (.ite hk.collLen ?_)
    split
    · next e => exact (hk.writeVa.fst e).collError
    · next e => exact (hk.writeVa.fst e).putColl.checkUnit.orSelf (·.passUnit)
protected theorem Sound.takeReply {c m} : Sound (takeReply s c m) := .ite hk.putColl hk.collFail.collEngine
protected theorem Sound.grpMismatch {g m} : Sound (grpMismatch s g m) := by
  unfold Machine.grpMismatch
  dsimp only
  split
  · exact hk.logSpine.collFail
  · exact hk.logSpine
protected theorem Sound.execBorageMessage {m} : EndsSound (execBorageMessage m s) := by
  unfold Machine.execBorageMessage
  dsimp only
  refine .ite hk.next (.ite hk.staleDrop.next (.ite hk.grpMismatch.next (.ite hk.withCol.next ?_)))
  split
  · exact hk.next
  · exact Sound.next (.ite hk.takeReply (.ite hk.takeUnit hk.takePartial))
protected theorem Sound.mirReply {m r} : Sound (mirReply s m r) := hk.sendTo
protected theorem Sound.execMirrorDelivery {m} : EndsSound (execMirrorDelivery m s) := by
  unfold Machine.execMirrorDelivery
  dsimp only
  refine .ite hk.next (.ite hk.staleDrop.next ?_)
  split
  · exact hk.mirReply.next
  · split
    · next e => exact (hk.writeVa.fst e).logPt.mirReply.poisonVote.next
    · next e =>
        have hs := hk.writeVa.fst e
        exact Sound.next (Sound.mirReply (Sound.withCol (.ite hs hs.mismatch)))
protected theorem Sound.execCollectiveComplete {n} : EndsSound (execCollectiveComplete n s) := by
  unfold Machine.execCollectiveComplete
  dsimp only
  split
  · exact hk.next
  · exact .ite hk.next (hk.putColl.orSelf (·.engineSig)).next

/-! ### The functions of Machine/Chive.lean -/

protected theorem Sound.chvEnd {u x res} : Sound (chvEnd s u x res) := hk
protected theorem Sound.execRun {u w} : EndsSound (execRun u w s) :=
  .ite .fault (.ite hk.next (.ite hk.setChv.next (.ite hk.withHeld.setChv.next (.ite hk.chvEnd.next hk.setChv.next))))
protected theorem Sound.chvGenerate {u x pay} : Sound (chvGenerate s u x pay) := hk.writeMem.chvEnd
protected theorem Sound.chvVerify {u x all} : Sound (chvVerify s u x all) := .ite hk.chvEnd hk.chvEnd
protected theorem Sound.execChiveRunComplete {u} : EndsSound (execChiveRunComplete u s) :=
  .ite .fault (.ite hk.next (.ite hk.chvEnd.next
    (.ite hk.meetRange.chvEnd.next (.ite hk.meetRange.chvEnd.next
      (.ite hk.meetRange.chvGenerate.next hk.meetRange.chvVerify.next)))))
protected theorem Sound.execResetAlive {u w} : EndsSound (execResetAlive u w s) :=
  .ite .fault (.ite hk.next (.ite hk.setChv.next hk.setChv.next))
protected theorem Sound.chvBadOp {u} : Sound (chvBadOp u s) := hk

/-! ### The functions of Machine/UpdOps.lean -/

protected theorem Sound.updEngine {c addr} : Sound (updEngine s c addr) := .ite hk hk.engineFault
protected theorem Sound.updRec {h c code sev addr} : Sound (updRec s h c code sev addr) := hk.logRec
protected theorem Sound.updStep {h c} : Sound (updStep s h c) := hk.updRec.updEngine
protected theorem Sound.updError {c e} : Sound (updError s c e) := hk.logPt.updEngine.poisonVote
protected theorem Sound.putUCmd {c} : Sound (putUCmd s c) := hk
protected theorem Sound.dropUCmd {n} : Sound (dropUCmd s n) := hk
protected theorem Sound.addUCmd {c} : Sound (addUCmd s c) := hk
protected theorem Sound.noRecord {sh c} : Sound (noRecord s sh c) := hk.dropUCmd.updEngine.pairLost
protected theorem Sound.hdrChanged {sh c} : Sound (hdrChanged s sh c) := hk.dropUCmd.updRec.updEngine
protected theorem Sound.settleCmds {sh} : Sound (settleCmds s sh) := hk

/-! ### The functions of Machine/UpdInstr.lean -/

protected theorem Sound.updInner {sh c} : Sound (updInner s sh c) := by
  unfold Machine.updInner
  dsimp only
  refine .ite hk (.ite hk.updStep (.ite hk ?_))
  split
  · exact hk.updStep
  · exact hk.addUCmd
protected theorem Sound.updOut {sh c} : Sound (updOut s sh c) := by
  unfold Machine.updOut
  dsimp only
  split
  · exact hk.updStep
  · exact hk.updStep.ite (.ite hk hk.openEnt.addUCmd)
protected theorem Sound.updTake {c} : Sound (updTake s c) := by
  unfold Machine.updTake
  split
  · exact hk.updStep
  · split
    · exact hk.updError
    · refine .ite hk.updStep (.ite hk.updEngine ?_)
      split
      · exact hk.addUCmd
      · exact hk.updOut
      · exact hk.updInner
protected theorem Sound.updIssue {sl f u kind} : EndsSound (updIssue sl f s u kind) :=
  hk.issue fun _ ht => .guard ht.updTake.done
protected theorem Sound.execUpdA {sl f} : EndsSound (execUpdA sl f s) := hk.updIssue
protected theorem Sound.execUpdB {sl f} : EndsSound (execUpdB sl f s) := hk.updIssue
protected theorem Sound.execUpdAb {sl f} : EndsSound (execUpdAb sl f s) := hk.updIssue
protected theorem Sound.execUpdOut {sl f} : EndsSound (execUpdOut sl f s) := hk.updIssue
protected theorem Sound.execUpdExp {sl f} : EndsSound (execUpdExp sl f s) := hk.updIssue
protected theorem Sound.writeAll {ctx ps} : Sound (writeAll ctx ps s).1 := by
  induction ps generalizing s with
  | nil => exact hk
  | cons p ps ih =>
    unfold Machine.writeAll
    split
    · next e => exact ih (hk.writeVa.fst e)
    · exact hk.writeVa
protected theorem Sound.execUpdExpComplete {n} : EndsSound (execUpdExpComplete n s) := by
  unfold Machine.execUpdExpComplete
  dsimp only
  split
  · exact hk.next
  · split
    · exact hk.next
    · refine .ite hk.next ?_
      split
      · exact hk.dropUCmd.meetShard.updError.next
      · split
        · next e => exact (hk.dropUCmd.meetShard.writeAll.fst e).updError.next
        · next e => exact (hk.dropUCmd.meetShard.writeAll.fst e).engineSig.next

end

end Sys2Proof.Machine
end

section
/-!
PROOFS. Every step keeps the invariant: phases, outer rounds, Rosemary, the transport and the sessions.
-/

namespace Sys2Proof.Machine

section

variable {s : State} (hk : Sound s)
include hk

/-! ### The functions of Machine/PhaseOps.lean -/

protected theorem Sound.phaseStats {sh step k n fmt} : Sound (phaseStats s sh step k n fmt) :=
  hk.statAdd.setHdr.withUpd
protected theorem Sound.nonFiniteHalt {sh step} : Sound (nonFiniteHalt s sh step) := hk.haltJob.logRec
protected theorem Sound.phaseError {sh c e} : Sound (phaseError s sh c e) := hk.dropUCmd.updError.withUpd
protected theorem Sound.meetGrad {sh step lov} : Sound (meetGrad s sh step lov) := by
  unfold Machine.meetGrad
  split
  · exact hk.meetRange
  · exact hk
protected theorem Sound.phaseA {sh step lov} : Sound (phaseA s sh step lov).1 := by
  unfold Machine.phaseA
  dsimp only
  split
  · exact hk.meetSp.meetGrad
  · split
    · exact hk.meetSp.meetGrad
    · exact hk.meetSp.meetGrad.writeAll
protected theorem Sound.phaseB {sh step lov} : Sound (phaseB s sh step lov).1 := by
  unfold Machine.phaseB
  dsimp only
  split
  · exact hk.meetSp.meetGrad
  · exact hk.meetSp.meetGrad.writeVa
protected theorem Sound.loadAnchor {sh} : Sound (loadAnchor s sh).1 := by
  unfold Machine.loadAnchor
  dsimp only
  split
  · next e => exact hk.setStatus.loadVa.fst e
  · next e => exact (hk.setStatus.loadVa.fst e).writeVa
protected theorem Sound.encodeOut {sh step} : Sound (encodeOut s sh step).1 := by
  unfold Machine.encodeOut
  dsimp only
  split
  · exact hk
  · exact hk.writeAll
protected theorem Sound.meetMerge {sh} : Sound (meetMerge s sh) :=
  hk.meetVa.meetVa.foldl fun _ ht _ => ht.meetVa.meetVa.orSelf (·.meetVa)
protected theorem Sound.mergeOut {sh step} : Sound (mergeOut s sh step).1 := by
  unfold Machine.mergeOut
  dsimp only
  split
  · exact hk.meetMerge
  · exact hk.meetMerge.writeAll
protected theorem Sound.startCheck {sh step outer} : Sound (startCheck s sh step outer) := .ite hk hk.withMir

/-! ### The functions of Machine/SiteOps.lean -/

protected theorem Sound.sendCtrl {d kind args} : Sound (sendCtrl s d kind args) :=
  hk.sent (sendCtrl_sent s d kind args)
protected theorem Sound.sxRec {code sev p d0 d1} : Sound (sxRec s code sev p d0 d1) := hk.logSpine
protected theorem Sound.setRound {r} : Sound (setRound s r) := hk
protected theorem Sound.sendStreams {sh site d j} : Sound (sendStreams s sh site d j) := by
  unfold Machine.sendStreams
  dsimp only
  split
  · exact hk.loadVa.loadVa.logPt.poisonVote
  · exact hk.loadVa.loadVa.foldl fun _ ht _ => ht.sendTo.sendTo
protected theorem Sound.sendStateOf {sh site kind va d} : Sound (sendStateOf s sh site kind va d) := by
  unfold Machine.sendStateOf
  split
  · next e => exact (hk.loadVa.fst e).logPt.poisonVote
  · next e => exact (hk.loadVa.fst e).sendTo
protected theorem Sound.sendState {sh kind va d} : Sound (sendState s sh kind va d) := hk.sendStateOf
protected theorem Sound.sendReceipt {r} : Sound (sendReceipt s r) :=
  .ite hk (hk.setRound.foldl fun _ ht _ => ht.sendTo)
protected theorem Sound.takeReport {x} : Sound (takeReport s x) := by
  unfold Machine.takeReport
  dsimp only
  split
  · exact hk
  · exact hk.ite (hk.setRound.orSelf (·.sendReceipt))
protected theorem Sound.sendReport : Sound (sendReport s) := by
  unfold Machine.sendReport
  dsimp only
  split
  · exact hk
  · exact hk.ite (.ite hk.takeReport hk.sendCtrl)
protected theorem Sound.sendDiffs {j} : Sound (sendDiffs s j) :=
  (hk.foldl fun _ ht _ => ht.foldl fun _ hu _ => hu.sendStreams).sendReport
protected theorem Sound.scaleSkew {r sh k src} : Sound (scaleSkew s r sh k src) := hk.setRound.withFab.sxRec.sendCtrl
protected theorem Sound.putDiff {sh k lo data scales} : Sound (putDiff s sh k lo data scales) := hk.writeAll
protected theorem Sound.keepDiff {r sh k} : Sound (keepDiff s r sh k) :=
  (hk.setRound.selfOr (·.sendStreams)).sendReport
protected theorem Sound.takeStream {r sh k src x} : Sound (takeStream s r sh k src x) :=
  .ite hk (.ite hk.scaleSkew (.ite (Sound.keepDiff (.ite hk.putDiff hk)) (Sound.setRound (.ite hk.putDiff hk))))
protected theorem Sound.moveBuf {ctx src dst n} : Sound (moveBuf s ctx src dst n) := by
  unfold Machine.moveBuf
  split
  · next e => exact (hk.loadVa.fst e).storeVa
  · next e => exact (hk.loadVa.fst e).logPt
protected theorem Sound.moveEntry {sh x n rejoin} : Sound (moveEntry s sh x n rejoin) :=
  hk.moveBuf.moveBuf.orSelf (·.moveBuf)
protected theorem Sound.moveDown {sh m rejoin} : Sound (moveDown s sh m rejoin) :=
  hk.foldl fun _ ht _ => .ite ht ht.moveEntry
protected theorem Sound.fillDesc {sh d ownOut} : Sound (fillDesc s sh d ownOut) :=
  .ite hk (hk.setVaNat.setVaNat.foldl fun _ ht _ => ht.setVaNat.setVaNat.setVaNat)
protected theorem Sound.keepHistory {d ownOut} : Sound (keepHistory s d ownOut) :=
  .ite hk.withSx (hk.withSx.orSelf (·.sxRec))
protected theorem Sound.keepAnchor {sh} : Sound (keepAnchor s sh) := hk.moveBuf
protected theorem Sound.sendShard {sh d} : Sound (sendShard s sh d) := hk.sendState.sendState.sendState
protected theorem Sound.sendHistory {d} : Sound (sendHistory s d) := hk.sendTo
protected theorem Sound.mergedShard {sh} : Sound (mergedShard s sh) := by
  unfold Machine.mergedShard
  dsimp only
  split
  · exact hk
  · split
    · exact hk
    · exact Sound.selfOr (.ite hk.keepAnchor hk) fun h => h.foldl fun _ ht _ => ht.sendShard
protected theorem Sound.joinersDone : Sound (joinersDone s) := by
  unfold Machine.joinersDone
  dsimp only
  split
  · exact hk
  · exact (hk.foldl fun _ ht _ => ht.sendHistory).withSx

/-! ### The functions of Machine/Rosemary.lean -/

protected theorem Sound.regFail {ctx hva} : Sound (regFail s ctx hva) := by
  unfold Machine.regFail
  split
  · exact hk.logPt.poisonVote
  · exact hk
protected theorem Sound.addShard {sh} : Sound (addShard s sh) :=
  ((hk.setStatus.setHdr.setHdr.withUpd.orSelf (·.setJobReg)).rechoose.orSelf (·.logDepth)).selfOr (·.withJrn)
protected theorem Sound.registerGo {w} : Sound (registerGo s w) := by
  unfold Machine.registerGo
  dsimp only
  refine .ite hk.finish (.ite hk.finish ?_)
  split
  · exact (hk.meetVa.orSelf (·.regFail)).finish
  · exact hk.meetVa.withUpd.busy.ite hk.meetVa.addShard.finish
protected theorem Sound.execRegister {w} : EndsSound (execRegister w s) := hk.blockCmd fun _ ht => ht.registerGo
protected theorem Sound.registerResume : Sound (registerResume s) := by
  unfold Machine.registerResume
  dsimp only
  split
  · exact hk
  · exact hk.ite hk.withUpd.registerGo
protected theorem Sound.dropJob {fil job} : Sound (dropJob s fil job) :=
  .ite hk.rechoose ((hk.setJobReg.delEntries.leaveRegion.withMir.orSelf (·.setPair)).selfOr fun h =>
    h.setDepth.logDepth).setTold.setBegun.rechoose
protected theorem Sound.execDeregister {w} : EndsSound (execDeregister w s) := by
  unfold Machine.execDeregister
  dsimp only
  refine hk.blockCmd fun _ ht => ?_
  refine .ite ht.finish ?_
  split
  · exact ht.finish
  · exact ht.finish.ite ht.setStatus.withUpd.dropJob.finish
protected theorem Sound.execUpdRead {w} : EndsSound (execUpdRead w s) := by
  unfold Machine.execUpdRead
  dsimp only
  refine hk.blockCmd fun _ ht => ?_
  refine .ite ht.finish ?_
  split
  · exact ht.finish
  · exact ht.meetVa.wrBytes.finish
protected theorem Sound.rollHdr {sh step ls} : Sound (rollHdr s sh step ls) :=
  hk.setHdr.setHdr.setHdr.foldl fun _ ht _ => ht.setStatus
protected theorem Sound.rollOwn {step shs} : Sound (rollOwn step shs s).1 := by
  induction shs generalizing s with
  | nil => exact hk
  | cons sh shs ih =>
    unfold Machine.rollOwn
    dsimp only
    split
    · next e _ => exact ih (hk.checkEnt.restoreSegs e).rollHdr
    · exact hk.checkEnt
protected theorem Sound.undoOutcomes {job step} : Sound (undoOutcomes s job step) := by
  unfold Machine.undoOutcomes
  dsimp only
  split
  · exact hk.withCol.setGrp
  · exact hk.withCol
protected theorem Sound.restartCmds {job} : Sound (restartCmds s job) := hk
protected theorem Sound.rollDone {fil job step} : Sound (rollDone s fil job step) :=
  hk.setJobReg.entRerun.delEntries.withMir.undoOutcomes.restartCmds.withUpd.finish
protected theorem Sound.rollCheck {job} : Sound (rollCheck s job) := by
  unfold Machine.rollCheck
  split
  · exact hk.ite hk.rollDone
  · exact hk
protected theorem Sound.rollFail : Sound (rollFail s) := by
  unfold Machine.rollFail
  dsimp only
  split
  · exact hk
  · exact hk.withUpd.finish.pairLost
protected theorem Sound.rollback {fil job step} : Sound (rollback s fil job step) := by
  unfold Machine.rollback
  dsimp only
  split
  · next e => exact (hk.rollOwn.fst e).finish.pairLost
  · next e =>
      have hs := hk.rollOwn.fst e
      exact .ite hs.withUpd.rollDone (.ite hs.withUpd.rollFail (hs.withUpd.foldl fun _ ht _ => ht.sendUndoReq).busy)
protected theorem Sound.execRollback {w} : EndsSound (execRollback w s) := by
  unfold Machine.execRollback
  dsimp only
  refine hk.blockCmd fun _ ht => ?_
  refine .ite ht.finish ?_
  split
  · exact ht.finish
  · split
    · exact ht.finish.ite (.ite ht.finish ht.rollback)
    · exact ht.finish
protected theorem Sound.chargeSlice {sh i w} : Sound (chargeSlice s sh i w) := by
  obtain ⟨c, q, heq⟩ := chargeSlice_only s sh i w
  rw [heq]
  exact hk
protected theorem Sound.onCmd {n p k} (hb : ∀ x y, Sound (k x y)) : EndsSound (onCmd s n p k) := by
  unfold Machine.onCmd
  split
  · exact hk.next
  · split
    · exact hk.next
    · exact Sound.next (.ite (hb _ _) hk)
protected theorem Sound.execPhaseAStart {p} : EndsSound (execPhaseAStart p s) :=
  hk.onCmd fun _ _ => .ite hk.chargeSlice.hdrChanged (.ite hk.chargeSlice.settleCmds
    (.ite hk.chargeSlice.dropUCmd.updStep (.ite hk.chargeSlice.putUCmd hk.chargeSlice.setStatus.putUCmd)))
protected theorem Sound.endA {sh c k n} : Sound (endA s sh c k n) :=
  hk.phaseStats.setHdr.setStatus.putUCmd.settleCmds.orSelf (·.nonFiniteHalt)
protected theorem Sound.execPhaseAComplete {n} : EndsSound (execPhaseAComplete n s) := by
  unfold Machine.execPhaseAComplete
  refine hk.onCmd fun _ _ => ?_
  split
  · next e => exact (hk.meetShard.phaseA.fst e).phaseError
  · next e => exact (hk.meetShard.phaseA.fst e).endA
protected theorem Sound.execPhaseBStart {p} : EndsSound (execPhaseBStart p s) :=
  hk.onCmd fun _ _ => .ite hk.chargeSlice.hdrChanged (.ite hk.chargeSlice.settleCmds
    (.ite hk.chargeSlice.dropUCmd.updStep hk.chargeSlice.setStatus.putUCmd))
protected theorem Sound.endB {sh c k n} : Sound (endB s sh c k n) :=
  .ite hk.phaseStats.setHdr.setHdr.setStatus.settleCmds.nonFiniteHalt
    (hk.phaseStats.setHdr.setHdr.setStatus.settleCmds.engineSig.startCheck.selfOr (·.openNext))
protected theorem Sound.execPhaseBComplete {n} : EndsSound (execPhaseBComplete n s) := by
  unfold Machine.execPhaseBComplete
  refine hk.onCmd fun _ _ => ?_
  split
  · next e => exact (hk.meetShard.phaseB.fst e).phaseError
  · next e => exact (hk.meetShard.phaseB.fst e).endB
protected theorem Sound.onDecision {c} : Sound (onDecision s c) := by
  unfold Machine.onDecision
  split
  · exact hk
  · exact hk.ite (.ite hk.dropUCmd hk.putUCmd)
protected theorem Sound.encSignal {job j} : Sound (encSignal s job j) := by
  unfold Machine.encSignal
  dsimp only
  split
  · exact hk.setRound.sendDiffs.ite hk
  · exact hk
protected theorem Sound.execOuterEncodeComplete {n} : EndsSound (execOuterEncodeComplete n s) := by
  unfold Machine.execOuterEncodeComplete
  dsimp only
  refine hk.onCmd fun _ sh => .ite hk.hdrChanged (.ite hk.settleCmds ?_)
  have ha {c : Prop} [Decidable c] : Sound (if c then loadAnchor (meetShard s sh) sh else (meetShard s sh, none)).1 :=
    .iteFst hk.meetShard.loadAnchor hk.meetShard
  split
  · exact ha.phaseError
  · split
    · next e => exact (ha.encodeOut.fst e).phaseError
    · next e => exact ((ha.encodeOut.fst e).phaseStats.putUCmd.selfOr (·.encSignal)).onDecision
protected theorem Sound.endMerge {sh c} : Sound (endMerge s sh c) :=
  (hk.setHdr.setStatus.dropUCmd.startCheck.mergedShard.orSelf (·.mapEnt.openNext)).orSelf (·.engineSig.joinersDone)
protected theorem Sound.execOuterMergeComplete {n} : EndsSound (execOuterMergeComplete n s) := by
  unfold Machine.execOuterMergeComplete
  dsimp only
  refine hk.onCmd fun _ _ => ?_
  refine .ite hk.hdrChanged ?_
  split
  · next e => exact (hk.meetShard.setStatus.mergeOut.fst e).phaseError
  · next e => exact (hk.meetShard.setStatus.mergeOut.fst e).phaseStats.endMerge.orSelf (·.nonFiniteHalt)

/-! ### The functions of Machine/PairOps.lean -/

protected theorem Sound.downPair {fil} : Sound (downPair s fil) := .ite hk (hk.setPair.logSpine.orSelf (·.finish))
protected theorem Sound.downWith {p q} : Sound (downWith s p q) := hk.foldl fun _ ht _ => .ite ht.downPair ht
protected theorem Sound.promoFail : Sound (promoFail s) := by
  unfold Machine.promoFail
  dsimp only
  split
  · exact hk
  · exact hk.withMir.finish.logSpine.pairLost

/-! ### The functions of Machine/Transport.lean -/

protected theorem Sound.dropConn {c} : Sound (dropConn s c) := hk
protected theorem Sound.lostColl {grp gen step attempt seq} : Sound (lostColl s grp gen step attempt seq) := by
  unfold Machine.lostColl
  split
  · exact hk.collFail
  · exact hk
protected theorem Sound.lost {o} : Sound (lost s o) := by
  unfold Machine.lost
  split
  · exact hk.lostColl.ite hk
  · exact hk.lostColl
  · exact hk.downWith.ite hk
protected theorem Sound.loseFrom {c p} : Sound (loseFrom s c p) :=
  .ite hk (hk.putConn.foldl fun _ ht _ => ht.lost).flushWaits
protected theorem Sound.killConn {c} : Sound (killConn s c) :=
  (hk.dropConn.withFab.foldl fun _ ht _ => ht.lost).flushWaits
protected theorem Sound.epochDrop {m} : Sound (epochDrop s m) := hk.withFab.send
protected theorem Sound.tagFail {m} : Sound (tagFail s m) := .ite hk.withFab.logSpine.killConn hk.withFab.putConn
protected theorem Sound.execTransportMessage {m} : EndsSound (execTransportMessage m s) := by
  unfold Machine.execTransportMessage
  dsimp only
  refine .ite hk.next (.ite hk.withFab.next (.ite hk.withFab.next ?_))
  split
  · exact hk.epochDrop.next
  · exact hk.next
  · exact .ite hk.tagFail.next (.ite hk.next (Sound.next (Sound.putConn (.ite hk.useSess hk))))
protected theorem Sound.execAckTimer {c} : EndsSound (execAckTimer c s) := by
  unfold Machine.execAckTimer
  dsimp only
  split
  · exact hk.next
  · exact .ite hk.next hk.putConn.withFab.transmit.next
protected theorem Sound.execAck {src cls seq} : EndsSound (execAck src cls seq s) := by
  unfold Machine.execAck
  dsimp only
  split
  · exact hk.next
  · exact .ite hk.next hk.putConn.flushWaits.next
protected theorem Sound.execRetransmitTimer {c} : EndsSound (execRetransmitTimer c s) := by
  unfold Machine.execRetransmitTimer
  dsimp only
  split
  · exact hk.next
  · exact .ite hk.next (hk.putConn.foldl fun _ ht _ => ht.transmit).next
protected theorem Sound.execMessageAgeExpiry {c seq} : EndsSound (execMessageAgeExpiry c seq s) := by
  unfold Machine.execMessageAgeExpiry
  dsimp only
  split
  · exact hk.next
  · exact .ite (.ite hk.loseFrom.next hk.next) (.ite hk.putConn.withFab.next hk.next)
protected theorem Sound.execConnectionRelease {c} : EndsSound (execConnectionRelease c s) := by
  unfold Machine.execConnectionRelease
  split
  · exact hk.next
  · exact .ite hk.next hk.dropConn.next
protected theorem Sound.execResync {src cls epoch next} : EndsSound (execResync src cls epoch next s) := by
  unfold Machine.execResync
  dsimp only
  split
  · exact hk.next
  · exact .ite hk.next hk.putConn.loseFrom.next
protected theorem Sound.execSessionWaitExpiry {k} : EndsSound (execSessionWaitExpiry k s) := by
  unfold Machine.execSessionWaitExpiry
  dsimp only
  split
  · exact hk.next
  · exact .ite hk.next hk.withFab.lost.next

/-! ### The functions of Machine/Vote.lean -/

protected theorem Sound.execVoteOpen {job} : EndsSound (execVoteOpen job s) := by
  unfold Machine.execVoteOpen
  dsimp only
  split
  · exact hk.next
  · exact .ite hk.next (.ite hk.notPresent.next (.ite hk.next (.ite hk.notPresent.next hk.voteMove.next)))
protected theorem Sound.recoveryDecide {g v} : Sound (recoveryDecide s g v) :=
  (hk.foldl fun _ ht _ => ht.sendVote).applyOutcome
protected theorem Sound.recoveryMove {g v} : Sound (recoveryMove s g v) := .ite hk.recoveryDecide hk.putVote
protected theorem Sound.execRecoveryRootWait {job} : EndsSound (execRecoveryRootWait job s) := by
  unfold Machine.execRecoveryRootWait
  dsimp only
  split
  · split
    · exact hk.next
    · exact .ite hk.next (.ite (hk.setLastWord.foldl fun _ ht _ => ht.sendVote).recoveryMove.next
        hk.setLastWord.sendVote.putVote.next)
  · exact hk.next
protected theorem Sound.execVoteWord {src w} : EndsSound (execVoteWord src w s) := by
  unfold Machine.execVoteWord
  dsimp only
  split
  · exact hk.next
  · split
    · exact hk.next
    · exact .ite hk.next hk.sendVote.next
    · exact .ite hk.next (.ite (.ite hk.next hk.sendVote.next) (.ite hk.recoveryMove.next hk.voteMove.next))
protected theorem Sound.execVoteDeadline {job} : EndsSound (execVoteDeadline job s) := by
  unfold Machine.execVoteDeadline
  dsimp only
  split
  · exact .ite hk.next (.ite hk.rootDecide.next hk.forwardUp.next)
  · exact hk.next
protected theorem Sound.execAbsenceNotice {job step src} : EndsSound (execAbsenceNotice job step src s) := by
  unfold Machine.execAbsenceNotice
  dsimp only
  split
  · exact hk.next
  · exact .ite hk.next hk.voteMove.next
protected theorem Sound.execVoteOutcome {m} : EndsSound (execVoteOutcome m s) := by
  unfold Machine.execVoteOutcome
  split
  · exact hk.next
  · exact .ite hk.next (.ite (hk.foldl fun _ ht _ => ht.sendVote).applyOutcome.next hk.passDown.applyOutcome.next)
protected theorem Sound.voteAbsent {p job} : Sound (voteAbsent s p job) := by
  unfold Machine.voteAbsent
  dsimp only
  split
  · exact hk
  · split
    · exact hk
    · refine .ite hk (.ite hk.putVote ?_)
      refine .ite ?_ (.ite hk.voteMove hk.sendVote)
      split
      · exact hk.recoveryMove
      · exact hk

/-! ### The functions of Machine/Heart.lean -/

protected theorem Sound.execHeartbeatSend : EndsSound (execHeartbeatSend s) :=
  .ite hk.next (hk.withFab.foldl fun _ ht _ => ht.send).next
protected theorem Sound.partnerRec {code p} : Sound (partnerRec s code p) := hk.logSpine
protected theorem Sound.lostOwner {p} : Sound (lostOwner s p) := by
  unfold Machine.lostOwner
  dsimp only
  split
  · refine (hk.withMir.foldl fun _ ht _ => ht.pairLost).foldl fun _ ht _ => ?_
    split
    · exact ht.noRecord.ite ht
    · exact ht
  · refine .ite ?_ ?_
    · refine Sound.rollFail ?_
      refine (hk.withMir.foldl fun _ ht _ => ht.pairLost).foldl fun _ ht _ => ?_
      split
      · exact ht.noRecord.ite ht
      · exact ht
    · refine (hk.withMir.foldl fun _ ht _ => ht.pairLost).foldl fun _ ht _ => ?_
      split
      · exact ht.noRecord.ite ht
      · exact ht
protected theorem Sound.memberLost {p fresh} : Sound (memberLost s p fresh) :=
  (hk.downWith.orSelf (·.promoFail)).lostOwner
protected theorem Sound.execHeartbeat {src b status numRev} : EndsSound (execHeartbeat src b status numRev s) := by
  unfold Machine.execHeartbeat
  dsimp only
  split
  · exact hk.next
  · exact .ite hk.next ((hk.withFab.orSelf (·.partnerRec)).orSelf (·.memberLost)).next
protected theorem Sound.closeSess {p} : Sound (closeSess s p) := hk
protected theorem Sound.declareAbsent {p} : Sound (declareAbsent s p) :=
  (hk.partnerRec.memberLost.foldl fun _ ht _ => ht.voteAbsent).closeSess
protected theorem Sound.execAbsenceCheck {k} : EndsSound (execAbsenceCheck k s) := by
  unfold Machine.execAbsenceCheck
  dsimp only
  split
  · exact hk.next
  · exact .ite hk.next (hk.withFab.orSelf (·.declareAbsent)).next
protected theorem Sound.execFabLatLowerEffect : EndsSound (execFabLatLowerEffect s) := by
  unfold Machine.execFabLatLowerEffect
  dsimp only
  split
  · exact hk.next
  · exact .ite hk.next hk.withFab.next
protected theorem Sound.execEpochChange : EndsSound (execEpochChange s) :=
  .ite hk.next hk.withFab.withSec.flushWaits.next
protected theorem Sound.dropOld : Sound (dropOld s) := hk
protected theorem Sound.execEpochKeyRetire : EndsSound (execEpochKeyRetire s) := .ite hk.next hk.withSec.dropOld.next

/-! ### The functions of Machine/Sessions.lean -/

protected theorem Sound.execDrbgReseed {h} : EndsSound (execDrbgReseed h s) := .ite hk.next hk.withSec.next
protected theorem Sound.execMaskReseed {h} : EndsSound (execMaskReseed h s) := .ite hk.next hk.reseedMask.next
protected theorem Sound.execHealthTestFail {h} : EndsSound (execHealthTestFail h s) :=
  .ite hk.next (hk.withSec.orSelf (·.raiseAll)).refreshRdy.next
protected theorem Sound.formKeys {x e} : Sound (formKeys s x e) := hk.foldl fun _ ht _ => .ite ht ht.withSec
protected theorem Sound.execEpochKeyForm : EndsSound (execEpochKeyForm s) :=
  .ite hk.next (hk.foldl fun _ ht _ => ht.formKeys).next
protected theorem Sound.dropAtt {p} : Sound (dropAtt s p) := hk
protected theorem Sound.sessFail {p} : Sound (sessFail s p) := hk.withSec.drawn.logSpine.putAtt
protected theorem Sound.openSess {p first th srk} : Sound (openSess s p first th srk) :=
  hk.dropAtt.withSec.formKeys.formKeys.flushWaits
protected theorem Sound.answerInit {m} : Sound (answerInit s m) := hk.hedged.hedged.hedged.hedged.putAtt.sendSess
protected theorem Sound.execSInit {m} : EndsSound (execSInit m s) := by
  have hr : Sound ((sessRoom s m.src).elim s fun t => answerInit t m) := hk.elim fun _ e => (hk.sessRoom e).answerInit
  unfold Machine.execSInit
  refine .ite hk.next ?_
  split
  · exact .ite hk.next (.ite hk.answerInit.next hr.next)
  · exact hr.next
protected theorem Sound.sendFin {p th sig} : Sound (sendFin s p th sig) := hk.hedged.sendSess
protected theorem Sound.execSResp {src eph ct nonce cert} : EndsSound (execSResp src eph ct nonce cert s) := by
  unfold Machine.execSResp
  dsimp only
  split
  · exact hk.next
  · exact .ite hk.next (.ite hk.sessFail.next hk.sendFin.openSess.next)
protected theorem Sound.execSFin {src first head keyId ed ml} :
    EndsSound (execSFin src first head keyId ed ml s) := by
  unfold Machine.execSFin
  split
  · exact hk.next
  · exact .ite hk.next (.ite hk.sessFail.next hk.openSess.next)
protected theorem Sound.execSessionRetry {dst} : EndsSound (execSessionRetry dst s) := by
  unfold Machine.execSessionRetry
  split
  · exact hk.next
  · split
    · exact hk.next
    · refine .ite hk.next ?_
      split
      · exact hk.next
      · next e => exact (hk.sessRoom e).startAtt.next
protected theorem Sound.execSessionReplace {dst} : EndsSound (execSessionReplace dst s) := by
  unfold Machine.execSessionReplace
  split
  · exact hk.next
  · exact .ite hk.next (Sound.next (hk.elim fun _ e => (hk.sessRoom e).startAtt))

/-! ### The functions of Machine/Cipher.lean -/

protected theorem Sound.hkeyCmd {c w body} (hbody : ∀ t, Sound t → ∀ x, Sound (body t x)) :
    EndsSound (hkeyCmd c w s body) :=
  hk.blockCmd fun _ ht => .ite ht.finish (hbody _ ht _)
protected theorem Sound.setHost {k v} : Sound (setHost s k v) := hk
protected theorem Sound.execHkeyLoad {w} : EndsSound (execHkeyLoad w s) :=
  hk.hkeyCmd fun _ ht _ => .ite ht.finish (.ite ht.finish ht.setHost.finish)
protected theorem Sound.execHkeyErase {w} : EndsSound (execHkeyErase w s) :=
  hk.hkeyCmd fun _ ht _ => .ite ht.finish (.ite ht.withSec.finish ht.setHost.finish)
protected theorem Sound.execSlotErase {k} : EndsSound (execSlotErase k s) := by
  unfold Machine.execSlotErase
  dsimp only
  split
  · exact hk.next
  · exact .ite hk.next hk.withSec.setHost.next
protected theorem Sound.execCqrWr {v} : EndsSound (execCqrWr v s) := .ite hk.next hk.withSec.next
protected theorem Sound.creqMeet {r} : Sound (creqMeet s r) := hk.meetRange.meetRange.foldl fun _ ht _ => ht.readLine
protected theorem Sound.putStatus {i ok unt err} : Sound (putStatus s i ok unt err) := hk.writeMem.withSec.irq
protected theorem Sound.creqPoison {i r key aad} : Sound (creqPoison s i r key aad) :=
  Sound.putStatus (.ite hk hk.writeMem)
protected theorem Sound.creqRun {i r key} : Sound (creqRun s i r key) :=
  .ite hk.creqPoison (.ite hk.writeMem.writeMem.putStatus (.ite hk.writeMem.putStatus hk.writeMem.logRec.putStatus))
protected theorem Sound.execCipherRequestComplete {i} : EndsSound (execCipherRequestComplete i s) := by
  unfold Machine.execCipherRequestComplete
  dsimp only
  refine .ite hk.next (.ite hk.putStatus.next ?_)
  split
  · exact hk.putStatus.next
  · exact hk.useMask.creqMeet.creqRun.next

end

end Sys2Proof.Machine
end

section
/-!
PROOFS. Every step keeps the invariant: commands of memory, contexts, transfers, time, Lovage and the lease.
-/

namespace Sys2Proof.Machine

section

variable {s : State} (hk : Sound s)
include hk

/-! ### The functions of Machine/CollInstr.lean -/

protected theorem Sound.goError {sl e addr} : Sound (goError s sl e addr) := by
  unfold Machine.goError
  dsimp only
  split
  · exact hk.engineFault
  · exact hk.logPt.engineFault.poisonVote
protected theorem Sound.goColl {sl ws addr} : Sound (goColl s sl ws addr) := by
  unfold Machine.goColl
  dsimp only
  split
  · exact hk.goError
  · split
    · exact Sound.goError (.ite hk hk.meetTables)
    · exact Sound.goError (.ite hk hk.meetTables)
    · exact Sound.withCol (.ite hk hk.meetTables)
protected theorem Sound.execCollGo {sl f} : EndsSound (execCollGo sl f s) := by
  refine hk.issue fun _ ht => .guard (.ite ht.held (Sound.done ?_))
  split
  · next e => exact (ht.loadVa.fst e).goError
  · next e => exact (ht.loadVa.fst e).goColl
protected theorem Sound.execCollNf {sl f} : EndsSound (execCollNf sl f s) :=
  hk.issue fun _ ht => .guard ht.nfMark.done
protected theorem Sound.execCollQ {sl f} : EndsSound (execCollQ sl f s) := hk.issue fun _ ht => .guard ht.setSlot.done

/-! ### The functions of Machine/MemCmds.lean -/

protected theorem Sound.frameCmd {c w body} (hb : ∀ ks t, body ks = .ok t → Sound t) :
    EndsSound (frameCmd c w s body) := by
  refine hk.blockCmd fun _ ht => .ite ht.finish ?_
  split
  · exact ht.finish
  · split
    · exact ht.finish
    · next e => exact (hb _ _ e).finish
protected theorem Sound.execAssign {w} : EndsSound (execAssign w s) :=
  hk.frameCmd fun _ _ e => by
    obtain ⟨-, e⟩ := ite_error_eq_ok e
    obtain ⟨-, e⟩ := ite_error_eq_ok e
    obtain ⟨-, e⟩ := ite_error_eq_ok e
    cases e
    exact hk.foldl fun _ ht _ => ht.setFrm
protected theorem Sound.dropEntries {p} : Sound (dropEntries s p) := hk
protected theorem Sound.dropTlb {k} : Sound (dropTlb s k) := hk
protected theorem Sound.execRelease {w} : EndsSound (execRelease w s) :=
  hk.frameCmd fun _ _ e => by
    obtain ⟨-, e⟩ := ite_error_eq_ok e
    obtain ⟨-, e⟩ := ite_error_eq_ok e
    cases e
    exact hk.foldl fun _ ht _ => ht.dropTlb.setFrm
protected theorem Sound.execRetire {w} : EndsSound (execRetire w s) :=
  hk.frameCmd fun _ _ e => by
    obtain ⟨-, e⟩ := ite_error_eq_ok e
    obtain ⟨-, e⟩ := ite_error_eq_ok e
    cases e
    exact hk.foldl fun _ ht _ => ht.setFrm
protected theorem Sound.frameFree {k} : Sound (frameFree s k) :=
  .ite hk.zeroMem.withFrm.rechoose.refreshRdy hk.zeroMem.refreshRdy
protected theorem Sound.execFrameScrubbed {k} : EndsSound (execFrameScrubbed k s) :=
  .ite .fault (.ite hk.next (.ite hk.withFrm.frameFree.next
    (.ite hk.next (.ite hk.setFrm.frameFree.next hk.withFrm.frameFree.next))))
protected theorem Sound.invalCmd {c w i} : EndsSound (invalCmd c w s i) :=
  hk.blockCmd fun _ ht => .ite ht.finish ht.withMmu.busy
protected theorem Sound.execInvalCtx {w} : EndsSound (execInvalCtx w s) := hk.invalCmd
protected theorem Sound.execInvalRange {w} : EndsSound (execInvalRange w s) := hk.invalCmd
protected theorem Sound.execInvalAll {w} : EndsSound (execInvalAll w s) := hk.invalCmd
protected theorem Sound.execInvalidationComplete : EndsSound (execInvalidationComplete s) := by
  unfold Machine.execInvalidationComplete
  dsimp only
  split
  · exact hk.next
  · exact hk.dropEntries.withMmu.finish.next
protected theorem Sound.fillTlb {sl e} : Sound (fillTlb s sl e) := hk
protected theorem Sound.meetWalk {id va} : Sound (meetWalk s id va) := hk.foldl fun _ ht _ => ht.readLine
protected theorem Sound.execTableWalk {sl va a l} : EndsSound (execTableWalk sl va a l s) := by
  unfold Machine.execTableWalk
  dsimp only
  refine .ite .fault ?_
  split
  · exact hk.next
  · refine .ite hk.next (.ite (hk.injectLine.waited.orSelf (·.progFault)).next ?_)
    split
    · exact (hk.injectLine.waited.meetWalk.logPt.orSelf (·.progFault)).next
    · exact hk.injectLine.waited.next
    · exact (hk.injectLine.waited.meetWalk.fillTlb.selfOr fun h => .ite h.progFault h).next
protected theorem Sound.setPat {u x} : Sound (setPat s u x) := hk
protected theorem Sound.patEnd {u} : Sound (patEnd s u) :=
  hk.logRec.setPat.orSelf fun h => (h.foldl fun _ ht _ => ht.setPat).withFrm
protected theorem Sound.patrolBad {pa} : Sound (patrolBad s pa) := hk.repair.journalHit
protected theorem Sound.execPatrolRead {pa l u last} : EndsSound (execPatrolRead pa l u last s) :=
  .ite .fault (.ite hk.next ((hk.patRoll.injectLine.readLine.setPat.orSelf (·.patrolBad)).orSelf (·.patEnd)).next)
protected theorem Sound.execPatrolCtrl {v} : EndsSound (execPatrolCtrl v s) := .ite hk.next hk.wr32.refreshRdy.next
protected theorem Sound.execGovernorDebtCleared {g} : EndsSound (execGovernorDebtCleared g s) :=
  Sound.next (.ite hk.setDebt hk)

/-! ### The functions of Machine/Contexts.lean -/

protected theorem Sound.ctxCmdKa {ka c w body} (hbody : ∀ x y, Sound (body x y)) :
    EndsSound (ctxCmdKa ka c w s body) :=
  hk.blockCmd fun _ ht => .ite ht.finish (hbody _ _)
protected theorem Sound.ctxCmd {c w body} (hbody : ∀ x y, Sound (body x y)) : EndsSound (ctxCmd c w s body) :=
  hk.ctxCmdKa hbody
protected theorem Sound.execCtxCreate {w} : EndsSound (execCtxCreate w s) :=
  hk.ctxCmd fun _ _ => .ite hk.finish (.ite hk.finish
    (.ite hk.finish (.ite hk.finish (.ite hk.finish hk.setCtx.finish))))
protected theorem Sound.orphan {id} : Sound (orphan s id) := hk
protected theorem Sound.execCtxDestroy {w} : EndsSound (execCtxDestroy w s) :=
  hk.ctxCmd fun _ _ => .ite hk.finish (.ite hk.finish hk.setCtx.orphan.finish)
protected theorem Sound.execCtxRead {w} : EndsSound (execCtxRead w s) := hk.ctxCmdKa fun _ _ => hk.wrBytes.finish
protected theorem Sound.zeroSlot {cl fil} : Sound (zeroSlot s cl fil) := hk.scrZero.updSlot
protected theorem Sound.bindSlot {id fil mib cl} : Sound (bindSlot s id fil mib cl) := hk
protected theorem Sound.bound {c} : Sound (bound s c) := Sound.updSlot (.ite hk hk.setClu)
protected theorem Sound.execBind {w u} : EndsSound (execBind w u s) :=
  hk.ctxCmd fun _ _ => .ite hk.finish (.ite hk.finish
    (.ite hk.finish ((hk.foldl fun _ ht _ => ht.bindSlot).orSelf (·.meetUpset)).busy))
protected theorem Sound.execBindComplete : EndsSound (execBindComplete s) :=
  .ite hk.next (((hk.foldl fun _ ht _ => ht.bound).foldl fun _ ht _ => ht.zeroSlot).foldl fun _ ht _ =>
    ht.updSlot).finish.next
protected theorem Sound.execUnbind {w} : EndsSound (execUnbind w s) :=
  hk.ctxCmd fun _ _ => .ite hk.finish (.ite hk.finish (.ite hk.finish (hk.foldl fun _ ht _ => ht.updSlot).busy))
protected theorem Sound.execUnbindComplete : EndsSound (execUnbindComplete s) :=
  .ite hk.next (hk.foldl fun _ ht _ => ht.updSlot).finish.next
protected theorem Sound.execCtxStop {w} : EndsSound (execCtxStop w s) :=
  hk.ctxCmd fun _ _ => .ite hk.finish hk.stopCtx.finish
protected theorem Sound.execCtxResume {w} : EndsSound (execCtxResume w s) :=
  hk.ctxCmd fun _ _ => .ite hk.finish (hk.setCtx.foldl fun _ ht _ => ht.updSlot).finish

/-! ### The functions of Machine/Control.lean -/

protected theorem Sound.branch {sl f test} : EndsSound (branch sl f s test) :=
  hk.issue fun _ ht => .guard (.ite ht.jump ht.done)
protected theorem Sound.execJ {sl f} : EndsSound (execJ sl f s) := hk.issue fun _ ht => .guard ht.jump
protected theorem Sound.execBeq {sl f} : EndsSound (execBeq sl f s) := hk.branch
protected theorem Sound.execBne {sl f} : EndsSound (execBne sl f s) := hk.branch
protected theorem Sound.execBlt {sl f} : EndsSound (execBlt sl f s) := hk.branch
protected theorem Sound.execBge {sl f} : EndsSound (execBge sl f s) := hk.branch
protected theorem Sound.execBltu {sl f} : EndsSound (execBltu sl f s) := hk.branch
protected theorem Sound.execCall {sl f} : EndsSound (execCall sl f s) := hk.issue fun _ ht => .guard ht.setSlot.jump
protected theorem Sound.execJr {sl f} : EndsSound (execJr sl f s) := hk.issue fun _ ht => .guard ht.jump
protected theorem Sound.execHalt {sl f} : EndsSound (execHalt sl f s) :=
  hk.issue fun _ ht => .guard (.ite ht.setSlot.withQue.done ht.held)
protected theorem Sound.execCfence {sl f} : EndsSound (execCfence sl f s) :=
  hk.issue fun _ ht => .guard (.ite ht.done ht.held)
protected theorem Sound.execNop {sl f} : EndsSound (execNop sl f s) := hk.issue fun _ ht => .guard ht.done

/-! ### The functions of Machine/Flr.lean -/

protected theorem Sound.resetConfig : Sound (resetConfig s) := hk
protected theorem Sound.flr {kind} : Sound (flr s kind) :=
  (hk.foldl fun _ ht _ => ht.haltQueue).withLed.wr64.resetConfig.withDev.logSpine
protected theorem Sound.flrSettle : Sound (flrSettle s) := by
  unfold Machine.flrSettle
  dsimp only
  split
  · exact hk
  · exact hk.ite hk.withDev.flr
protected theorem Sound.flrSnapGone : Sound (flrSnapGone s) := hk

/-! ### The functions of Machine/Dma.lean -/

protected theorem Sound.execDmaGo {sl f w} : EndsSound (execDmaGo sl f w s) :=
  hk.issue fun _ ht => .guard (ht.readRanges fun _ hu => (hu.withDma.selfOr (·.charge)).done)
protected theorem Sound.execDmaCnt {sl f} : EndsSound (execDmaCnt sl f s) :=
  hk.issue fun _ ht => .guard ht.updSlot.done
protected theorem Sound.execDmaDrain {sl f} : EndsSound (execDmaDrain sl f s) :=
  hk.issue fun _ ht => .guard (.ite ht.done ht.held)
protected theorem Sound.dmaRead {v mem a} : Sound (dmaRead s v mem a).1 := by
  unfold Machine.dmaRead
  dsimp only
  split
  · exact hk.meetVa
  · split
    · exact hk
    · split
      · exact hk
      · split
        · exact hk.meetWords
        · exact hk.meetWords
protected theorem Sound.dmaWrite {v mem a bs} : Sound (dmaWrite s v mem a bs).1 := by
  unfold Machine.dmaWrite
  split
  · exact hk.writeVa
  · split
    · exact hk
    · exact hk.scrWrite
protected theorem Sound.dmaMove {v d ps} : Sound (dmaMove v d ps s).1 := by
  induction ps generalizing s with
  | nil => exact hk
  | cons p ps ih =>
    unfold Machine.dmaMove
    split
    · next e => exact hk.dmaRead.fst e
    · next e =>
      have h1 := hk.dmaRead.fst e
      split
      · next e1 => exact h1.dmaWrite.fst e1
      · next e1 => exact ih (h1.dmaWrite.fst e1)
protected theorem Sound.dmaFail {v mem e} : Sound (dmaFail s v mem e) := by
  unfold Machine.dmaFail
  split
  · exact hk
  · exact hk.logPt.engineFault.repair.journalHit.ite hk.engineFault
  · exact hk.logPt.engineFault
protected theorem Sound.execDmaComplete {n u l} : EndsSound (execDmaComplete n u l s) := by
  unfold Machine.execDmaComplete
  dsimp only
  split
  · exact hk.next
  · refine .ite hk.next ?_
    split
    · next e => exact (hk.withDma.inject.injectLine.dmaMove.fst e).dmaFail.flrSettle.next
    · next e =>
        have hs := hk.withDma.inject.injectLine.dmaMove.fst e
        exact Sound.next (Sound.flrSettle (.ite hs.engineSig hs))

/-! ### The functions of Machine/FabRegs.lean -/

protected theorem Sound.hostCmd {b c body} (hbody : Sound body) : Sound (hostCmd b c s body) :=
  .ite hbody hk.withLink.busy
protected theorem Sound.loadCmd {c w n body} (hb : ∀ t, Sound t → ∀ bs u, body t bs = some u → Sound u) :
    EndsSound (loadCmd c w s n body) := by
  refine hk.blockCmd fun _ ht => .ite ht.finish (.ite ht.finish (ht.hostCmd ?_))
  split
  · next e => exact (hb _ ht _ _ e).finish
  · exact ht.finish
protected theorem Sound.execLoadRoutes {w} : EndsSound (execLoadRoutes w s) :=
  hk.loadCmd fun _ ht _ _ e => by
    obtain ⟨-, e⟩ := Option.ite_none_left_eq_some.1 e
    cases e
    exact ht.withFab
protected theorem Sound.execLoadSites {w} : EndsSound (execLoadSites w s) :=
  hk.loadCmd fun _ ht _ _ e => by
    obtain ⟨-, e⟩ := Option.ite_none_left_eq_some.1 e
    cases e
    exact ht.withFab
protected theorem Sound.execLoadWatch {w} : EndsSound (execLoadWatch w s) :=
  hk.loadCmd fun _ ht _ _ e => by
    obtain ⟨-, e⟩ := Option.ite_none_left_eq_some.1 e
    cases e
    exact ht.withFab
protected theorem Sound.execLoadEnc {w} : EndsSound (execLoadEnc w s) :=
  hk.loadCmd fun _ ht _ _ e => by
    cases e
    exact ht.withFab
protected theorem Sound.execReadRoute {w} : EndsSound (execReadRoute w s) :=
  hk.blockCmd fun _ ht => .ite ht.finish ht.setBlk.finish
protected theorem Sound.execFabId {v} : EndsSound (execFabId v s) := .ite hk.next hk.withFab.refreshRdy.next
protected theorem Sound.execFabLat {v} : EndsSound (execFabLat v s) :=
  .ite hk.next (.ite hk.withFab.next hk.withFab.next)
protected theorem Sound.execEncCtrl {v} : EndsSound (execEncCtrl v s) := .ite hk.next hk.withFab.next
protected theorem Sound.execSxCtrl {v} : EndsSound (execSxCtrl v s) := .ite hk.next hk.withSx.refreshRdy.next
protected theorem Sound.execSxH {v} : EndsSound (execSxH v s) := .ite hk.next hk.withSx.next

/-! ### The functions of Machine/Thyme.lean -/

protected theorem Sound.moveHeld {d b} : Sound (moveHeld s d b) :=
  hk.withQue.withSyn.withCol.withSlot.withJrn.withClu.withFrm.withLead.withLink.withDma.withPwr
protected theorem Sound.moveFab {d b} : Sound (moveFab s d b) := hk
protected theorem Sound.armWaits : Sound (armWaits s) := by
  unfold Machine.armWaits
  dsimp only
  refine hk.withSyn.foldl fun _ ht _ => ?_
  refine ht.foldl fun _ hu _ => ?_
  split
  · exact hu.setQ
  · exact hu
protected theorem Sound.lockAt {ft} : Sound (lockAt s ft) :=
  (hk.moveHeld.moveFab.withTime.withLed.withFab.selfOr (·.armWaits)).flushWaits.refreshRdy
protected theorem Sound.countExchange {p} : Sound (countExchange s p) := hk.setPort.countTx.countRx
protected theorem Sound.freshUnc : Sound (freshUnc s) := hk
protected theorem Sound.execTimeExchange {p hops t1 t2 t3 t4} : EndsSound (execTimeExchange p hops t1 t2 t3 t4 s) :=
  Sound.onPort fun _ => .ite hk (.ite hk.countExchange
    (hk.setPort.countExchange.selfOr fun h => .ite h.withTime.withTime.freshUnc h.withTime.withTime))
protected theorem Sound.execFirstLock : EndsSound (execFirstLock s) := by
  unfold Machine.execFirstLock
  refine .ite hk.next ?_
  split
  · exact hk.lockAt.freshUnc.next
  · exact hk.next
protected theorem Sound.execPpsEdge : EndsSound (execPpsEdge s) :=
  .ite hk.next (.ite (.ite hk.withTime.lockAt.freshUnc.next hk.next) (.ite hk.next hk.withTime.next))
protected theorem Sound.timeRec {code} : Sound (timeRec s code) := hk.logSpine
protected theorem Sound.enterHoldover : Sound (enterHoldover s) := hk.withTime.timeRec
protected theorem Sound.execHoldoverEntry : EndsSound (execHoldoverEntry s) := .ite hk.next hk.enterHoldover.next
protected theorem Sound.execHoldoverExit : EndsSound (execHoldoverExit s) :=
  .ite hk.next (.ite hk.withTime.next (.ite hk.next (.ite hk.next hk.withTime.next)))
protected theorem Sound.execTimeDrift : EndsSound (execTimeDrift s) := .ite hk.next hk.withTime.timeRec.next
protected theorem Sound.execRef10mLockLoss : EndsSound (execRef10mLockLoss s) :=
  .ite hk.next (hk.withTime.orSelf (·.enterHoldover)).next
protected theorem Sound.execPpsEdgesMissed : EndsSound (execPpsEdgesMissed s) :=
  .ite hk.next (hk.withTime.selfOr (·.enterHoldover)).next

/-! ### The functions of Machine/LovOps.lean -/

protected theorem Sound.lovForeign : Sound (lovForeign s) := hk
protected theorem Sound.fromPartner {job src k} (hb : ∀ x, Sound (k x)) : EndsSound (fromPartner s job src k) := by
  unfold Machine.fromPartner
  refine .ite hk.next ?_
  split
  · exact hk.lovForeign.next
  · exact Sound.next (.ite hk (hb _))
protected theorem Sound.fromPair {m k} (hb : ∀ x, Sound (k x)) : EndsSound (fromPair s m k) := by
  unfold Machine.fromPair
  refine .ite hk.next ?_
  split
  · exact hk.lovForeign.next
  · exact Sound.next (.ite hk (hb _))
protected theorem Sound.meetJob {job} : Sound (meetJob s job) := hk.foldl fun _ ht _ => ht.meetShard
protected theorem Sound.sendPair {fil ack} : Sound (sendPair s fil ack) := hk.meetJob.sendLovage
protected theorem Sound.promoDone {job step} : Sound (promoDone s job step) := by
  unfold Machine.promoDone
  dsimp only
  split
  · exact hk
  · exact hk.withMir.orSelf (·.openNext)
protected theorem Sound.serviceUp {fil} : Sound (serviceUp s fil) :=
  hk.setPair.withMir.entAgree.promoDone.registerResume.orSelf (·.finish)
protected theorem Sound.pairRefuse {fil reason} : Sound (pairRefuse s fil reason) :=
  hk.logSpine.setPair.withMir.orSelf (·.finish)
protected theorem Sound.pairTest {fil m} : Sound (pairTest s fil m) := .ite hk.meetJob.serviceUp hk.meetJob.pairRefuse
protected theorem Sound.writeBlocks {sh kind first data} : Sound (writeBlocks s sh kind first data) := by
  unfold Machine.writeBlocks
  dsimp only
  refine hk.foldl fun _ ht _ => ?_
  split
  · exact ht.storeVa
  · exact ht
protected theorem Sound.sendBlocks {dst sh undo step kind first data hdr last} :
    Sound (sendBlocks s dst sh undo step kind first data hdr last) :=
  hk.foldl fun _ ht _ => ht.sendLovage
protected theorem Sound.sendNone {dst sh undo step} : Sound (sendNone s dst sh undo step) := hk.sendBlocks
protected theorem Sound.sendDigests {p d} : Sound (sendDigests s p d) := hk.foldl fun _ ht _ => ht.sendLovage
protected theorem Sound.sendUndo {dst sh e all} : Sound (sendUndo s dst sh e all) :=
  (hk.foldl fun _ ht _ => .ite ht ht.sendBlocks).sendBlocks
protected theorem Sound.putChk {c} : Sound (putChk s c) := hk
protected theorem Sound.agreeDevice {fil job step outer} : Sound (agreeDevice s fil job step outer) :=
  .ite hk (.orSelf (Sound.registerResume (Sound.withMir (.ite hk.setPair.entAgreeOuter hk.setPair.entAgree)))
    (·.notPresent))
protected theorem Sound.agreeShard {fil c} : Sound (agreeShard s fil c) := .ite hk hk.putChk.agreeDevice
protected theorem Sound.mirrorFatal {fil sh} : Sound (mirrorFatal s fil sh) := hk.withMir.raiseSpineAll.pairLost
protected theorem Sound.lovCmd {sh step outer} : Sound (lovCmd s sh step outer) := hk
protected theorem Sound.lovHdr {sh step ls outer} : Sound (lovHdr s sh step ls outer) :=
  .ite hk.setHdr hk.setHdr.setHdr.setHdr
protected theorem Sound.lovOwner {fil sh step outer} : Sound (lovOwner s fil sh step outer) := by
  unfold Machine.lovOwner
  dsimp only
  split
  · next e _ => exact (hk.checkEnt.restoreSegs e).sendUndo.lovHdr.lovCmd
  · exact hk.checkEnt.sendNone.mirrorFatal
protected theorem Sound.startDvg {fil c mine theirs} : Sound (startDvg s fil c mine theirs) := by
  unfold Machine.startDvg
  dsimp only
  split
  · exact hk
  · exact hk.putChk.withMir.setPair.selfOr (·.lovOwner)
protected theorem Sound.sendVerdict {fil c v} : Sound (sendVerdict s fil c v) := hk.sendLovage
protected theorem Sound.settleChk {fil c} : Sound (settleChk s fil c) := by
  unfold Machine.settleChk
  dsimp only
  refine .ite hk ?_
  split
  · exact hk.startDvg.ite (.ite hk.agreeShard hk)
  · exact hk
protected theorem Sound.giveVerdict {fil c} : Sound (giveVerdict s fil c) := by
  unfold Machine.giveVerdict
  dsimp only
  split
  · exact hk.putChk.sendVerdict.settleChk
  · exact hk.putChk

/-! ### The functions of Machine/Lead.lean -/

protected theorem Sound.execRecordHandlingEnd {h} : EndsSound (execRecordHandlingEnd h s) := by
  unfold Machine.execRecordHandlingEnd
  dsimp only
  split
  · exact hk.next
  · exact .ite hk.next (hk.withErr.orSelf (·.goKeepAlive)).next
protected theorem Sound.execErrTail {h v} : EndsSound (execErrTail h v s) := .ite hk.next hk.withErr.next
protected theorem Sound.putBack {l} : Sound (putBack l s) := hk.foldl fun _ ht _ => ht.storeVa
protected theorem Sound.undoRollback : Sound (undoRollback s) := Sound.withUpd (.ite hk.putBack hk)
protected theorem Sound.undoPairing : Sound (undoPairing s) := by
  unfold Machine.undoPairing
  dsimp only
  refine Sound.withMir ?_
  split
  · exact hk
  · exact hk.putBack.selfOr (·.withUpd.dropJob)
protected theorem Sound.abortCmds : Sound (abortCmds s) := hk.withMmu.withSlot.withUpd.undoRollback.undoPairing
protected theorem Sound.dropRuns : Sound (dropRuns s) := hk.foldl fun _ ht _ => .ite ht.setChv ht
protected theorem Sound.dropBusy : Sound (dropBusy s) :=
  hk.withLink.abortCmds.dropRuns.foldl fun _ ht _ => .ite ht.finish ht
protected theorem Sound.leadChange {old} : Sound (leadChange s old) :=
  Sound.orSelf (.ite hk hk.logSpine.irq) (·.dropBusy)
protected theorem Sound.leadLost {h} : Sound (leadLost s h) := .ite hk.withLead.raiseAll hk
protected theorem Sound.execLeaseClaim {h} : EndsSound (execLeaseClaim h s) :=
  .ite hk.next (.ite hk.withLead.next hk.withLead.leadChange.leadLost.refreshRdy.next)
protected theorem Sound.execLeaseRenew {h} : EndsSound (execLeaseRenew h s) :=
  .ite (Sound.next (.ite hk.leadLost hk)) (.ite (Sound.next (Sound.withLead (.ite hk.leadLost hk)))
    (Sound.next (Sound.withLead (.ite hk.leadLost hk))))
protected theorem Sound.execLeaseExpiry : EndsSound (execLeaseExpiry s) := by
  unfold Machine.execLeaseExpiry
  dsimp only
  split
  · exact hk.next
  · exact .ite hk.next hk.withLead.refreshRdy.next
protected theorem Sound.spineLost : Sound (spineLost s) := hk.logRec.logRec.withLead.goKeepAlive
protected theorem Sound.execSpineUnreachableStop {h} : EndsSound (execSpineUnreachableStop h s) :=
  .ite hk.next (hk.withLead.refreshRdy.orSelf (·.spineLost)).next
protected theorem Sound.leadForce {v} {t : State} (e : leadForce v s = some t) : Sound t := by
  unfold Machine.leadForce at e
  obtain ⟨-, e⟩ := Option.ite_none_left_eq_some.1 e
  cases e
  exact hk.withLead.leadChange.refreshRdy
protected theorem Sound.execLeadForce {v} : EndsSound (execLeadForce v s) :=
  .ite hk.next (Sound.next (Sound.getD hk fun _ e => hk.leadForce e))

end

end Sys2Proof.Machine
end

section
/-!
PROOFS. Every step keeps the invariant: Marjoram, resets, the power manager, scalar instructions and the host.
-/

namespace Sys2Proof.Machine

section

variable {s : State} (hk : Sound s)
include hk

/-! ### The functions of Machine/Marjoram.lean -/

protected theorem Sound.execPriUnitsTick : EndsSound (execPriUnitsTick s) :=
  .ite hk.next (hk.withLed.foldl fun _ ht _ => .ite ht ht.count).next
protected theorem Sound.execFilUnitsTick {cl} : EndsSound (execFilUnitsTick cl s) := by
  unfold Machine.execFilUnitsTick
  dsimp only
  refine .ite .fault ?_
  split
  · exact hk.next
  · exact .ite hk.next hk.setSlot.count.next
protected theorem Sound.execFrameBeatTick : EndsSound (execFrameBeatTick s) :=
  .ite hk.next (hk.withLed.foldl fun _ ht _ => ht.count).next
protected theorem Sound.dropIdleFil : Sound (dropIdleFil s) := hk
protected theorem Sound.execIntervalClose : EndsSound (execIntervalClose s) :=
  .ite hk.next (.ite hk.withLed.next (.ite hk.withLed.next hk.dropIdleFil.withLed.next))
protected theorem Sound.execSnapshotWritten : EndsSound (execSnapshotWritten s) := by
  unfold Machine.execSnapshotWritten
  dsimp only
  split
  · exact hk.next
  · exact .ite hk.next hk.hedged.writeMem.withDev.withLed.irq.flrSettle.next
protected theorem Sound.execLedBase {v} : EndsSound (execLedBase v s) := .ite hk.next hk.withLed.next
protected theorem Sound.execLedSlots {v} : EndsSound (execLedSlots v s) := .ite hk.next hk.withLed.next
protected theorem Sound.execLedTail {v} : EndsSound (execLedTail v s) := .ite hk.next hk.withLed.next
protected theorem Sound.execLedCtrl {v} : EndsSound (execLedCtrl v s) := .ite hk.next hk.withLed.next

/-! ### The functions of Machine/Resets.lean -/

protected theorem Sound.clearState : Sound (clearState s) := ⟨hostMem_wf _ hk.1, .reset, .reset⟩
protected theorem Sound.powerOff : Sound (powerOff s) := hk.clearState.withDev.withPwr
protected theorem Sound.fundamental : Sound (fundamental s) := hk.clearState.withDev.withPwr
protected theorem Sound.deviceReset {src} : Sound (deviceReset s src) := by
  have hc := hk.clearState
  unfold Machine.deviceReset
  generalize clearState s = t at hc ⊢
  exact hc.withDev.withBoot.bringUp
protected theorem Sound.flrStart {kind} : Sound (flrStart s kind) := hk.withDev.flrSettle

/-! ### The functions of Machine/Power.lean -/

protected theorem Sound.setPwrOn {f : Pwr → Pwr}
    (hf : (f s.pwr).k = s.pwr.k ∧ (f s.pwr).cap = s.pwr.cap := by exact ⟨rfl, rfl⟩) : Sound (setPwrOn s f) :=
  hk.withPwr hf
protected theorem Sound.railTick : Sound (railTick s) := .ite (.ite hk.setPwrOn hk) (.ite hk hk.setPwrOn)
protected theorem Sound.execPowerStageStart : EndsSound (execPowerStageStart s) := .ite hk.next hk.drawn.setPwrOn.next
protected theorem Sound.execPwrgdAssert : EndsSound (execPwrgdAssert s) := .ite hk.next hk.setPwrOn.next
protected theorem Sound.execOvervoltage {vin} : EndsSound (execOvervoltage vin s) :=
  .ite hk.next (Sound.next (Sound.setPwrOn (.ite hk.powerOff hk)))
protected theorem Sound.execOvervoltageRestart {vin} : EndsSound (execOvervoltageRestart vin s) :=
  .ite hk.next hk.setPwrOn.next
protected theorem Sound.execUndervoltage {f} : EndsSound (execUndervoltage f s) := by
  unfold Machine.execUndervoltage
  split
  · exact .ite hk.next (Sound.next (Sound.setPwrOn (.ite hk.powerOff hk)))
  · exact .ite hk.next hk.powerOff.setPwrOn.next
protected theorem Sound.execOvercurrent {iin} : EndsSound (execOvercurrent iin s) :=
  .ite hk.next hk.powerOff.setPwrOn.next
protected theorem Sound.execInputLowEntry {vin} : EndsSound (execInputLowEntry vin s) :=
  .ite hk.next (hk.setPwrOn.orSelf (·.logSpine)).next
protected theorem Sound.execResetInputRelease : EndsSound (execResetInputRelease s) :=
  .ite hk.next (.ite hk.setPwrOn.bringUp.next hk.setPwrOn.next)
protected theorem Sound.execResetReleaseHoldEnd : EndsSound (execResetReleaseHoldEnd s) :=
  .ite hk.next (hk.setPwrOn.selfOr (·.bringUp)).next
protected theorem Sound.execResetInputAssert : EndsSound (execResetInputAssert s) :=
  .ite hk.next (.ite hk.setPwrOn.next hk.fundamental.next)
protected theorem Sound.execPwrLimit {v} : EndsSound (execPwrLimit v s) := .ite hk.next hk.wr32.next
protected theorem Sound.execBudgetPeriod {avg other} : EndsSound (execBudgetPeriod avg other s) :=
  .ite hk.next hk.withPwr.withPwr.next
protected theorem Sound.setRate {h k} (hr : rateOk k = true) : Sound (setRate s h k) := by
  have hs : Sound (Machine.setPwrOn s fun p => { p with k := p.k.set h k, lowK := min p.lowK k }) :=
    ⟨hk.1, hk.2.1.set hr, hk.2.2⟩
  exact hs.orSelf (·.setPwrOn.logSpine)
/-- The rate that a microsecond sets (R455). -/
protected theorem Sound.throttled {h proj} : rateOk
    (if s.pwr.k.get h < min (fitRate proj (pool s h)) (rateCap s h) then s.pwr.k.get h + 1
      else min (fitRate proj (pool s h)) (rateCap s h)) = true := by
  obtain ⟨h1, h16⟩ := fitRate_bounds proj (pool s h)
  have hc := (rateOk_iff.1 (hk.2.2 h)).1
  have hcap : 1 ≤ rateCap s h := by
    unfold rateCap
    split <;> omega
  rw [rateOk_iff]
  split <;> omega
protected theorem Sound.throttle {h proj fill} : Sound (throttle s h proj fill) := hk.setPwrOn.setRate hk.throttled
protected theorem Sound.execThrottleTick {projW projE fillW fillE} :
    EndsSound (execThrottleTick projW projE fillW fillE s) :=
  .ite hk.next hk.setPwrOn.throttle.throttle.next
protected theorem Sound.execFastLoopTrip {avg} : EndsSound (execFastLoopTrip avg s) :=
  .ite hk.next (((hk.setPwrOn.settleLent.settleLent.logSpine.setRate rfl).setRate rfl).next)
protected theorem Sound.execFastLoopRelease : EndsSound (execFastLoopRelease s) := .ite hk.next hk.setPwrOn.next
protected theorem Sound.tripOff : Sound (tripOff s) := hk.powerOff.setPwrOn
omit hk in
theorem rates_noteWarm {x h p} : (noteWarm s x h p).k = p.k ∧ (noteWarm s x h p).cap = p.cap := by
  unfold Machine.noteWarm
  split <;> exact ⟨rfl, rfl⟩
protected theorem Sound.execThermalSample {x} : EndsSound (execThermalSample x s) := by
  refine .ite hk.tripOff.next (.ite hk.next (Sound.next (.foldl ?_ fun _ ht _ => ht.raiseSpineAll)))
  refine .orSelf (hk.setPwrOn ?_) (·.logSpine)
  exact ⟨rates_noteWarm.1.trans rates_noteWarm.1, rates_noteWarm.2.trans rates_noteWarm.2⟩
/-- The cap that a millisecond sets (R458). -/
protected theorem Sound.cappedAt {h} {hot : Bool} :
    rateOk (if hot then max 1 (s.pwr.cap.get h - 1) else min 16 (s.pwr.cap.get h + 1)) = true := by
  have hr := rateOk_iff.1 (hk.2.2 h)
  rw [rateOk_iff]
  split <;> omega
protected theorem Sound.execThermalCapStep {h above sensor} : EndsSound (execThermalCapStep h above sensor s) := by
  have hc := hk.cappedAt (h := h) (hot := msAbove s h above)
  unfold Machine.execThermalCapStep
  dsimp only
  refine .ite hk.next (Sound.next (.orSelf (.orSelf ?_ (·.logSpine)) (·.setPwrOn.setRate hc)))
  exact ⟨hk.1, hk.2.1, hk.2.2.set hc⟩
protected theorem Sound.execThermalTrip {x} : EndsSound (execThermalTrip x s) := .ite hk.next hk.tripOff.next
protected theorem Sound.rateOk_min {h} : rateOk (min 8 (s.pwr.k.get h)) = true := by
  have hr := rateOk_iff.1 (hk.2.1 h)
  rw [rateOk_iff]
  omega
protected theorem Sound.execSensorFault {sensor} : EndsSound (execSensorFault sensor s) := by
  have hs := hk.setPwrOn (f := fun p =>
    { p with sensFault := p.sensFault ||| bv 10 (2 ^ sensor), held := ⟨true, true⟩ }).logSpine
      (x := { code := 0x0A07, sev := 2, scope := 0, data0 := bv 64 sensor })
  exact .ite hk.next ((hs.setRate (hs.rateOk_min (h := .west))).setRate (hs.rateOk_min (h := .east))).next

/-! ### The functions of Machine/Scalar.lean -/

protected theorem Sound.scalarOp {sl f op} : EndsSound (scalarOp sl f s op) :=
  hk.issue fun _ ht => .guard ht.setSlot.done
protected theorem Sound.execAdd {sl f} : EndsSound (execAdd sl f s) := hk.scalarOp
protected theorem Sound.execSub {sl f} : EndsSound (execSub sl f s) := hk.scalarOp
protected theorem Sound.execMul {sl f} : EndsSound (execMul sl f s) := hk.scalarOp
protected theorem Sound.execMulh {sl f} : EndsSound (execMulh sl f s) := hk.scalarOp
protected theorem Sound.execAnd {sl f} : EndsSound (execAnd sl f s) := hk.scalarOp
protected theorem Sound.execOr {sl f} : EndsSound (execOr sl f s) := hk.scalarOp
protected theorem Sound.execXor {sl f} : EndsSound (execXor sl f s) := hk.scalarOp
protected theorem Sound.execShl {sl f} : EndsSound (execShl sl f s) := hk.scalarOp
protected theorem Sound.execShr {sl f} : EndsSound (execShr sl f s) := hk.scalarOp
protected theorem Sound.execSar {sl f} : EndsSound (execSar sl f s) := hk.scalarOp
protected theorem Sound.execSlt {sl f} : EndsSound (execSlt sl f s) := hk.scalarOp
protected theorem Sound.execSltu {sl f} : EndsSound (execSltu sl f s) := hk.scalarOp
protected theorem Sound.loadImm {sl f op} : EndsSound (loadImm sl f s op) :=
  hk.issue fun _ ht => .guard ht.setSlot.done
protected theorem Sound.execLi {sl f} : EndsSound (execLi sl f s) := hk.loadImm
protected theorem Sound.execLih {sl f} : EndsSound (execLih sl f s) := hk.loadImm
protected theorem Sound.scalarLoad {n sl f u} : EndsSound (scalarLoad n sl f u s) :=
  hk.issue fun _ ht => .guard (ht.inject.readStep fun _ hu _ => hu.updSlot.done)
protected theorem Sound.scalarStore {n sl f} : EndsSound (scalarStore n sl f s) :=
  hk.issue fun _ ht => .guard ht.writeStep
protected theorem Sound.execLd {sl f u} : EndsSound (execLd sl f u s) := hk.scalarLoad
protected theorem Sound.execSt {sl f} : EndsSound (execSt sl f s) := hk.scalarStore
protected theorem Sound.execLdw {sl f} : EndsSound (execLdw sl f s) := hk.scalarLoad
protected theorem Sound.execStw {sl f} : EndsSound (execStw sl f s) := hk.scalarStore
protected theorem Sound.execCsrr {sl f} : EndsSound (execCsrr sl f s) := hk.issue fun _ ht => .guard ht.updSlot.done
protected theorem Sound.execCsrw {sl f} : EndsSound (execCsrw sl f s) :=
  hk.issue fun _ ht => .guard (Sound.done (Sound.getD ht fun _ e => ht.csrWrite e))
protected theorem Sound.capRead {n sl f} : EndsSound (capRead n sl f s) := hk.issue fun _ ht => .guard ht.setSlot.done
protected theorem Sound.execCapr {sl f} : EndsSound (execCapr sl f s) := hk.capRead
protected theorem Sound.execCaprd {sl f} : EndsSound (execCaprd sl f s) := hk.capRead

/-! ### The functions of Machine/Spdm.lean -/

protected theorem Sound.doe {bs} : Sound (doe s bs) := .ite hk.withSec.withDev hk.withDev
protected theorem Sound.spdmErr {e} : Sound (spdmErr s e) := hk.doe
protected theorem Sound.spdmReq {ok body} (hbody : Sound body) : EndsSound (spdmReq s ok body) :=
  .ite hk.next (.ite hk.spdmErr.next (.ite hk.spdmErr.next hbody.next))
protected theorem Sound.spdmKeyed {ok body} (hbody : Sound body) : EndsSound (spdmKeyed s ok body) :=
  hk.spdmReq (.ite hbody hk.spdmErr)
protected theorem Sound.setSpdm {x} : Sound (setSpdm s x) := hk
protected theorem Sound.execGetVersion : EndsSound (execGetVersion s) := .ite hk.next hk.setSpdm.doe.next
protected theorem Sound.execGetCapabilities {version} : EndsSound (execGetCapabilities version s) :=
  hk.spdmReq (.ite hk.setSpdm.doe hk.spdmErr)
protected theorem Sound.execNegotiateAlgorithms {algs hash512} : EndsSound (execNegotiateAlgorithms algs hash512 s) :=
  hk.spdmReq (.ite hk.setSpdm.doe hk.spdmErr)
protected theorem Sound.execGetDigests : EndsSound (execGetDigests s) := hk.spdmKeyed hk.setSpdm.doe
protected theorem Sound.execGetCertificate {sel off len} : EndsSound (execGetCertificate sel off len s) :=
  hk.spdmKeyed (.ite hk.setSpdm.doe hk.spdmErr)
protected theorem Sound.execChallenge {sel nonce} : EndsSound (execChallenge sel nonce s) :=
  hk.spdmKeyed (.ite hk.hedged.hedged.setSpdm.doe hk.spdmErr)
protected theorem Sound.execGetMeasurements {index signed nonce} :
    EndsSound (execGetMeasurements index signed nonce s) :=
  hk.spdmKeyed (.ite hk.spdmErr (.ite hk.hedged.hedged.setSpdm.doe hk.setSpdm.doe))
protected theorem Sound.execKeyExchange {dhe} : EndsSound (execKeyExchange dhe s) := by
  unfold Machine.execKeyExchange
  dsimp only
  refine hk.spdmKeyed ?_
  split
  · exact hk.spdmErr
  · exact hk.hedged.hedged.hedged.hedged.setSpdm.doe
protected theorem Sound.execFinish {hmac} : EndsSound (execFinish hmac s) :=
  hk.spdmKeyed (.ite hk.setSpdm.doe hk.setSpdm.spdmErr)
protected theorem Sound.execEndSession : EndsSound (execEndSession s) := hk.spdmReq hk.setSpdm.doe
protected theorem Sound.execSpdmHeartbeat : EndsSound (execSpdmHeartbeat s) := hk.spdmReq hk.doe
protected theorem Sound.execKeyUpdate : EndsSound (execKeyUpdate s) := hk.spdmKeyed hk.setSpdm.doe
protected theorem Sound.execIdeKeyProgram : EndsSound (execIdeKeyProgram s) := hk.spdmReq (.ite hk.withDev hk)

/-! ### The functions of Machine/HostIf.lean -/

protected theorem Sound.setDevOn {f} : Sound (setDevOn s f) := hk
protected theorem Sound.execRstCmd {v} : EndsSound (execRstCmd v s) := .ite hk.next hk.deviceReset.next
protected theorem Sound.execCxlReset : EndsSound (execCxlReset s) := .ite hk.next hk.deviceReset.next
protected theorem Sound.execFlr : EndsSound (execFlr s) := .ite hk.next hk.flrStart.next
protected theorem Sound.execHotReset : EndsSound (execHotReset s) := .ite hk.next hk.flrStart.next
protected theorem Sound.linkUpAt {rate width} : Sound (linkUpAt s rate width) :=
  hk.setDevOn.selfOr fun h => .ite h.setDevOn h.logSpine
protected theorem Sound.execCxlLinkTrain {rate width} : EndsSound (execCxlLinkTrain rate width s) :=
  .ite hk.next hk.linkUpAt.next
protected theorem Sound.execCxlLinkLoss : EndsSound (execCxlLinkLoss s) := .ite hk.next hk.setDevOn.logSpine.next
protected theorem Sound.execCxlLinkReturn {rate width} : EndsSound (execCxlLinkReturn rate width s) :=
  .ite hk.next hk.resetConfig.setDevOn.linkUpAt.next
protected theorem Sound.hostTimeout {pa} : Sound (hostTimeout s pa) := hk.setDevOn.logSpine
protected theorem Sound.expTimedOut {pa n} : Sound (expTimedOut pa n s) := by
  unfold Machine.expTimedOut
  split
  · exact hk
  · exact hk.ite hk.hostTimeout.dropUCmd.updEngine
protected theorem Sound.timedOut {pa blk dmaN} : Sound (timedOut pa blk dmaN s) := by
  unfold Machine.timedOut
  dsimp only
  refine .ite hk.expTimedOut ?_
  split
  · exact hk.hostTimeout.withLink.finish.ite hk
  · exact hk.ite hk.hostTimeout.withDma.engineFault.flrSettle
  · split
    · exact hk
    · exact hk.ite hk.hostTimeout.setDevOn.withLed.flrSnapGone.flrSettle
protected theorem Sound.execCxlCacheTimeout {pa blk dmaN} : EndsSound (execCxlCacheTimeout pa blk dmaN s) :=
  .ite hk.next hk.timedOut.next
protected theorem Sound.execIdeFail : EndsSound (execIdeFail s) := .ite hk.next hk.setDevOn.logSpine.next
protected theorem Sound.hostWrite {off bs} : Sound (hostWrite s off bs) := by
  unfold Machine.hostWrite
  generalize hdmPieces off bs.length = ps
  induction ps generalizing s bs with
  | nil => exact hk
  | cons p ps ih => exact ih hk.writeMem
protected theorem Sound.hostRead {off n} : Sound (hostRead s off n) := hk.foldl fun _ ht _ => ht.meetRange
protected theorem Sound.hostAccess {off a} : Sound (hostAccess s off a) := .ite hk (.ite hk.hostWrite hk.hostRead)
protected theorem Sound.hostHolds {off n} : Sound (hostHolds s off n) := .ite hk (hk.withMem hk.1)
protected theorem Sound.execHdmAccess {a} : EndsSound (execHdmAccess a s) := .ite .fault hk.hostAccess.hostHolds.next
protected theorem Sound.execBar2Access {a} : EndsSound (execBar2Access a s) := .ite .fault hk.hostAccess.next
protected theorem Sound.execBar2Sel {v} : EndsSound (execBar2Sel v s) := .ite hk.next hk.setDevOn.next
protected theorem Sound.execIrqStat {v} : EndsSound (execIrqStat v s) := .ite hk.next hk.setDevOn.next
protected theorem Sound.signalPending {ns} : Sound (signalPending s ns) := hk.foldl fun _ ht _ => .ite ht.msiSignal ht
protected theorem Sound.execIrqEn {v} : EndsSound (execIrqEn v s) := .ite hk.next hk.setDevOn.signalPending.next
protected theorem Sound.mctp {bs} : Sound (mctp s bs) := hk
protected theorem Sound.mctpReq {body} (hbody : Sound body) : EndsSound (mctpReq s body) := .ite hbody.next hk.next
protected theorem Sound.execGetStatus : EndsSound (execGetStatus s) := hk.mctpReq hk.mctp
protected theorem Sound.execGetIdent : EndsSound (execGetIdent s) := hk.mctpReq hk.mctp
protected theorem Sound.execGetRecord {h slot} : EndsSound (execGetRecord h slot s) := hk.mctpReq hk.mctp
protected theorem Sound.execResetReq {key} : EndsSound (execResetReq key s) :=
  hk.mctpReq (.ite hk.deviceReset.mctp hk.mctp)
protected theorem Sound.execMctpLeadForce {v} : EndsSound (execMctpLeadForce v s) := by
  unfold Machine.execMctpLeadForce
  refine hk.mctpReq ?_
  split
  · next e => exact (hk.leadForce e).mctp
  · exact hk.mctp
protected theorem Sound.execMctpControl {m} : EndsSound (execMctpControl m s) := by
  unfold Machine.execMctpControl
  dsimp only
  refine hk.mctpReq ?_
  split
  · exact hk.drawn.mctp
  · exact hk.setDevOn
  · exact hk.withSec
protected theorem Sound.execPldmRequest {n} : EndsSound (execPldmRequest n s) := hk.mctpReq hk.mctp
protected theorem Sound.lendersNow : Sound (lendersNow s) := hk
protected theorem Sound.wrote {old o} : Sound (wrote old s o) :=
  .ite hk.withTime (.ite hk.lendersNow (.ite (hk.orSelf (·.signalPending)) hk))
protected theorem Sound.putLow {o v} : Sound (putLow s o v) := hk
protected theorem Sound.dropLow {l} : Sound (dropLow s l) := hk
protected theorem Sound.plainWord {o v} : Sound (plainWord s o v) := by
  unfold Machine.plainWord
  refine .ite hk.putLow (.ite (hk.dropLow.selfOr (·.wr64.wrote)) ?_)
  split
  · exact hk.wr32.wrote
  · exact hk

end

end Sys2Proof.Machine
end

section
/-!
PROOFS. Every step keeps the invariant: the engines, the matrix and vector instructions, the queues and the sites.
-/

namespace Sys2Proof.Machine

section

variable {s : State} (hk : Sound s)
include hk

/-! ### The functions of Machine/Sorrel.lean -/

protected theorem Sound.execJrnCtrl {v} : EndsSound (execJrnCtrl v s) :=
  .ite hk.next (hk.withJrn.orSelf (·.takeRegion)).rechoose.leaveRegion.next
protected theorem Sound.spoilEnt {fil outer step} : Sound (spoilEnt s fil outer step) := by
  unfold Machine.spoilEnt
  split
  · exact hk.injectLine
  · exact hk
protected theorem Sound.chargeBanks {fil job w} : Sound (chargeBanks s fil job w) :=
  .ite hk (hk.foldl fun _ ht _ => ht.charge)
protected theorem Sound.reviveEnt {fil outer step own} : Sound (reviveEnt s fil outer step own) := by
  unfold Machine.reviveEnt
  split
  · exact hk.mapEnt.ite hk
  · exact hk
protected theorem Sound.copyDiffs {fil step shs} : CopySound (copyDiffs fil step shs s) := by
  induction shs generalizing s with
  | nil => exact hk
  | cons sh shs ih =>
    have hc {gs} : CopySound (copySegs fil true step sh gs s) := hk.copySegs
    unfold Machine.copyDiffs
    split
    · next e => exact ih (hc.of_eq e)
    · exact hc
protected theorem Sound.undoCopy {fil outer job step} : Sound (undoCopy s fil outer job step) := by
  unfold Machine.undoCopy
  dsimp only
  split
  · next e => exact hk.reviveEnt.copyShards.of_eq e
  · next e => exact Sound.poisonRepair (Sound.logPt (hk.reviveEnt.copyShards.of_eq e))
  · next e =>
    have hm : Sound _ := hk.reviveEnt.copyShards.of_eq e
    refine .ite hm.reportUndo (.ite hm ?_)
    split
    · next e1 => exact Sound.reportUndo (hm.copyDiffs.of_eq e1)
    · next e1 => exact hm.copyDiffs.of_eq e1
    · next e1 => exact Sound.poisonRepair (Sound.logPt (hm.copyDiffs.of_eq e1))
protected theorem Sound.execUndoCopyComplete {fil outer x bad} :
    EndsSound (execUndoCopyComplete fil outer x bad s) := by
  unfold Machine.execUndoCopyComplete
  dsimp only
  split
  · exact .ite hk.next (hk.chargeBanks.undoCopy.orSelf (·.spoilEnt.checkEnt)).next
  · exact hk.next
protected theorem Sound.execBatchRecheck {fil step} : EndsSound (execBatchRecheck fil step s) := by
  unfold Machine.execBatchRecheck
  dsimp only
  split
  · exact hk.next
  · refine .ite hk.next ?_
    split
    · exact (hk.foldl fun _ ht _ => ht.meetVa).mapEnt.next
    · exact ((hk.foldl fun _ ht _ => ht.meetVa).logSpine.foldl fun _ ht _ => ht.stopCtx).next
protected theorem Sound.restoreCmd {sh c} {t : State} (e : restoreCmd s sh c = some t) : Sound t := by
  unfold Machine.restoreCmd at e
  dsimp only at e
  split at e
  · cases e
    exact hk
  · exact hk.restoreSegs e
protected theorem Sound.restoreElse {sh c} : Sound (restoreElse s sh c) := .ite hk.sendFetch.putUCmd hk.noRecord
protected theorem Sound.execRestoreComplete {x bad} : EndsSound (execRestoreComplete x bad s) := by
  unfold Machine.execRestoreComplete
  dsimp only
  split
  · exact hk.next
  · split
    · exact hk.next
    · refine .ite hk.next (.ite (Sound.next (.ite hk.noRecord (.ite hk.restoreElse hk.sendUndoReq.putUCmd))) ?_)
      split
      · next e =>
          exact ((Sound.restoreCmd (Sound.checkEnt (.orSelf (.ite hk hk.charge) (·.spoilEnt))) e)).putUCmd.next
      · exact Sound.next (Sound.restoreElse (Sound.checkEnt (.orSelf (.ite hk hk.charge) (·.spoilEnt))))

/-! ### The functions of Machine/Lovage.lean -/

protected theorem Sound.mirCmd {ka c w body} (hbody : ∀ t, Sound t → Sound (body t)) :
    EndsSound (mirCmd ka c w s body) :=
  hk.blockCmd fun _ ht => .ite ht.finish (hbody _ ht)
protected theorem Sound.execPair {w} : EndsSound (execPair w s) :=
  hk.mirCmd fun _ ht => .ite ht.finish (.ite ht.finish (.ite ht.finish ht.withMir.setPair.busy.sendPair))
protected theorem Sound.execUnpair {w} : EndsSound (execUnpair w s) := by
  unfold Machine.execUnpair
  refine hk.mirCmd fun _ ht => ?_
  split
  · exact ht.finish
  · exact ht.downPair.finish
protected theorem Sound.substShard {sh lost spare} : Sound (substShard s sh lost spare) := .ite hk hk.setHdr.setHdr
protected theorem Sound.substitute {job lost spare} : Sound (substitute s job lost spare) :=
  ((hk.foldl fun _ ht _ => ht.setGrp).foldl fun _ ht _ => ht.substShard).withFab.withMir
protected theorem Sound.execSubstitute {w} : EndsSound (execSubstitute w s) :=
  hk.mirCmd fun _ ht => .ite ht.finish ht.substitute.finish
protected theorem Sound.promoNext : Sound (promoNext s) := by
  unfold Machine.promoNext
  dsimp only
  split
  · exact hk
  · split
    · exact hk.withMir.setPair.sendPair
    · split
      · exact hk.sendFetch
      · exact hk.regFail.promoFail
protected theorem Sound.execPromote {w} : EndsSound (execPromote w s) := by
  unfold Machine.execPromote
  dsimp only
  refine hk.mirCmd fun _ ht => ?_
  refine .ite ht.finish (.ite ht.finish (.ite ht.finish ?_))
  refine ht.hostCmd (.ite ht.finish ?_)
  split
  · exact ht.regFail.finish
  · exact ht.withMir.busy.promoFail.ite ht.withMir.busy.promoNext
protected theorem Sound.takeSub {m} : Sound (takeSub s m) := by
  unfold Machine.takeSub
  dsimp only
  split
  · exact hk.setPair.ite hk
  · exact hk
protected theorem Sound.execPairReq {m} : EndsSound (execPairReq m s) :=
  .ite (hk.fromPair fun _ => hk) (.ite (Sound.fromPair (.ite hk.takeSub hk) fun _ => .ite hk.takeSub hk)
    (Sound.fromPair (.ite hk.takeSub hk) fun _ => Sound.orSelf (.ite hk.takeSub hk) (·.sendPair.pairTest)))
protected theorem Sound.execPairAck {m} : EndsSound (execPairAck m s) := hk.fromPair fun _ => .ite hk.pairTest hk
protected theorem Sound.execDigestListComputed {job shard mirror} :
    EndsSound (execDigestListComputed job shard mirror s) := by
  unfold Machine.execDigestListComputed
  dsimp only
  split
  · refine .ite hk.next ?_
    split
    · exact hk.meetShard.logPt.poisonVote.next
    · exact hk.meetShard.sendDigests.giveVerdict.next
  · exact hk.next
protected theorem Sound.execDigest {d} : EndsSound (execDigest d s) := by
  unfold Machine.execDigest
  refine hk.fromPartner fun _ => ?_
  split
  · exact hk
  · exact hk.giveVerdict.ite hk
protected theorem Sound.execVerdict {src job step shard ofMirror agree first count} :
    EndsSound (execVerdict src job step shard ofMirror agree first count s) := by
  unfold Machine.execVerdict
  dsimp only
  refine hk.fromPartner fun _ => ?_
  split
  · exact hk
  · exact hk.putChk.settleChk.ite hk
protected theorem Sound.mirrorDiverge {fil addr d} : Sound (mirrorDiverge s fil addr d) := hk.withMir.raiseSpineAll
protected theorem Sound.dvgKept {fil sh d c ownKept} : Sound (dvgKept s fil sh d c ownKept) :=
  ((hk.mirrorDiverge.withMir.selfOr (·.setPair)).selfOr fun h => .ite h.entReopen (.ite h.openNext h)).agreeShard
protected theorem Sound.execDivergenceEnd {job shard} : EndsSound (execDivergenceEnd job shard s) := by
  unfold Machine.execDivergenceEnd
  dsimp only
  split
  · exact hk.next
  · split
    · exact .ite hk.next (.ite hk.mirrorFatal.next (.ite hk.dvgKept.next (.ite hk.dvgKept.next hk.mirrorFatal.next)))
    · exact hk.next
protected theorem Sound.undoNone {src sh step} : Sound (undoNone s src sh step) := hk.sendNone.orSelf (·.pairLost)
protected theorem Sound.execUndoReq {src job step x} : EndsSound (execUndoReq src job step x s) := by
  unfold Machine.execUndoReq
  dsimp only
  refine hk.fromPartner fun _ => ?_
  split
  · exact hk
  · split
    · exact hk.checkEnt.sendUndo.ite hk.checkEnt.undoNone
    · exact hk.checkEnt.undoNone
protected theorem Sound.execUndoRecordReport {src job step outer} :
    EndsSound (execUndoRecordReport src job step outer s) :=
  hk.fromPartner fun _ => .ite hk hk.withUpd
protected theorem Sound.undoDvg {fil sh d hdr} : Sound (undoDvg s fil sh d hdr) :=
  .ite hk.mirrorFatal hk.withMir.lovHdr.lovCmd
protected theorem Sound.fixData {sh b step} : Sound (fixData s sh b step) :=
  Sound.selfOr (.ite hk.writeBlocks hk) fun h => h.withMir.orSelf (·.fallBack)
protected theorem Sound.execUndoData {b step} : EndsSound (execUndoData b step s) := by
  unfold Machine.execUndoData
  dsimp only
  refine hk.fromPartner fun _ => ?_
  split
  · exact hk
  · split
    · exact hk.writeBlocks.orSelf (·.undoDvg)
    · refine .ite (.selfOr (.ite hk.writeBlocks hk) fun h => .ite h.rollFail h.rollHdr.rollCheck) ?_
      split
      · exact hk.fixData
      · exact Sound.selfOr (.ite hk.writeBlocks hk) fun h => .ite h.restoreElse h.putUCmd
protected theorem Sound.copyFails {dst sh e} : Sound (copyFails s dst sh e) :=
  .ite hk.logPt.sendNone.pairLost hk.logPt.sendNone.poisonVote
protected theorem Sound.sendCopy {dst sh} : Sound (sendCopy s dst sh) := by
  unfold Machine.sendCopy
  dsimp only
  split
  · exact hk.meetShard.copyFails
  · exact (hk.meetShard.foldl fun _ ht _ => .ite ht ht.sendBlocks).sendBlocks
protected theorem Sound.sendGrad {dst sh b} : Sound (sendGrad s dst sh b) := hk.checkGrad.sendBlocks
protected theorem Sound.sendBlock {dst sh b} : Sound (sendBlock s dst sh b) := by
  unfold Machine.sendBlock
  dsimp only
  split
  · split
    · next e => exact (hk.loadVa.fst e).sendBlocks
    · next e => exact (hk.loadVa.fst e).logPt.sendBlocks.poisonVote
  · exact hk.sendBlocks
protected theorem Sound.execFetchReq {src job shard ofMirror blk} :
    EndsSound (execFetchReq src job shard ofMirror blk s) := by
  unfold Machine.execFetchReq
  refine .ite hk.next (.ite hk.lovForeign.next ?_)
  split
  · exact hk.next
  · refine .ite hk.next (.ite hk.sendNone.next ?_)
    split
    · exact hk.sendCopy.next
    · exact Sound.next (.ite hk.sendGrad hk.sendBlock)
protected theorem Sound.promoData {p sh b} : Sound (promoData s p sh b) :=
  hk.writeBlocks.withMir.selfOr fun h => .ite h.promoFail h.storeVa.withMir.addShard.promoNext
protected theorem Sound.fetchEnd {sh hdr} : Sound (fetchEnd s sh hdr) := by
  unfold Machine.fetchEnd
  dsimp only
  refine .ite ?_ ?_
  · split
    · exact hk.noRecord
    · exact hk.pairLost
  · split
    · exact (hk.storeVa.foldl fun _ ht _ => ht.setStatus).putUCmd.settleCmds
    · exact hk.storeVa.foldl fun _ ht _ => ht.setStatus
protected theorem Sound.execFetchData {b} : EndsSound (execFetchData b s) := by
  unfold Machine.execFetchData
  dsimp only
  refine .ite hk.next ?_
  split
  · split
    · exact hk.next
    · split
      · exact .ite hk.promoData.next hk.next
      · exact hk.promoFail.next
  · refine hk.fromPartner fun _ => ?_
    split
    · exact hk
    · exact .ite (.ite hk hk.writeBlocks) (.ite (.ite hk.repairElse (.ite hk.writeBlocks hk))
        (hk.writeBlocks.orSelf (·.fetchEnd)))

/-! ### The functions of Machine/VecOps.lean -/

protected theorem Sound.vecOp {sl f types u bodyOk k} : EndsSound (vecOp sl f s types u bodyOk k) :=
  hk.issue fun _ ht => .guard ht.updSlot.done
protected theorem Sound.withStat {sl va e} (he : EffSound e) : EffSound (withStat s sl va e) := by
  unfold Machine.withStat
  dsimp only
  refine .ite .fault ?_
  split
  · exact hk.logPt.trap
  · exact he

/-! ### The functions of Machine/TileOps.lean -/

protected theorem Sound.putWrs {cl fil ws} : Sound (putWrs cl fil ws s).1 := by
  induction ws generalizing s with
  | nil => exact hk
  | cons w ws ih =>
    unfold Machine.putWrs
    dsimp only
    split
    · exact hk
    · split
      · exact hk.meetWords
      · exact ih hk.meetWords.scrWrite

/-! ### The functions of Machine/MatOps.lean -/

protected theorem Sound.recAdd {id p a} : Sound (recAdd s id p a).1 := by
  unfold Machine.recAdd
  dsimp only
  split
  · exact hk
  · split
    · next e => exact (hk.loadVa.fst e).logPt
    · next e =>
        have hs := hk.loadVa.fst e
        split
        · next e1 => exact hs.writeVa.fst e1
        · next e1 => exact hs.logPt
protected theorem Sound.outPass {cl fil id p i0 j0 sat tint acc} :
    Sound (outPass s cl fil id p i0 j0 sat tint acc).1 := by
  unfold Machine.outPass
  dsimp only
  split
  · exact .iteFst hk hk.putWrs
  · exact Sound.recAdd (.iteFst hk hk.putWrs)

/-! ### The functions of Machine/Matrix.lean -/

protected theorem Sound.execMmaR {sl f w} : EndsSound (execMmaR sl f w s) :=
  hk.issue fun _ ht => .guard ht.setSlot.waited.done
protected theorem Sound.ocbMeet {sl off} : Sound (ocbMeet s sl off).1 := by
  unfold Machine.ocbMeet
  dsimp only
  split
  · exact hk
  · exact hk.meetWords.meetVa.ite hk.meetWords
protected theorem Sound.ocbAt {cl fil id bad off ot n m} : RefusedSound (ocbAt s cl fil id bad off ot n m) := by
  unfold Machine.ocbAt
  refine .ite (.error .fault) (.ite (.error .fault) (.ite (.error .fault) ?_))
  split
  · exact .error .fault
  · refine .ite (.error .fault) (.ite ?_ .ok)
    split
    · exact .error hk.logPt.trap
    · exact .error .fault
    · exact .ok
protected theorem Sound.execMmaS {sl f} : EndsSound (execMmaS sl f s) := by
  unfold Machine.execMmaS
  dsimp only
  refine hk.issue fun _ ht => .ite ht.ocbMeet.held (.ite ht.held ?_)
  split
  · next e => exact ht.ocbMeet.ocbAt _ e
  · exact ht.ocbMeet.setSlot.waited.done
protected theorem Sound.dropIns {sl ins} : Sound (dropIns s sl ins) := hk
protected theorem Sound.passFault {sl p code addr} : Sound (passFault s sl p code addr) :=
  hk.dropIns.selfOr (·.progFault)
protected theorem Sound.passR {sl p} : Sound (passR s sl p) := hk.setSlot
protected theorem Sound.passS {sl p} : Sound (passS s sl p) := by
  unfold Machine.passS
  dsimp only
  split
  · next e => exact hk.outPass.fst e
  · next e => exact (hk.outPass.fst e).passFault
protected theorem Sound.runPass {sl p} : Sound (runPass s sl p) := by
  unfold Machine.runPass
  split
  · exact hk.passFault
  · split
    · exact hk.passFault
    · dsimp only
      refine .ite hk.meetWords.dropIns ?_
      have hm : Sound (meetWords s sl.cl sl.fil (rangeWords s sl.cl sl.fil p.reads)).1 := hk.meetWords
      have hr : EffSound (readAcc sl p.block _ .done) := hm.readAcc fun _ ht => ht.done
      split
      · next t e =>
        have ht : Sound t := (e ▸ hr : EffSound (.done t))
        exact .ite ht.passS ht.passR
      · next e => exact Sound.dropIns (e ▸ hr : EffSound (.hold _))
      · exact hm
protected theorem Sound.execMatrixPassComplete {sl k u} : EndsSound (execMatrixPassComplete sl k u s) := by
  unfold Machine.execMatrixPassComplete
  dsimp only
  refine .ite .fault ?_
  split
  · exact hk.next
  · exact .ite hk.next (.ite hk.updSlot.inject.cellErr.dropIns.next hk.updSlot.inject.runPass.next)
protected theorem Sound.moutGo {sl id p a m n ps} : Sound (moutGo sl id p a m n ps s).1 := by
  induction ps generalizing s with
  | nil => exact hk
  | cons pi ps ih =>
    unfold Machine.moutGo
    dsimp only
    split
    · next e => exact ih (hk.outPass.fst e)
    · next e => exact hk.outPass.fst e
protected theorem Sound.execMout {sl f} : EndsSound (execMout sl f s) := by
  unfold Machine.execMout
  dsimp only
  refine hk.issue fun _ ht => .ite ht.ocbMeet.held ?_
  split
  · next e => exact ht.ocbMeet.ocbAt _ e
  · refine .ite ht.held (ht.ocbMeet.readRanges fun _ hu => hu.readAcc fun _ hv => ?_)
    split
    · next e => exact (hv.moutGo.fst e).waited.done
    · next e => exact ((hv.moutGo.fst e).selfOr (·.progFault)).held
protected theorem Sound.execMlda {sl f} : EndsSound (execMlda sl f s) := by
  unfold Machine.execMlda
  dsimp only
  exact hk.issue fun _ ht => .guard (.ite ht.held (ht.readRanges fun _ hu => hu.updSlot.waited.done))
protected theorem Sound.execMamax {sl f} : EndsSound (execMamax sl f s) := by
  unfold Machine.execMamax
  dsimp only
  refine hk.issue fun _ ht => ?_
  refine .guard (.ite ht.held ?_)
  refine ht.withStat ?_
  refine ht.readRanges fun _ hu => ?_
  split
  · next e => exact .fault
  · next e => exact (hu.loadVa.fst e).writeVa.waited.done
protected theorem Sound.execTld {sl f} : EndsSound (execTld sl f s) :=
  hk.issue fun _ ht => .guard (.ite ht.held (ht.readStep fun _ hu _ => hu.updSlot.done))
protected theorem Sound.execTst {sl f} : EndsSound (execTst sl f s) :=
  hk.issue fun _ ht => .guard (.ite ht.held ht.writeStep)
protected theorem Sound.tilePatch {sl f w lo1 lo2} : EndsSound (tilePatch sl f s w lo1 lo2) :=
  hk.issue fun _ ht => .guard ht.setSlot.done
protected theorem Sound.execTorg {sl f} : EndsSound (execTorg sl f s) := hk.tilePatch
protected theorem Sound.execToff {sl f} : EndsSound (execToff sl f s) := hk.tilePatch

/-! ### The functions of Machine/QueOps.lean -/

protected theorem Sound.advance {q} : Sound (advance s q) := hk
protected theorem Sound.headHalt {q cause addr} : Sound (headHalt s q cause addr) := hk.haltQueue
protected theorem Sound.onHead {q typ bad k} (hb : ∀ x y, Sound (k x y)) : EndsSound (onHead s q typ bad k) := by
  unfold Machine.onHead
  dsimp only
  split
  · exact hk.next
  · exact .ite hk.next (.ite hk.headHalt.next (Sound.next (hb _ _)))
protected theorem Sound.cmdSignal {q ctx c} : Sound (cmdSignal s q ctx c) := by
  unfold Machine.cmdSignal
  refine .ite hk ?_
  split
  · exact hk.emit.ite hk.haltQueue
  · exact hk.staleDrop
protected theorem Sound.ringDoorbell {q gen wr} : Sound (ringDoorbell s q gen wr) :=
  .ite hk.staleDrop (.ite hk.withQue (.ite hk.setQ.haltQueue hk.setQ))
protected theorem Sound.firstCommand {job step} : Sound (firstCommand s job step) := by
  unfold Machine.firstCommand
  split
  · exact hk.openEnt.ite hk
  · exact hk
protected theorem Sound.startSlot {n c p} : Sound (startSlot n c s p) := hk
protected theorem Sound.addRun {q x c left crc} : Sound (addRun s q x c left crc) := hk
protected theorem Sound.startKernel {q x c} : Sound (startKernel s q x c) :=
  (hk.firstCommand.setCtx.foldl fun _ ht _ => ht.startSlot).addRun.withQue.advance
protected theorem Sound.refBytes {ctx c} : Sound (refBytes s ctx c).1 := by
  unfold Machine.refBytes
  exact hk.loadVa
protected theorem Sound.takeRef {q x c fil} : Sound (takeRef s q x c fil) := by
  unfold Machine.takeRef
  dsimp only
  split
  · exact hk
  · refine .ite hk.firstCommand.advance.cmdSignal (.ite hk.firstCommand.headHalt ?_)
    split
    · next e => exact (hk.firstCommand.refBytes.fst e).logPt.headHalt
    · next e => exact (hk.firstCommand.refBytes.fst e).addRun.advance

/-! ### The functions of Machine/Queues.lean -/

protected theorem Sound.qCmdKa {ka c w body} (hbody : ∀ x y, Sound (body x y)) : EndsSound (qCmdKa ka c w s body) :=
  hk.blockCmd fun _ ht => .ite ht.finish (hbody _ _)
protected theorem Sound.qCmd {c w body} (hbody : ∀ x y, Sound (body x y)) : EndsSound (qCmd c w s body) :=
  hk.qCmdKa hbody
protected theorem Sound.execQCreate {w} : EndsSound (execQCreate w s) :=
  hk.qCmd fun _ _ => .ite hk.finish (.ite hk.finish (.ite hk.finish (.ite hk.finish hk.setQ.finish)))
protected theorem Sound.execQDestroy {w} : EndsSound (execQDestroy w s) :=
  hk.qCmd fun _ _ => .ite hk.finish hk.dropWaits.withQue.setQ.finish
protected theorem Sound.execQueueQuarantineEnd {q} : EndsSound (execQueueQuarantineEnd q s) :=
  .ite hk.next hk.setQ.next
protected theorem Sound.execQCmdHalt {w} : EndsSound (execQCmdHalt w s) :=
  hk.qCmd fun _ _ => .ite hk.finish hk.haltQueue.finish
protected theorem Sound.execQResume {w} : EndsSound (execQResume w s) :=
  hk.qCmd fun _ _ => .ite hk.finish hk.setQ.finish
protected theorem Sound.execQRead {w} : EndsSound (execQRead w s) := hk.qCmdKa fun _ _ => hk.wrBytes.finish
protected theorem Sound.execDoorbell {off len d} : EndsSound (execDoorbell off len d s) :=
  .ite .fault (.ite hk.next (.ite hk.withQue.next hk.ringDoorbell.next))
protected theorem Sound.execQueueFetch {q} : EndsSound (execQueueFetch q s) := by
  unfold Machine.execQueueFetch
  dsimp only
  refine .ite hk.next ?_
  split
  · next e => exact (hk.loadVa.fst e).logPt.headHalt.next
  · next e =>
      have hs := hk.loadVa.fst e
      exact .ite hs.headHalt.next hs.setQ.next
protected theorem Sound.execKernel {q} : EndsSound (execKernel q s) := hk.onHead fun _ _ => .ite hk hk.startKernel
protected theorem Sound.dropRun {n} : Sound (dropRun s n) := hk
protected theorem Sound.execKernelComplete {n} : EndsSound (execKernelComplete n s) := by
  unfold Machine.execKernelComplete
  split
  · exact hk.next
  · exact .ite hk.next hk.dropRun.cmdSignal.next
protected theorem Sound.execBatchRef {q} : EndsSound (execBatchRef q s) := by
  unfold Machine.execBatchRef
  refine hk.onHead fun _ _ => ?_
  split
  · exact hk.advance.cmdSignal
  · exact hk.headHalt
  · exact hk
  · exact hk.takeRef
protected theorem Sound.execBatchRefRecorded {n} : EndsSound (execBatchRefRecorded n s) := by
  unfold Machine.execBatchRefRecorded
  dsimp only
  split
  · exact hk.next
  · exact .ite hk.next hk.dropRun.mapEnt.cmdSignal.next
protected theorem Sound.waitHead {q x c} : Sound (waitHead s q x c) := by
  unfold Machine.waitHead
  dsimp only
  refine .ite hk ?_
  split
  · exact hk.headHalt
  · exact hk.headHalt.ite (.ite hk.dropWaits.advance (.ite hk hk.setObj.setQ))
protected theorem Sound.execCmdWait {q} : EndsSound (execCmdWait q s) := hk.onHead fun _ _ => hk.waitHead
protected theorem Sound.execSignal {q} : EndsSound (execSignal q s) :=
  hk.onHead fun _ _ => .ite hk (.ite hk.headHalt (hk.applySig.orSelf (·.advance)))
protected theorem Sound.execRing {q} : EndsSound (execRing q s) :=
  hk.onHead fun _ _ => .ite hk.headHalt hk.advance.ringDoorbell.cmdSignal
protected theorem Sound.execCmdNop {q} : EndsSound (execCmdNop q s) := hk.onHead fun _ _ => hk.advance.cmdSignal

/-! ### The functions of Machine/Sites.lean -/

protected theorem Sound.fillJ {j} : Sound (fillJ s j) := hk.foldl fun _ ht _ => .ite ht ht.setVaNat
protected theorem Sound.sendMomentum : Sound (sendMomentum s) :=
  hk.foldl fun _ ht _ => ht.foldl fun _ hu _ => hu.sendState
protected theorem Sound.joinAgain : Sound (joinAgain s) := by
  unfold Machine.joinAgain
  split
  · exact hk.sendCtrl
  · exact hk
protected theorem Sound.execOuterRoundBegin : EndsSound (execOuterRoundBegin s) :=
  .ite hk.next (hk.withSx.fillJ.orSelf (·.sendMomentum)).joinAgain.next
protected theorem Sound.askJoin {src} : Sound (askJoin s src) := .ite hk.withSx.sendCtrl hk
protected theorem Sound.onStream {src j x} : EndsSound (onStream s src j x) := by
  unfold Machine.onStream
  split
  · exact .ite hk.next hk.takeStream.next
  · exact hk.askJoin.next
protected theorem Sound.execSxData {src site round shard first tags blocks} :
    EndsSound (execSxData src site round shard first tags blocks s) :=
  hk.onStream
protected theorem Sound.execSxScale {src site round shard first tags scales} :
    EndsSound (execSxScale src site round shard first tags scales s) :=
  hk.onStream
protected theorem Sound.forwardAgain {r sh d} : Sound (forwardAgain s r sh d) :=
  (hk.foldl fun _ ht _ => ht.sendStreams).foldl fun _ ht _ => ht.sendStateOf
protected theorem Sound.sendAgain {r sh d} : Sound (sendAgain s r sh d) :=
  Sound.orSelf (.ite hk.sendState hk) (·.sendStreams)
protected theorem Sound.execSxRetransmitReq {src round shard} :
    EndsSound (execSxRetransmitReq src round shard s) := by
  unfold Machine.execSxRetransmitReq
  split
  · exact hk.next
  · refine .ite hk.next ?_
    split
    · exact Sound.next (.ite hk.forwardAgain hk.sendAgain)
    · exact Sound.next (.ite hk.sendShard.sendHistory hk)
protected theorem Sound.execSxReport {src partner round mask} :
    EndsSound (execSxReport src partner round mask s) := by
  unfold Machine.execSxReport
  split
  · exact hk.next
  · exact Sound.next (.ite hk.takeReport hk)
protected theorem Sound.execDataWaitExpiry : EndsSound (execDataWaitExpiry s) := by
  unfold Machine.execDataWaitExpiry
  split
  · exact hk.next
  · exact .ite hk.next hk.sendReceipt.next
protected theorem Sound.applyRound {r d} : Sound (applyRound s r d) := by
  unfold Machine.applyRound
  dsimp only
  refine Sound.foldl ?_ fun _ ht _ => ht.onDecision
  refine .ite ((hk.keepHistory.foldl fun _ ht _ => ht.moveDown.fillDesc).withSx.orSelf (·.sxRec)) ?_
  split
  · exact ((hk.keepHistory.foldl fun _ ht _ => ht.moveDown.fillDesc).withSx.orSelf
      (·.sxRec)).delEntries.leaveRegion.openNext
  · exact (hk.keepHistory.foldl fun _ ht _ => ht.moveDown.fillDesc).withSx.orSelf (·.sxRec)
protected theorem Sound.passDecision {r d} : Sound (passDecision s r d) := hk.foldl fun _ ht _ => ht.sendTo
protected theorem Sound.rejoinNote {d} : Sound (rejoinNote s d) := .ite hk.sxRec hk
protected theorem Sound.propose {r} : Sound (propose s r) :=
  (hk.rejoinNote.foldl fun _ ht _ => ht.sendTo).passDecision.applyRound
protected theorem Sound.execSxDecision : EndsSound (execSxDecision s) := by
  unfold Machine.execSxDecision
  split
  · exact hk.next
  · exact .ite hk.propose.next hk.next
protected theorem Sound.applyCame {r} : Sound (applyCame s r) := by
  unfold Machine.applyCame
  split
  · exact hk.rejoinNote.passDecision.applyRound
  · exact hk
protected theorem Sound.execSxReceipt {c} : EndsSound (execSxReceipt c s) := by
  unfold Machine.execSxReceipt
  dsimp only
  split
  · exact hk.next
  · exact .ite hk.next (hk.setRound.orSelf (·.applyCame)).next
protected theorem Sound.execDecWaitExpiry : EndsSound (execDecWaitExpiry s) := by
  unfold Machine.execDecWaitExpiry
  split
  · exact hk.next
  · exact .ite hk.next (.ite hk.propose.next hk.setRound.applyCame.next)
protected theorem Sound.execSxApply {d} : EndsSound (execSxApply d s) := by
  unfold Machine.execSxApply
  dsimp only
  split
  · exact hk.next
  · exact .ite hk.next (.ite (Sound.next (.ite hk.rejoinNote.applyRound hk))
      (.ite hk.next (hk.setRound.orSelf (·.applyCame)).next))
protected theorem Sound.execSxDecisionTimeout : EndsSound (execSxDecisionTimeout s) := by
  unfold Machine.execSxDecisionTimeout
  split
  · exact hk.next
  · exact .ite hk.next hk.passDecision.applyRound.next
protected theorem Sound.keepMomentum {sh k data crc} : Sound (keepMomentum s sh k data crc) :=
  hk.writeAll.withSx.selfOr (·.sendTo)
protected theorem Sound.joinLoad {src shard kind data} : Sound (joinLoad s src shard kind data) := by
  unfold Machine.joinLoad
  dsimp only
  refine .ite hk.withSx ?_
  split
  · exact hk
  · exact hk.writeAll
protected theorem Sound.takeState {src shard kind data} : Sound (takeState s src shard kind data) :=
  .ite hk.joinLoad hk
protected theorem Sound.execSxState {src site shard kind data crc} :
    EndsSound (execSxState src site shard kind data crc s) := by
  unfold Machine.execSxState
  dsimp only
  refine .ite hk.next (.ite hk.sendCtrl.next ?_)
  split
  · exact Sound.next (.ite hk.keepMomentum hk.takeState)
  · exact hk.takeState.next
protected theorem Sound.tellSite {args} : Sound (tellSite s args) := hk.sent (tellSite_sent s args)
protected theorem Sound.execJoin {m} : EndsSound (execJoin m s) :=
  .ite hk.next (.ite (Sound.next (.orSelf (.ite hk.withSx hk) (·.tellSite)))
    (.ite hk.next (hk.withSx.orSelf (·.tellSite.sendCtrl)).next))

/-! ### The functions of Machine/VecArith.lean -/

protected theorem Sound.execVadd {sl f} : EndsSound (execVadd sl f s) := hk.vecOp
protected theorem Sound.execVsub {sl f} : EndsSound (execVsub sl f s) := hk.vecOp
protected theorem Sound.execVmul {sl f} : EndsSound (execVmul sl f s) := hk.vecOp
protected theorem Sound.execVfma {sl f} : EndsSound (execVfma sl f s) := hk.vecOp
protected theorem Sound.execVfnma {sl f} : EndsSound (execVfnma sl f s) := hk.vecOp
protected theorem Sound.execVmin {sl f} : EndsSound (execVmin sl f s) := hk.vecOp
protected theorem Sound.execVmax {sl f} : EndsSound (execVmax sl f s) := hk.vecOp
protected theorem Sound.execVabs {sl f} : EndsSound (execVabs sl f s) := hk.vecOp
protected theorem Sound.execVneg {sl f} : EndsSound (execVneg sl f s) := hk.vecOp
protected theorem Sound.execVcmpeq {sl f} : EndsSound (execVcmpeq sl f s) := hk.vecOp
protected theorem Sound.execVcmplt {sl f} : EndsSound (execVcmplt sl f s) := hk.vecOp
protected theorem Sound.execVcmple {sl f} : EndsSound (execVcmple sl f s) := hk.vecOp
protected theorem Sound.execVcmpun {sl f} : EndsSound (execVcmpun sl f s) := hk.vecOp
protected theorem Sound.execVsel {sl f} : EndsSound (execVsel sl f s) := hk.vecOp
protected theorem Sound.intOp {sl f op} : EndsSound (intOp sl f s op) := hk.vecOp
protected theorem Sound.execVand {sl f} : EndsSound (execVand sl f s) := hk.intOp
protected theorem Sound.execVor {sl f} : EndsSound (execVor sl f s) := hk.intOp
protected theorem Sound.execVxor {sl f} : EndsSound (execVxor sl f s) := hk.intOp
protected theorem Sound.execVshl {sl f} : EndsSound (execVshl sl f s) := hk.intOp
protected theorem Sound.execVshr {sl f} : EndsSound (execVshr sl f s) := hk.intOp
protected theorem Sound.execVsar {sl f} : EndsSound (execVsar sl f s) := hk.intOp
protected theorem Sound.execVrsum {sl f} : EndsSound (execVrsum sl f s) := hk.vecOp
protected theorem Sound.execVrmax {sl f} : EndsSound (execVrmax sl f s) := hk.vecOp
protected theorem Sound.execVrmin {sl f} : EndsSound (execVrmin sl f s) := hk.vecOp
protected theorem Sound.execVmov {sl f} : EndsSound (execVmov sl f s) := hk.vecOp
protected theorem Sound.execVbcast {sl f} : EndsSound (execVbcast sl f s) := hk.vecOp
protected theorem Sound.execViota {sl f} : EndsSound (execViota sl f s) := hk.vecOp
protected theorem Sound.execVcvtI2f {sl f} : EndsSound (execVcvtI2f sl f s) := hk.vecOp
protected theorem Sound.execVcvtF2i {sl f} : EndsSound (execVcvtF2i sl f s) :=
  hk.issue fun _ ht => .guard (ht.withStat ht.setSlot.statAdd.done)

/-! ### The functions of Machine/VecData.lean -/

protected theorem Sound.execVld {sl f u} : EndsSound (execVld sl f u s) :=
  hk.issue fun _ ht => .guard (ht.inject.readRanges fun _ hu => hu.updSlot.done)
protected theorem Sound.storeLanes {x f cl off v} : Sound (storeLanes x f cl off v s) :=
  hk.foldl fun _ ht _ => .ite (.ite ht.scrWrite ht.scrWrite) (.ite ht.scrWrite ht)
protected theorem Sound.execVst {sl f} : EndsSound (execVst sl f s) :=
  hk.issue fun _ ht => .guard (ht.readRanges fun _ hu => hu.storeLanes.done)
protected theorem Sound.execVlda {sl f u} : EndsSound (execVlda sl f u s) :=
  hk.issue fun _ ht => .guard (.ite ht.inject.held (ht.inject.readAcc fun _ hu => hu.updSlot.done))
protected theorem Sound.execVsta {sl f} : EndsSound (execVsta sl f s) :=
  hk.issue fun _ ht => .guard (.ite ht.held ht.setSlot.done)
protected theorem Sound.execVunpk {sl f} : EndsSound (execVunpk sl f s) :=
  hk.issue fun _ ht => .guard (ht.withStat (ht.readRanges fun _ hu => .ite hu.updSlot.done hu.updSlot.statAdd.done))
protected theorem Sound.execVpk {sl f} : EndsSound (execVpk sl f s) :=
  hk.issue fun _ ht => .guard (ht.withStat ht.setSlot.statAdd.done)
protected theorem Sound.execVpkSt {sl f} : EndsSound (execVpkSt sl f s) :=
  hk.issue fun _ ht => .guard (ht.withStat (ht.readRanges fun _ hu => hu.putWrs.statAdd.done))
protected theorem Sound.execVdraw {sl f} : EndsSound (execVdraw sl f s) := hk.issue fun _ ht => .guard ht.setSlot.done
protected theorem Sound.dataOp {sl f u ok k} : EndsSound (dataOp sl f s u ok k) :=
  hk.issue fun _ ht => .guard ht.updSlot.done
protected theorem Sound.execPset {sl f} : EndsSound (execPset sl f s) := hk.dataOp
protected theorem Sound.execPand {sl f} : EndsSound (execPand sl f s) := hk.dataOp
protected theorem Sound.execPor {sl f} : EndsSound (execPor sl f s) := hk.dataOp
protected theorem Sound.execPxor {sl f} : EndsSound (execPxor sl f s) := hk.dataOp
protected theorem Sound.execPnot {sl f} : EndsSound (execPnot sl f s) := hk.dataOp
protected theorem Sound.execPcnt {sl f} : EndsSound (execPcnt sl f s) := hk.dataOp
protected theorem Sound.execPmask {sl f} : EndsSound (execPmask sl f s) := hk.dataOp
protected theorem Sound.execVext {sl f} : EndsSound (execVext sl f s) := hk.dataOp
protected theorem Sound.execVins {sl f} : EndsSound (execVins sl f s) := hk.dataOp
protected theorem Sound.execFsetp {sl f} : EndsSound (execFsetp sl f s) := hk.dataOp

end

end Sys2Proof.Machine
end

section
/-!
PROOFS. Every step keeps the invariant: what every command does, and a tick of the clock.
-/

namespace Sys2Proof.Machine

section

variable {s : State} (hk : Sound s)
include hk

/-! ### The functions of Machine/Words.lean -/

/-- Every command but a register write, whose meaning goes back to the commands of the registers. -/
protected theorem Sound.exec_of_write {c : Instr}
    (hw : ∀ o n v, c = .plainRegisterWrite o n v → EndsSound (execPlainRegisterWrite o n v s)) :
    EndsSound (exec c s) := by
  cases c with
  | plainRegisterWrite o n v => exact hw o n v rfl
  | ctxCreate => exact hk.execCtxCreate | ctxDestroy => exact hk.execCtxDestroy | bind => exact hk.execBind
  | bindComplete => exact hk.execBindComplete | unbind => exact hk.execUnbind
  | unbindComplete => exact hk.execUnbindComplete | ctxStop => exact hk.execCtxStop
  | ctxResume => exact hk.execCtxResume | ctxRead => exact hk.execCtxRead | qCreate => exact hk.execQCreate
  | qDestroy => exact hk.execQDestroy | queueQuarantineEnd => exact hk.execQueueQuarantineEnd
  | qCmdHalt => exact hk.execQCmdHalt | qResume => exact hk.execQResume | qRead => exact hk.execQRead
  | doorbell => exact hk.execDoorbell | queueFetch => exact hk.execQueueFetch | kernel => exact hk.execKernel
  | kernelComplete => exact hk.execKernelComplete | batchRef => exact hk.execBatchRef
  | batchRefRecorded => exact hk.execBatchRefRecorded | cmdWait => exact hk.execCmdWait
  | signal => exact hk.execSignal | ring => exact hk.execRing | cmdNop => exact hk.execCmdNop
  | governorDebtCleared => exact hk.execGovernorDebtCleared | priUnitsTick => exact hk.execPriUnitsTick
  | filUnitsTick => exact hk.execFilUnitsTick | frameBeatTick => exact hk.execFrameBeatTick
  | intervalClose => exact hk.execIntervalClose | snapshotWritten => exact hk.execSnapshotWritten
  | ledBase => exact hk.execLedBase | ledSlots => exact hk.execLedSlots | ledTail => exact hk.execLedTail
  | ledCtrl => exact hk.execLedCtrl | syncCreate => exact hk.execSyncCreate | syncDestroy => exact hk.execSyncDestroy
  | syncQuarantineEnd => exact hk.execSyncQuarantineEnd | syncReset => exact hk.execSyncReset
  | syncRead => exact hk.execSyncRead | readWaiters => exact hk.execReadWaiters | clearOvr => exact hk.execClearOvr
  | counterSignal => exact hk.execCounterSignal | flagSignal => exact hk.execFlagSignal
  | barrierArrival => exact hk.execBarrierArrival | remoteSignal => exact hk.execRemoteSignal
  | barrierRejection => exact hk.execBarrierRejection | watchdogExpiry => exact hk.execWatchdogExpiry
  | lendStart => exact hk.execLendStart | lendGrant => exact hk.execLendGrant | lendWake => exact hk.execLendWake
  | lendRevoke => exact hk.execLendRevoke | assign => exact hk.execAssign | release => exact hk.execRelease
  | retire => exact hk.execRetire | frameScrubbed => exact hk.execFrameScrubbed | invalCtx => exact hk.execInvalCtx
  | invalRange => exact hk.execInvalRange | invalAll => exact hk.execInvalAll
  | invalidationComplete => exact hk.execInvalidationComplete | tableWalk => exact hk.execTableWalk
  | patrolRead => exact hk.execPatrolRead | patrolCtrl => exact hk.execPatrolCtrl | jrnCtrl => exact hk.execJrnCtrl
  | undoCopyComplete => exact hk.execUndoCopyComplete | batchRecheck => exact hk.execBatchRecheck
  | restoreComplete => exact hk.execRestoreComplete | register => exact hk.execRegister
  | deregister => exact hk.execDeregister | rollback => exact hk.execRollback | updRead => exact hk.execUpdRead
  | phaseAStart => exact hk.execPhaseAStart | phaseAComplete => exact hk.execPhaseAComplete
  | phaseBStart => exact hk.execPhaseBStart | phaseBComplete => exact hk.execPhaseBComplete
  | outerEncodeComplete => exact hk.execOuterEncodeComplete | outerMergeComplete => exact hk.execOuterMergeComplete
  | groupCreate => exact hk.execGroupCreate | groupDestroy => exact hk.execGroupDestroy
  | groupQuarantineEnd => exact hk.execGroupQuarantineEnd | groupRead => exact hk.execGroupRead
  | voteRead => exact hk.execVoteRead | collectiveStart => exact hk.execCollectiveStart
  | borageMessage => exact hk.execBorageMessage | mirrorDelivery => exact hk.execMirrorDelivery
  | collectiveComplete => exact hk.execCollectiveComplete | voteOpen => exact hk.execVoteOpen
  | voteWord => exact hk.execVoteWord | voteDeadline => exact hk.execVoteDeadline
  | absenceNotice => exact hk.execAbsenceNotice | voteOutcome => exact hk.execVoteOutcome
  | recoveryRootWait => exact hk.execRecoveryRootWait | pctrl => exact hk.execPctrl
  | portTrained => exact hk.execPortTrained | wavelengthFail => exact hk.execWavelengthFail
  | linkFrame => exact hk.execLinkFrame | nak => exact hk.execNak | retrain => exact hk.execRetrain
  | retrainEnd => exact hk.execRetrainEnd | lossOfLight => exact hk.execLossOfLight
  | relayFlit => exact hk.execRelayFlit | transportMessage => exact hk.execTransportMessage
  | ackTimer => exact hk.execAckTimer | ack => exact hk.execAck | retransmitTimer => exact hk.execRetransmitTimer
  | messageAgeExpiry => exact hk.execMessageAgeExpiry | connectionRelease => exact hk.execConnectionRelease
  | resync => exact hk.execResync | sessionWaitExpiry => exact hk.execSessionWaitExpiry
  | heartbeatSend => exact hk.execHeartbeatSend | heartbeat => exact hk.execHeartbeat
  | absenceCheck => exact hk.execAbsenceCheck | timeExchange => exact hk.execTimeExchange
  | firstLock => exact hk.execFirstLock | ppsEdge => exact hk.execPpsEdge
  | holdoverEntry => exact hk.execHoldoverEntry | holdoverExit => exact hk.execHoldoverExit
  | timeDrift => exact hk.execTimeDrift | epochChange => exact hk.execEpochChange
  | epochKeyForm => exact hk.execEpochKeyForm | epochKeyRetire => exact hk.execEpochKeyRetire
  | sInit => exact hk.execSInit | sResp => exact hk.execSResp | sFin => exact hk.execSFin
  | sessionRetry => exact hk.execSessionRetry | sessionReplace => exact hk.execSessionReplace
  | outerRoundBegin => exact hk.execOuterRoundBegin | sxData => exact hk.execSxData | sxScale => exact hk.execSxScale
  | sxRetransmitReq => exact hk.execSxRetransmitReq | sxReport => exact hk.execSxReport
  | sxReceipt => exact hk.execSxReceipt | dataWaitExpiry => exact hk.execDataWaitExpiry
  | decWaitExpiry => exact hk.execDecWaitExpiry | sxDecision => exact hk.execSxDecision
  | sxApply => exact hk.execSxApply | sxDecisionTimeout => exact hk.execSxDecisionTimeout
  | sxState => exact hk.execSxState | join => exact hk.execJoin | loadRoutes => exact hk.execLoadRoutes
  | loadSites => exact hk.execLoadSites | loadWatch => exact hk.execLoadWatch | loadEnc => exact hk.execLoadEnc
  | readRoute => exact hk.execReadRoute | fabId => exact hk.execFabId | fabLat => exact hk.execFabLat
  | fabLatLowerEffect => exact hk.execFabLatLowerEffect | encCtrl => exact hk.execEncCtrl
  | sxCtrl => exact hk.execSxCtrl | sxH => exact hk.execSxH | pair => exact hk.execPair
  | unpair => exact hk.execUnpair | substitute => exact hk.execSubstitute | promote => exact hk.execPromote
  | pairReq => exact hk.execPairReq | pairAck => exact hk.execPairAck | digest => exact hk.execDigest
  | verdict => exact hk.execVerdict | divergenceEnd => exact hk.execDivergenceEnd | undoReq => exact hk.execUndoReq
  | undoData => exact hk.execUndoData | fetchReq => exact hk.execFetchReq | fetchData => exact hk.execFetchData
  | recordHandlingEnd => exact hk.execRecordHandlingEnd | errTail => exact hk.execErrTail
  | leaseClaim => exact hk.execLeaseClaim | leaseRenew => exact hk.execLeaseRenew
  | leaseExpiry => exact hk.execLeaseExpiry | spineUnreachableStop => exact hk.execSpineUnreachableStop
  | leadForce => exact hk.execLeadForce | bootLoad => exact hk.execBootLoad
  | imageVerifyComplete => exact hk.execImageVerifyComplete
  | memoryTrainingComplete => exact hk.execMemoryTrainingComplete | getVersion => exact hk.execGetVersion
  | getCapabilities => exact hk.execGetCapabilities | negotiateAlgorithms => exact hk.execNegotiateAlgorithms
  | getDigests => exact hk.execGetDigests | getCertificate => exact hk.execGetCertificate
  | challenge => exact hk.execChallenge | getMeasurements => exact hk.execGetMeasurements
  | keyExchange => exact hk.execKeyExchange | finish => exact hk.execFinish | endSession => exact hk.execEndSession
  | spdmHeartbeat => exact hk.execSpdmHeartbeat | keyUpdate => exact hk.execKeyUpdate
  | drbgReseed => exact hk.execDrbgReseed | maskReseed => exact hk.execMaskReseed
  | healthTestFail => exact hk.execHealthTestFail | hkeyLoad => exact hk.execHkeyLoad
  | hkeyErase => exact hk.execHkeyErase | slotErase => exact hk.execSlotErase | cqrWr => exact hk.execCqrWr
  | cipherRequestComplete => exact hk.execCipherRequestComplete | run => exact hk.execRun
  | chiveRunComplete => exact hk.execChiveRunComplete | resetAlive => exact hk.execResetAlive
  | rstCmd => exact hk.execRstCmd | cxlReset => exact hk.execCxlReset | flr => exact hk.execFlr
  | hotReset => exact hk.execHotReset | resetInputAssert => exact hk.execResetInputAssert
  | resetInputRelease => exact hk.execResetInputRelease | cxlLinkTrain => exact hk.execCxlLinkTrain
  | cxlLinkLoss => exact hk.execCxlLinkLoss | cxlLinkReturn => exact hk.execCxlLinkReturn
  | cxlCacheTimeout => exact hk.execCxlCacheTimeout | ideFail => exact hk.execIdeFail
  | hdmAccess => exact hk.execHdmAccess | bar2Sel => exact hk.execBar2Sel | irqStat => exact hk.execIrqStat
  | irqEn => exact hk.execIrqEn | getStatus => exact hk.execGetStatus | getIdent => exact hk.execGetIdent
  | getRecord => exact hk.execGetRecord | resetReq => exact hk.execResetReq
  | mctpLeadForce => exact hk.execMctpLeadForce | mctpControl => exact hk.execMctpControl
  | pldmRequest => exact hk.execPldmRequest | powerStageStart => exact hk.execPowerStageStart
  | pwrgdAssert => exact hk.execPwrgdAssert | overvoltage => exact hk.execOvervoltage
  | undervoltage => exact hk.execUndervoltage | overcurrent => exact hk.execOvercurrent
  | inputLowEntry => exact hk.execInputLowEntry | budgetPeriod => exact hk.execBudgetPeriod
  | pwrLimit => exact hk.execPwrLimit | throttleTick => exact hk.execThrottleTick
  | fastLoopTrip => exact hk.execFastLoopTrip | fastLoopRelease => exact hk.execFastLoopRelease
  | thermalSample => exact hk.execThermalSample | thermalCapStep => exact hk.execThermalCapStep
  | thermalTrip => exact hk.execThermalTrip | sensorFault => exact hk.execSensorFault
  | lightReturn => exact hk.execLightReturn | overvoltageRestart => exact hk.execOvervoltageRestart
  | resetReleaseHoldEnd => exact hk.execResetReleaseHoldEnd | ideKeyProgram => exact hk.execIdeKeyProgram
  | bar2Access => exact hk.execBar2Access | digestListComputed => exact hk.execDigestListComputed
  | undoRecordReport => exact hk.execUndoRecordReport | ref10mLockLoss => exact hk.execRef10mLockLoss
  | ppsEdgesMissed => exact hk.execPpsEdgesMissed | add => exact hk.execAdd | sub => exact hk.execSub
  | mul => exact hk.execMul | mulh => exact hk.execMulh | and => exact hk.execAnd | or => exact hk.execOr
  | xor => exact hk.execXor | shl => exact hk.execShl | shr => exact hk.execShr | sar => exact hk.execSar
  | slt => exact hk.execSlt | sltu => exact hk.execSltu | li => exact hk.execLi | lih => exact hk.execLih
  | ld => exact hk.execLd | st => exact hk.execSt | ldw => exact hk.execLdw | stw => exact hk.execStw
  | csrr => exact hk.execCsrr | csrw => exact hk.execCsrw | capr => exact hk.execCapr | caprd => exact hk.execCaprd
  | j => exact hk.execJ | beq => exact hk.execBeq | bne => exact hk.execBne | blt => exact hk.execBlt
  | bge => exact hk.execBge | bltu => exact hk.execBltu | call => exact hk.execCall | jr => exact hk.execJr
  | halt => exact hk.execHalt | cfence => exact hk.execCfence | nop => exact hk.execNop | vadd => exact hk.execVadd
  | vsub => exact hk.execVsub | vmul => exact hk.execVmul | vfma => exact hk.execVfma | vfnma => exact hk.execVfnma
  | vmin => exact hk.execVmin | vmax => exact hk.execVmax | vabs => exact hk.execVabs | vneg => exact hk.execVneg
  | vcmpeq => exact hk.execVcmpeq | vcmplt => exact hk.execVcmplt | vcmple => exact hk.execVcmple
  | vcmpun => exact hk.execVcmpun | vsel => exact hk.execVsel | vand => exact hk.execVand | vor => exact hk.execVor
  | vxor => exact hk.execVxor | vshl => exact hk.execVshl | vshr => exact hk.execVshr | vsar => exact hk.execVsar
  | vrsum => exact hk.execVrsum | vrmax => exact hk.execVrmax | vrmin => exact hk.execVrmin
  | vmov => exact hk.execVmov | vbcast => exact hk.execVbcast | viota => exact hk.execViota
  | vcvtF2i => exact hk.execVcvtF2i | vcvtI2f => exact hk.execVcvtI2f | vld => exact hk.execVld
  | vst => exact hk.execVst | vlda => exact hk.execVlda | vsta => exact hk.execVsta | vunpk => exact hk.execVunpk
  | vpk => exact hk.execVpk | vpkSt => exact hk.execVpkSt | vdraw => exact hk.execVdraw | pset => exact hk.execPset
  | pand => exact hk.execPand | por => exact hk.execPor | pxor => exact hk.execPxor | pnot => exact hk.execPnot
  | pcnt => exact hk.execPcnt | pmask => exact hk.execPmask | vext => exact hk.execVext | vins => exact hk.execVins
  | fsetp => exact hk.execFsetp | mmaR => exact hk.execMmaR | mmaS => exact hk.execMmaS
  | matrixPassComplete => exact hk.execMatrixPassComplete | mout => exact hk.execMout | mlda => exact hk.execMlda
  | mamax => exact hk.execMamax | tld => exact hk.execTld | tst => exact hk.execTst | torg => exact hk.execTorg
  | toff => exact hk.execToff | dmaGo => exact hk.execDmaGo | dmaCnt => exact hk.execDmaCnt
  | dmaDrain => exact hk.execDmaDrain | dmaComplete => exact hk.execDmaComplete | sig => exact hk.execSig
  | wait => exact hk.execWait | arrive => exact hk.execArrive | cons => exact hk.execCons
  | sread => exact hk.execSread | creg => exact hk.execCreg | collGo => exact hk.execCollGo
  | collNf => exact hk.execCollNf | collQ => exact hk.execCollQ | updA => exact hk.execUpdA
  | updB => exact hk.execUpdB | updAb => exact hk.execUpdAb | updOut => exact hk.execUpdOut
  | updExp => exact hk.execUpdExp | updExpComplete => exact hk.execUpdExpComplete
protected theorem Sound.commandRun {i} : EndsSound (commandRun i s) := by
  obtain h | ⟨h, hp⟩ := commandRun_cases i s <;> rw [h]
  · exact hk.next
  · exact hk.exec_of_write fun o n v e => absurd e (hp o n v)
protected theorem Sound.reservedOp {o v} : EndsSound (reservedOp o v s) := by
  unfold Machine.reservedOp
  split
  · exact hk.blockCmd fun _ ht => ht.finish
  · exact .ite hk.execBootLoad (.ite hk.chvBadOp.next hk.next)
protected theorem Sound.commandWrite {o v} : EndsSound (commandWrite o v s) := by
  unfold Machine.commandWrite
  split
  · exact hk.commandRun
  · exact hk.reservedOp
protected theorem Sound.wordWrite {o v} : EndsSound (wordWrite o v s) :=
  .ite (Sound.next (.ite hk.plainWord hk)) (.ite (Sound.next (.ite hk.putLow hk))
    (.ite hk.dropLow.commandWrite hk.commandWrite))
protected theorem Sound.execPlainRegisterWrite {o n v} : EndsSound (execPlainRegisterWrite o n v s) :=
  .ite hk.next (.andThen (.ite (hk.wordWrite.andThen fun _ ht => ht.wordWrite) hk.wordWrite) fun _ ht =>
    ht.refreshRdy.next)
protected theorem Sound.exec {c} : EndsSound (exec c s) := hk.exec_of_write fun _ _ _ _ => hk.execPlainRegisterWrite

/-! ### The functions of Machine/Tick.lean -/

protected theorem Sound.freeFor {c} : Sound (freeFor s c) := by
  unfold Machine.freeFor
  dsimp only
  split
  · exact hk.setBlk
  · split
    · exact hk.setChv
    · exact hk
protected theorem Sound.startHeld : Sound (startHeld s) :=
  (hk.withHeld.withLink.foldl fun _ ht _ => ht.freeFor).withPending
protected theorem Sound.decayAll : Sound (decayAll s) := hk
protected theorem Sound.moveHalves : Sound (moveHalves s) := .ite hk hk.withLead
protected theorem Sound.clockTick : Sound (clockTick s) :=
  hk.railTick.selfOr fun h => h.withTime.decayAll.moveHalves.orSelf (·.flrSettle.servePorts.withPending)
protected theorem Sound.tick : Sound (tick s) := .ite hk.clockTick hk.startHeld

end

/-- Settles O55: every command and every tick of the clock keeps `Sound`, which is the invariant. -/
theorem stepKeepsInvariant : Obligations.StepKeepsInvariant := by
  unfold Obligations.StepKeepsInvariant
  intro s t hs hstep
  have hk : Sound s := inv_iff_sound.1 hs
  rw [inv_iff_sound]
  cases hp : s.pending with
  | nil =>
    rw [step_nil s hp] at hstep
    exact hk.tick.next t hstep
  | cons c cs =>
    have hcs : Sound (s.setPending cs) := hk
    simp only [step, hp] at hstep
    exact hcs.exec t hstep

end Sys2Proof.Machine
end

section
/-!
PROOFS. A step, and the state after reset (R437, R441).
-/

namespace Sys2Proof.Machine

/-- Settles O53: it is the second branch of `step`. -/
theorem stepRunsFrontCommand : Obligations.StepRunsFrontCommand := by
  unfold Obligations.StepRunsFrontCommand
  intro s c cs hp
  rw [step, hp]

/-- Settles O54: memory is empty, and the rates and caps are 16. -/
theorem resetSatisfiesInvariant : Obligations.ResetSatisfiesInvariant := by
  unfold Obligations.ResetSatisfiesInvariant
  exact inv_iff_sound.2 ⟨rfl, .reset, .reset⟩

end Sys2Proof.Machine
end

section
/-!
PROOFS. What a record, an interrupt and RDY_MAP leave alone, and what the halt of queues does.
-/

namespace Sys2Proof.Machine

/-! ### What a record, an interrupt and RDY_MAP leave alone -/

/-- A state without its rings and without what signals an interrupt: a record, a vector and RDY_MAP change nothing else. -/
def calm (s : State) : State :=
  (s.setErr { s.err with ring := ⟨{}, {}⟩, lastFatal := none }).setDev
    { s.dev with rdy := 0, rdyChg := 0, irqStat := 0, msi := [] }

/-- What does not read the rings and the interrupts is the same in states that differ in them alone. -/
theorem of_calm {α : Type} {s t : State} (h : calm t = calm s) (f : State → α) (hf : ∀ s, f (calm s) = f s) {x : α}
    (hx : f s = x) : f t = x := by
  rw [← hf t, h, hf, hx]

theorem calm_msiSignal (s : State) (n : Nat) : calm (msiSignal s n) = calm s := by
  unfold msiSignal
  split <;> rfl

theorem calm_irq (s : State) (n : Nat) : calm (irq s n) = calm s := by
  unfold irq
  split
  · rfl
  · dsimp only
    split
    · exact calm_msiSignal _ _
    · rfl

theorem calm_logRec (s : State) (h : Half) (x : Rec) : calm (logRec s h x) = calm s := by
  unfold logRec
  split
  · rfl
  · split
    · rfl
    · dsimp only
      split
      · exact calm_irq _ _
      · rfl

theorem calm_logSpine (s : State) (x : Rec) : calm (logSpine s x) = calm s := by
  unfold logSpine
  split
  · exact calm_logRec _ _ _
  · rw [calm_logRec, calm_logRec]

theorem calm_logSpines {α : Type} (r : α → Rec) (xs : List α) :
    ∀ s : State, calm (xs.foldl (fun t x => logSpine t (r x)) s) = calm s := by
  induction xs with
  | nil => intro s; rfl
  | cons x xs ih => intro s; rw [List.foldl_cons, ih, calm_logSpine]

theorem calm_rdy (s : State) (m : B64) (n : Nat) : calm (s.setDev { s.dev with rdy := m, rdyChg := n }) = calm s := rfl

theorem calm_refreshRdy (s : State) : calm (refreshRdy s) = calm s := by
  unfold refreshRdy
  generalize rdyBits s = new
  dsimp only
  split
  · rfl
  · generalize (List.range 64).filter (fun n => bit s.dev.rdy n && !bit new n) = gone
    calc _ = calm (irq (s.setDev { s.dev with rdy := new, rdyChg := sat32 (s.dev.rdyChg + 1) }) 2) :=
          calm_logSpines (fun n => { code := 0x0C05, data0 := bv 64 n }) gone _
      _ = calm s := (calm_irq _ _).trans (calm_rdy _ _ _)

@[simp] theorem refreshRdy_regs (s : State) : (refreshRdy s).regs = s.regs :=
  of_calm (calm_refreshRdy s) State.regs (fun _ => rfl) rfl
@[simp] theorem refreshRdy_blk (s : State) : (refreshRdy s).blk = s.blk :=
  of_calm (calm_refreshRdy s) State.blk (fun _ => rfl) rfl
@[simp] theorem refreshRdy_clu (s : State) : (refreshRdy s).clu = s.clu :=
  of_calm (calm_refreshRdy s) State.clu (fun _ => rfl) rfl

/-- A queue that halts changes the queues, and records it. -/
theorem calm_haltQueue (s : State) (q cause : Nat) (byCmd : Bool) (addr : Nat) :
    ∃ u, calm (haltQueue s q cause byCmd addr) = (calm s).setQue u := by
  unfold haltQueue
  dsimp only
  split
  · exact ⟨s.que, rfl⟩
  · exact ⟨_, (calm_logSpine _ _).trans rfl⟩

theorem calm_haltQueues (cause : Nat) (byCmd : Bool) (addr : Nat) (qs : List Nat) :
    ∀ s : State, ∃ u, calm (qs.foldl (fun t q => haltQueue t q cause byCmd addr) s) = (calm s).setQue u := by
  induction qs with
  | nil => intro s; exact ⟨s.que, rfl⟩
  | cons q qs ih =>
    intro s
    obtain ⟨u, hu⟩ := calm_haltQueue s q cause byCmd addr
    obtain ⟨w, hw⟩ := ih (haltQueue s q cause byCmd addr)
    exact ⟨w, by rw [List.foldl_cons, hw, hu]; rfl⟩

end Sys2Proof.Machine
end

section
/-!
PROOFS. The MCTP endpoint (R434, R435, R464).
-/

namespace Sys2Proof.Machine

/-- A request on MCTP that the device answers takes its effect. -/
theorem mctpReq_of_responds {s : State} (h : responds s = true) (t : State) : mctpReq s t = .next t := if_pos h

/-- Settles O50: a device that responds runs the body of the request, and each body is one of the model's answers. -/
theorem managementSideband : Obligations.ManagementSideband := by
  intro s h
  have req := mctpReq_of_responds h
  refine ⟨req _, req _, fun half slot hi hs => ?_, ?_, fun k hk => ?_, fun v t e => ?_, fun c => ?_, fun a => req _,
    req _, fun n l e => ?_⟩
  · have hok : ¬ (!hasImage s 1 ∨ 64 ≤ slot) := by simp [hi, hs]
    simp only [exec_getRecord, execGetRecord, req, if_neg hok]
  · simp only [exec_resetReq, execResetReq, req, if_pos]
  · simp only [exec_resetReq, execResetReq, req, if_neg hk]
  · simp only [exec_mctpLeadForce, execMctpLeadForce, req, e]
  · exact ⟨_, req _, rfl, rfl⟩
  · simp only [exec_pldmRequest, execPldmRequest, req, e]

end Sys2Proof.Machine
end

section
/-!
PROOFS. The input stage (R447 to R450, R459).
-/

namespace Sys2Proof.Machine

/-- The power stage starts with more than 48 V and at most 62 V at the input. -/
theorem startVin_bounds (s : State) : 4800 < startVin s ∧ startVin s ≤ 6200 := by
  unfold startVin
  omega

/-- A sensor trips from its trip temperature on. -/
theorem trips_iff {n lim : Nat} (h : tripTemp n = some lim) (v : Nat) : trips ⟨n, v⟩ = true ↔ lim ≤ v := by
  simp [trips, h]

theorem execPowerStageStart_ready {s : State} (hon : s.pwr.on = false) (ht : s.pwr.thermTrip = false)
    (hv : s.pwr.ovStop = false) : execPowerStageStart s = .next ((drawn s).setPwr { s.pwr with
      on := true, vin := startVin s, hsOpen := false, vinLow := decide (startVin s < 5000) }) :=
  if_neg (by simp [hon, ht, hv])

/-- What the power stage's stop leaves: nothing is powered, the host's memory and the fuses stand. -/
theorem powerOff_state (s : State) : (powerOff s).pwr.on = false ∧ (powerOff s).pwr.pwrgd = false ∧
    (powerOff s).pwr.iin = 0 ∧ (powerOff s).mem = hostMem s.mem ∧ (powerOff s).fuse = s.fuse ∧
    (powerOff s).boot.acc = [] ∧ (powerOff s).dev.rstCount = 0 := ⟨rfl, rfl, rfl, rfl, rfl, rfl, rfl⟩

/-- While the power stage runs, each rail that is missing comes up at one step. -/
theorem railTick_on {s : State} (hon : s.pwr.on = true) (h : s.pwr.rails < 5) :
    (railTick s).pwr.rails = s.pwr.rails + 1 := by
  simp [railTick, hon, h, setPwrOn]

/-- While the power stage is stopped, each rail that is up goes at one step. -/
theorem railTick_off {s : State} (hon : s.pwr.on = false) (h : 0 < s.pwr.rails) :
    (railTick s).pwr.rails = s.pwr.rails - 1 := by
  simp [railTick, hon, Nat.pos_iff_ne_zero.1 h, setPwrOn]

theorem execPwrgdAssert_regulated {s : State} (hon : s.pwr.on = true) (hg : s.pwr.pwrgd = false)
    (h : 5 ≤ s.pwr.rails) :
    execPwrgdAssert s = .next (s.setPwr { s.pwr with pwrgd := true, holdOver := false }) :=
  if_neg (by simp [hon, hg, h])

theorem execPwrgdAssert_unregulated {s : State} (h : s.pwr.rails < 5) : execPwrgdAssert s = .next s :=
  if_pos (.inr (.inr h))

theorem execOvervoltage_above {s : State} {v : Nat} (h : 6200 < v) : execOvervoltage v s =
    .next (setPwrOn (if s.pwr.on then powerOff s else s) fun p => { p with vin := v, ovStop := true }) :=
  if_neg (Nat.not_le.2 h)

theorem execUndervoltage_input {s : State} {v : Nat} (h : v < 4500) : execUndervoltage (.input v) s =
    .next (setPwrOn (if s.pwr.on then powerOff s else s)
      fun p => { p with vin := v, ovStop := false, thermTrip := false }) :=
  if_neg (Nat.not_le.2 h)

theorem execUndervoltage_rail {s : State} {n : Nat} (hon : s.pwr.on = true) (h0 : 1 ≤ n) (h : n ≤ s.pwr.rails) :
    execUndervoltage (.rail n) s = .next (setPwrOn (powerOff s) fun p => { p with rails := n - 1 }) :=
  if_neg (by simp [hon]; omega)

theorem execOvercurrent_above {s : State} {v : Nat} (hon : s.pwr.on = true) (h : 13000 < v) :
    execOvercurrent v s = .next (setPwrOn (powerOff s) fun p => { p with hsOpen := true }) :=
  if_neg (by simp [hon, h])

theorem execThermalTrip_on {s : State} (hon : s.pwr.on = true) (x : Trip) :
    execThermalTrip x s = .next (if trips x then tripOff s else s) := by
  cases hx : trips x <;> simp [execThermalTrip, hon, hx]

theorem execOvervoltageRestart_below {s : State} {v : Nat} (hs : s.pwr.ovStop = true) (h : 4500 ≤ v) (h' : v < 6100) :
    execOvervoltageRestart v s = .next (s.setPwr { s.pwr with
      vin := v, ovStop := false, on := !s.pwr.thermTrip && !s.pwr.hsOpen, vinLow := decide (v < 5000) }) :=
  if_neg (by simp [hs]; omega)

theorem execInputLowEntry_inRange {s : State} {v : Nat} (hon : s.pwr.on = true) (h : 4500 ≤ v) (h' : v ≤ 6200) :
    let t := s.setPwr { s.pwr with vin := v, vinLow := decide (v < 5000) }
    execInputLowEntry v s = .next (if v < 5000 ∧ !s.pwr.vinLow then logSpine t { code := 0x0A03, data0 := bv 64 v } else t) :=
  if_neg (by simp [hon]; omega)

/-- Settles O51: each command of the input stage passes its guard, and its branch is the state named. -/
theorem inputStage : Obligations.InputStage := by
  intro s
  refine ⟨fun hon ht hv => ?start, fun hon hg => ⟨fun h => ?_, fun h => ⟨?_, ?_⟩⟩, fun v hon => ?running,
    fun v hon => ⟨fun h => ?_, fun h => ?_⟩, fun hon h => railTick_off hon h, fun v hs h h' => ?_,
    fun v hon h h' => ⟨fun hl => ?_, fun hl hn => ?_⟩⟩
  case start =>
    exact ⟨startVin s, (startVin_bounds s).1, (startVin_bounds s).2, execPowerStageStart_ready hon ht hv⟩
  case running =>
    obtain ⟨hoff, hgood, hi, hm, hf, hb, hc⟩ := powerOff_state s
    refine ⟨fun h => ?_, fun h => ?_, fun h0 h => execUndervoltage_rail hon h0 h,
      fun h => ⟨execOvercurrent_above hon h, hi⟩, fun n lim e => ⟨fun h => ?_, fun h => ?_⟩, hoff, hgood, hm, hf, hb, hc⟩
    · rw [exec_overvoltage, execOvervoltage_above h, if_pos hon, setPwrOn]
    · rw [exec_undervoltage, execUndervoltage_input h, if_pos hon, setPwrOn]
    · rw [exec_thermalTrip, execThermalTrip_on hon, if_pos ((trips_iff e v).2 h), tripOff, setPwrOn]
    · rw [exec_thermalTrip, execThermalTrip_on hon, if_neg (mt (trips_iff e v).1 (Nat.not_le.2 h))]
  · exact execPwrgdAssert_regulated hon hg h
  · exact execPwrgdAssert_unregulated h
  · exact railTick_on hon h
  · rw [exec_overvoltage, execOvervoltage_above h, if_neg (by simp [hon]), setPwrOn]
  · rw [exec_undervoltage, execUndervoltage_input h, if_neg (by simp [hon]), setPwrOn]
  · exact execOvervoltageRestart_below hs h h'
  · have hno : ¬ (v < 5000 ∧ (!s.pwr.vinLow) = true) := by
      rintro ⟨hv, hb⟩
      rcases hl with hl | hl
      · omega
      · simp [hl] at hb
    rw [exec_inputLowEntry, execInputLowEntry_inRange hon h h', if_neg hno]
  · rw [exec_inputLowEntry, execInputLowEntry_inRange hon h h', if_pos ⟨hl, by simp [hn]⟩]

end Sys2Proof.Machine
end

section
/-!
PROOFS. Host accesses of HBM, the interrupt registers, and writes of registers without a row of their own (R426,
R428 to R430, R432).
-/

namespace Sys2Proof.Tab

/-- What every entry of a store meets, and what an unlisted key reads as, holds of every value read. -/
theorem get_of_forall {β : Type} {d : Nat → β} {t : Tab β} {p : β → Prop} (hd : ∀ n, p (d n))
    (h : ∀ e ∈ t, p e.2) (n : Nat) : p (get d t n) := by
  induction t with
  | nil => exact hd n
  | cons e t ih =>
    rw [get]
    split
    · exact h e List.mem_cons_self
    · exact ih fun f hf => h f (List.mem_cons_of_mem e hf)

end Sys2Proof.Tab

namespace Sys2Proof.Machine

/-! ### Interrupts that IRQ_EN signals (R432) -/

/-- Without a pending source among them, no vector is signalled. -/
theorem signalPending_idle {s : State} {ns : List Nat} (h : ∀ n ∈ ns, bit s.dev.irqStat n = false) :
    signalPending s ns = s := by
  induction ns with
  | nil => rfl
  | cons n ns ih =>
    have hn : signalPending s [n] = s := by simp [signalPending, h n List.mem_cons_self]
    calc signalPending s (n :: ns) = signalPending (signalPending s [n]) ns := rfl
      _ = s := by rw [hn]; exact ih fun m hm => h m (List.mem_cons_of_mem n hm)

/-- One vector of a list changes its own count of signals alone. -/
theorem signalPending_one (s : State) (n : Nat) : ∃ m, signalPending s [n] = s.setDev { s.dev with msi := m } ∧
    (∀ k ≠ n, Tab.get (fun _ => 0) m k = Tab.get (fun _ => 0) s.dev.msi k) ∧
    (bit s.dev.irqStat n = true → bit s.dev.irqEn n = true → vecMasked s n = false → s.dev.linkUp = true →
      Tab.get (fun _ => 0) m n = Tab.get (fun _ => 0) s.dev.msi n + 1) := by
  simp only [signalPending, List.foldl_cons, List.foldl_nil]
  split
  · unfold msiSignal
    split
    · exact ⟨_, rfl, fun k hk => Tab.get_put_ne _ _ _ _ _ hk, fun _ _ _ _ => Tab.get_put_self _ _ _ _⟩
    · next hl => exact ⟨s.dev.msi, rfl, fun _ _ => rfl, fun _ _ _ h => absurd h hl⟩
  · next hp => exact ⟨s.dev.msi, rfl, fun _ _ => rfl, fun h1 h2 h3 _ => absurd (by simp [h1, h2, h3]) hp⟩

/-- Vectors of a list without repetition that are pending, enabled and not masked are signalled once. -/
theorem signalPending_counts {ns : List Nat} (hd : ns.Nodup) :
    ∀ s : State, ∃ m, signalPending s ns = s.setDev { s.dev with msi := m } ∧
      (∀ k ∉ ns, Tab.get (fun _ => 0) m k = Tab.get (fun _ => 0) s.dev.msi k) ∧
      (∀ n ∈ ns, bit s.dev.irqStat n = true → bit s.dev.irqEn n = true → vecMasked s n = false → s.dev.linkUp = true →
        Tab.get (fun _ => 0) m n = Tab.get (fun _ => 0) s.dev.msi n + 1) := by
  induction ns with
  | nil => intro s; exact ⟨s.dev.msi, rfl, fun _ _ => rfl, fun n hn => absurd hn List.not_mem_nil⟩
  | cons a ns ih =>
    intro s
    obtain ⟨ha, hd⟩ := List.nodup_cons.1 hd
    obtain ⟨m1, e1, hother, hself⟩ := signalPending_one s a
    obtain ⟨m2, e2, hout, hin⟩ := ih hd (signalPending s [a])
    rw [e1] at e2 hout hin
    refine ⟨m2, ?_, fun k hk => ?_, fun n hn hs he hv hl => ?_⟩
    · exact (congrArg (signalPending · ns) e1).trans e2
    · rw [List.mem_cons, not_or] at hk
      exact (hout k hk.2).trans (hother k hk.1)
    · rcases List.mem_cons.1 hn with rfl | hn
      · exact (hout n ha).trans (hself hs he hv hl)
      · have hne : n ≠ a := fun e => ha (e ▸ hn)
        exact (hin n hn hs he hv hl).trans (congrArg (· + 1) (hother n hne))

theorem execIrqEn_enables {s : State} (h : regsOn s = true) (v : B32) : execIrqEn v s =
    .next (signalPending (s.setDev { s.dev with irqEn := v.extractLsb' 0 16 })
      ((List.range 16).filter fun n => bit v n && !bit s.dev.irqEn n)) := if_neg (by simp [h])

/-- With no source of the vectors written that is pending, IRQ_EN holds the word. -/
theorem execIrqEn_idle {s : State} (h : regsOn s = true) {v : B32}
    (hidle : ((List.range 16).all fun n => !(bit v n && bit s.dev.irqStat n)) = true) :
    execIrqEn v s = .next (s.setDev { s.dev with irqEn := v.extractLsb' 0 16 }) := by
  rw [execIrqEn_enables h, signalPending_idle fun n hn => ?_]
  obtain ⟨hn, hnew⟩ := List.mem_filter.1 hn
  have hv : bit v n = true := by simp_all
  have hs := List.all_eq_true.1 hidle n hn
  simpa [hv] using hs

/-- A vector enabled while its source is pending is signalled once. -/
theorem execIrqEn_signals {s : State} (h : regsOn s = true) {v : B32} {n : Nat} (hn : n < 16) (hv : bit v n = true)
    (he : bit s.dev.irqEn n = false) (hs : bit s.dev.irqStat n = true) (hm : vecMasked s n = false)
    (hl : s.dev.linkUp = true) : ∃ t, execIrqEn v s = .next t ∧ t.dev.irqEn = v.extractLsb' 0 16 ∧
      Tab.get (fun _ => 0) t.dev.msi n = Tab.get (fun _ => 0) s.dev.msi n + 1 := by
  rw [execIrqEn_enables h]
  generalize hns : (List.range 16).filter (fun n => bit v n && !bit s.dev.irqEn n) = ns
  have hd : ns.Nodup := hns ▸ List.nodup_range.filter _
  have hin : n ∈ ns := hns ▸ List.mem_filter.2 ⟨List.mem_range.2 hn, by simp [hv, he]⟩
  have hen : bit (v.extractLsb' 0 16) n = true := by
    simp only [bit, BitVec.getLsbD_extractLsb', hn, Nat.zero_add, decide_true, Bool.true_and]
    exact hv
  obtain ⟨m, e, -, hcount⟩ := signalPending_counts hd (s.setDev { s.dev with irqEn := v.extractLsb' 0 16 })
  exact ⟨_, rfl, by rw [e]; rfl, by rw [e]; exact hcount n hin hs hen hm hl⟩

/-! ### A host's write of a plain register (R429, R430) -/

theorem writable_of_regsOn {s : State} (h : regsOn s = true) (o : Nat) : writable s o = true := by simp [writable, h]

/-- The low words of 64-bit registers stand at multiples of 8. -/
theorem wideLow_aligned {o : Nat} (h : wideLow o = true) : o % 8 = 0 := by
  simp only [wideLow, chvLow, Bool.or_eq_true, Bool.and_eq_true, List.contains_iff_mem, List.mem_cons,
    List.not_mem_nil, or_false] at h
  omega

/-- A 64-bit word is its two halves. -/
theorem halves_append (v : B64) : v.extractLsb' 32 32 ++ v.extractLsb' 0 32 = v := by
  have h := rd64_wr64 State.reset 0 v
  rw [rd64, wr64, rd32_wr32, rd32_wr32_ne _ _ _ _ (by decide), rd32_wr32] at h
  exact h

/-- The low half that waits is the one that goes with the high half. -/
theorem lowFor_putLow (s : State) (o : Nat) (v : B32) : lowFor (putLow s o v) o = v := by
  have hset : rd32 (putLow s o v) (lowKey o + 4) = 1 := rd32_wr32 _ _ _
  have hlow : rd32 (putLow s o v) (lowKey o) = v := by
    rw [putLow, rd32_wr32_ne _ _ _ _ (by omega), rd32_wr32]
  rw [lowFor, if_pos hset, hlow]

/-- A 32-bit write of a plain register, once the registers decode. -/
theorem plainRegisterWrite_word {s : State} (hregs : regsOn s = true) {o : Nat} {v x : B32} (ho : o % 4 = 0)
    (hw : wideLow o = false) (hw' : wideLow (o - 4) = false) (hx : plain32 o v = some x) :
    execPlainRegisterWrite o 4 (v.setWidth 64) s = .next (refreshRdy (wrote s (wr32 s o x) o)) := by
  have hword : wordWrite o v s = .next (wrote s (wr32 s o x) o) := by
    simp [wordWrite, plainWord, hw, hw', hx, writable_of_regsOn hregs]
  simp [execPlainRegisterWrite, ho, extractLsb'_setWidth_64, hword, andThen]

/-- An 8-byte write: its low word, then its high word. -/
theorem plainRegisterWrite_two {s t : State} {o : Nat} {v : B64} (ho : o % 8 = 0)
    (hlow : wordWrite o (v.extractLsb' 0 32) s = .next t) :
    execPlainRegisterWrite o 8 v s = andThen (wordWrite (o + 4) (v.extractLsb' 32 32) t) fun u => .next (refreshRdy u) := by
  simp [execPlainRegisterWrite, ho, hlow, andThen]

/-- A completed write below the mailbox does nothing more, but for TIME_SET and LEND_CTRL. -/
theorem wrote_eq_self {s t : State} {o : Nat} (h1 : o ≠ 0x17028) (h2 : o ≠ 0x14064) (h3 : o < 0x30000) :
    wrote s t o = t := by
  rw [wrote, if_neg h1, if_neg h2, if_neg (by omega)]

/-- With lending off, no cluster lends. -/
theorem getClu_lendersNow {s : State} (h : bit (rd32 s 0x14064) 8 = false) (n : Nat) :
    (getClu (lendersNow s) n).lending = false := by
  refine Tab.get_of_forall (p := fun c : Clu => c.lending = false) (fun _ => rfl) (fun e he => ?_) n
  obtain ⟨f, -, hf⟩ := List.mem_filterMap.1 he
  have hmay : mayLendNow s f.1 = false := by simp [mayLendNow, h]
  obtain ⟨-, he⟩ := Option.ite_none_left_eq_some.1 hf
  rw [← Option.some.inj he]
  cases hl : f.2.lending <;> simp [hl, hmay]

/-! ### Accesses of the host within HBM (R426, R428) -/

theorem execHdmAccess_inside {s : State} {a : HostAcc} (h1 : a.off + a.len ≤ hdmSize)
    (h2 : a.off + a.data.length ≤ hdmSize) : execHdmAccess a s =
      .next (hostHolds (hostAccess s a.off a) a.off (if a.wr then a.data.length else a.len)) :=
  if_neg (not_or.2 ⟨Nat.not_lt.2 h1, Nat.not_lt.2 h2⟩)

theorem execBar2Access_inside {s : State} {a : HostAcc} (h1 : a.off + a.len ≤ 2 ^ 36)
    (h2 : a.off + a.data.length ≤ 2 ^ 36) : execBar2Access a s = .next (hostAccess s (bar2Off s a.off) a) :=
  if_neg (not_or.2 ⟨Nat.not_lt.2 h1, Nat.not_lt.2 h2⟩)

theorem hostAccess_write {s : State} {a : HostAcc} (hf : framesOn s = true) (hw : a.wr = true) (off : Nat) :
    hostAccess s off a = hostWrite s off a.data := by
  rw [hostAccess, if_neg (by simp [hf]), if_pos hw]

theorem hostAccess_read {s : State} {a : HostAcc} (hf : framesOn s = true) (hw : a.wr = false) (off : Nat) :
    hostAccess s off a = hostRead s off a.len := by
  rw [hostAccess, if_neg (by simp [hf]), if_neg (by simp [hw])]

/-! ### What a write of a plain register leaves -/

/-- LEND_CTRL written with its bit 8 clear: the register holds the word, and no cluster lends from then on. -/
theorem plainRegisterWrite_lendOff {s : State} (hregs : regsOn s = true) {v x : B32} (hx : plain32 0x14064 v = some x)
    (hv : bit v 8 = false) : ∃ t, execPlainRegisterWrite 0x14064 4 (v.setWidth 64) s = .next t ∧
      rd32 t 0x14064 = x ∧ ∀ n, (getClu t n).lending = false := by
  have hlend : plain32 0x14064 v = if bits v 7 0 = 0 then none else some (v &&& 0x1FF) := rfl
  have hx' : x = v &&& 0x1FF := (Option.some.inj (Option.ite_none_left_eq_some.1 (hlend.symm.trans hx)).2).symm
  have hword : rd32 (wr32 s 0x14064 x) 0x14064 = x := rd32_wr32 _ _ _
  have hoff : bit (rd32 (wr32 s 0x14064 x) 0x14064) 8 = false := by
    rw [hword, hx', bit, BitVec.getLsbD_and, show v.getLsbD 8 = false from hv, Bool.false_and]
  have hwrote : wrote s (wr32 s 0x14064 x) 0x14064 = lendersNow (wr32 s 0x14064 x) := rfl
  refine ⟨_, plainRegisterWrite_word hregs (by decide) (by decide) (by decide) hx, ?_, fun n => ?_⟩
  · rw [hwrote, rd32, refreshRdy_regs]
    exact hword
  · rw [hwrote, getClu, refreshRdy_clu]
    exact getClu_lendersNow hoff n

/-- A low half that waits, and then waits no more, changes the words alone. -/
theorem halves_only (s : State) (o : Nat) (v : B32) : ∃ r, dropLow (putLow s o v) o = s.setRegs r := by
  obtain ⟨r1, h1⟩ := wr32_only s (lowKey o) v
  obtain ⟨r2, h2⟩ := wr32_only (s.setRegs r1) (lowKey o + 4) 1
  obtain ⟨r3, h3⟩ := wr64_only ((s.setRegs r1).setRegs r2) (lowKey o) 0
  exact ⟨r3, by rw [dropLow, putLow, h1, h2, h3]; rfl⟩

/-- What an 8-byte write of a command register decodes as: two halves of a 64-bit register with a row of its own. -/
structure WideRow (o : Nat) : Prop where
  aligned : o % 8 = 0
  row : wideCmd o = true
  low : wideLow o = false
  below : wideLow (o - 4) = false
  above : wideLow (o + 4) = false
  plain : ∀ v, plain32 o v = none
  plainHigh : ∀ v, plain32 (o + 4) v = none
  high : wideCmd (o + 4) = false

/-- Every command register but HKEY_CMD is 64 bits wide. -/
theorem wideRow_of_cmdReg {o : Nat} {r : Blk × Bool × Nat} (h : cmdReg o = some r) (ho : o ≠ 0x1C070) : WideRow o := by
  unfold cmdReg at h
  split at h
  case h_9 => exact absurd rfl ho
  case h_10 => cases h
  all_goals exact ⟨by decide, by decide, by decide, by decide, by decide, fun _ => rfl, fun _ => rfl, by decide⟩

/-- A command register that spells no command, while its block is busy, reports result 5 (R430). -/
theorem commandWrite_busy {s : State} {o : Nat} {v : B64} {b : Blk} {ka : Bool} {n : Nat} (hregs : regsOn s = true)
    (ho : cmdReg o = some (b, ka, n)) (hnone : registerCommand o v = none) (hbusy : (getBlk s b).busy = true) :
    commandWrite o v s = .next (report b 5 s) := by
  simp [commandWrite, hnone, reservedOp, ho, blockCmd, hregs, hbusy]

/-- An 8-byte write of a 64-bit command register is the command of its whole word. -/
theorem plainRegisterWrite_wideRow {s : State} (hregs : regsOn s = true) {o : Nat} (hrow : WideRow o) (v : B64) :
    execPlainRegisterWrite o 8 v s = andThen (commandWrite o v (dropLow (putLow s o (v.extractLsb' 0 32)) o))
      fun u => .next (refreshRdy u) := by
  have hlow : wordWrite o (v.extractLsb' 0 32) s = .next (putLow s o (v.extractLsb' 0 32)) := by
    simp [wordWrite, hrow.low, hrow.below, hrow.plain, hrow.row, hregs]
  rw [plainRegisterWrite_two hrow.aligned hlow]
  generalize hlo : v.extractLsb' 0 32 = lo
  have hhigh : wordWrite (o + 4) (v.extractLsb' 32 32) (putLow s o lo) = commandWrite o v (dropLow (putLow s o lo) o) := by
    have hv : v.extractLsb' 32 32 ++ lo = v := hlo ▸ halves_append v
    simp [wordWrite, hrow.above, hrow.low, hrow.plainHigh, hrow.high, hrow.row, lowFor_putLow, hv]
  rw [hhigh]

/-- A malformed command for a busy block leaves it busy, with result 5. -/
theorem plainRegisterWrite_busy {s : State} (hregs : regsOn s = true) {o : Nat} {v : B64} {b : Blk} {ka : Bool} {n : Nat}
    (ho : cmdReg o = some (b, ka, n)) (hne : o ≠ 0x1C070) (hnone : registerCommand o v = none)
    (hbusy : (getBlk s b).busy = true) : ∃ t, execPlainRegisterWrite o 8 v s = .next t ∧ (getBlk t b).busy = true ∧
      (getBlk t b).result = 5 ∧ t.mem = s.mem := by
  rw [plainRegisterWrite_wideRow hregs (wideRow_of_cmdReg ho hne)]
  obtain ⟨r, hd⟩ := halves_only s o (v.extractLsb' 0 32)
  generalize dropLow (putLow s o (v.extractLsb' 0 32)) o = d at hd
  have hmem : d.mem = s.mem := by rw [hd]; rfl
  have hblk : getBlk d b = getBlk s b := by rw [hd]; rfl
  have hon : regsOn d = true := by rw [hd]; exact hregs
  rw [commandWrite_busy hon ho hnone (hblk ▸ hbusy)]
  have hb : getBlk (refreshRdy (report b 5 d)) b = { getBlk s b with result := 5 } := by
    rw [getBlk, refreshRdy_blk, ← getBlk, report, getBlk_setBlk, hblk]
  exact ⟨_, rfl, by rw [hb]; exact hbusy, by rw [hb], (refreshRdy_mem _).trans hmem⟩

/-- An 8-byte write of a 64-bit register without a row of its own: the register holds the bits that are not reserved. -/
theorem plainRegisterWrite_wide {s : State} (hregs : regsOn s = true) {o : Nat} (v : B64) (ho : o % 8 = 0)
    (hw : wideLow o = true) (hset : o = 0x17028 → timeSettable s = true) :
    ∃ t, execPlainRegisterWrite o 8 v s = .next t ∧ rd64 t o = v &&& wideMask o ∧ t.mem = s.mem := by
  have hlow : wordWrite o (v.extractLsb' 0 32) s = .next (putLow s o (v.extractLsb' 0 32)) := by
    simp [wordWrite, plainWord, hw, writable_of_regsOn hregs]
  rw [plainRegisterWrite_two ho hlow]
  generalize hlo : v.extractLsb' 0 32 = lo
  have hv : v.extractLsb' 32 32 ++ lo = v := hlo ▸ halves_append v
  have hw4 : wideLow (o + 4) = false := by
    refine Bool.eq_false_iff.2 fun h => ?_
    have := wideLow_aligned h
    omega
  have hsettable : ¬ (o = 0x17028 ∧ (!timeSettable (putLow s o lo)) = true) := by
    rintro ⟨rfl, hn⟩
    have hctrl : timeCtrl (putLow s 0x17028 lo) = timeCtrl s := by
      rw [timeCtrl, putLow, rd32_wr32_ne _ _ _ _ (by decide), rd32_wr32_ne _ _ _ _ (by decide), ← timeCtrl]
    have hsame : timeSettable (putLow s 0x17028 lo) = timeSettable s := by
      rw [timeSettable, isRoot, hctrl]
      rfl
    rw [hsame, hset rfl] at hn
    cases hn
  obtain ⟨r, hr⟩ := halves_only s o lo
  generalize hd : dropLow (putLow s o lo) o = d at hr
  have hmem : d.mem = s.mem := by rw [hr]; rfl
  have hhigh : wordWrite (o + 4) (v.extractLsb' 32 32) (putLow s o lo) =
      .next (wrote (putLow s o lo) (wr64 d o (v &&& wideMask o)) o) := by
    have hon : writable (putLow s o lo) (o + 4) = true := writable_of_regsOn hregs _
    simp only [wordWrite, hw4, Nat.add_sub_cancel, hw, Bool.or_true, Bool.true_or, if_pos, hon, plainWord,
      Bool.false_eq_true, if_neg, not_false_eq_true, hsettable, lowFor_putLow, hv, hd]
  have hwrote : (wrote (putLow s o lo) (wr64 d o (v &&& wideMask o)) o).regs = (wr64 d o (v &&& wideMask o)).regs ∧
      (wrote (putLow s o lo) (wr64 d o (v &&& wideMask o)) o).mem = d.mem := by
    by_cases h1 : o = 0x17028
    · rw [wrote, if_pos h1]
      exact ⟨rfl, rfl⟩
    · have h2 : o ≠ 0x14064 := by rintro rfl; cases hw
      have h3 : ¬ (0x30000 ≤ o ∧ o < 0x30100 ∧ o % 16 = 12) := by omega
      rw [wrote, if_neg h1, if_neg h2, if_neg h3]
      exact ⟨rfl, rfl⟩
  obtain ⟨hr, hm⟩ := hwrote
  refine ⟨_, by rw [hhigh, andThen], ?_, (refreshRdy_mem _).trans (hm.trans hmem)⟩
  rw [rd64, rd32, rd32, refreshRdy_regs, hr, ← rd32, ← rd32, ← rd64, rd64_wr64]

/-- Settles O49: accesses within the window run, the interrupt registers hold what they are written, and a plain
register takes its word with what it sets off. -/
theorem hostAccesses : Obligations.HostAccesses := by
  intro s
  refine ⟨fun a hw hf => ⟨fun h1 h2 => ?_, fun h1 h2 => ?_⟩, fun a hw hf => ⟨fun h1 h2 => ?_, fun h1 h2 => ?_⟩,
    fun hregs => ⟨fun v hv => ?_, fun v => ?_, fun v => execIrqEn_idle hregs,
      fun v n hn hv he hs hm hl => execIrqEn_signals hregs hn hv he hs hm hl,
      fun o v x ho hlt hw hw' hx => ⟨fun hne => ?plain, ?lend⟩,
      fun o b ka n v ho hne hnone hbusy => plainRegisterWrite_busy hregs ho hne (Option.isNone_iff_eq_none.1 hnone) hbusy,
      fun o v ho hw hset => plainRegisterWrite_wide hregs v ho hw hset⟩⟩
  case plain =>
    have hne' : o ≠ 0x17028 := by rintro rfl; cases hw
    exact (plainRegisterWrite_word hregs ho hw hw' hx).trans (by rw [wrote_eq_self hne' hne hlt])
  case lend =>
    rintro rfl hv
    exact plainRegisterWrite_lendOff hregs hx hv
  · rw [exec_hdmAccess, execHdmAccess_inside h1 h2, if_pos hw, hostAccess_write hf hw]
  · rw [exec_bar2Access, execBar2Access_inside h1 h2, hostAccess_write hf hw, bar2Off]
  · rw [exec_hdmAccess, execHdmAccess_inside h1 h2, if_neg (by simp [hw]), hostAccess_read hf hw]
  · rw [exec_bar2Access, execBar2Access_inside h1 h2, hostAccess_read hf hw, bar2Off]
  · rw [exec_bar2Sel, execBar2Sel, if_neg (by simp [hregs, hv]), setDevOn]
  · rw [exec_irqStat, execIrqStat, if_neg (by simp [hregs]), setDevOn]

end Sys2Proof.Machine
end

section
/-!
PROOFS. Resets (R11, R441 to R443, R450) and the CXL link (R424, R425, R433).
-/

namespace Sys2Proof.Machine

/-! ### A function-level or hot reset (R443) -/

/-- A reset of the function for which nothing outstanding is waited: it takes its effect at once. -/
theorem flrStart_settled {s : State} (hdma : s.dma.xfers = []) (hsnap : s.led.snaps = []) (hwait : s.dev.flrWait = none)
    (kind : Nat) : flrStart s kind = flr s kind := by
  have hself : ∀ w, (s.setDev { s.dev with flrWait := w }).setDev { s.dev with flrWait := none } = s := fun w => by
    rw [State.setDev_setDev, ← hwait]
    rfl
  have hw : flrStart s kind = flrSettle (s.setDev { s.dev with flrWait := some { kind := kind, dma := [], snap := none } }) := by
    simp [flrStart, hdma, hsnap]
  have hidle : ¬ flrBusy (s.setDev { s.dev with flrWait := some { kind := kind, dma := [], snap := none } })
      { kind := kind, dma := [], snap := none } = true := by
    simp [flrBusy]
  rw [hw, flrSettle]
  exact (if_neg hidle).trans (congrArg (flr · kind) (hself _))

/-- A reset of the function while a snapshot's write is issued waits for it. -/
theorem flrStart_waits {s : State} (hi : snapIssued s = true) {x : Snap} {l : List Snap} (hl : s.led.snaps = x :: l)
    (kind : Nat) : ∃ w : FlrWait, flrStart s kind = s.setDev { s.dev with flrWait := some w } ∧ w.kind = kind := by
  generalize hd : (s.dma.xfers.filter fun v => let d := parseDma v.desc
    d.dstMem && dmaHost s v { d with srcMem := false }).map (·.n) = dma
  have hw : flrStart s kind = flrSettle (s.setDev { s.dev with flrWait := some { kind := kind, dma := dma, snap := some x.seq } }) := by
    simp [flrStart, hi, hl, ← hd]
  have hbusy : flrBusy (s.setDev { s.dev with flrWait := some { kind := kind, dma := dma, snap := some x.seq } })
      { kind := kind, dma := dma, snap := some x.seq } = true := by
    simp [flrBusy, hl]
  exact ⟨_, hw.trans (if_pos hbusy), rfl⟩

theorem rd32_resetConfig (s : State) {o : Nat} (h : o < 0x30000) : rd32 (resetConfig s) o = rd32 s o :=
  (Tab.get_clear _ _ _ _ _).trans (if_pos (.inl h))

/-- CQR_BASE reads 0 once the two words are written 0, and a reset of the configuration leaves them. -/
theorem cqBase_resetConfig_wr64 (s : State) : cqBase (resetConfig (wr64 s 0x1C0A0 0)) = 0 := by
  rw [cqBase, rd64, rd32_resetConfig _ (by decide), rd32_resetConfig _ (by decide), ← rd64, rd64_wr64]
  rfl

theorem cqBase_setDev (s : State) (d : Dev) : cqBase (s.setDev d) = cqBase s := rfl

theorem resetConfig_only (s : State) : ∃ r, resetConfig s = (s.setDev { s.dev with irqEn := 0, bar2Sel := 0 }).setRegs r :=
  ⟨_, rfl⟩

/-- The state that a reset of the function leaves from `t`, in which the queues are halted: `r` its registers' words. -/
def flrFrom (t : State) (kind : Nat) (r : Tab B32) : State :=
  ((t.setLed { t.led with base := 0 }).setRegs r).setDev
    { t.dev with irqEn := 0, bar2Sel := 0, rstStat := bv 32 (kind * 2 ^ 28 + kaBefore t) }

/-- Steps 2 and 3 of R443: the queues are halted, the bases and the configuration go, and a record says so. -/
theorem calm_flr (s : State) (kind : Nat) : ∃ u t r, calm t = (calm s).setQue u ∧ cqBase (flrFrom t kind r) = 0 ∧
    calm (flr s kind) = calm (flrFrom t kind r) := by
  unfold flr
  extract_lets t _ c d
  obtain ⟨u, hu⟩ := calm_haltQueues 7 false 0 (s.que.tab.map (·.1)) s
  have hcq : cqBase d = 0 := cqBase_resetConfig_wr64 _
  obtain ⟨r1, h1⟩ := wr64_only (t.setLed { t.led with base := 0 }) 0x1C0A0 0
  obtain ⟨r, h2⟩ := resetConfig_only c
  have hd : d = ((t.setLed { t.led with base := 0 }).setRegs r).setDev { t.dev with irqEn := 0, bar2Sel := 0 } :=
    h2.trans (by rw [show c = _ from h1]; rfl)
  have hrst : rstWord kind 0 d = bv 32 (kind * 2 ^ 28 + kaBefore t) := by
    have hka : kaBefore d = kaBefore t := by rw [hd]; rfl
    rw [rstWord, hka, Nat.zero_mul, Nat.add_zero]
  have hfrom : d.setDev { d.dev with rstStat := rstWord kind 0 d } = flrFrom t kind r := by rw [hrst, hd]; rfl
  refine ⟨u, t, r, hu, ?_, ?_⟩
  · rw [← hfrom, cqBase_setDev, hcq]
  · rw [calm_logSpine, hfrom]

/-- What a function-level or hot reset keeps and loses (R443). -/
theorem flr_leaves (s : State) (kind : Nat) : let t := flr s kind
    t.led.base = 0 ∧ cqBase t = 0 ∧ t.dev.irqEn = 0 ∧ t.dev.bar2Sel = 0 ∧ t.mem = s.mem ∧ t.syn = s.syn ∧
      t.slot = s.slot ∧ t.dev.rstStat = bv 32 (kind * 2 ^ 28 + kaBefore s) := by
  obtain ⟨u, t, r, ht, hcq, h⟩ := calm_flr s kind
  have keeps {α : Type} (f : State → α) (hf : ∀ s, f (calm s) = f s) (hq : ∀ s u, f (State.setQue s u) = f s) : f t = f s := by
    rw [← hf t, ht, hq, hf]
  have hka : kaBefore t = kaBefore s := keeps kaBefore (fun _ => rfl) fun _ _ => rfl
  exact ⟨of_calm h (·.led.base) (fun _ => rfl) rfl, of_calm h cqBase (fun _ => rfl) hcq,
    of_calm h (·.dev.irqEn) (fun _ => rfl) rfl, of_calm h (·.dev.bar2Sel) (fun _ => rfl) rfl,
    of_calm h State.mem (fun _ => rfl) (keeps State.mem (fun _ => rfl) fun _ _ => rfl),
    of_calm h State.syn (fun _ => rfl) (keeps State.syn (fun _ => rfl) fun _ _ => rfl),
    of_calm h State.slot (fun _ => rfl) (keeps State.slot (fun _ => rfl) fun _ _ => rfl),
    of_calm h (·.dev.rstStat) (fun _ => rfl) (hka ▸ rfl)⟩

/-! ### A device reset (R441) -/

theorem useDrbg_only (s : State) (h : Half) : ∃ y, useDrbg s h = s.setSec y := ⟨_, rfl⟩
theorem drawn_only (s : State) : ∃ n, drawn s = s.setFree n := ⟨_, rfl⟩
theorem reseedMask_only (s : State) (h : Half) : ∃ y n, reseedMask s h = (s.setSec y).setFree n := by
  obtain ⟨y, hy⟩ := useDrbg_only ((s.setSec { s.sec with
    mask := s.sec.mask.set h 0, seed := s.sec.seed.set h (rand256 s) }).setFree (s.free + 4)) h
  exact ⟨y, _, hy.trans rfl⟩

/-- Bring-up starts the clocks, the generators and the boot chain; a record aside, the rest stands. -/
theorem calm_bringUp (s : State) : ∃ x y z n b, calm (bringUp s) = calm (((((s.setTime x).setSec y).setLed z).setFree n).setBoot
    { s.boot with opened := true, next := 1, fuseSplit := b }) := by
  unfold bringUp
  extract_lets _ s1 _ s2 _ s3 s4
  obtain ⟨z, hz⟩ : ∃ z, z = { s2.led with boot := freeVal s2 } := ⟨_, rfl⟩
  obtain ⟨n1, h1⟩ := drawn_only (s2.setLed z)
  obtain ⟨y1, h2⟩ := useDrbg_only (drawn (s2.setLed { s2.led with boot := freeVal s2 })) (vaultHalf s2)
  obtain ⟨y2, n2, h3⟩ := reseedMask_only s3 .west
  obtain ⟨y3, n3, h4⟩ := reseedMask_only (reseedMask s3 .west) .east
  have hs3 : s3 = (drawn (s2.setLed z)).setSec y1 := hz ▸ h2
  have hs4 : s4 = (((s.setTime s1.time).setSec y3).setLed z).setFree n3 := by
    rw [show s4 = _ from h4, h3, hs3, h1]
    rfl
  refine ⟨s1.time, y3, z, n3, !fusesAgree s4, ?_⟩
  rw [calm_refreshRdy]
  generalize (!fusesAgree s4) = b
  rw [hs4]
  rfl

/-- Bring-up leaves alone what reads neither the clocks, the generators, the ledger, the boot chain, the rings nor the
interrupts. -/
theorem bringUp_reads {α : Type} (f : State → α) (hf : ∀ s, f (calm s) = f s)
    (hs : ∀ s x y z n b, f (((((State.setTime s x).setSec y).setLed z).setFree n).setBoot b) = f s) (s : State) :
    f (bringUp s) = f s := by
  obtain ⟨x, y, z, n, b, h⟩ := calm_bringUp s
  exact of_calm h f hf (hs _ _ _ _ _ _)

theorem bringUp_mem (s : State) : (bringUp s).mem = s.mem :=
  bringUp_reads (·.mem) (fun _ => rfl) (fun _ _ _ _ _ _ => rfl) s
theorem bringUp_fuse (s : State) : (bringUp s).fuse = s.fuse :=
  bringUp_reads (·.fuse) (fun _ => rfl) (fun _ _ _ _ _ _ => rfl) s
theorem bringUp_que (s : State) : (bringUp s).que = s.que :=
  bringUp_reads (·.que) (fun _ => rfl) (fun _ _ _ _ _ _ => rfl) s
theorem bringUp_ctx (s : State) : (bringUp s).ctx = s.ctx :=
  bringUp_reads (·.ctx) (fun _ => rfl) (fun _ _ _ _ _ _ => rfl) s
theorem bringUp_opened (s : State) : (bringUp s).boot.opened = true := by
  obtain ⟨x, y, z, n, b, h⟩ := calm_bringUp s
  exact of_calm h (·.boot.opened) (fun _ => rfl) rfl
theorem bringUp_kept (s : State) : (bringUp s).boot.kept = s.boot.kept := by
  obtain ⟨x, y, z, n, b, h⟩ := calm_bringUp s
  exact of_calm h (·.boot.kept) (fun _ => rfl) rfl
theorem bringUp_rstCount (s : State) : (bringUp s).dev.rstCount = s.dev.rstCount :=
  bringUp_reads (·.dev.rstCount) (fun _ => rfl) (fun _ _ _ _ _ _ => rfl) s
theorem bringUp_linkUp (s : State) : (bringUp s).dev.linkUp = s.dev.linkUp :=
  bringUp_reads (·.dev.linkUp) (fun _ => rfl) (fun _ _ _ _ _ _ => rfl) s
theorem bringUp_fuseE (s : State) : (bringUp s).fuseE = s.fuseE :=
  bringUp_reads (·.fuseE) (fun _ => rfl) (fun _ _ _ _ _ _ => rfl) s
theorem bringUp_rstPrev (s : State) : (bringUp s).dev.rstPrev = s.dev.rstPrev :=
  bringUp_reads (·.dev.rstPrev) (fun _ => rfl) (fun _ _ _ _ _ _ => rfl) s
theorem bringUp_rstStat (s : State) : (bringUp s).dev.rstStat = s.dev.rstStat :=
  bringUp_reads (·.dev.rstStat) (fun _ => rfl) (fun _ _ _ _ _ _ => rfl) s
theorem bringUp_pending (s : State) : (bringUp s).pending = s.pending :=
  bringUp_reads (·.pending) (fun _ => rfl) (fun _ _ _ _ _ _ => rfl) s

/-- What every device start keeps and loses (R441). -/
theorem clearState_leaves (s : State) : (clearState s).mem = hostMem s.mem ∧ (clearState s).fuse = s.fuse ∧
    (clearState s).que = State.reset.que ∧ (clearState s).ctx = [] ∧ (clearState s).boot.acc = [] ∧
    (clearState s).dev.linkUp = false ∧ (clearState s).fuseE = s.fuseE ∧ (clearState s).pending = s.pending :=
  ⟨rfl, rfl, rfl, rfl, rfl, rfl, rfl, rfl⟩

/-- A cleared state with what the reset registers and the boot chain keep of the state before. -/
def restarted (c : State) (word : B32) (count : Nat) (prev : Option Rec) (kept : Bool) : State :=
  (c.setDev { c.dev with rstStat := word, rstCount := count, rstPrev := prev }).setBoot { c.boot with kept := kept }

theorem deviceReset_eq (s : State) (src : Nat) : deviceReset s src = bringUp (restarted (clearState s) (rstWord 2 src s)
    (sat32 (s.dev.rstCount + 1)) (s.err.lastFatal.or s.dev.rstPrev) s.boot.trained) := rfl

section
variable (c : State) (word : B32) (count : Nat) (prev : Option Rec) (kept : Bool)

/-- What the reset registers and the boot chain keep (R441). -/
theorem restarted_registers : (restarted c word count prev kept).boot.kept = kept ∧
    (restarted c word count prev kept).dev.rstCount = count ∧ (restarted c word count prev kept).dev.rstPrev = prev ∧
    (restarted c word count prev kept).dev.rstStat = word := ⟨rfl, rfl, rfl, rfl⟩

theorem restarted_rest : (restarted c word count prev kept).mem = c.mem ∧ (restarted c word count prev kept).fuse = c.fuse ∧
    (restarted c word count prev kept).que = c.que ∧ (restarted c word count prev kept).ctx = c.ctx ∧
    (restarted c word count prev kept).boot.acc = c.boot.acc ∧
    (restarted c word count prev kept).dev.linkUp = c.dev.linkUp ∧
    (restarted c word count prev kept).fuseE = c.fuseE ∧ (restarted c word count prev kept).pending = c.pending :=
  ⟨rfl, rfl, rfl, rfl, rfl, rfl, rfl, rfl⟩

end

/-- What a device reset keeps and loses (R441). -/
theorem deviceReset_leaves (s : State) (src : Nat) : let t := deviceReset s src
    t.mem = hostMem s.mem ∧ t.fuse = s.fuse ∧ t.que = State.reset.que ∧ t.ctx = [] ∧ t.boot.opened = true ∧
      t.boot.acc = [] ∧ t.boot.kept = s.boot.trained ∧ t.dev.rstCount = sat32 (s.dev.rstCount + 1) ∧
      t.dev.linkUp = false ∧ t.fuseE = s.fuseE ∧ t.dev.rstPrev = s.err.lastFatal.or s.dev.rstPrev ∧
      t.dev.rstStat = rstWord 2 src s ∧ t.pending = s.pending := by
  rw [deviceReset_eq]
  obtain ⟨cmem, cfuse, cque, cctx, cacc, clink, cfuseE, cpend⟩ := clearState_leaves s
  generalize hd : restarted (clearState s) (rstWord 2 src s) (sat32 (s.dev.rstCount + 1))
    (s.err.lastFatal.or s.dev.rstPrev) s.boot.trained = d
  obtain ⟨hkept, hcount, hprev, hword⟩ := hd ▸ restarted_registers _ _ _ _ _
  obtain ⟨hmem, hfuse, hque, hctx, hacc, hlink, hfuseE, hpend⟩ := hd ▸ restarted_rest _ _ _ _ _
  exact ⟨(bringUp_mem d).trans (hmem.trans cmem), (bringUp_fuse d).trans (hfuse.trans cfuse),
    (bringUp_que d).trans (hque.trans cque), (bringUp_ctx d).trans (hctx.trans cctx), bringUp_opened d,
    (bringUp_acc d).trans (hacc.trans cacc), (bringUp_kept d).trans hkept, (bringUp_rstCount d).trans hcount,
    (bringUp_linkUp d).trans (hlink.trans clink), (bringUp_fuseE d).trans (hfuseE.trans cfuseE),
    (bringUp_rstPrev d).trans hprev, (bringUp_rstStat d).trans hword, (bringUp_pending d).trans (hpend.trans cpend)⟩

/-! ### The reset input (R437, R450) -/

theorem execResetInputRelease_early {s : State} (hp : s.pwr.perst = true) (hh : s.pwr.holdOver = false) :
    execResetInputRelease s = .next (s.setPwr { s.pwr with perst := false, relPend := true }) := by
  rw [execResetInputRelease, if_neg (by simp [hp]), if_neg (by simp [hh]), setPwrOn]

section
variable {s : State} (hon : s.pwr.on = true) (hgood : s.pwr.pwrgd = true)
include hon hgood

theorem execResetInputAssert_powered (hp : s.pwr.perst = false) : execResetInputAssert s = .next (fundamental s) := by
  rw [execResetInputAssert, if_neg (by simp [hon, hp]), if_neg (by simp [hgood])]

theorem execResetInputRelease_held (hp : s.pwr.perst = true) (hh : s.pwr.holdOver = true) :
    execResetInputRelease s = .next (bringUp (s.setPwr { s.pwr with perst := false })) := by
  rw [execResetInputRelease, if_neg (by simp [hp]), if_pos ⟨hon, hgood, hh⟩, setPwrOn]

theorem execResetReleaseHoldEnd_powered (hh : s.pwr.holdOver = false) :
    let t := s.setPwr { s.pwr with holdOver := true, relPend := false }
    execResetReleaseHoldEnd s = .next (if s.pwr.perst then t else bringUp t) := by
  rw [execResetReleaseHoldEnd, if_neg (by simp [hon, hgood, hh]), setPwrOn]

end

/-! ### The CXL link (R424, R425, R433) -/

/-- The link that comes up: a record aside, the link's own fields change. -/
theorem calm_linkUpAt (s : State) (rate width : BitVec 2) : ∃ d, calm (linkUpAt s rate width) =
    calm (s.setDev { s.dev with linkUp := true, rate := rate, width := width, degraded := d }) := by
  unfold linkUpAt
  dsimp only
  split
  · exact ⟨s.dev.degraded, rfl⟩
  · split
    · exact ⟨true, rfl⟩
    · exact ⟨s.dev.degraded, calm_logSpine _ _⟩

/-- The link that returns: its configuration is as after a hot reset, memory and queues stand (R433). -/
theorem linkReturn_leaves (s : State) (rate width : BitVec 2) :
    let s1 := resetConfig s
    let t := linkUpAt (s1.setDev { s1.dev with ide := false }) rate width
    t.dev.linkUp = true ∧ t.dev.rate = rate ∧ t.dev.width = width ∧ t.dev.irqEn = 0 ∧ t.dev.bar2Sel = 0 ∧
      t.dev.ide = false ∧ t.mem = s.mem ∧ t.que = s.que := by
  intro s1 t
  obtain ⟨d, h⟩ := calm_linkUpAt (s1.setDev { s1.dev with ide := false }) rate width
  exact ⟨of_calm h (·.dev.linkUp) (fun _ => rfl) rfl, of_calm h (·.dev.rate) (fun _ => rfl) rfl,
    of_calm h (·.dev.width) (fun _ => rfl) rfl, of_calm h (·.dev.irqEn) (fun _ => rfl) rfl,
    of_calm h (·.dev.bar2Sel) (fun _ => rfl) rfl, of_calm h (·.dev.ide) (fun _ => rfl) rfl,
    of_calm h State.mem (fun _ => rfl) rfl, of_calm h State.que (fun _ => rfl) rfl⟩

section
variable {s : State} {rate width : BitVec 2} (hon : s.pwr.on = true) (hp : s.pwr.perst = false)
  (hl : s.dev.linkUp = false) (hf : linkFits rate width = true)
include hon hp hl hf

theorem execCxlLinkTrain_first (hr : s.dev.rate = 0) :
    execCxlLinkTrain rate width s = .next (linkUpAt s rate width) := by
  rw [execCxlLinkTrain, if_neg (by simp [hon, hp, hl, hf, hr])]

theorem execCxlLinkReturn_again (hr : s.dev.rate ≠ 0) : execCxlLinkReturn rate width s =
    .next (linkUpAt ((resetConfig s).setDev { (resetConfig s).dev with ide := false }) rate width) := by
  have hr' : ¬ s.dev.rate = 0#2 := hr
  rw [execCxlLinkReturn, if_neg (by simp [hon, hp, hl, hf, hr'])]
  rfl

end

theorem hostTimeout_leaves (s : State) (pa : Nat) : let t := hostTimeout s pa
    t.dev.hostToCnt = sat32 (s.dev.hostToCnt + 1) ∧ t.mem = s.mem ∧ t.link = s.link ∧ t.dma = s.dma := by
  have h : calm (hostTimeout s pa) = calm (s.setDev { s.dev with hostToCnt := sat32 (s.dev.hostToCnt + 1) }) :=
    calm_logSpine _ _
  exact ⟨of_calm h (·.dev.hostToCnt) (fun _ => rfl) rfl, of_calm h State.mem (fun _ => rfl) rfl,
    of_calm h State.link (fun _ => rfl) rfl, of_calm h State.dma (fun _ => rfl) rfl⟩

/-- A waiting command of a block that passed HOST_TO ends with result 3. -/
theorem timedOut_block (pa : Nat) {s : State} {n : Nat} {b : Blk} (hb : blkOf n = some b)
    (h : (s.link.any fun x => hostHeld b x.c && pastHostTo s x.since) = true) : timedOut pa (some n) none s =
      finish b 3 ((hostTimeout s pa).setLink (s.link.filter fun x => !hostHeld b x.c)) := by
  rw [timedOut, if_neg (by simp)]
  simp only [Option.bind_some, hb]
  exact if_pos h

/-- A transfer that passed HOST_TO ends with an engine fault. -/
theorem timedOut_transfer (pa : Nat) {s : State} {n : Nat} {v : DmaX} (hv : (s.dma.xfers.find? fun v => v.n == n) = some v)
    (h : pastHostTo s v.since = true) : timedOut pa none (some n) s = flrSettle (engineFault
      ((hostTimeout s pa).setDma { (hostTimeout s pa).dma with xfers := (hostTimeout s pa).dma.xfers.filter fun y => y.n != v.n })
      v.cl v.fil v.ctx 5 (if (parseDma v.desc).dstMem then (parseDma v.desc).dst else (parseDma v.desc).src) v.pc) := by
  rw [timedOut, if_neg (by simp)]
  simp only [Option.bind_none, Option.bind_some, hv]
  exact if_neg (by simp [h])

/-- An update command whose write of host memory passed HOST_TO ends with an engine fault. -/
theorem timedOut_update (pa : Nat) {s : State} {n : Nat} {c : UCmd} (hc : findUCmd s n = some c) (hk : c.kind = .exp)
    (h : c.since.any (pastHostTo s) = true) (hva : hostVa s c.ctx c.arg 4096 .write = true) :
    timedOut pa (some 4) (some n) s = updEngine (dropUCmd (hostTimeout s pa) n) c c.arg := by
  rw [timedOut, if_pos ⟨rfl, rfl⟩, Option.getD_some, expTimedOut]
  simp only [hc]
  exact if_neg (by simp [hk, h, hva])

/-- A snapshot's write that passed HOST_TO is tried again, while the open interval extends. -/
theorem timedOut_snapshot (pa : Nat) {s : State} {x : Snap} {rest : List Snap} (hx : s.led.snaps = x :: rest)
    (h : pastHostTo s x.since = true) : let t := hostTimeout s pa
    timedOut pa none none s = flrSettle (flrSnapGone ((t.setDev { t.dev with hostRetry := true }).setLed { t.led with
      extending := true, ext := true, snaps := { x with since := ns s } :: rest })) := by
  rw [timedOut, if_neg (by simp)]
  simp only [Option.bind_none, hx]
  exact if_neg (by simp [h])

theorem execCxlCacheTimeout_live {s : State} (h : live s = true) (pa : Nat) (blk dmaN : Option Nat) :
    execCxlCacheTimeout pa blk dmaN s = .next (timedOut pa blk dmaN s) := if_neg (by simp [h])

/-- Settles O48: the resets, the reset input, the link, and the four ends of a request that passes HOST_TO. -/
theorem resetsAndCxlLink : Obligations.ResetsAndCxlLink := by
  refine ⟨fun s => ⟨fun v hregs hkey hkind => execRstCmd_resets hregs hkey hkind, fun hstart hlink => ?function,
    flr_leaves s, deviceReset_leaves s, fun hon hgood => ?input⟩,
    fun s => ⟨fun rate width hon hp hl hf => ⟨execCxlLinkTrain_first hon hp hl hf, fun hr =>
      ⟨execCxlLinkReturn_again hon hp hl hf hr, linkReturn_leaves s rate width⟩⟩, fun hl => ?loss, fun hi => ?ide,
      fun pa hlive => ⟨hostTimeout_leaves s pa, ?timeouts⟩⟩⟩
  case function =>
    refine ⟨execCxlReset_resets hstart hlink, fun hdma hsnap hwait => ⟨?_, ?_⟩, fun x l hi hl => ?_⟩
    · rw [exec_flr, execFlr_starts hstart hlink, flrStart_settled hdma hsnap hwait]
    · rw [exec_hotReset, execHotReset_starts hstart hlink, flrStart_settled hdma hsnap hwait]
    · obtain ⟨w3, h3, hk3⟩ := flrStart_waits hi hl 3
      obtain ⟨w4, h4, hk4⟩ := flrStart_waits hi hl 4
      exact ⟨s.setDev { s.dev with flrWait := some w3 }, s.setDev { s.dev with flrWait := some w4 }, (execFlr_starts hstart hlink).trans (congrArg Host.Outcome.next h3),
        (execHotReset_starts hstart hlink).trans (congrArg Host.Outcome.next h4), rfl, rfl, congrArg some hk3, congrArg some hk4⟩
  case input =>
    refine ⟨execResetInputAssert_powered hon hgood, execResetInputRelease_held hon hgood,
      execResetInputRelease_early, fun hp hh => ?_, fun hp hh => ?_⟩
    · rw [exec_resetReleaseHoldEnd, execResetReleaseHoldEnd_powered hon hgood hh, if_neg (by simp [hp])]
    · rw [exec_resetReleaseHoldEnd, execResetReleaseHoldEnd_powered hon hgood hh, if_pos hp]
  case loss => rw [exec_cxlLinkLoss, execCxlLinkLoss, if_neg (by simp [hl]), setDevOn]
  case ide => rw [exec_ideFail, execIdeFail, if_neg (by simp [hi]), setDevOn]
  case timeouts =>
    have run (blk dmaN : Option Nat) := execCxlCacheTimeout_live hlive pa blk dmaN
    refine ⟨fun n b hb h => ?_, fun n v hv h => ?_, fun n c hc hk h hva => ?_, fun x rest hx h => ?_⟩
    · exact (run _ _).trans (congrArg Host.Outcome.next (timedOut_block pa hb h))
    · exact (run _ _).trans (congrArg Host.Outcome.next (timedOut_transfer pa hv h))
    · exact (run _ _).trans (congrArg Host.Outcome.next (timedOut_update pa hc hk h hva))
    · exact (run _ _).trans (congrArg Host.Outcome.next (timedOut_snapshot pa hx h))

end Sys2Proof.Machine
end
